-- ==== Sys2Proof/Word.lean ====
section
/-! DEFINITION. Word types, little-endian byte lists and ordered association lists.
The spec counts bits from the least significant (00_scope R2) and stores every field least significant
byte first (R3). -/

namespace Sys2Proof

abbrev Byte := BitVec 8
abbrev Word := BitVec 32
abbrev Dword := BitVec 64

/-- An association list kept in strictly rising key order. -/
abbrev KV (β : Type) := List (Nat × β)

namespace KV

variable {β : Type}

/-- The value listed at a key. -/
def find : KV β → Nat → Option β
  | [], _ => none
  | (k, v) :: m, a => if a = k then some v else find m a

/-- The value at a key, or `d` where none is listed. -/
def getD (m : KV β) (a : Nat) (d : β) : β := (find m a).getD d

/-- List `v` at key `a`, in the place of what was listed there. -/
def put : KV β → Nat → β → KV β
  | [], a, v => [(a, v)]
  | (k, w) :: m, a, v =>
    if a < k then (a, v) :: (k, w) :: m
    else if a = k then (a, v) :: m
    else (k, w) :: put m a v

/-- List nothing at key `a`. -/
def del : KV β → Nat → KV β
  | [], _ => []
  | (k, w) :: m, a => if a = k then m else (k, w) :: del m a

/-- Every key of the list is above `b`. -/
def above : KV β → Nat → Bool
  | [], _ => true
  | (k, _) :: m, b => decide (b < k) && above m b

/-- Keys rise strictly. -/
def sorted : KV β → Bool
  | [] => true
  | (k, _) :: m => above m k && sorted m

/-- The listed values, in key order. -/
def vals (m : KV β) : List β := m.map (·.2)

/-- Every listed value changed, keys kept. -/
def mapVals (m : KV β) (f : β → β) : KV β := m.map fun x => (x.1, f x.2)

/-- Replace the value at a key by `f` of it, where one is listed. -/
def upd (m : KV β) (a : Nat) (f : β → β) : KV β :=
  match find m a with
  | some v => put m a (f v)
  | none => m

end KV

/-- A value and the low half of it, sign-extended from `n` bits. -/
def sext (n : Nat) (x : Nat) : Int :=
  if x % 2 ^ n < 2 ^ (n - 1) then (x % 2 ^ n : Nat) else (x % 2 ^ n : Nat) - (2 ^ n : Nat)

/-- The number whose little-endian bytes these are (R3). -/
def leNat : List Byte → Nat
  | [] => 0
  | b :: bs => b.toNat + 256 * leNat bs

/-- The `n` little-endian bytes of a number (R3). -/
def leBytes : Nat → Nat → List Byte
  | 0, _ => []
  | n + 1, x => BitVec.ofNat 8 x :: leBytes n (x / 256)

/-- Bits [hi:lo] of a number (R2). -/
def bits (x hi lo : Nat) : Nat := x / 2 ^ lo % 2 ^ (hi + 1 - lo)

/-- Bit `i` of a number. -/
def bit (x i : Nat) : Bool := x / 2 ^ i % 2 == 1

/-- The numbers 0 to n − 1. -/
abbrev upto (n : Nat) : List Nat := List.range n

/-- `x` as a `Nat` 1 or 0. -/
def b2n (b : Bool) : Nat := if b then 1 else 0

/-- Bits of an integer kept modulo 2^n (R7). -/
def wrapI (n : Nat) (x : Int) : BitVec n := BitVec.ofInt n x

/-- `x` held between two bounds. -/
def clampI (lo hi x : Int) : Int := if x < lo then lo else if hi < x then hi else x

/-- The list with the element at an index replaced by `f` of it. -/
def modAt {α : Type} (l : List α) (i : Nat) (f : α → α) : List α :=
  match l, i with
  | [], _ => []
  | a :: r, 0 => f a :: r
  | a :: r, i + 1 => a :: modAt r i f

/-- The numbers from `start`, `n` of them, `step` apart. -/
def stepsFrom : Nat → Nat → Nat → List Nat
  | _, _, 0 => []
  | start, step, n + 1 => start :: stepsFrom (start + step) step n

/-- Insert in rising order of `key`, after equal keys. -/
def insertBy {α : Type} (key : α → Nat) (x : α) : List α → List α
  | [] => [x]
  | y :: r => if key x < key y then x :: y :: r else y :: insertBy key x r

/-- The list in rising order of `key`, equal keys in their first order. -/
def sortBy {α : Type} (key : α → Nat) : List α → List α
  | [] => []
  | x :: r => insertByFront key x (sortBy key r)
where
  /-- Insert in rising order of `key`, before equal keys. -/
  insertByFront {α : Type} (key : α → Nat) (x : α) : List α → List α
    | [] => [x]
    | y :: r => if key y < key x then y :: insertByFront key x r else x :: y :: r

/-- The list without repeats, first occurrences kept. -/
def nub : List Nat → List Nat
  | [] => []
  | x :: r => x :: (nub r).filter (· != x)

namespace Float

/-- A decoded number: a NaN, an infinity, or (−1)^neg · m · 2^e. -/
inductive FVal where
  | nan (signalling : Bool)
  | inf (neg : Bool)
  | fin (neg : Bool) (m : Nat) (e : Int)
  deriving DecidableEq, Repr

end Float

end Sys2Proof
end

