-- ==== Sys2Proof/Config.lean ====
section
/-! DEFINITION. What the spec leaves open, as constants without a body: nothing can be proved of a value of these.
And the figures the implementation fixes. -/

namespace Sys2Proof.Config

/-- The n-th undefined value: a register, scratchpad byte, tile byte or bank element that the spec calls undefined,
named by a counter of State (00 R5; log 4). -/
opaque freeValue : Nat → Dword

/-- The undefined byte `addr` of the storage whose generation is `gen`: scratchpad, tile store (02 R27; 10 R216; log 4). -/
opaque freeByte : Nat → Nat → Byte

/-- The undefined binary32 of accumulator element `n` of generation `gen` (10 R221; log 4). -/
opaque freeAcc : Nat → Nat → Word

/-- The SPS9-384H's own approximation bits: function number, rounding mode, operand (05 R111; 19 R401; log 7). -/
opaque sfuBits : Nat → Nat → Word → Word

/-- The clock's unspecified origin is 0 (02 R47; log 10). -/
def clockOrigin : Nat := 0

/-- The width limit of every core (02 R33; log 10). -/
def widthLimit : Nat := 32

/-- The SHA-384 hashes of Rolaithar's RSA and SLH-DSA public keys, held in mask ROM (14 R299; log 13). -/
opaque romRsaHash : List Byte
opaque romSlhHash : List Byte

/-- The firmware version, and the SHA-384 hashes of the owner's RSA and SLH-DSA keys, that an image's header and body name:
their places are not given (14 R299 to R301; log 13). -/
opaque imageVersion : List Byte → Nat
opaque imageOwnerKeys : List Byte → List Byte

/-- The salt and the info of the HKDF that derives the identity keys: 0 the RSA pair, 1 the SLH-DSA pair (14 R301; log 13). -/
opaque identitySalt : List Byte
opaque identityInfo : Nat → List Byte

/-- The RSA-3072 key pair made from key material: modulus and private exponent (14 R301; log 13). -/
opaque rsaKeyGen : List Byte → Nat × Nat

/-- The private number of the n-th ephemeral key pair (14 R304; log 13). -/
opaque ephemeral : Nat → Nat

/-- The bytes that the n-th SAVE writes: the layout of a save area is not given (12 R272; 14 R307; log 23). -/
opaque saveBytes : Nat → Nat

end Sys2Proof.Config
end

