-- ==== Sys2Proof/Machine/Float.lean ====
section
/-! DEFINITION. Floating point (05_number_formats R103 to R111): values as exact numbers ±m·2^e, one rounding, the
five flags, and the operations of 19_ref_e_to_f R394 to R401 over them. -/

namespace Sys2Proof.Float

/-- The five flags, in the order of FPFLAGS (05 R113): NV bit 0, DZ 1, OF 2, UF 3, NX 4. -/
abbrev Flags := BitVec 5

def noFlags : Flags := 0
def fNV : Flags := 1
def fDZ : Flags := 2
def fOF : Flags := 4
def fUF : Flags := 8
def fNX : Flags := 16

/-- Rounding modes (05 R106). -/
inductive Mode where
  | rne | rz | rdn | rup | rmm
  deriving DecidableEq, Repr

/-- The mode of a nonzero rounding field; codes that raise ILLEGAL elsewhere read as .rne (05 R106). -/
def modeOf (code : Nat) : Mode :=
  match code with
  | 2 => .rz
  | 3 => .rdn
  | 4 => .rup
  | 5 => .rmm
  | _ => .rne

/-- A floating-point format (05 R103). `e4m3` has no infinity and one NaN fraction. -/
structure Fmt where
  ebits : Nat
  fbits : Nat
  bias : Nat
  e4m3 : Bool
  /-- the canonical NaN -/
  cnan : Nat
  /-- 8-bit formats have no signalling NaN (19 R397) -/
  quietOnly : Bool
  deriving DecidableEq, Repr

def f32 : Fmt := ⟨8, 23, 127, false, 0x7FC00000, false⟩
def f16 : Fmt := ⟨5, 10, 15, false, 0x7E00, false⟩
def bf16 : Fmt := ⟨8, 7, 127, false, 0x7FC0, false⟩
def e4m3 : Fmt := ⟨4, 3, 7, true, 0x7F, true⟩
def e5m2 : Fmt := ⟨5, 2, 15, false, 0x7F, true⟩

namespace Fmt

def width (f : Fmt) : Nat := 1 + f.ebits + f.fbits

/-- The exponent of the last place of the smallest normal. -/
def qmin (f : Fmt) : Int := 1 - (f.bias : Int) - f.fbits

/-- The exponent of the last place of the largest finite value. -/
def qmax (f : Fmt) : Int := (2 ^ f.ebits - 1 - (if f.e4m3 then 0 else 1) : Nat) - (f.bias : Int) - f.fbits

/-- The significand of the largest finite value. -/
def mmax (f : Fmt) : Nat := if f.e4m3 then 2 ^ (f.fbits + 1) - 2 else 2 ^ (f.fbits + 1) - 1

def inf (f : Fmt) : Nat := (2 ^ f.ebits - 1) * 2 ^ f.fbits

def maxFinite (f : Fmt) : Nat := if f.e4m3 then f.cnan - 1 else f.inf - 1

def signBit (f : Fmt) (neg : Bool) : Nat := if neg then 2 ^ (f.ebits + f.fbits) else 0

end Fmt

/-- The number that the low bits of `x` encode in a format (05 R103). -/
def unpack (f : Fmt) (x : Nat) : FVal :=
  let neg := bit x (f.ebits + f.fbits)
  let ex := x / 2 ^ f.fbits % 2 ^ f.ebits
  let fr := x % 2 ^ f.fbits
  if f.e4m3 && ex == 2 ^ f.ebits - 1 && fr == 2 ^ f.fbits - 1 then .nan false
  else if !f.e4m3 && ex == 2 ^ f.ebits - 1 then
    if fr == 0 then .inf neg else .nan (!f.quietOnly && !bit fr (f.fbits - 1))
  else if ex == 0 then .fin neg fr f.qmin
  else .fin neg (2 ^ f.fbits + fr) (f.qmin + (ex - 1 : Nat))

/-- m·2^e rounded to a multiple of 2^q, and whether that is exact (05 R106). -/
def quantize (mode : Mode) (neg : Bool) (m : Nat) (e q : Int) : Nat × Bool :=
  if q ≤ e then (m * 2 ^ (e - q).toNat, true)
  else
    let s := (q - e).toNat
    let lo := m / 2 ^ s
    let rem := m % 2 ^ s
    let half := 2 ^ (s - 1)
    let up : Bool := match mode with
      | .rne => half < rem || (rem == half && lo % 2 == 1)
      | .rz => false
      | .rdn => neg && rem != 0
      | .rup => !neg && rem != 0
      | .rmm => half ≤ rem
    (lo + b2n up, rem == 0)

/-- The bits of r·2^q in a format, with r at most 2^(fbits+1), q at least `qmin` (05 R103). -/
def packFin (f : Fmt) (neg : Bool) (r : Nat) (q : Int) : Nat :=
  let (r, q) := if r == 2 ^ (f.fbits + 1) then (2 ^ f.fbits, q + 1) else (r, q)
  f.signBit neg + (if r < 2 ^ f.fbits then r else ((q - f.qmin).toNat + 1) * 2 ^ f.fbits + (r - 2 ^ f.fbits))

/-- A delivered result: its bits and the flags raised. -/
abbrev Res := Nat × Flags

/-- The last place at which m·2^e has the precision of a format, exponent unbounded. -/
def lastPlace (f : Fmt) (m : Nat) (e : Int) : Int := (Nat.log2 m : Int) + e - f.fbits

/-- The value of an overflow in a mode (05 R107): infinity, or the largest finite value. -/
def overflowBits (f : Fmt) (mode : Mode) (neg : Bool) : Nat :=
  let away : Bool := match mode with
    | .rne | .rmm => true
    | .rz => false
    | .rdn => neg
    | .rup => !neg
  f.signBit neg + (if away then f.inf else f.maxFinite)

/-- r·2^q exceeds the largest finite value. -/
def exceeds (f : Fmt) (r : Nat) (q : Int) : Bool :=
  if q ≤ f.qmax then f.mmax * 2 ^ (f.qmax - q).toNat < r else f.mmax < r * 2 ^ (q - f.qmax).toNat

/-- m·2^e is below the smallest normal of the format. -/
def belowNormal (f : Fmt) (m : Nat) (e : Int) : Bool :=
  let emin := 1 - (f.bias : Int)
  if e ≤ emin then m < 2 ^ (emin - e).toNat else m == 0

/-- ±m·2^e rounded once into a format, with OF, UF and NX (05 R107). `sat` and E4M3 are R109's. `ftz` flushes a
subnormal result (R105). -/
def round (f : Fmt) (mode : Mode) (sat ftz neg : Bool) (m : Nat) (e : Int) : Res :=
  if m == 0 then (f.signBit neg, noFlags)
  else
    let q0 := lastPlace f m e
    let q := if q0 < f.qmin then f.qmin else q0
    let (r, exact) := quantize mode neg m e q
    if exceeds f r q then
      if sat then (f.signBit neg + f.maxFinite, fOF ||| fNX)
      else if f.e4m3 then (f.signBit neg + f.cnan, fOF ||| fNX)
      else (overflowBits f mode neg, fOF ||| fNX)
    else
      let (r', _) := quantize mode neg m e q0
      let tiny := belowNormal f r' q0
      if ftz && r != 0 && r < 2 ^ f.fbits then (f.signBit neg, fUF ||| fNX)
      else (packFin f neg r q, if exact then noFlags else if tiny then fUF ||| fNX else fNX)

/-- The canonical NaN, with NV when asked. -/
def nanRes (f : Fmt) (nv : Bool) : Res := (f.cnan, if nv then fNV else noFlags)

def infRes (f : Fmt) (neg : Bool) : Res := (f.signBit neg + f.inf, noFlags)

def zeroRes (f : Fmt) (neg : Bool) : Res := (f.signBit neg, noFlags)

/-- A signalling NaN among the operands (05 R104). -/
def FVal.isSnan : FVal → Bool
  | .nan s => s
  | _ => false

def FVal.isNan : FVal → Bool
  | .nan _ => true
  | _ => false

def FVal.isZero : FVal → Bool
  | .fin _ m _ => m == 0
  | _ => false

def FVal.isInf : FVal → Bool
  | .inf _ => true
  | _ => false

def FVal.neg : FVal → Bool
  | .nan _ => false
  | .inf n => n
  | .fin n _ _ => n

def FVal.negate : FVal → FVal
  | .nan s => .nan s
  | .inf n => .inf (!n)
  | .fin n m e => .fin (!n) m e

/-- How an operation of a format reads, rounds and flushes (05 R105, R106). -/
structure Env where
  f : Fmt
  mode : Mode
  ftz : Bool := false

/-- An operand in the format, a subnormal read as zero where R105 flushes. -/
def Env.get (v : Env) (x : Nat) : FVal :=
  match unpack v.f x with
  | .fin n m e => if v.ftz && m < 2 ^ v.f.fbits then .fin n 0 e else .fin n m e
  | y => y

def Env.round (v : Env) (neg : Bool) (m : Nat) (e : Int) : Res := Float.round v.f v.mode false v.ftz neg m e

/-- The exact sum of two finite numbers: an integer times 2^e. -/
def sumExact (n1 : Bool) (m1 : Nat) (e1 : Int) (n2 : Bool) (m2 : Nat) (e2 : Int) : Int × Int :=
  let e := if e1 ≤ e2 then e1 else e2
  let a : Int := (m1 * 2 ^ (e1 - e).toNat : Nat)
  let b : Int := (m2 * 2 ^ (e2 - e).toNat : Nat)
  ((if n1 then -a else a) + (if n2 then -b else b), e)

/-- The sign of an exact zero sum (19 R395): − only when both are negative, or opposite under .rdn. -/
def zeroSign (mode : Mode) (n1 n2 : Bool) : Bool := if n1 == n2 then n1 else mode == .rdn

/-- A rounded sum (19 R395). -/
def addV (v : Env) (a b : FVal) : Res :=
  match a, b with
  | .nan s, y => nanRes v.f (s || y.isSnan)
  | x, .nan s => nanRes v.f (s || x.isSnan)
  | .inf n, .inf n' => if n == n' then infRes v.f n else nanRes v.f true
  | .inf n, _ => infRes v.f n
  | _, .inf n => infRes v.f n
  | .fin n m e, .fin n' m' e' =>
    let (s, q) := sumExact n m e n' m' e'
    if s == 0 then zeroRes v.f (zeroSign v.mode n n') else v.round (decide (s < 0)) s.natAbs q

/-- A product before rounding; `none` for 0 × ∞. -/
def mulExact (a b : FVal) : Option FVal :=
  match a, b with
  | .nan s, y => some (.nan (s || y.isSnan))
  | x, .nan s => some (.nan (s || x.isSnan))
  | .inf n, y => if y.isZero then none else some (.inf (n != y.neg))
  | x, .inf n => if x.isZero then none else some (.inf (n != x.neg))
  | .fin n m e, .fin n' m' e' => some (.fin (n != n') (m * m') (e + e'))

/-- A number rounded into the format. -/
def roundV (v : Env) (a : FVal) : Res :=
  match a with
  | .nan s => nanRes v.f s
  | .inf n => infRes v.f n
  | .fin n m e => if m == 0 then zeroRes v.f n else v.round n m e

def fadd (v : Env) (a b : Nat) : Res := addV v (v.get a) (v.get b)

def fsub (v : Env) (a b : Nat) : Res := addV v (v.get a) (v.get b).negate

def fmul (v : Env) (a b : Nat) : Res :=
  match mulExact (v.get a) (v.get b) with
  | none => nanRes v.f true
  | some p => roundV v p

/-- a × b + c, rounded once; 0 × ∞ raises NV whatever c is (19 R395). -/
def fma (v : Env) (a b c : Nat) : Res :=
  match mulExact (v.get a) (v.get b) with
  | none => nanRes v.f true
  | some p => addV v p (v.get c)

/-- a ÷ b (19 R395). -/
def fdiv (v : Env) (a b : Nat) : Res :=
  match v.get a, v.get b with
  | .nan s, y => nanRes v.f (s || y.isSnan)
  | x, .nan s => nanRes v.f (s || x.isSnan)
  | .inf n, y => if y.isInf then nanRes v.f true else infRes v.f (n != y.neg)
  | .fin n _ _, .inf n' => zeroRes v.f (n != n')
  | .fin n m e, .fin n' m' e' =>
    if m' == 0 then
      if m == 0 then nanRes v.f true else (v.f.signBit (n != n') + v.f.inf, fDZ)
    else if m == 0 then zeroRes v.f (n != n')
    else
      -- enough quotient bits for one rounding, and a sticky bit for the remainder
      let k := 2 * v.f.fbits + 8 + Nat.log2 m'
      let num := m * 2 ^ k
      v.round (n != n') (2 * (num / m') + b2n (num % m' != 0)) (e - e' - k - 1)

/-- √a (19 R395). -/
def fsqrt (v : Env) (a : Nat) : Res :=
  match v.get a with
  | .nan s => nanRes v.f s
  | .inf n => if n then nanRes v.f true else infRes v.f false
  | .fin n m e =>
    if m == 0 then zeroRes v.f n
    else if n then nanRes v.f true
    else
      -- m·2^e with an even exponent and enough bits
      let k := 2 * v.f.fbits + 8 + (if (e - (2 * v.f.fbits + 8 : Nat)) % 2 == 0 then 0 else 1)
      let x := m * 2 ^ k
      let s := Nat.sqrt x
      v.round false (2 * s + b2n (s * s != x)) ((e - k) / 2 - 1)

/-- a < b over numbers, with −0 = +0 unless `signed` asks for −0 below +0. -/
def ltV (signed : Bool) (a b : FVal) : Bool :=
  match a, b with
  | .nan _, _ => false
  | _, .nan _ => false
  | .inf n, .inf n' => n && !n'
  | .inf n, .fin _ _ _ => n
  | .fin _ _ _, .inf n => !n
  | .fin n m e, .fin n' m' e' =>
    let (s, _) := sumExact n m e (!n') m' e'
    if s == 0 then signed && n && !n' && m == 0 else decide (s < 0)

def eqV (a b : FVal) : Bool := !a.isNan && !b.isNan && !ltV false a b && !ltV false b a

/-- minimumNumber, or maximumNumber with `maxi` (19 R395; 05 R104). -/
def minmax (v : Env) (maxi : Bool) (x y : Nat) : Res :=
  let a := unpack v.f x
  let b := unpack v.f y
  let fl := if a.isSnan || b.isSnan then fNV else noFlags
  if a.isNan && b.isNan then (v.f.cnan, fl)
  else if a.isNan then (y % 2 ^ v.f.width, fl)
  else if b.isNan then (x % 2 ^ v.f.width, fl)
  else if ltV true a b == maxi then (y % 2 ^ v.f.width, fl) else (x % 2 ^ v.f.width, fl)

/-- The condition codes of 15 R320 over two comparisons. -/
def ccHolds (cc : Nat) (lt eq : Bool) : Bool :=
  match cc with
  | 0 => eq
  | 1 => !eq
  | 2 => lt
  | 3 => lt || eq
  | 4 => !(lt || eq)
  | _ => !lt

/-- FCMP (19 R396): a NaN makes every condition false but .ne; only a signalling NaN raises NV. -/
def fcmp (cc : Nat) (x y : Nat) : Bool × Flags :=
  let a := unpack f32 x
  let b := unpack f32 y
  let fl := if a.isSnan || b.isSnan then fNV else noFlags
  if a.isNan || b.isNan then (cc == 1, fl) else (ccHolds cc (ltV false a b) (eqV a b), fl)

/-- FCLASS (19 R397). -/
def fclass (f : Fmt) (x : Nat) : Nat :=
  match unpack f x with
  | .nan s => if s then 2 ^ 8 else 2 ^ 9
  | .inf n => if n then 2 ^ 0 else 2 ^ 7
  | .fin n m _ =>
    if m == 0 then (if n then 2 ^ 3 else 2 ^ 4)
    else if m < 2 ^ f.fbits then (if n then 2 ^ 2 else 2 ^ 5)
    else if n then 2 ^ 1 else 2 ^ 6

/-- FRND (19 R400): to an integral value, without NX. -/
def frnd (mode : Mode) (x : Nat) : Res :=
  match unpack f32 x with
  | .nan s => nanRes f32 s
  | .inf n => infRes f32 n
  | .fin n m e =>
    if 0 ≤ e then (x % 2 ^ 32, noFlags)
    else
      let (r, _) := quantize mode n m e 0
      ((Float.round f32 .rne false false n r 0).1, noFlags)

/-- A float to a 32-bit integer (05 R109). -/
def toInt (signed : Bool) (mode : Mode) (a : FVal) : Nat × Flags :=
  let lo : Int := if signed then -(2 ^ 31) else 0
  let hi : Int := if signed then 2 ^ 31 - 1 else 2 ^ 32 - 1
  let enc : Int → Nat := fun i => (wrapI 32 i).toNat
  match a with
  | .nan _ => (0, fNV)
  | .inf n => (enc (if n then lo else hi), fNV)
  | .fin n m e =>
    let (r, exact) := quantize mode n m e 0
    let i : Int := if n then -(r : Int) else r
    if i < lo then (enc lo, fNV)
    else if hi < i then (enc hi, fNV)
    else (enc i, if exact then noFlags else fNX)

/-- One format to another (05 R109). -/
def convert (t : Fmt) (mode : Mode) (sat ftz : Bool) (a : FVal) : Res :=
  match a with
  | .nan s => nanRes t s
  | .inf n =>
    if sat then (t.signBit n + t.maxFinite, fOF ||| fNX)
    else if t.e4m3 then (t.signBit n + t.cnan, fNV)
    else infRes t n
  | .fin n m e => Float.round t mode sat ftz n m e

/-- The format of an FCVT or FCLASS code (19 R398; 10 R216). -/
def fmtOf (code : Nat) : Fmt :=
  match code with
  | 11 => f16
  | 12 => bf16
  | 13 => e4m3
  | 14 => e5m2
  | _ => f32

/-- FTZH touches binary16 and bfloat16 only (05 R105). -/
def ftzOf (code : Nat) (ftzh : Bool) : Bool := ftzh && (code == 11 || code == 12)

/-- The element of a source format code, as a number; integers are exact (19 R398). -/
def cvtSource (code : Nat) (ftzh : Bool) (x : Nat) : FVal :=
  if code == 0 then
    let i := sext 32 x
    .fin (decide (i < 0)) i.natAbs 0
  else if code == 2 then .fin false (x % 2 ^ 32) 0
  else Env.get ⟨fmtOf code, .rne, ftzOf code ftzh⟩ x

/-- One element of FCVT (19 R399). -/
def fcvt (dst from_ : Nat) (mode : Mode) (sat ftzh : Bool) (x : Nat) : Res :=
  let a := cvtSource from_ ftzh x
  if dst == 0 then toInt true mode a
  else if dst == 2 then toInt false mode a
  else convert (fmtOf dst) mode sat (ftzOf dst ftzh) a

/-- binary32 addition, nearest even, no flag (05 R124). -/
def addF32 (a b : Word) : Word := BitVec.ofNat 32 (fadd ⟨f32, .rne, false⟩ a.toNat b.toNat).1

/-! The approximations of 19 R401. Exact cases, special operands and flags are the spec's; the other bits are a
constant without a value, kept inside the bounds by comparison with an enclosure of the exact value (log 7). -/

/-- 2 to a fixed-point fraction f/2^96 in [0,1), as a fixed-point number in [1,2): products of the roots 2^(2^-i). -/
def fxExp2 (f : Nat) : Nat :=
  (go (2 ^ 96 * 2) f 96 (2 ^ 96))
where
  /-- `root` is 2^(2^-i) before its square root is taken; `f` holds the bits still to use. -/
  go (root f : Nat) : Nat → Nat → Nat
    | 0, acc => acc
    | n + 1, acc =>
      let r := Nat.sqrt (root * 2 ^ 96)
      let f2 := 2 * f
      if 2 ^ 96 ≤ f2 then go r (f2 - 2 ^ 96) n (acc * r / 2 ^ 96) else go r f2 n acc

/-- The fraction of log₂ of a fixed-point number in [1,2), bit by bit. -/
def fxLog2 (x : Nat) : Nat := go x 96 0
where
  go (x : Nat) : Nat → Nat → Nat
    | 0, acc => acc
    | n + 1, acc =>
      let y := x * x / 2 ^ 96
      if 2 * 2 ^ 96 ≤ y then go (y / 2) n (2 * acc + 1) else go y n (2 * acc)

/-- π · 2^320. -/
def piFx : Nat :=
  0x3243F6A8885A308D313198A2E03707344A4093822299F31D0082EFA98EC4E6C89452821E638D01377

/-- sin and cos of a fixed-point angle in [0, π/2], by their series. -/
def fxSinCos (x : Nat) : Int × Int :=
  let x2 := x * x / 2 ^ 96
  (go x2 40 1 (x : Int), go x2 40 0 ((2 ^ 96 : Nat) : Int))
where
  /-- Σ (−1)^i t, the next term from the last by x²/((k+1)(k+2)). -/
  go (x2 : Nat) : Nat → Nat → Int → Int
    | 0, _, _ => 0
    | n + 1, k, t => t - go x2 n (k + 2) (t * x2 / (2 ^ 96 : Nat) / ((k + 1) * (k + 2) : Nat))

/-- sin and cos of m·2^e, to 96 fraction bits: the angle is reduced modulo π/2 with π to 320 bits. -/
def sinCosOf (neg : Bool) (m : Nat) (e : Int) : Int × Int :=
  -- the angle with 160 fraction bits beyond those that the reduction loses
  let ang : Nat := if -150 ≤ e then m * 2 ^ (e + 150).toNat else m / 2 ^ (-150 - e).toNat
  -- quarter turns: ang·2^-150 ÷ (π/2)
  let num := ang * 2 ^ 171
  let q := num / piFx
  -- the remainder, as the angle left in units of 2^-320, times 2: (π/2)·2^320 = piFx / 2
  let rem := num - q * piFx
  let x := rem / 2 ^ 225
  let (s, c) := fxSinCos x
  let (s, c) := match q % 4 with
    | 0 => (s, c)
    | 1 => (c, -s)
    | 2 => (-s, -c)
    | _ => (-c, s)
  (if neg then -s else s, c)

/-- The six functions, numbered. -/
inductive Sfu where
  | rcp | rsq | exp2 | log2 | sin | cos
  deriving DecidableEq, Repr

def Sfu.num : Sfu → Nat
  | .rcp => 0
  | .rsq => 1
  | .exp2 => 2
  | .log2 => 3
  | .sin => 4
  | .cos => 5

/-- An enclosure of the function at ±m·2^e, m above 0: its exact value lies from lo·2^q up to hi·2^q. The width is
below 2^-80, relatively or absolutely as the bound of 19 R401 is, and 0 where the value is a dyadic number. Beside a
power of two or beside the operand the ends are drawn so that no binary32 lies strictly between an end and the value. -/
def evalSfu (op : Sfu) (neg : Bool) (m : Nat) (e : Int) : Int × Int × Int :=
  let top := (Nat.log2 m : Int) + e
  let sgn : Int := if neg then -1 else 1
  match op with
  | .rcp =>
    let r : Int := (2 ^ 160 / m : Nat)
    let h := if 2 ^ 160 % m == 0 then r else r + 1
    if neg then (-h, -r, -160 - e) else (r, h, -160 - e)
  | .rsq =>
    -- 1/√(m·2^e): make the exponent even
    let k := if e % 2 == 0 then 200 else 201
    let r : Int := (Nat.sqrt (2 ^ (200 + k) / m) : Nat)
    (r, r + 1, (-(e + (200 + k : Nat))) / 2)
  | .exp2 =>
    if neg && 8 ≤ top then (0, 1, -200)  -- 2^a below 2^-200
    else if top < -40 then
      -- 2^a lies strictly between 1 + a/2 and 1 + a
      let u : Int := (m * 2 ^ (e + 300).toNat : Nat)
      let one : Int := (2 ^ 300 : Nat)
      if neg then (one - u, one - u / 2, -300) else (one + u / 2, one + u, -300)
    else
      -- a = i + f with f in [0,1)
      let a : Int := sgn * (m * 2 ^ (e + 96).toNat : Nat)
      let r : Int := (fxExp2 (a % (2 ^ 96 : Nat)).toNat : Nat)
      (r - 2 ^ 12, r + 2 ^ 12, a / (2 ^ 96 : Nat) - 96)
  | .log2 =>
    let r := top * (2 ^ 96 : Nat) + fxLog2 (m * 2 ^ 96 / 2 ^ Nat.log2 m)
    (r - 8, r + 8, -96)
  | .sin =>
    if top < -20 then
      -- a − a³/6 < sin a < a − a³/6 + a⁵/120
      let sq : Nat := (m * 2 ^ (e + 150).toNat) ^ 2 / 2 ^ 100
      let c : Int := (2 ^ 200 : Nat) - (sq / 6 : Nat)
      let lo : Int := m * (c - 1)
      let hi : Int := m * min (c + (sq * sq / 2 ^ 200 / 120 + 1 : Nat)) (2 ^ 200 : Nat)
      if neg then (-hi, -lo, e - 200) else (lo, hi, e - 200)
    else around (sinCosOf neg m e).1
  | .cos =>
    around (sinCosOf neg m e).2
where
  /-- Sine and cosine within 2^-84, never beyond ±1. -/
  around (i : Int) : Int × Int × Int :=
    let one : Int := (2 ^ 96 : Nat)
    (max (i - 2 ^ 12) (-one), min (i + 2 ^ 12) one, -96)

/-- The bound of 19 R401 on |result − exact|, as a number of units 2^q: ulps, an ulp being the distance of adjacent
binary32 numbers at the exact value i·2^q (DEDUCED, log 7), or an absolute error. -/
def sfuBound (op : Sfu) (i : Int) (q : Int) (a : FVal) : Nat × Int :=
  let p := lastPlace f32 i.natAbs q
  let ulp := if p < f32.qmin then f32.qmin else p
  match op with
  | .rcp => (1, ulp)
  | .rsq => (1, ulp)
  | .exp2 => (2, ulp)
  | .log2 =>
    match a with
    | .fin _ m e =>
      -- a in [0.5, 2]
      if !ltV false a (.fin false 1 (-1)) && !ltV false (.fin false 1 1) (.fin false m e) then (1, -23) else (2, ulp)
    | _ => (2, ulp)
  | .sin => (1, -22)
  | .cos => (1, -22)

/-- x·2^p ≤ y·2^q. -/
def leDy (x p y q : Int) : Bool :=
  if p ≤ q then decide (x ≤ y * (2 ^ (q - p).toNat : Nat)) else decide (x * (2 ^ (p - q).toNat : Nat) ≤ y)

/-- The end of an enclosure that is nearer to 0. -/
def inner (lo hi : Int) : Int := if lo.natAbs ≤ hi.natAbs then lo else hi

/-- The finite binary32 `r` lies where 19 R401 allows a result in a mode, for every value from lo·2^q up to hi·2^q. -/
def sfuAllowed (op : Sfu) (mode : Mode) (lo hi q : Int) (a : FVal) (r : Nat) : Bool :=
  match unpack f32 r with
  | .fin n m e =>
    let (u, uq) := sfuBound op (inner lo hi) q a
    let directed := mode == .rz || mode == .rdn || mode == .rup
    -- all in units of 2^s, s no higher than any exponent met
    let s : Int := min (min e q) uq
    let v : Int := (if n then -(m : Int) else m) * (2 ^ (e - s).toNat : Nat)
    let b : Int := (if directed then 2 * u else u) * (2 ^ (uq - s).toNat : Nat)
    let lo := lo * (2 ^ (q - s).toNat : Nat)
    let hi := hi * (2 ^ (q - s).toNat : Nat)
    let below := decide (v ≤ lo)
    let above := decide (hi ≤ v)
    decide (hi - b ≤ v) && decide (v ≤ lo + b) &&
      (match mode with
        | .rz => if 0 ≤ lo then below else above
        | .rdn => below
        | .rup => above
        | _ => true)
  | _ => false

/-- A result that R401 allows: the enclosure rounded, outwards to the side that the mode names. -/
def sfuRounded (mode : Mode) (lo hi q : Int) : Nat :=
  let down := (Float.round f32 .rdn false false (decide (lo < 0)) lo.natAbs q).1
  let up := (Float.round f32 .rup false false (decide (hi < 0)) hi.natAbs q).1
  match mode with
  | .rdn => down
  | .rup => up
  | .rz => if 0 ≤ lo then down else up
  | _ => (Float.round f32 .rne false false (decide (lo < 0)) lo.natAbs q).1

/-- The result of an inexact case: the device's own bits where R401 allows them, else the rounded evaluation. -/
def sfuApprox (op : Sfu) (mode : Mode) (a : FVal) (neg : Bool) (m : Nat) (e : Int) (x : Nat) : Nat :=
  let (lo, hi, q) := evalSfu op neg m e
  let r := (Config.sfuBits op.num (match mode with
    | .rne => 1
    | .rz => 2
    | .rdn => 3
    | .rup => 4
    | .rmm => 5) (BitVec.ofNat 32 x)).toNat
  if sfuAllowed op mode lo hi q a r then r else sfuRounded mode lo hi q

/-- m·2^e is a power of two: its exponent. -/
def pow2Exp (m : Nat) (e : Int) : Option Int := if m == 2 ^ Nat.log2 m then some ((Nat.log2 m : Int) + e) else none

/-- The result of a power of two, with sign. -/
def pow2Res (neg : Bool) (k : Int) : Res := Float.round f32 .rne false false neg 1 k

/-- An inexact result: OF and UF judged on the exact value (19 R401). -/
def inexactRes (op : Sfu) (mode : Mode) (a : FVal) (neg : Bool) (m : Nat) (e : Int) (x : Nat) (big tiny rneg : Bool) :
    Res :=
  if big then (overflowBits f32 mode rneg, fOF ||| fNX)
  else (sfuApprox op mode a neg m e x, if tiny then fUF ||| fNX else fNX)

/-- FRCP, FRSQ, FEXP2, FLOG2, FSIN and FCOS (19 R401). -/
def sfu (op : Sfu) (mode : Mode) (x : Nat) : Res :=
  let a := unpack f32 x
  match a with
  | .nan s => nanRes f32 s
  | .inf n =>
    match op with
    | .rcp => zeroRes f32 n
    | .rsq => if n then nanRes f32 true else zeroRes f32 false
    | .exp2 => if n then zeroRes f32 false else infRes f32 false
    | .log2 => if n then nanRes f32 true else infRes f32 false
    | .sin | .cos => nanRes f32 true
  | .fin n m e =>
    if m == 0 then
      match op with
      | .rcp | .rsq => (f32.signBit n + f32.inf, fDZ)
      | .exp2 | .cos => (0x3F800000, noFlags)
      | .log2 => (f32.signBit true + f32.inf, fDZ)
      | .sin => zeroRes f32 n
    else
      match op with
      | .rcp =>
        match pow2Exp m e with
        | some k =>
          if -127 ≤ k && k ≤ 126 then pow2Res n (-k)
          else inexactRes op mode a n m e x (decide (k < -127)) (decide (126 < k)) n
        | none =>
          -- 1/|a| above the largest finite value: |a|·(2^24 − 1)·2^104 < 1; below 2^-126: |a| > 2^126
          inexactRes op mode a n m e x (!leDy 1 0 (m * (2 ^ 24 - 1) : Nat) (e + 104)) (!leDy m e 1 126) n
      | .rsq =>
        if n then nanRes f32 true
        else
          match pow2Exp m e with
          | some k => if k % 2 == 0 then pow2Res false (-(k / 2)) else inexactRes op mode a n m e x false false false
          | none => inexactRes op mode a n m e x false false false
      | .exp2 =>
        let v : Int := if n then -(m : Int) else m
        let big := leDy 1 7 v e
        let tiny := !leDy (-63) 1 v e
        -- integral a with a representable result
        if (0 ≤ e || m % 2 ^ (-e).toNat == 0) && leDy (-149) 0 v e && !big then
          let k : Int := if 0 ≤ e then v * (2 ^ e.toNat : Nat) else v / (2 ^ (-e).toNat : Nat)
          pow2Res false k
        else if big then inexactRes op mode a n m e x true false false
        else inexactRes op mode a n m e x false tiny false
      | .log2 =>
        if n then nanRes f32 true
        else
          match pow2Exp m e with
          | some k => Float.round f32 .rne false false (decide (k < 0)) k.natAbs 0
          | none => inexactRes op mode a n m e x false false false
      | .sin => inexactRes op mode a n m e x false (leDy m e 1 (-126)) n
      | .cos => inexactRes op mode a n m e x false false false

end Sys2Proof.Float
end

