-- ==== Sys2Proof/Machine/Block.lean ====
section
/-! DEFINITION. Block floating point and the 26-bit accumulator (05_number_formats R115 to R124). -/

namespace Sys2Proof.Block

open Sys2Proof.Float

/-- The mantissa width of a bfp format code 2 to 10 (10 R216). -/
def mantBits (code : Nat) : Nat :=
  match code with
  | 2 => 2
  | 3 => 3
  | 4 => 4
  | 5 => 5
  | 6 => 6
  | 7 => 7
  | 8 => 8
  | 9 => 12
  | _ => 16

/-- The container width in a v register (05 R115). -/
def container (m : Nat) : Nat := if m ≤ 2 then 2 else if m ≤ 4 then 4 else if m ≤ 8 then 8 else 16

/-- Element `m`-bit mantissa `q` under scale code `e`, as a number (05 R116). -/
def value (e q m : Nat) : FVal :=
  if e == 255 then .nan false
  else if e == 0 then .fin false 0 0
  else
    let i := sext m q
    .fin (decide (i < 0)) i.natAbs ((e : Int) - 127 - (m - 1 : Nat))

/-- The binary32 bits of an element (05 R116): exact, and the canonical NaN without NV. -/
def valueBits (e q m : Nat) : Nat :=
  match value e q m with
  | .fin n k x => if k == 0 then 0 else (Float.round f32 .rne false false n k x).1
  | _ => f32.cnan

/-- Block flags: BNV bit 0, BOF bit 1, BUNF bit 2 (05 R114). -/
abbrev BFlags := BitVec 3

/-- The larger of two magnitudes m·2^e. -/
def maxMag (a b : Nat × Int) : Nat × Int := if leDy a.1 a.2 b.1 b.2 then b else a

/-- Magnitude of a number. -/
def mag : FVal → Nat × Int
  | .fin _ m e => (m, e)
  | _ => (0, 0)

/-- BlockEncode (05 R118): the scale code, the eight mantissas as `m`-bit integers, and the flags. -/
def encode (xs : List FVal) (m : Nat) : Nat × List Int × BFlags :=
  if xs.any (fun x => x.isNan || x.isInf) then (255, xs.map (fun _ => 0), 1)
  else
    let (am, ae) := (xs.map mag).foldl maxMag (0, 0)
    if am == 0 then (0, xs.map (fun _ => 0), 0)
    else
      let e : Int := (Nat.log2 am : Int) + ae + 128
      let fl : BFlags := if 254 < e then 2 else if e < 1 then 4 else 0
      let e := clampI 1 254 e
      let q : FVal → Int := fun x =>
        match x with
        | .fin n k ke =>
          let r : Int := (quantize .rne n k ke (e - 127 - (m - 1 : Nat))).1
          clampI (-(2 ^ (m - 1) : Nat)) ((2 ^ (m - 1) : Nat) - 1) (if n then -r else r)
        | _ => 0
      (e.toNat, xs.map q, fl)

/-- The bytes of a block: the scale code, then the mantissas as one little-endian field (05 R117). -/
def pack (e : Nat) (qs : List Int) (m : Nat) : List Byte :=
  BitVec.ofNat 8 e :: leBytes m (field qs)
where
  /-- Mantissas from element 0 upward. -/
  field : List Int → Nat
    | [] => 0
    | q :: r => (wrapI m q).toNat + 2 ^ m * field r

/-- The scale code and the eight mantissa fields of a block's bytes (05 R117). -/
def unpack (bs : List Byte) (m : Nat) : Nat × List Nat :=
  let f := leNat bs.tail
  ((bs.headD 0).toNat, (upto 8).map fun j => f / 2 ^ (j * m) % 2 ^ m)

/-- The eight values of a block in memory (05 R116, R117). -/
def values (bs : List Byte) (m : Nat) : List FVal :=
  let (e, qs) := unpack bs m
  qs.map fun q => value e q m

/-- The exact sum of a list of finite numbers. -/
def sumList : List (Int × Int) → Int × Int
  | [] => (0, 0)
  | (i, e) :: r =>
    let (j, f) := sumList r
    let q := if e ≤ f then e else f
    (i * (2 ^ (e - q).toNat : Nat) + j * (2 ^ (f - q).toNat : Nat), q)

/-- A finite number as an integer times 2^e. -/
def asInt : FVal → Int × Int
  | .fin n m e => (if n then -(m : Int) else m, e)
  | _ => (0, 0)

/-- One block term of BDOT (17 R366): the exact sum of products, or of squared differences. -/
def dotTerm (l2 : Bool) (a b : List FVal) : Int × Int :=
  sumList ((a.zip b).map fun (x, y) =>
    let (i, e) := asInt x
    let (j, f) := asInt y
    if l2 then
      let (d, q) := sumList [(i, e), (-j, f)]
      (d * d, q + q)
    else (i * j, e + f))

/-- BDOT of one fibre over its blocks in rising order, with the flags of every rounding (17 R366). -/
def bdot (l2 : Bool) (mode : Mode) (as bs : List (Bool × List FVal)) : Nat × Flags :=
  go (as.zip bs) 0 noFlags
where
  /-- `acc` is the binary32 sum so far. The first of a pair says that the block is a NaN block. -/
  go : List ((Bool × List FVal) × (Bool × List FVal)) → Nat → Flags → Nat × Flags
    | [], acc, fl => (acc, fl)
    | ((na, a), (nb, b)) :: r, acc, fl =>
      let (blk, f1) :=
        if na || nb then (f32.cnan, noFlags)
        else
          let (i, q) := dotTerm l2 a b
          if i == 0 then (0, noFlags) else Float.round f32 mode false false (decide (i < 0)) i.natAbs q
      let (acc', f2) := fadd ⟨f32, mode, false⟩ acc blk
      go r acc' (fl ||| f1 ||| f2)

/-! The 26-bit accumulator (05 R122 to R124). -/

/-- A value of the accumulator: the format's zero, numbers, infinity and NaN. -/
abbrev Acc := FVal

def accZero : Acc := .fin false 0 0

/-- ToAcc26 of an exact i·2^q (05 R122). -/
def toAcc26 (i q : Int) : Acc :=
  let m := i.natAbs
  if m == 0 then accZero
  else
    let neg := decide (i < 0)
    let last := (Nat.log2 m : Int) + q - 17
    let (r, _) := quantize .rne neg m q last
    if leDy 1 128 r last then .inf neg
    else if !leDy 1 (-126) r last then .fin neg 0 0
    else .fin neg r last

/-- Add26 (05 R122). -/
def add26 (a b : Acc) : Acc :=
  match a, b with
  | .nan _, _ => .nan false
  | _, .nan _ => .nan false
  | .inf n, .inf n' => if n == n' then .inf n else .nan false
  | .inf n, _ => .inf n
  | _, .inf n => .inf n
  | .fin n m e, .fin n' m' e' =>
    let (s, q) := sumExact n m e n' m' e'
    toAcc26 s q

/-- Widen (05 R122). -/
def widen (a : Acc) : Word :=
  match a with
  | .nan _ => 0x7FC00000
  | .inf n => BitVec.ofNat 32 (f32.signBit n + f32.inf)
  | .fin n m e => BitVec.ofNat 32 (Float.round f32 .rne false false n m e).1

/-- The product of one pair of blocks (05 R123). -/
def blockProduct (ea eb : Nat) (as bs : List Nat) (mA mB : Nat) : Acc :=
  if ea == 255 || eb == 255 then .nan false
  else if ea == 0 || eb == 0 then accZero
  else
    let s : Int := ((as.zip bs).map fun (x, y) => sext mA x * sext mB y).foldl (· + ·) 0
    toAcc26 s ((ea : Int) + eb - 254 - (mA - 1 : Nat) - (mB - 1 : Nat))

/-- One level of the balanced tree: neighbours added (05 R123). -/
def pairUp : List Acc → List Acc
  | a :: b :: r => add26 a b :: pairUp r
  | l => l

/-- The balanced tree over the 32 block products of a K-step, added to the accumulator (05 R123). -/
def kStep (acc : Acc) (blks : List Acc) : Acc :=
  add26 acc ((pairUp (pairUp (pairUp (pairUp (pairUp blks))))).headD accZero)

/-- Promotion into a binary32 element of accumulator memory (05 R124). -/
def promote (mem : Word) (acc : Acc) : Word := addF32 mem (widen acc)

end Sys2Proof.Block
end

