-- ==== Sys2Proof/Syntax.lean ====
section
/-! DEFINITION. The instructions and steps of the machine: one constructor of `Instr` for each row of
spec/opcode_table.json. Encoded instructions carry their operands; steps of the hardware, the firmware and
the outside carry the names of what they act on. -/

namespace Sys2Proof

/-- A fibre: its team's key and its FID (02 R24, R28). -/
structure FibreId where
  team : Nat
  fid : Nat
  deriving DecidableEq, Repr

/-- HINT, bits [4:2] of every first word: stall count and yield bit (04 R87). -/
structure Hint where
  stall : BitVec 2
  yield : Bool
  deriving DecidableEq, Repr

/-- The guards a base word can carry (15 R319). -/
inductive BGuard where
  | always | k1 | k2 | notK1
  deriving DecidableEq, Repr

/-- The guard of an extended instruction: predicate `k`, negated when `neg` (15 R322). -/
structure XGuard where
  k : BitVec 3
  neg : Bool
  deriving DecidableEq, Repr

/-- The B operand of a base word: a register, or the literal in its place (15 R320). -/
inductive BOp where
  | reg (n : BitVec 6)
  | lit (x : Dword)
  deriving DecidableEq, Repr

/-- Subformat BZ: no operand (15 R320). -/
structure BZ where
  gd : BGuard
  h : Hint
  deriving DecidableEq, Repr

/-- Subformat BB: a signed word offset (15 R320). -/
structure BB where
  gd : BGuard
  h : Hint
  ofs : BitVec 18
  deriving DecidableEq, Repr

/-- Subformats BR and BA (15 R320). -/
structure BR where
  gd : BGuard
  h : Hint
  d : BitVec 6
  a : BitVec 6
  b : BOp
  deriving DecidableEq, Repr

/-- Subformats BI, BMG and BMS: three 6-bit fields, B an immediate or an index (15 R320). -/
structure BI where
  gd : BGuard
  h : Hint
  d : BitVec 6
  a : BitVec 6
  b : BitVec 6
  deriving DecidableEq, Repr

/-- Subformat BU: destination and source (15 R320). -/
structure BU where
  gd : BGuard
  h : Hint
  d : BitVec 6
  a : BitVec 6
  deriving DecidableEq, Repr

/-- The value of a base LI: a 12-bit signed immediate or a literal (15 R320). -/
inductive LiImm where
  | short (x : BitVec 12)
  | lit (x : Dword)
  deriving DecidableEq, Repr

/-- Subformat BL (15 R320). -/
structure BL where
  gd : BGuard
  h : Hint
  d : BitVec 6
  imm : LiImm
  deriving DecidableEq, Repr

/-- Subformat BC: a k destination and a condition code (15 R320). -/
structure BC where
  gd : BGuard
  h : Hint
  kd : BitVec 3
  cc : BitVec 3
  a : BitVec 6
  b : BOp
  deriving DecidableEq, Repr

/-- An operand of classes XR, XT, XE and XS: its kind and field (15 R323). -/
inductive Opnd where
  | v (n : BitVec 8)
  | g (n : BitVec 8)
  | k (n : BitVec 8)
  | q (n : BitVec 8)
  | imm (x : BitVec 8)
  | lit (x : Dword)
  | none
  deriving DecidableEq, Repr

/-- Class XR: register arithmetic (15 R322, R325). -/
structure XR where
  gd : XGuard
  h : Hint
  var : BitVec 4
  d : Opnd
  a : Opnd
  b : Opnd
  c : Opnd
  rnd : BitVec 3
  sat : Bool
  u : Bool
  cc : BitVec 3
  fa : BitVec 4
  fb : BitVec 4
  bsel : BitVec 2
  deriving DecidableEq, Repr

/-- The data register of class XM: KD v or g (15 R326). -/
inductive XData where
  | v (n : BitVec 8)
  | g (n : BitVec 8)
  deriving DecidableEq, Repr

/-- The base of class XM: KA v, g, none or stream (15 R326). -/
inductive XBase where
  | v (n : BitVec 8)
  | g (n : BitVec 8)
  | none
  | q (n : BitVec 8)
  deriving DecidableEq, Repr

/-- The displacement of class XM: 16 bits, or the literal (15 R326). -/
inductive XDisp where
  | short (x : BitVec 16)
  | lit (x : Dword)
  deriving DecidableEq, Repr

/-- Class XM: memory (15 R326). `idx` is the index register when IX = 1. -/
structure XM where
  gd : XGuard
  h : Hint
  d : XData
  base : XBase
  idx : Option (BitVec 8)
  c : BitVec 8
  sx : Bool
  mkb : Bool
  scale : BitVec 2
  pol : BitVec 2
  res : BitVec 2
  ord : BitVec 2
  size : BitVec 3
  disp : XDisp
  deriving DecidableEq, Repr

/-- Class XT: tiles and matrix (15 R327). -/
structure XT where
  gd : XGuard
  h : Hint
  pol : BitVec 2
  res : BitVec 2
  d : Opnd
  a : Opnd
  b : Opnd
  c : Opnd
  tn : BitVec 5
  slot : BitVec 6
  cnt : BitVec 6
  srcs : Bool
  deriving DecidableEq, Repr

/-- Class XE: engines and queues (15 R328). -/
structure XE where
  gd : XGuard
  h : Hint
  pol : BitVec 2
  res : BitVec 2
  d : Opnd
  a : Opnd
  b : Opnd
  c : Opnd
  dirm : BitVec 2
  mode : BitVec 2
  tryb : Bool
  abe : Bool
  mask : BitVec 4
  n6 : BitVec 6
  deriving DecidableEq, Repr

/-- The target of a class XC transfer (15 R329). -/
inductive XTarget where
  | rel (ofs : Word)
  | reg (n : BitVec 8)
  | lit (x : Dword)
  deriving DecidableEq, Repr

/-- Class XC: control transfer (15 R329). -/
structure XC where
  gd : XGuard
  h : Hint
  tgt : XTarget
  deriving DecidableEq, Repr

/-- Class XS: system (15 R330). -/
structure XS where
  gd : XGuard
  h : Hint
  d : Opnd
  a : Opnd
  b : Opnd
  c : Opnd
  imm : BitVec 20
  deriving DecidableEq, Repr

/-- The intent a page walk is made with (06 R146). -/
inductive WalkKind where
  | read | write | fetch | copy
  deriving DecidableEq, Repr

/-- The sender of Druiraim frames: source IP address and UDP port (14 R305). -/
structure Sender where
  ip : Nat
  udp : Nat
  deriving DecidableEq, Repr

/-- A received Druiraim frame: VLAN tag, destination address and UDP port, the header fields of 14 R303 and the payload
bytes. -/
structure Frame where
  port : Nat
  vid : Option Nat
  sender : Sender
  dst : Nat
  dport : Nat
  ver : Nat
  rsv : Nat
  kind : Nat
  ctxid : Nat
  seq : Nat
  len : Nat
  tag : Nat
  payload : List Byte
  deriving DecidableEq, Repr

/-- A received ARP, neighbour-discovery, ICMP or pause frame: the fields the device acts on (14 R302). -/
structure NetPkt where
  port : Nat
  vid : Option Nat
  v6 : Bool
  src : Nat
  dst : Nat
  mac : Nat
  prio : Nat
  quanta : Nat
  data : List Byte
  deriving DecidableEq, Repr

/-- A RoCE v2 request that reaches a port: VLAN tag, addresses, queue pair, the PSN of its first packet (14 R302, R311,
R496). -/
structure RdmaReq where
  port : Nat
  vid : Option Nat
  src : Nat
  dst : Nat
  psn : Nat
  qpn : Nat
  rkey : Nat
  va : Nat
  len : Nat
  data : List Byte
  ce : Bool
  deriving DecidableEq, Repr

/-- The firmware image as the flash gives it (14 R299). -/
structure FwImage where
  readable : Bool
  /-- header and body, which name the version and the owner's keys (14 R300, R301) -/
  body : List Byte
  rsaKey : List Byte
  slhKey : List Byte
  rsaSig : List Byte
  slhSig : List Byte
  deriving DecidableEq, Repr

/-- The configuration image: its record DW0 to DW17 and its signatures (14 R300). -/
structure CfgImage where
  readable : Bool
  dws : List Dword
  rsaKey : List Byte
  slhKey : List Byte
  rsaSig : List Byte
  slhSig : List Byte
  deriving DecidableEq, Repr

/-- Sensor readings of a die: junction and HBM in degrees, the package's power in watts (14 R314). -/
structure Sense where
  junction : Nat
  hbm : Nat
  power : Nat
  deriving DecidableEq, Repr

/-- The health report of 14 R307 and R313. -/
structure HealthReport where
  die : List Nat
  days : Nat
  temp : Nat
  volt : Nat
  active : Nat
  hours : Nat
  deriving DecidableEq, Repr

/-- An hour's figures, from which the report is made: the die indices and the estimate in days as firmware combines them,
and the hour's means (14 R313). -/
structure HealthSample where
  die : List Nat
  days : Nat
  temp : Nat
  volt : Nat
  active : Nat
  deriving DecidableEq, Repr

/-- One constructor for each row of spec/opcode_table.json, in its order. -/
inductive Instr where
  /-- R434. Base-form no-operation that occupies its port for one issue clock and applies its hint. -/
  | nop (o : BZ)
  /-- R434. Extended XC form of NOP, with the same effect as the base form. -/
  | nopX (o : XC)
  /-- R480. Base-form NOP whose group always yields under R88. -/
  | yield (o : BZ)
  /-- R480. Extended XC form of YIELD. -/
  | yieldX (o : XC)
  /-- R393. Base form: ends each active fibre whose guard is true. -/
  | exit (o : BZ)
  /-- R393. Extended XC form of EXIT. -/
  | exitX (o : XC)
  /-- R448. Base form: pops each guarded lane's return address, refilling from the stack if needed, and moves to it; at the
  handler base this is the trap return. -/
  | ret (o : BZ)
  /-- R448. Extended XC form of RET. -/
  | retX (o : XC)
  /-- R370. Base form: per-lane branch by an 18-bit word offset, taken where the guard is true. -/
  | bra (o : BB)
  /-- R370. Extended XC per-lane branch with a 32-bit offset or a literal code reference. -/
  | braX (o : XC)
  /-- R372. Base form: uniform branch that raises UNIF when the guard differs among lanes. -/
  | bru (o : BB)
  /-- R372. Extended XC uniform branch to an offset, a g register or a literal target. -/
  | bruX (o : XC)
  /-- R375. Base form: pushes the return reference in each calling lane and moves to a function-entry target. -/
  | call (o : BB)
  /-- R375. Extended XC call to an offset, a g register or a literal target. -/
  | callX (o : XC)
  /-- R377. Per-lane indirect call through a v pair holding a code reference in each fibre. -/
  | callr (o : XC)
  /-- R354. Base-form integer add. -/
  | add (o : BR)
  /-- R354. Extended XR integer add, with optional .sat and .sat.u. -/
  | addX (o : XR)
  /-- R467. Base-form integer subtract. -/
  | sub (o : BR)
  /-- R467. Extended XR integer subtract, with optional saturation. -/
  | subX (o : XR)
  /-- R424. Base-form integer multiply, low bits. -/
  | mul (o : BR)
  /-- R424. Extended XR integer multiply, with optional saturation. -/
  | mulX (o : XR)
  /-- R424. Base-form signed multiply, high half. -/
  | mulh (o : BR)
  /-- R424. Extended XR multiply-high, signed or unsigned. -/
  | mulhX (o : XR)
  /-- R424. Base-form integer multiply-add with vD as the addend. -/
  | mad (o : BR)
  /-- R424. Extended XR integer multiply-add with three sources. -/
  | madX (o : XR)
  /-- R356. Base-form bitwise AND. -/
  | and (o : BR)
  /-- R356. Extended XR bitwise AND. -/
  | andX (o : XR)
  /-- R424. Base-form bitwise OR. -/
  | or (o : BR)
  /-- R424. Extended XR bitwise OR. -/
  | orX (o : XR)
  /-- R348. Base-form bitwise XOR. -/
  | xor (o : BR)
  /-- R348. Extended XR bitwise XOR. -/
  | xorX (o : XR)
  /-- R357. Base-form a AND NOT b. -/
  | andn (o : BR)
  /-- R357. Extended XR a AND NOT b. -/
  | andnX (o : XR)
  /-- R424. Base-form signed minimum. -/
  | min (o : BR)
  /-- R424. Extended XR minimum, signed or unsigned. -/
  | minX (o : XR)
  /-- R424. Base-form signed maximum. -/
  | max (o : BR)
  /-- R424. Extended XR maximum, signed or unsigned. -/
  | maxX (o : XR)
  /-- R460. Base-form shift left by a 6-bit immediate. -/
  | shl (o : BI)
  /-- R460. Extended XR shift left. -/
  | shlX (o : XR)
  /-- R460. Base-form logical shift right by a 6-bit immediate. -/
  | shr (o : BI)
  /-- R460. Extended XR shift right, logical or arithmetic. -/
  | shrX (o : XR)
  /-- R449. Base-form rotate left by a 6-bit immediate. -/
  | rol (o : BI)
  /-- R449. Extended XR rotate left. -/
  | rolX (o : XR)
  /-- R432. Base-form register copy. -/
  | mov (o : BU)
  /-- R432. Extended XR copy between v and g registers or from an immediate. -/
  | movX (o : XR)
  /-- R420. Base-form load of a 12-bit signed immediate. -/
  | li (o : BL)
  /-- R420. Extended XR load immediate from a short immediate or a literal. -/
  | liX (o : XR)
  /-- R381. Base-form signed integer compare into a k register. -/
  | cmp (o : BC)
  /-- R381. Extended XR integer compare, signed or unsigned. -/
  | cmpX (o : XR)
  /-- R395. Base-form binary32 add under the dynamic rounding mode. -/
  | fadd (o : BR)
  /-- R395. Extended XR binary32 add with a rounding field. -/
  | faddX (o : XR)
  /-- R395. Base-form binary32 subtract. -/
  | fsub (o : BR)
  /-- R395. Extended XR binary32 subtract. -/
  | fsubX (o : XR)
  /-- R395. Base-form binary32 multiply. -/
  | fmul (o : BR)
  /-- R395. Extended XR binary32 multiply. -/
  | fmulX (o : XR)
  /-- R395. Base-form IEEE minimumNumber. -/
  | fmin (o : BR)
  /-- R395. Extended XR minimumNumber. -/
  | fminX (o : XR)
  /-- R395. Base-form IEEE maximumNumber. -/
  | fmax (o : BR)
  /-- R395. Extended XR maximumNumber. -/
  | fmaxX (o : XR)
  /-- R395. Base-form fused multiply-add with vD as the addend. -/
  | fma (o : BR)
  /-- R395. Extended XR fused multiply-add with three sources. -/
  | fmaX (o : XR)
  /-- R395. Correctly rounded binary32 divide on the SFU. -/
  | fdiv (o : XR)
  /-- R395. Base-form binary32 square root. -/
  | fsqrt (o : BU)
  /-- R395. Extended XR square root. -/
  | fsqrtX (o : XR)
  /-- R414. Base-form packed binary16 add. -/
  | hadd2 (o : BR)
  /-- R414. Extended XR packed half add, in binary16 or bfloat16. -/
  | hadd2X (o : XR)
  /-- R414. Base-form packed binary16 multiply. -/
  | hmul2 (o : BR)
  /-- R414. Extended XR packed half multiply. -/
  | hmul2X (o : XR)
  /-- R414. Base-form packed binary16 fused multiply-add. -/
  | hfma2 (o : BR)
  /-- R414. Extended XR packed half fused multiply-add. -/
  | hfma2X (o : XR)
  /-- R396. Base-form binary32 compare into a k register. -/
  | fcmp (o : BC)
  /-- R396. Extended XR floating-point compare. -/
  | fcmpX (o : XR)
  /-- R397. Classifies an operand encoding into a one-hot class mask. -/
  | fclass (o : XR)
  /-- R399. Converts between float formats and 32-bit integers, as scalars or pairs. -/
  | fcvt (o : XR)
  /-- R400. Rounds a binary32 value to an integral value by the mode. -/
  | frnd (o : XR)
  /-- R401. Base-form approximate reciprocal. -/
  | frcp (o : BU)
  /-- R401. Extended XR approximate reciprocal. -/
  | frcpX (o : XR)
  /-- R401. Base-form approximate reciprocal square root. -/
  | frsq (o : BU)
  /-- R401. Extended XR approximate reciprocal square root. -/
  | frsqX (o : XR)
  /-- R401. Base-form approximate 2 to the power a. -/
  | fexp2 (o : BU)
  /-- R401. Extended XR approximate 2 to the power a. -/
  | fexp2X (o : XR)
  /-- R401. Base-form approximate base-2 logarithm. -/
  | flog2 (o : BU)
  /-- R401. Extended XR approximate base-2 logarithm. -/
  | flog2X (o : XR)
  /-- R401. Approximate sine in radians. -/
  | fsin (o : XR)
  /-- R401. Approximate cosine in radians. -/
  | fcos (o : XR)
  /-- R352. Base-form integer absolute value. -/
  | abs (o : BU)
  /-- R352. Extended XR absolute value, with optional saturation. -/
  | absX (o : XR)
  /-- R424. Base-form integer negate. -/
  | neg (o : BU)
  /-- R424. Extended XR negate, with optional saturation. -/
  | negX (o : XR)
  /-- R380. Base-form count of leading zeros. -/
  | clz (o : BU)
  /-- R380. Extended XR count of leading zeros. -/
  | clzX (o : XR)
  /-- R437. Base-form population count. -/
  | popc (o : BU)
  /-- R437. Extended XR population count. -/
  | popcX (o : XR)
  /-- R371. Base-form bit reverse. -/
  | brev (o : BU)
  /-- R371. Extended XR bit reverse. -/
  | brevX (o : XR)
  /-- R387. Integer divide rounding towards zero; division by zero gives all ones. -/
  | div (o : XR)
  /-- R445. Integer remainder with the sign of the dividend. -/
  | rem (o : XR)
  /-- R369. Extracts a bit field, sign- or zero-extended. -/
  | bfx (o : XR)
  /-- R368. Inserts a bit field of a into b. -/
  | bfi (o : XR)
  /-- R455. Selects a or b by a predicate. -/
  | sel (o : XR)
  /-- R435. Applies a 3-input truth table to predicates. -/
  | plop (o : XR)
  /-- R433. Reads a special register into a v or g register. -/
  | movs (o : XR)
  /-- R364. Encodes binary32 lanes into block floating point, or decodes blocks to binary32. -/
  | bcvt (o : XR)
  /-- R366. Computes a .dot or .l2 distance over block vectors in scratchpad, in fixed order. -/
  | bdot (o : XR)
  /-- R459. Reads a value from an indexed lane. -/
  | shflIdx (o : XR)
  /-- R459. Reads a value from the lane i below. -/
  | shflUp (o : XR)
  /-- R459. Reads a value from the lane i above. -/
  | shflDown (o : XR)
  /-- R459. Reads a value from lane l XOR i. -/
  | shflXor (o : XR)
  /-- R478. Writes the mask of participating lanes whose value is 1. -/
  | voteMask (o : XR)
  /-- R478. Writes the count of participants whose value is 1. -/
  | voteCount (o : XR)
  /-- R478. Sets a predicate when the count meets a threshold, or is unanimous when the threshold is 0. -/
  | voteQuorum (o : XR)
  /-- R478. Sets a predicate when participants disagree. -/
  | voteSplit (o : XR)
  /-- R411. Reduces over the gathered lanes by a tree, or in FID order with .seq. -/
  | gred (o : XR)
  /-- R412. Computes an inclusive or exclusive prefix scan in LANE order. -/
  | gscan (o : XR)
  /-- R425. Writes the mask of lanes that hold the same value. -/
  | matchAny (o : XR)
  /-- R425. Writes the full mask if every participant holds the same value, and 0 otherwise. -/
  | matchAll (o : XR)
  /-- R250. Spreads the items of uneven rows over the lanes in FID order. -/
  | rebal (o : XR)
  /-- R251. Merges candidates into a scratchpad result list of K entries, as one atomic read-modify-write. -/
  | topk (o : XR)
  /-- R416. Base-form 4-byte global load at g base plus v index. -/
  | ld (o : BI)
  /-- R416. Extended XM global load with size, policy, residence and ordering. -/
  | ldX (o : XM)
  /-- R464. Base-form 4-byte global store. -/
  | st (o : BI)
  /-- R464. Extended XM global store with policy, .rel, or the stream form. -/
  | stX (o : XM)
  /-- R417. Base-form 4-byte scratchpad load. -/
  | lds (o : BI)
  /-- R417. Extended XM scratchpad load. -/
  | ldsX (o : XM)
  /-- R465. Base-form 4-byte scratchpad store. -/
  | sts (o : BI)
  /-- R465. Extended XM scratchpad store. -/
  | stsX (o : XM)
  /-- R418. Loads from a gallery member's scratchpad. -/
  | ldx (o : XM)
  /-- R466. Stores to a gallery member's scratchpad over the ordered stream. -/
  | stx (o : XM)
  /-- R419. Computes an effective address without access. -/
  | lea (o : XM)
  /-- R438. Prefetches lines into L1 or the home L2. -/
  | pref (o : XM)
  /-- R373. Writes back and releases the owned words of a line. -/
  | cacheWb (o : XM)
  /-- R373. Writes back, then invalidates a line in L1. -/
  | cacheInv (o : XM)
  /-- R373. Clears evict-last for a line in L1 and at its home L2. -/
  | cacheClel (o : XM)
  /-- R402. Acquire fence over the fibre's earlier loads. -/
  | fenceAcq (o : XM)
  /-- R402. Release fence before the fibre's later stores and atomics. -/
  | fenceRel (o : XM)
  /-- R402. Full fence: release, total order, then acquire. -/
  | fenceAr (o : XM)
  /-- R359. Global atomic wrapping add at the home slice. -/
  | atomAdd (o : XM)
  /-- R359. Global atomic AND. -/
  | atomAnd (o : XM)
  /-- R359. Global atomic OR. -/
  | atomOr (o : XM)
  /-- R359. Global atomic XOR. -/
  | atomXor (o : XM)
  /-- R359. Global atomic signed minimum. -/
  | atomMin (o : XM)
  /-- R359. Global atomic signed maximum. -/
  | atomMax (o : XM)
  /-- R359. Global atomic unsigned minimum. -/
  | atomUmin (o : XM)
  /-- R359. Global atomic unsigned maximum. -/
  | atomUmax (o : XM)
  /-- R359. Global atomic exchange. -/
  | atomExch (o : XM)
  /-- R359. Global atomic compare-and-swap. -/
  | atomCas (o : XM)
  /-- R359. Global atomic binary32 add. -/
  | atomFadd (o : XM)
  /-- R361. Scratchpad atomic add. -/
  | atomsAdd (o : XM)
  /-- R361. Scratchpad atomic AND. -/
  | atomsAnd (o : XM)
  /-- R361. Scratchpad atomic OR. -/
  | atomsOr (o : XM)
  /-- R361. Scratchpad atomic XOR. -/
  | atomsXor (o : XM)
  /-- R361. Scratchpad atomic signed minimum. -/
  | atomsMin (o : XM)
  /-- R361. Scratchpad atomic signed maximum. -/
  | atomsMax (o : XM)
  /-- R361. Scratchpad atomic unsigned minimum. -/
  | atomsUmin (o : XM)
  /-- R361. Scratchpad atomic unsigned maximum. -/
  | atomsUmax (o : XM)
  /-- R361. Scratchpad atomic exchange. -/
  | atomsExch (o : XM)
  /-- R361. Scratchpad atomic compare-and-swap. -/
  | atomsCas (o : XM)
  /-- R361. Scratchpad atomic binary32 add. -/
  | atomsFadd (o : XM)
  /-- R215. Defines a named tile from a tile descriptor. -/
  | tdef (o : XT)
  /-- R471. Posts a tensor copy into a tile on the copy engine. -/
  | tcopy (o : XT)
  /-- R470. Frees a tile, making it Empty. -/
  | tfree (o : XT)
  /-- R469. Reads a tile's table entry without waiting. -/
  | tstat (o : XT)
  /-- R472. Loads an unfold view from a scratchpad record. -/
  | unfset (o : XT)
  /-- R429. Issues a multi-step matrix operation with promotion and drain. -/
  | mloop (o : XT)
  /-- R430. Issues a single-step matrix operation. -/
  | mma (o : XT)
  /-- R388. Loads or empties a drain program slot. -/
  | dload (o : XT)
  /-- R349. Requests a run of accumulator banks, granting, refusing or queueing. -/
  | aalloc (o : XT)
  /-- R355. Frees accumulator banks and serves the AALLOC queue. -/
  | afree (o : XT)
  /-- R382. Posts a tensor copy between global memory and scratchpad. -/
  | copy (o : XE)
  /-- R404. Posts an indexed row copy ranked by FID. -/
  | gather (o : XE)
  /-- R451. Posts an indexed row copy or add to destinations, with a journal. -/
  | scatter (o : XE)
  /-- R427. Posts one read landed in several gallery scratchpads. -/
  | mcast (o : XE)
  /-- R384. Seals each fibre's open copy batch. -/
  | cseal (o : XE)
  /-- R385. Waits until at most n sealed batches are unfinished, then acquires. -/
  | cwait (o : XS)
  /-- R391. Blocking enqueue of one element per active fibre. -/
  | enq (o : XE)
  /-- R391. Non-parking enqueue of as many elements as fit. -/
  | enqTry (o : XE)
  /-- R386. Blocking dequeue of one element per active fibre. -/
  | deq (o : XE)
  /-- R386. Non-parking dequeue of the available elements. -/
  | deqTry (o : XE)
  /-- R442. Builds a queue control block at the home slice. -/
  | qinit (o : XE)
  /-- R443. Reads a control block atomically into eight g registers. -/
  | qstat (o : XE)
  /-- R378. Sends slots on a channel after credits and a release. -/
  | chsend (o : XE)
  /-- R378. Receives landed channel slots, acquires and returns credits. -/
  | chrecv (o : XE)
  /-- R461. Enqueues a launch record from device code on a dispatch queue. -/
  | spawn (o : XE)
  /-- R351. Initialises an arrival barrier in scratchpad. -/
  | abinit (o : XE)
  /-- R353. Waits for an arrival-barrier phase to pass, then acquires. -/
  | abwait (o : XS)
  /-- R453. Defines a stream in each active fibre. -/
  | sdef (o : XE)
  /-- R454. Ends a stream in each active fibre. -/
  | sstop (o : XE)
  /-- R473. Reads the copy or matrix timeline without acquiring. -/
  | tlread (o : XE)
  /-- R474. Waits until a timeline reaches n, then acquires. -/
  | tlwait (o : XS)
  /-- R362. Team barrier arrival, parking until the phase completes. -/
  | bar (o : XS)
  /-- R407. Full gallery barrier arrival and wait. -/
  | gbar (o : XS)
  /-- R407. Arrives at the gallery barrier and writes a ticket without waiting. -/
  | gbarEnter (o : XS)
  /-- R407. Waits for the ticket's phase to complete, then acquires. -/
  | gbarLeave (o : XS)
  /-- R479. Blocks until the outstanding-operation counters fall to the limits. -/
  | wait (o : XS)
  /-- R409. Reads a control register into a g register. -/
  | getc (o : XS)
  /-- R112. Writes the team's FPCTL. -/
  | setcFpctl (o : XS)
  /-- R113. Clears written FPFLAGS bits in active fibres. -/
  | setcFpflags (o : XS)
  /-- R113. Clears written BFFLAGS bits in active fibres. -/
  | setcBfflags (o : XS)
  /-- R86. Sets the context's issue policy. -/
  | setcIssuepol (o : XS)
  /-- R256. Sets the trap handler reference. -/
  | setcTrapvec (o : XS)
  /-- R261. A write to FAULTQ raises PRIV. -/
  | setcFaultq (o : XS)
  /-- R290. Clears LKSTAT.LOST. -/
  | setcLkstat (o : XS)
  /-- R49. Clears STATUS sticky bits in active fibres. -/
  | setcStatclr (o : XS)
  /-- R200. Writing bit 0 clears CPSTAT.ERR and ECAUSE. -/
  | cpstatClearErr (o : XS)
  /-- R200. Writing bit 16 clears CPSTAT.DROP. -/
  | cpstatClearDrop (o : XS)
  /-- R237. Clears MXSTAT.ERR while no operation is stopped, and clears written flag bits. -/
  | setcMxstat (o : XS)
  /-- R237. ACT 0b001 resumes a stopped matrix operation from its cursor. -/
  | mxstatResume (o : XS)
  /-- R237. ACT 0b010 resumes, ignoring TRAPIF and trap enables for the stopped block or interval. -/
  | mxstatResumeIgnoring (o : XS)
  /-- R237. ACT 0b100 abandons the stopped operation and completes its timeline number. -/
  | mxstatAbandon (o : XS)
  /-- R258. Writes TRAPINFO.SKIP in a handler, and raises PRIV outside one. -/
  | setcTrapinfo (o : XS)
  /-- R456. Ignored inside a handler, and raises PRIV outside one. -/
  | setcTrapva (o : XS)
  /-- R36. Collective width request that regroups the team at completion. -/
  | setw (o : XS)
  /-- R239. Arrives at a team or gallery reorder-by-key collective. -/
  | reord (o : XS)
  /-- R468. User service call raising the SVC trap. -/
  | svc (o : XS)
  /-- R265. Supervisor operation that replays or fails a parked fault. -/
  | resolve (o : XS)
  /-- R265. Supervisor operation that invalidates cached translations after their leases end. -/
  | xlinv (o : XS)
  /-- R265. Supervisor operation that retries, skips or ends a group held for firmware. -/
  | resume (o : XS)
  /-- R476. Raises the TRAP trap with an immediate. -/
  | trap (o : XS)
  /-- R421. Fetches and locks instruction-cache lines. -/
  | locki (o : XS)
  /-- R477. Releases instruction-cache locks. -/
  | unlocki (o : XS)
  /-- R50. A group ready and unissued for 128 cycles is lifted to the top class for one issue. -/
  | ageingLift (gid : Nat)
  /-- R51. A PC subset's spin counter reaching 16 demotes it for 256 cycles and sets SPIN. -/
  | spinDemotion (gid : Nat) (pc : Dword)
  /-- R51. The 256-cycle demotion expires. -/
  | spinDemotionEnd (gid : Nat) (pc : Dword)
  /-- R90. A variable-latency result is written, its pending bit clears and its WAIT counter drops. -/
  | resultWriteback (id : Nat)
  /-- R134. The home slice records a new owner, invalidates guest copies and withdraws the previous owner. -/
  | ownershipRegistration (id : Nat)
  /-- R134. A registration acknowledgement reaches the core and allows waiting releases to proceed. -/
  | registrationAck (id : Nat)
  /-- R135. An owned word evicted or cleaned is written back to the home and its ownership released. -/
  | ownerWriteBack (core word : Nat)
  /-- R135. A read forwarded to the owning core is answered with its current value. -/
  | ownerReadForward (id : Nat)
  /-- R492. The owner returns a word's value, releases ownership and invalidates its copy. -/
  | ownershipWithdrawal (word : Nat)
  /-- R141. The 64-cycle combining window closes and the home answers the collected reads with one reply. -/
  | readCombineReply (line : Nat)
  /-- R146. A translation walk completes, setting A and D or raising PAGE or ACCESS. -/
  | pageWalk (core ctx va : Nat) (kind : WalkKind)
  /-- R263. A waiting fault record is enqueued on FAULTQ once the queue has room. -/
  | faultRecordEnqueue (ctx : Nat)
  /-- R286. A first-fetch SHA-384 check completes, setting the VBM bit or making the slot untrusted. -/
  | codePageHashCheck (ctx slot page : Nat)
  /-- R173. An enqueue request is checked, reserved or parked at the control block's home slice. -/
  | enqAtHome (id : Nat)
  /-- R175. A dequeue request is checked, served or parked at the home slice. -/
  | deqAtHome (id : Nat)
  /-- R174. A reservation's element writes are performed, PTAIL advances and the ENQ reply is sent. -/
  | elementPublication (id : Nat)
  /-- R181. An eviction message settles a parked waiter as evicted or granted. -/
  | waiterEviction (id : Nat)
  /-- R176. An ENQ or DEQ reply reaches the group and completes the instruction. -/
  | queueReply (id : Nat)
  /-- R186. Channel slot data land in the consumer's scratchpad and the sender's STC counts down. -/
  | channelLanding (id : Nat)
  /-- R186. Credits returned by CHRECV reach the producer. -/
  | channelCreditReturn (id : Nat)
  /-- R196. An STX packet lands in the target scratchpad, or is dropped on a stale tag. -/
  | stxLanding (id : Nat)
  /-- R196. A copy landing reaches a target scratchpad, updating its barrier or being dropped on a stale tag. -/
  | copyLanding (id target : Nat)
  /-- R203. A command's arrival is counted at an arrival barrier. -/
  | barrierArrival (id target : Nat)
  /-- R165. A copy command completes, advancing the copy timeline and readying its tile. -/
  | copyCompletion (id : Nat)
  /-- R198. A copy command meets a recoverable translation fault and parks with its progress. -/
  | copyFault (id : Nat)
  /-- R199. A copy command meets an unrecoverable fault or error and the engine enters the error state. -/
  | copyErrorState (id : Nat) (ecc : Bool)
  /-- R208. A prefetched input-stream element arrives, or holds its fault for the pop. -/
  | streamPrefetch (fib : FibreId) (stream : Nat)
  /-- R227. A waiting matrix operation is rechecked and accepted once its tiles qualify and a place is free. -/
  | matrixAccept (gid : Nat)
  /-- R212. The array completes one K-step over the region and promotes at interval boundaries. -/
  | kStep (id : Nat)
  /-- R235. A drain block's micro-ops finish and its effects commit together. -/
  | drainBlockCommit (id : Nat)
  /-- R165. A matrix operation completes, advancing the matrix timeline and releasing tiles and leases. -/
  | matrixCompletion (id : Nat)
  /-- R236. An ECC error, TRAPIF or enabled exception stops the matrix operation and records MXSTAT. -/
  | matrixStop (id : Nat) (ecc : Bool)
  /-- R244. After the last arrival, records are sorted, groups formed and dealt to cores. -/
  | reordDeal (tid : Nat)
  /-- R58. A dispatcher takes a launch record, assigns LAUNCHID and applies the launch checks. -/
  | dispatchTake (die : Nat)
  /-- R68. A pending team starts when its footprint fits on its core, with a new generation tag. -/
  | teamStart (tid : Nat)
  /-- R30. A team ends when all its fibres have exited and its engine operations have completed. -/
  | teamCompletion (tid : Nat)
  /-- R67. A launch completes, releases towards successors and makes its report. -/
  | launchCompletion (launch : Nat)
  /-- R67. A held completion report is made once its queue has room. -/
  | completionReport (launch : Nat)
  /-- R75. A graph run starts when no other run is active, resetting PEND and activating ENTRY. -/
  | graphStart (graph : Nat)
  /-- R75. A launch node takes its record as a new launch. -/
  | launchNodeActivation (graph node : Nat)
  /-- R75. A join node decrements PEND and activates its successors at 0. -/
  | joinActivation (graph node : Nat)
  /-- R75. A conditional node reads its condition word and activates SUCC0 or SUCC1. -/
  | conditionalActivation (graph node : Nat)
  /-- R75. A while node reads its condition, counts an iteration and activates SUCC0 or SUCC1. -/
  | whileActivation (graph node : Nat)
  /-- R269. The scheduler sends a stop request a drain time before the slice ends, and STOP reads 1. -/
  | stopRequest (ctx : Nat)
  /-- R271. Once every fibre and engine has settled, the context is saved. -/
  | stopCompletion (ctx : Nat)
  /-- R274. Firmware restores a saved context: it maps chambers, retags, rebinds and regroups. -/
  | contextRestore (ctx : Nat) (map : List Nat)
  /-- R297. Power-good starts stage 1, self-calibration. -/
  | powerGood
  /-- R297. Stage 1 completes: links and PHYs are trained and the Ethernet links come up. -/
  | selfCalibration (ok : Bool) (boardTag : Nat)
  /-- R297. Stage 2 completes: SRAM self-test and repair, and the PUF is read. -/
  | builtInSelfTest (ok : Bool) (secret : Nat)
  /-- R297. Stage 3 completes: every HBM and SRAM location is zeroed. -/
  | memoryInitialisation (ok : Bool)
  /-- R299. Stage 4 completes: both firmware signatures are verified. -/
  | firmwareVerify (img : FwImage)
  /-- R300. Stage 5 completes: the configuration image is verified and applied. -/
  | configurationApply (img : CfgImage)
  /-- R314. A die's sensor or power crosses a threshold and its THR state and clock change. -/
  | thermalStateChange (die : Nat) (sense : Sense)
  /-- R313. Hourly, firmware updates the wear indices and the remaining-life estimate. -/
  | healthEstimate (report : HealthSample)
  /-- R302. An ARP request for the device's address is answered. -/
  | arpRequest (pkt : NetPkt)
  /-- R302. An IPv6 neighbour solicitation is answered. -/
  | neighbourSolicitation (pkt : NetPkt)
  /-- R302. An ICMP or ICMPv6 echo request is answered. -/
  | icmpEchoRequest (pkt : NetPkt)
  /-- R302. A router advertisement sets the port's IPv6 router. -/
  | routerAdvertisement (pkt : NetPkt)
  /-- R302. A priority flow-control pause frame for PFCP pauses transmission. -/
  | pfcPauseFrame (pkt : NetPkt)
  /-- R298. Management operation that returns MSTAT. -/
  | status (f : Frame)
  /-- R301. Management operation that returns a signed attestation report. -/
  | attest (f : Frame)
  /-- R304. Verifies the host key, agrees a session key by ECDH and replies with a report. -/
  | attach (f : Frame)
  /-- R305. Adds or removes a peer key and the contexts it may reach. -/
  | peer (f : Frame)
  /-- R307. Creates a context with its partition, drain time, FAULTQ and translation root. -/
  | ctxcreate (f : Frame)
  /-- R494. Ends a context. -/
  | ctxend (f : Frame)
  /-- R56. Binds or unbinds a dispatch queue with a priority. -/
  | bindq (f : Frame)
  /-- R307. Installs or empties a code object slot, or refuses it. -/
  | install (f : Frame)
  /-- R307. Sends a stop request and replies after the context is saved. -/
  | save (f : Frame)
  /-- R274. Restores a saved context with a chamber mapping. -/
  | restore (f : Frame)
  /-- R307. Registers or deregisters device memory for RoCE access. -/
  | mreg (f : Frame)
  /-- R312. Opens or closes a RoCE queue pair. -/
  | qpopen (f : Frame)
  /-- R312. Writes or clears an entry of a context's endpoint table. -/
  | epset (f : Frame)
  /-- R313. Returns the health report. -/
  | health (f : Frame)
  /-- R314. Lowers or restores the package power cap. -/
  | pcap (f : Frame)
  /-- R307. Sets or clears a breakpoint that raises DEBUG before issue. -/
  | brk (f : Frame)
  /-- R182. A remote-enqueue frame is executed at the home slice, all or nothing, and answered. -/
  | remoteEnqueue (f : Frame)
  /-- R305. A frame held out of order is executed when next reaches its SEQ. -/
  | heldFrameExecute (session ctx : Nat)
  /-- R496. A RoCE v2 RDMA WRITE to registered memory is translated as a write and performed at the memory side. -/
  | rdmaWrite (r : RdmaReq)
  /-- R496. A RoCE v2 RDMA READ of registered memory is translated as a read and answered. -/
  | rdmaRead (r : RdmaReq)
  /-- R311. A RoCE v2 SEND is received on a queue pair. -/
  | roceSend (r : RdmaReq)
  /-- R311. A received congestion notification halves a queue pair's rate, down to 1 Gb/s. -/
  | congestionNotification (qpn : Nat)
  /-- R311. Each 100 µs without a notification raises a queue pair's rate by 25 Gb/s. -/
  | rateRecovery (qpn : Nat)
  /-- R336. A group reaches a word whose major or minor opcode is unassigned, whose LEN does not fit its major, or which
  would straddle a fetch line, and ILLEGAL is raised before anything is performed. -/
  | unassignedEncoding
  /-- R297. Loss of supply ends all activity and state, clears READY, and leaves the device waiting for the next power-good. -/
  | powerLoss
  /-- R302. An Ethernet port's link to its partner drops and comes back through link training and auto-negotiation. -/
  | linkTraining (port : Nat)
  /-- R302. An ARP reply to the device's own next-hop resolution is received and resolves the IPv4 next hop. -/
  | arpReply (pkt : NetPkt)
  /-- R302. An IPv6 neighbour advertisement answering the device's own neighbour discovery is received and resolves the next
  hop. -/
  | neighbourAdvertisement (pkt : NetPkt)
  deriving DecidableEq, Repr

/-- The encoded form of an instruction: its subformat or class, its major or minor opcode and its fields
(15 R320, R325 to R330). -/
inductive Enc where
  | bz (major : BitVec 7) (o : BZ)
  | bb (major : BitVec 7) (o : BB)
  | br (major : BitVec 7) (o : BR)
  | bi (major : BitVec 7) (o : BI)
  | bu (major : BitVec 7) (o : BU)
  | bl (major : BitVec 7) (o : BL)
  | bc (major : BitVec 7) (o : BC)
  | xr (minor : BitVec 12) (o : XR)
  | xm (minor : BitVec 12) (o : XM)
  | xt (minor : BitVec 12) (o : XT)
  | xe (minor : BitVec 12) (o : XE)
  | xc (minor : BitVec 12) (o : XC)
  | xs (minor : BitVec 12) (o : XS)
  deriving DecidableEq, Repr

/-- Why a word is no instruction (15 R336). Each raises ILLEGAL. -/
inductive Reject where
  | noWords
  | lenMajor
  | major
  | reservedField
  | kind
  | literal
  | minor
  | operand
  deriving DecidableEq, Repr

end Sys2Proof
end

