-- ==== Sys2Proof/WellFormed.lean ====
section
/-! DEFINITION. What makes an instruction's fields legal whatever the state of the machine: the rules of
15_instruction_formats R318 to R330 and R336, and of each entry of the instruction reference. A word whose
fields break these rules raises ILLEGAL; `Decode` refuses it. Rules that need a register's value or a window
are checked by the meanings. -/

namespace Sys2Proof

/-- The kinds of an operand position (15 R323). -/
inductive Kind where
  | v | g | k | q | imm | lit | none
  deriving DecidableEq, Repr

/-- The kind of an operand. -/
def Opnd.kind : Opnd → Kind
  | .v _ => .v
  | .g _ => .g
  | .k _ => .k
  | .q _ => .q
  | .imm _ => .imm
  | .lit _ => .lit
  | .none => .none

/-- The field of an operand lies in the range of its kind (15 R323). -/
def Opnd.inRange : Opnd → Bool
  | .g n => n.toNat < 64
  | .k n => n.toNat < 8
  | .q n => n.toNat < 4
  | _ => true

/-- The literal an operand holds. -/
def Opnd.lit? : Opnd → Option Dword
  | .lit x => some x
  | _ => Option.none

/-- A literal that supplies a 32-bit operand has an upper half of zeros or of copies of bit 31 (15 R321). -/
def lit32ok (x : Dword) : Bool :=
  x.extractLsb' 32 32 == 0#32 || (x.msb && x.extractLsb' 31 33 == BitVec.allOnes 33)

/-- An operand whose literal, if it is one, follows 15 R321. -/
def Opnd.narrow (o : Opnd) : Bool :=
  match o with
  | .lit x => lit32ok x
  | _ => true

/-- An even v register, or no v register (15 R323, v pairs). -/
def Opnd.evenV : Opnd → Bool
  | .v n => n.toNat % 2 == 0
  | _ => true

/-- Operand positions hold at most one literal and in-range fields (15 R323). -/
def opndsOk (d a b c : Opnd) : Bool :=
  d.inRange && a.inRange && b.inRange && c.inRange &&
    ([d, a, b, c].filterMap Opnd.lit?).length ≤ 1 && d.kind != .lit && d.kind != .imm && d.kind != .q

/-- The kinds of the four positions are among those an entry accepts. -/
def kindsOk (dk ak bk ck : List Kind) (d a b c : Opnd) : Bool :=
  dk.contains d.kind && ak.contains a.kind && bk.contains b.kind && ck.contains c.kind && opndsOk d a b c

/-- Code 0b000 of GK with GN = 1 is illegal (15 R322). -/
def XGuard.ok (g : XGuard) : Bool := !(g.k == 0 && g.neg)

/-- How an entry of class XR uses the unsigned bit. -/
inductive URule where
  | no | yes | withSat
  deriving DecidableEq, Repr

/-- How an entry of class XR uses the CC field: not at all, as a condition, or freely. -/
inductive CcRule where
  | no | cond | any
  deriving DecidableEq, Repr

/-- What an entry of class XR accepts (15 R325). -/
structure XRule where
  dk : List Kind
  ak : List Kind
  bk : List Kind := [.none]
  ck : List Kind := [.none]
  var : List Nat := [0]
  rnd : Bool := false
  sat : Bool := false
  u : URule := .no
  cc : CcRule := .no
  fa : List Nat := [0]
  fb : List Nat := [0]
  bsel : Bool := false
  /-- a g destination takes g and immediate sources only (15 R324) -/
  gsrc : Bool := true
  /-- operand positions B and C hold 64-bit operands, whose literals are taken whole -/
  wideB : Bool := false
  wideC : Bool := false
  /-- operand A has 32 bits even beside a g destination, so a literal there follows 15 R321 -/
  thinA : Bool := false

/-- The kinds a general source takes (17 R348). -/
def srcKinds : List Kind := [.v, .g, .q, .imm, .lit]

/-- The kinds a 64-bit constant or g operand takes. -/
def gConst : List Kind := [.g, .imm, .lit]

def all16 : List Nat := List.range 16
def bfpCodes : List Nat := [2, 3, 4, 5, 6, 7, 8, 9, 10]

/-- A source that a g destination admits (15 R324). -/
def Opnd.gSource (o : Opnd) : Bool :=
  match o with
  | .v _ | .q _ | .k _ => false
  | _ => true

/-- The fields of an XR instruction are those its entry accepts. -/
def wfXR (r : XRule) (o : XR) : Bool :=
  o.gd.ok && kindsOk r.dk r.ak r.bk r.ck o.d o.a o.b o.c &&
  r.var.contains o.var.toNat &&
  (if r.rnd then o.rnd.toNat ≤ 5 else o.rnd == 0) &&
  (r.sat || !o.sat) &&
  (match r.u with
   | .no => !o.u
   | .yes => true
   | .withSat => !o.u || o.sat) &&
  (match r.cc with
   | .no => o.cc == 0
   | .cond => o.cc.toNat ≤ 5
   | .any => true) &&
  r.fa.contains o.fa.toNat && r.fb.contains o.fb.toNat && (r.bsel || o.bsel == 0) &&
  (match o.d with
   | .g _ => (!r.gsrc || (o.a.gSource && o.b.gSource && o.c.gSource)) && (!r.thinA || o.a.narrow)
   | _ => o.a.narrow && (r.wideB || o.b.narrow) && (r.wideC || o.c.narrow))

/-- Integer arithmetic of two sources (17 R348). -/
def rAlu2 : XRule := { dk := [.v, .g], ak := srcKinds, bk := srcKinds }
/-- Integer arithmetic of one source (17 R348). -/
def rAlu1 : XRule := { dk := [.v, .g], ak := srcKinds }
/-- Binary32 arithmetic of one, two and three sources (19 R394). -/
def rF1 : XRule := { dk := [.v], ak := srcKinds, rnd := true }
def rF2 : XRule := { rF1 with bk := srcKinds }
def rF3 : XRule := { rF2 with ck := srcKinds }
/-- Packed halves (20 R414). -/
def rH2 : XRule := { rF2 with fa := [11, 12] }
/-- SHFL (23 R459), by its mode's VAR. -/
def rShfl (var : Nat) : XRule :=
  { dk := [.v], ak := [.v, .g, .imm, .lit], bk := [.v, .g, .imm, .lit], ck := gConst, var := [var], wideC := true }
/-- VOTE (24 R478), by its form's VAR, destination kinds and threshold kinds. -/
def rVote (var : Nat) (dk ck : List Kind) : XRule :=
  { dk := dk, ak := .k :: srcKinds, bk := gConst, ck := ck, var := [var], gsrc := false, wideB := true, thinA := true }
/-- MATCH (21 R425), by its VAR. -/
def rMatch (var : Nat) (ck : List Kind) : XRule :=
  { dk := [.v], ak := srcKinds, bk := gConst, ck := ck, var := [var], wideB := true }
/-- GRED and GSCAN (20 R410). -/
def rScan (dk : List Kind) : XRule :=
  { dk := dk, ak := srcKinds, bk := gConst, var := all16, rnd := true, u := .yes, fa := [0, 1], gsrc := false,
    wideB := true, thinA := true }

/-- The op, format and modifier codes of GRED and GSCAN (20 R410). -/
def scanOk (o : XR) : Bool :=
  let op := o.var.toNat % 8
  op ≤ 5 && !(o.fa == 1 && (op == 1 || op == 2 || op == 3)) &&
  (!o.u || (o.fa == 0 && (op == 4 || op == 5))) && (o.rnd == 0 || (o.fa == 1 && op == 0))

/-- The formats, shapes and operands of FCVT (19 R398). -/
def fcvtOk (o : XR) : Bool :=
  let codes := [0, 1, 2, 11, 12, 13, 14]
  let narrow : Nat → Bool := fun c => 11 ≤ c && c ≤ 14
  let ta := o.fa.toNat
  let tb := o.fb.toNat
  codes.contains ta && codes.contains tb && ta != tb && !((ta == 0 || ta == 2) && (tb == 0 || tb == 2)) &&
  (!o.sat || ta == 13 || ta == 14) &&
  (if o.var == 0 then o.b.kind == .none
   else if narrow ta && tb == 1 then o.b.kind != .none
   else narrow tb && ta == 1 && o.b.kind == .none && o.d.evenV)

/-- The formats and byte-select of BCVT (17 R364; 05 R120). -/
def bcvtOk (o : XR) : Bool :=
  let m := if o.fa == 1 then o.fb.toNat else o.fa.toNat
  (o.fa == 1) != (o.fb == 1) && bfpCodes.contains m && (m != 2 || o.bsel == 0 || o.bsel == 2)

/-- MOVS selectors, and the widths a v destination takes (21 R433). -/
def movsOk (o : XR) : Bool :=
  match o.a, o.d with
  | .imm s, .v _ => s.toNat < 14 && s != 9 && s != 11 && s != 13
  | .imm s, _ => s.toNat < 14
  | _, _ => false

/-- A g destination of MOV takes g, v, immediate and literal sources (21 R432). -/
def movOk (o : XR) : Bool :=
  match o.d, o.a with
  | .g _, .q _ => false
  | _, _ => true

/-- REBAL's pair and its g pair (22 R444). -/
def rebalOk (o : XR) : Bool :=
  o.d.evenV && (match o.c with
    | .g n => n.toNat < 63
    | _ => false)

/-- Policy and residence (06 R137). -/
def polResOk (pol res : BitVec 2) : Bool := res != 3 && !(pol == 1 && res == 2)

/-- A base that names a v pair for a global access (15 R326). -/
def XBase.pairOk : XBase → Bool
  | .v n => n.toNat % 2 == 0
  | .g n => n.toNat < 64
  | .none => true
  | .q n => n.toNat < 4

/-- A base that names a single v offset for a scratchpad access (15 R326). -/
def XBase.offOk : XBase → Bool
  | .v _ => true
  | .g n => n.toNat < 64
  | .none => true
  | .q _ => false

def XBase.isStream : XBase → Bool
  | .q _ => true
  | _ => false

def XBase.isGNone : XBase → Bool
  | .g _ | .none => true
  | _ => false

/-- The data register fits the access size (15 R326). -/
def XData.fits (d : XData) (size : BitVec 3) : Bool :=
  match d with
  | .v n => if size == 3 then n.toNat % 2 == 0 else if size == 4 then n.toNat % 4 == 0 else size.toNat ≤ 4
  | .g n => n.toNat < 64 && size.toNat ≤ 3

def XData.isG : XData → Bool
  | .g _ => true
  | .v _ => false

/-- What every memory instruction of class XM keeps to. -/
def xmOk (o : XM) : Bool := o.gd.ok && polResOk o.pol o.res

/-- A g data register makes the access group-scope: base g or none, no index (20 R415; 23 R463). -/
def groupDataOk (o : XM) : Bool := !o.d.isG || (o.base.isGNone && o.idx.isNone)

/-- SX extends sizes 1 and 2, and 4 into a g register (20 R415). -/
def sxOk (o : XM) : Bool := !o.sx || o.size == 0 || o.size == 1 || (o.size == 2 && o.d.isG)

/-- The member index of LDX and STX: an immediate below 4, or a v register (15 R326). -/
def memberOk (o : XM) : Bool := o.mkb || o.c.toNat < 4

def XDisp.isZero : XDisp → Bool
  | .short x => x == 0
  | .lit _ => false

def ldOk (o : XM) : Bool :=
  xmOk o && o.base.pairOk && !o.base.isStream && o.d.fits o.size && groupDataOk o && sxOk o && !o.mkb && o.c == 0 &&
  (o.ord == 0 || (o.ord == 1 && o.pol != 1))

def ldsOk (o : XM) : Bool :=
  xmOk o && o.base.offOk && o.d.fits o.size && groupDataOk o && sxOk o && !o.mkb && o.c == 0 &&
  o.ord == 0 && o.pol == 0 && o.res == 0

def ldxOk (o : XM) : Bool :=
  xmOk o && o.base.offOk && o.d.fits o.size && !o.d.isG && sxOk o && memberOk o &&
  o.ord == 0 && o.pol == 0 && o.res == 0

def stOk (o : XM) : Bool :=
  xmOk o && o.base.pairOk && !o.sx && !o.mkb && o.c == 0 &&
  (if o.base.isStream then
     o.idx.isNone && o.scale == 0 && o.pol == 0 && o.res == 0 && o.ord == 0 && o.disp.isZero && o.size == 2 && !o.d.isG
   else o.d.fits o.size && groupDataOk o && (o.ord == 0 || (o.ord == 2 && o.pol != 1)))

def stsOk (o : XM) : Bool :=
  xmOk o && o.base.offOk && o.d.fits o.size && groupDataOk o && !o.sx && !o.mkb && o.c == 0 &&
  o.ord == 0 && o.pol == 0 && o.res == 0

def stxOk (o : XM) : Bool :=
  xmOk o && o.base.offOk && o.d.fits o.size && groupDataOk o && !o.sx && memberOk o &&
  o.ord == 0 && o.pol == 0 && o.res == 0

/-- LEA (20 R419). -/
def leaOk (o : XM) : Bool :=
  xmOk o && o.base.pairOk && !o.base.isStream && o.c == 0 && !o.sx && !o.mkb && o.size == 0 && o.ord == 0 &&
  o.pol == 0 && o.res == 0 && (match o.d with
    | .v n => n.toNat % 2 == 0
    | .g n => n.toNat < 64)

/-- PREF (22 R438). -/
def prefOk (o : XM) : Bool :=
  xmOk o && o.base.pairOk && !o.base.isStream && o.c == 0 && !o.sx && !o.mkb && o.size == 0 && o.ord == 0 &&
  o.pol != 3 && o.d == .v 0

/-- CACHE, by its op code in C (18 R373). -/
def cacheOk (op : BitVec 8) (o : XM) : Bool :=
  xmOk o && o.base.pairOk && !o.base.isStream && o.base != .none && o.c == op && !o.sx && !o.mkb && o.size == 0 &&
  o.ord == 0 && o.pol == 0 && o.res == 0 && o.d == .v 0

/-- FENCE, by its ORD (15 R333; 19 R402). -/
def fenceOk (ord : BitVec 2) (o : XM) : Bool :=
  o.gd.ok && o.d == .v 0 && o.base == .v 0 && o.idx.isNone && o.c == 0 && !o.sx && !o.mkb && o.scale == 0 &&
  o.pol == 0 && o.res == 0 && o.size == 0 && o.disp.isZero && o.ord == ord

/-- The operand limits ATOM and ATOMS share (17 R358). -/
def atomShape (cas fadd : Bool) (o : XM) : Bool :=
  (o.size == 2 || (o.size == 3 && !fadd)) && !o.sx && !o.mkb && o.d.fits o.size && groupDataOk o &&
  (if cas then
     (if o.d.isG then o.c.toNat < 64 else o.size == 2 || o.c.toNat % 2 == 0)
   else o.c == 0)

def atomOk (cas fadd : Bool) (o : XM) : Bool :=
  xmOk o && o.pol != 1 && o.base.pairOk && !o.base.isStream && atomShape cas fadd o

def atomsOk (cas fadd : Bool) (o : XM) : Bool :=
  xmOk o && o.pol == 0 && o.res == 0 && o.base.offOk && atomShape cas fadd o

/-- What class XT keeps to: kinds and the fields an entry names. -/
def xtOk (dk ak ck : List Kind) (tn slot cnt srcs polres : Bool) (o : XT) : Bool :=
  o.gd.ok && kindsOk dk ak [.none] ck o.d o.a o.b o.c && (tn || o.tn == 0) && (slot || o.slot == 0) &&
  (cnt || o.cnt == 0) && (srcs || !o.srcs) && (if polres then polResOk o.pol o.res else o.pol == 0 && o.res == 0)

/-- What class XE keeps to: kinds and the fields an entry names. -/
def xeOk (dk ak bk ck : List Kind) (polres dirm mode tryb abe mask n6 : Bool) (o : XE) : Bool :=
  o.gd.ok && kindsOk dk ak bk ck o.d o.a o.b o.c &&
  (if polres then polResOk o.pol o.res else o.pol == 0 && o.res == 0) && (dirm || o.dirm == 0) &&
  (mode || o.mode == 0) && (tryb || !o.tryb) && (abe || !o.abe) && (mask || o.mask == 0) && (n6 || o.n6 == 0)

/-- COPY, GATHER and SCATTER name no barrier when their destination is global (09 R189). -/
def abeDirOk (o : XE) : Bool := !o.abe || o.dirm == 1 || o.dirm == 3

/-- The kinds C takes when it names a barrier, and the g registers of GATHER and SCATTER (20 R403). -/
def rowsOk (o : XE) : Bool :=
  abeDirOk o && o.n6 != 63 && (if o.abe then o.c.kind != .none else o.c.kind == .none) && o.b.evenV &&
  (match o.a with
   | .g n => n.toNat < 63
   | _ => false)

/-- MCAST's direction, mask, policy and residence (21 R426). -/
def mcastOk (o : XE) : Bool :=
  (o.dirm == 1 || o.dirm == 3) && o.mask != 0 && (o.dirm == 1 || (o.pol == 0 && o.res == 0))

/-- What class XC keeps to, by the targets its entry lists (15 R329). -/
def xcOk (rel reg lit : Bool) (o : XC) : Bool :=
  o.gd.ok && (match o.tgt with
    | .rel _ => rel
    | .reg n => reg && n.toNat < 64
    | .lit _ => lit)

/-- A class XC instruction without a target (15 R329). -/
def xcNone (o : XC) : Bool := o.gd.ok && o.tgt == .rel 0

/-- What class XS keeps to: kinds, and IMM20 below a bound. -/
def xsOk (dk ak bk : List Kind) (bound : Nat) (o : XS) : Bool :=
  o.gd.ok && kindsOk dk ak bk [.none] o.d o.a o.b o.c && o.imm.toNat < bound

/-- SETC, by its selector (23 R456). -/
def setcOk (sel : Nat) (o : XS) : Bool := xsOk [.none] gConst [.none] 64 o && o.imm.toNat == sel

/-- The value an immediate or literal SETC writes. -/
def XS.written (o : XS) : Option Dword :=
  match o.a with
  | .imm x => some (x.setWidth 64)
  | .lit x => some x
  | _ => none

/-- A literal in place of B follows 15 R321. -/
def BOp.ok : BOp → Bool
  | .reg _ => true
  | .lit x => lit32ok x

/-- The ACT field of a value written to MXSTAT (10 R237). -/
def actOf (x : Dword) : Nat := bits x.toNat 4 2

/-- The fields of an instruction are legal in every state. Steps that no word encodes are well-formed. -/
def Instr.wf : Instr → Bool
  | .nop _ | .yield _ | .exit _ | .ret _ | .bra _ | .bru _ | .call _ => true
  | .add o | .sub o | .mul o | .mulh o | .mad o | .and o | .or o | .xor o | .andn o | .min o | .max o => o.b.ok
  | .fadd o | .fsub o | .fmul o | .fmin o | .fmax o | .fma o | .hadd2 o | .hmul2 o | .hfma2 o => o.b.ok
  | .shl _ | .shr _ | .rol _ | .ld _ | .st _ | .lds _ | .sts _ => true
  | .mov _ | .fsqrt _ | .frcp _ | .frsq _ | .fexp2 _ | .flog2 _ | .abs _ | .neg _ | .clz _ | .popc _ | .brev _ => true
  | .li o => (match o.imm with
    | .short _ => true
    | .lit x => lit32ok x)
  | .cmp o | .fcmp o => o.cc.toNat ≤ 5 && o.b.ok
  | .nopX o | .yieldX o | .exitX o | .retX o => xcNone o
  | .braX o => xcOk true false true o
  | .bruX o => xcOk true true true o
  | .callX o => xcOk true true true o
  | .callr o => o.gd.ok && (match o.tgt with
    | .reg n => n.toNat % 2 == 0
    | _ => false)
  | .addX o | .subX o | .mulX o => wfXR { rAlu2 with sat := true, u := .withSat } o
  | .mulhX o | .minX o | .maxX o => wfXR { rAlu2 with u := .yes } o
  | .madX o => wfXR { rAlu2 with ck := srcKinds, sat := true, u := .withSat } o
  | .andX o | .orX o | .xorX o | .andnX o | .shlX o | .rolX o => wfXR rAlu2 o
  | .shrX o => wfXR { rAlu2 with var := [0, 1] } o
  | .movX o => wfXR { rAlu1 with gsrc := false } o && movOk o
  | .liX o => wfXR { rAlu1 with ak := [.imm, .lit] } o
  | .cmpX o => wfXR { rAlu2 with dk := [.k], u := .yes, cc := .cond } o
  | .faddX o | .fsubX o | .fmulX o | .fdiv o => wfXR rF2 o
  | .fminX o | .fmaxX o => wfXR { rF2 with rnd := false } o
  | .fmaX o => wfXR rF3 o
  | .fsqrtX o | .frnd o | .frcpX o | .frsqX o | .fexp2X o | .flog2X o | .fsin o | .fcos o => wfXR rF1 o
  | .hadd2X o | .hmul2X o => wfXR rH2 o
  | .hfma2X o => wfXR { rH2 with ck := srcKinds } o
  | .fcmpX o => wfXR { rF2 with dk := [.k], rnd := false, cc := .cond } o
  | .fclass o => wfXR { rF1 with rnd := false, fa := [1, 11, 12, 13, 14] } o
  | .fcvt o =>
    wfXR { rF1 with bk := .none :: srcKinds, var := [0, 1], sat := true, fa := all16, fb := all16 } o && fcvtOk o
  | .absX o | .negX o => wfXR { rAlu1 with sat := true } o
  | .clzX o | .popcX o | .brevX o => wfXR rAlu1 o
  | .div o | .rem o => wfXR { rAlu2 with u := .yes } o
  | .bfx o => wfXR { rAlu1 with ak := [.v, .g, .imm, .lit], ck := [.v, .g, .imm, .lit], u := .yes } o
  | .bfi o =>
    wfXR { rAlu1 with ak := [.v, .g, .imm, .lit], bk := [.v, .g, .imm, .lit], ck := [.v, .g, .imm, .lit] } o
  | .sel o => wfXR { rAlu2 with dk := [.v], ck := [.k] } o
  | .plop o =>
    let any := [Kind.v, .g, .k, .q, .imm, .lit, .none]
    wfXR { dk := [.k, .v], ak := any, bk := any, ck := any, fa := all16, fb := all16 } o
  | .movs o => wfXR { dk := [.v, .g], ak := [.imm] } o && movsOk o
  | .bcvt o =>  -- any RND is legal, and ignored (17 R364)
    wfXR { dk := [.v], ak := [.v], bk := [.v], fa := all16, fb := all16, bsel := true } { o with rnd := 0 } && bcvtOk o
  | .bdot o =>
    wfXR { dk := [.v], ak := [.v], bk := [.v], ck := gConst, var := [0, 1], rnd := true, fa := bfpCodes,
           fb := bfpCodes } o
  | .shflIdx o => wfXR (rShfl 0) o
  | .shflUp o => wfXR (rShfl 1) o
  | .shflDown o => wfXR (rShfl 2) o
  | .shflXor o => wfXR (rShfl 3) o
  | .voteMask o => wfXR (rVote 0 [.v, .g] [.none]) o && o.d.evenV
  | .voteCount o => wfXR (rVote 1 [.v, .g] [.none]) o
  | .voteQuorum o => wfXR (rVote 2 [.k] gConst) o
  | .voteSplit o => wfXR (rVote 3 [.k] [.none]) o
  | .gred o => wfXR (rScan [.v, .g]) o && scanOk o
  | .gscan o => wfXR (rScan [.v]) o && scanOk o
  | .matchAny o => wfXR (rMatch 0 [.none]) o && o.d.evenV
  | .matchAll o => wfXR (rMatch 1 [.none, .k]) o && o.d.evenV
  | .rebal o =>
    wfXR { dk := [.v], ak := [.v, .q], bk := gConst, ck := [.g], cc := .any, wideB := true } o && rebalOk o
  | .topk o =>
    wfXR { dk := [.g], ak := [.v], bk := [.v], ck := [.g, .lit], var := [0, 1], fa := all16, fb := all16,
           gsrc := false } o
  | .ldX o => ldOk o
  | .stX o => stOk o
  | .ldsX o => ldsOk o
  | .stsX o => stsOk o
  | .ldx o => ldxOk o
  | .stx o => stxOk o
  | .lea o => leaOk o
  | .pref o => prefOk o
  | .cacheWb o => cacheOk 0 o
  | .cacheInv o => cacheOk 1 o
  | .cacheClel o => cacheOk 2 o
  | .fenceAcq o => fenceOk 1 o
  | .fenceRel o => fenceOk 2 o
  | .fenceAr o => fenceOk 3 o
  | .atomAdd o | .atomAnd o | .atomOr o | .atomXor o | .atomMin o | .atomMax o | .atomUmin o | .atomUmax o
  | .atomExch o => atomOk false false o
  | .atomCas o => atomOk true false o
  | .atomFadd o => atomOk false true o
  | .atomsAdd o | .atomsAnd o | .atomsOr o | .atomsXor o | .atomsMin o | .atomsMax o | .atomsUmin o | .atomsUmax o
  | .atomsExch o => atomsOk false false o
  | .atomsCas o => atomsOk true false o
  | .atomsFadd o => atomsOk false true o
  | .tdef o => xtOk [.none] [.g, .lit] [.none] true false false false false o
  | .tcopy o =>
    xtOk [.g] [.g, .lit] [.g] true false false true true o && (!o.srcs || (o.pol == 0 && o.res == 0))
  | .tfree o => xtOk [.none] [.none] [.none] true false false false false o
  | .tstat o => xtOk [.g] [.none] [.none] true false false false false o
  | .unfset o => xtOk [.none] [.g, .lit] [.none] false true false false false o && o.slot.toNat < 4
  | .mloop o | .mma o => xtOk [.g] [.g, .lit] [.none] false false false false false o
  | .dload o => xtOk [.none] [.g, .lit] [.none] false true true false false o && o.cnt.toNat ≤ 32
  | .aalloc o => xtOk [.g] gConst [.none] false false false false false o
  | .afree o => xtOk [.none] [.g, .lit] [.none] false false false false false o
  | .copy o => xeOk [.g] [.g, .lit] [.g, .lit] [.g] true true false false true false false o && abeDirOk o
  | .gather o => xeOk [.g] [.g] [.v] (.none :: gConst) true true false false true false true o && rowsOk o
  | .scatter o =>
    xeOk [.g] [.g] [.v] (.none :: gConst) true true true false true false true o && rowsOk o && o.mode != 3
  | .mcast o => xeOk [.g] [.g, .lit] [.g, .lit] [.g] true true false false true true false o && mcastOk o
  | .cseal o => xeOk [.none] [.none] [.none] [.none] false false false false false false false o
  | .enq o => xeOk [.v] [.g, .lit] [.none] [.none] false false false false false false true o
  | .enqTry o => xeOk [.v] [.g, .lit] [.g] [.k] false false false true false false true o && o.tryb
  | .deq o => xeOk [.v] [.g, .lit] [.none] [.none] false false false false false false true o
  | .deqTry o => xeOk [.v] [.g, .lit] [.g] [.k] false false false true false false true o && o.tryb
  | .qinit o => xeOk [.g] [.g, .lit] [.g, .lit] [.g, .imm] false false false false false false true o
  | .qstat o =>
    xeOk [.g] [.g, .lit] [.none] [.none] false false false false false false false o &&
    (match o.d with
     | .g n => n.toNat ≤ 56
     | _ => false)
  | .chsend o => xeOk [.none] [.v] [.imm] [.none] false false false false false false true o && chanOk o
  | .chrecv o => xeOk [.v] [.none] [.imm] [.none] false false false false false false true o && chanOk o
  | .spawn o => xeOk [.g] [.g, .lit] gConst [.none] false false false false false false false o
  | .abinit o => xeOk [.none] [.g, .lit] gConst [.none] false false false false false false false o
  | .sdef o => xeOk [.none] [.g, .lit] [.v] gConst false false false false false false true o && o.n6.toNat < 4
  | .sstop o => xeOk [.none] [.none] [.none] [.none] false false false false false false true o && o.n6.toNat < 4
  | .tlread o => xeOk [.g] [.none] [.none] [.none] false false false false false false true o && o.n6.toNat < 2
  | .bar o => xsOk [.none] [.none] [.none] 1 o
  | .gbar o => xsOk [.none] [.none] [.none] 1 o
  | .gbarEnter o => xsOk [.v] [.none] [.none] 2 o && o.imm == 1
  | .gbarLeave o => xsOk [.none] [.v] [.none] 3 o && o.imm == 2
  | .abwait o => xsOk [.none] [.g, .lit] [.none] 128 o
  | .wait o => xsOk [.none] [.imm] [.none] (2 ^ 18) o && (match o.a with
    | .imm t => t.toNat < 64
    | _ => false)
  | .tlwait o => xsOk [.none] gConst [.none] 2 o
  | .cwait o => xsOk [.none] [.none] [.none] 16 o
  | .getc o => xsOk [.g] [.none] [.none] 12 o
  | .setcFpctl o => setcOk 0 o
  | .setcFpflags o => setcOk 1 o
  | .setcBfflags o => setcOk 2 o
  | .setcIssuepol o => setcOk 3 o
  | .setcTrapvec o => setcOk 4 o
  | .setcFaultq o => setcOk 5 o
  | .setcLkstat o => setcOk 6 o
  | .setcStatclr o => setcOk 7 o
  | .cpstatClearErr o => setcOk 8 o && !cpstatDropOnly o
  | .cpstatClearDrop o => setcOk 8 o && cpstatDropOnly o
  | .setcMxstat o => setcOk 9 o && mxstatAct o == 0
  | .mxstatResume o => setcOk 9 o && mxstatAct o == 1
  | .mxstatResumeIgnoring o => setcOk 9 o && mxstatAct o == 2
  | .mxstatAbandon o => setcOk 9 o && mxstatAct o == 4
  | .setcTrapinfo o => setcOk 10 o
  | .setcTrapva o => setcOk 11 o
  | .setw o => xsOk [.g] [.none] [.none] 256 o
  | .reord o => xsOk [.none] [.v] [.v] 32 o
  | .svc o => xsOk [.none] [.none] [.none] 128 o
  | .resolve o => xsOk [.none] [.none] [.none] 256 o && o.imm.toNat == 0x80
  | .xlinv o => xsOk [.none] [.none] [.none] 256 o && o.imm.toNat == 0x81
  | .resume o => xsOk [.none] [.none] [.none] 256 o && o.imm.toNat == 0x82
  | .trap o => xsOk [.none] [.none] [.none] 65536 o
  | .locki o => xsOk [.g] [.g, .lit] [.none] 513 o && o.imm.toNat ≥ 1
  | .unlocki o => xsOk [.none] [.g, .lit] [.none] 513 o && o.imm.toNat ≥ 1
  | _ => true
where
  /-- CHSEND and CHRECV: a slot of at least 16 bytes and a channel id below 64 (18 R378). -/
  chanOk (o : XE) : Bool :=
    3 ≤ o.n6.toNat && (match o.b with
      | .imm x => x.toNat < 64
      | _ => false)
  /-- A constant that clears DROP and not ERR (log 6). -/
  cpstatDropOnly (o : XS) : Bool :=
    match o.written with
    | some x => !bit x.toNat 0 && bit x.toNat 16
    | none => false
  /-- The action that a constant written to MXSTAT names; 0 for a register source (log 6). -/
  mxstatAct (o : XS) : Nat :=
    match o.written with
    | some x => if actOf x == 1 || actOf x == 2 || actOf x == 4 then actOf x else 0
    | none => 0

/-- Steps that no instruction word encodes. -/
def Instr.isStep : Instr → Bool
  | .ageingLift _ | .spinDemotion _ _ | .spinDemotionEnd _ _ | .resultWriteback _ | .ownershipRegistration _
  | .registrationAck _ | .ownerWriteBack _ _ | .ownerReadForward _ | .ownershipWithdrawal _ | .readCombineReply _
  | .pageWalk _ _ _ _ | .faultRecordEnqueue _ | .codePageHashCheck _ _ _ | .enqAtHome _ | .deqAtHome _
  | .elementPublication _ | .waiterEviction _ | .queueReply _ | .channelLanding _ | .channelCreditReturn _
  | .stxLanding _ | .copyLanding _ _ | .barrierArrival _ _ | .copyCompletion _ | .copyFault _ | .copyErrorState _ _
  | .streamPrefetch _ _ | .matrixAccept _ | .kStep _ | .drainBlockCommit _ | .matrixCompletion _ | .matrixStop _ _
  | .reordDeal _ | .dispatchTake _ | .teamStart _ | .teamCompletion _ | .launchCompletion _ | .completionReport _
  | .graphStart _ | .launchNodeActivation _ _ | .joinActivation _ _ | .conditionalActivation _ _
  | .whileActivation _ _ | .stopRequest _ | .stopCompletion _ | .contextRestore _ _ | .powerGood
  | .selfCalibration _ _ | .builtInSelfTest _ _ | .memoryInitialisation _ | .firmwareVerify _
  | .configurationApply _ | .thermalStateChange _ _ | .healthEstimate _ | .arpRequest _ | .neighbourSolicitation _
  | .icmpEchoRequest _ | .routerAdvertisement _ | .pfcPauseFrame _ | .status _ | .attest _ | .attach _ | .peer _
  | .ctxcreate _ | .ctxend _ | .bindq _ | .install _ | .save _ | .restore _ | .mreg _ | .qpopen _ | .epset _
  | .health _ | .pcap _ | .brk _ | .remoteEnqueue _ | .heldFrameExecute _ _ | .rdmaWrite _ | .rdmaRead _
  | .roceSend _ | .congestionNotification _ | .rateRecovery _ | .unassignedEncoding | .powerLoss | .linkTraining _
  | .arpReply _ | .neighbourAdvertisement _ => true
  | _ => false

end Sys2Proof
end

