-- ==== Sys2Proof/Decode.lean ====
section
/-! DEFINITION. Decoding of instruction words (15_instruction_formats) and, after it, the encoder written from the
same tables. Decoding is total: every list of words is an instruction or is rejected by name, and each rejection is
the ILLEGAL of 15 R336. -/

namespace Sys2Proof

/-- Field of `n` bits whose lowest bit is `lo` (00 R2). -/
def fld (w : Word) (lo n : Nat) : BitVec n := BitVec.ofNat n (w.toNat / 2 ^ lo)

/-- A literal from its low and high words (15 R318). -/
def litOf (lo hi : Word) : Dword := BitVec.ofNat 64 (lo.toNat + hi.toNat * 2 ^ 32)

/-- The number of words that LEN gives (15 R318). -/
def lenWords (w : Word) : Nat :=
  match (fld w 0 2).toNat with
  | 0 => 1
  | 1 => 3
  | 2 => 3
  | _ => 5

/-- HINT (15 R318; 04 R87). -/
def hintOf (w : Word) : Hint := ⟨fld w 2 2, fld w 4 1 == 1⟩

/-- GUARD of a base word (15 R319). -/
def bguardOf (w : Word) : BGuard :=
  match (fld w 12 2).toNat with
  | 0 => .always
  | 1 => .k1
  | 2 => .k2
  | _ => .notK1

/-- The guard of an extended instruction (15 R322). -/
def xguardOf (w : Word) : XGuard := ⟨fld w 12 3, fld w 15 1 == 1⟩

/-- The B operand of subformats BR, BA and BC (15 R320). -/
def bopOf (w : Word) (lit : Option Dword) : Except Reject BOp :=
  match lit with
  | some x => if fld w 26 6 == 0 then .ok (.lit x) else .error .reservedField
  | none => .ok (.reg (fld w 26 6))

/-- The subformats of the base form (15 R320). -/
inductive Sub where
  | bz | bb | br | bi | bu | bl | bc
  deriving DecidableEq, Repr

/-- A base word, with its literal where LEN gives one (15 R320, R331). -/
def parseBase (w : Word) (lit : Option Dword) : Except Reject Enc :=
  let m := fld w 5 7
  let g := bguardOf w
  let h := hintOf w
  match subOf m with
  | some .bz =>
    if lit.isSome then .error .literal
    else if fld w 14 18 == 0 then .ok (.bz m ⟨g, h⟩) else .error .reservedField
  | some .bb => if lit.isSome then .error .literal else .ok (.bb m ⟨g, h, fld w 14 18⟩)
  | some .br =>
    match bopOf w lit with
    | .ok b => .ok (.br m ⟨g, h, fld w 14 6, fld w 20 6, b⟩)
    | .error e => .error e
  | some .bi => if lit.isSome then .error .literal else .ok (.bi m ⟨g, h, fld w 14 6, fld w 20 6, fld w 26 6⟩)
  | some .bu =>
    if lit.isSome then .error .literal
    else if fld w 26 6 == 0 then .ok (.bu m ⟨g, h, fld w 14 6, fld w 20 6⟩) else .error .reservedField
  | some .bl =>
    match lit with
    | some x => if fld w 20 12 == 0 then .ok (.bl m ⟨g, h, fld w 14 6, .lit x⟩) else .error .reservedField
    | none => .ok (.bl m ⟨g, h, fld w 14 6, .short (fld w 20 12)⟩)
  | some .bc =>
    match bopOf w lit with
    | .ok b => .ok (.bc m ⟨g, h, fld w 14 3, fld w 17 3, fld w 20 6, b⟩)
    | .error e => .error e
  | none => .error .major
where
  /-- The subformat of each base major (15 R331): its number. -/
  subOf (m : BitVec 7) : Option Sub :=
    let n := m.toNat
    if 1 ≤ n ∧ n ≤ 4 then some .bz
    else if 5 ≤ n ∧ n ≤ 7 then some .bb
    else if 0x10 ≤ n ∧ n ≤ 0x19 then some .br
    else if 0x1A ≤ n ∧ n ≤ 0x1C then some .bi
    else if n = 0x1D then some .bu
    else if n = 0x1E then some .bl
    else if n = 0x1F then some .bc
    else if 0x20 ≤ n ∧ n ≤ 0x26 then some .br
    else if n = 0x27 then some .bc
    else if 0x28 ≤ n ∧ n ≤ 0x2A then some .br
    else if 0x30 ≤ n ∧ n ≤ 0x33 then some .bi
    else if 0x40 ≤ n ∧ n ≤ 0x49 then some .bu
    else none

/-- The operand a kind and a field name (15 R323). -/
def opndOf (kind : BitVec 3) (f : BitVec 8) (lit : Option Dword) : Except Reject Opnd :=
  match kind.toNat, lit with
  | 0, _ => .ok (.v f)
  | 1, _ => .ok (.g f)
  | 2, _ => .ok (.k f)
  | 3, _ => .ok (.q f)
  | 4, _ => .ok (.imm f)
  | 5, some x => if f == 0 then .ok (.lit x) else .error .reservedField
  | 6, _ => if f == 0 then .ok .none else .error .reservedField
  | _, _ => .error .kind

/-- The four operands of classes XR, XT, XE and XS, D, A, B and C (15 R323). LEN = 0b11 asks for one literal. -/
def opndsOf (w0 w1 w2 : Word) (lit : Option Dword) : Except Reject (Opnd × Opnd × Opnd × Opnd) :=
  match opndOf (fld w2 0 3) (fld w0 16 8) lit, opndOf (fld w2 3 3) (fld w0 24 8) lit,
      opndOf (fld w2 6 3) (fld w1 12 8) lit, opndOf (fld w2 9 3) (fld w1 20 8) lit with
  | .ok d, .ok a, .ok b, .ok c =>
    if lit.isSome && ([d, a, b, c].filterMap Opnd.lit?).length != 1 then .error .literal else .ok (d, a, b, c)
  | .error e, _, _, _ => .error e
  | _, .error e, _, _ => .error e
  | _, _, .error e, _ => .error e
  | _, _, _, .error e => .error e

/-- Class XR (15 R325). -/
def parseXR (w0 w1 w2 : Word) (lit : Option Dword) : Except Reject Enc :=
  if fld w2 30 2 != 0 then .error .reservedField
  else
    match opndsOf w0 w1 w2 lit with
    | .ok (d, a, b, c) =>
      .ok (.xr (fld w1 0 12)
        ⟨xguardOf w0, hintOf w0, fld w1 28 4, d, a, b, c, fld w2 12 3, fld w2 15 1 == 1, fld w2 16 1 == 1,
          fld w2 17 3, fld w2 20 4, fld w2 24 4, fld w2 28 2⟩)
    | .error e => .error e

/-- The data register of class XM (15 R326). -/
def xdataOf (w0 w2 : Word) : Except Reject XData :=
  match (fld w2 0 2).toNat with
  | 0 => .ok (.v (fld w0 16 8))
  | 1 => .ok (.g (fld w0 16 8))
  | _ => .error .kind

/-- The base of class XM (15 R326). -/
def xbaseOf (w0 w2 : Word) : Except Reject XBase :=
  match (fld w2 2 2).toNat with
  | 0 => .ok (.v (fld w0 24 8))
  | 1 => .ok (.g (fld w0 24 8))
  | 2 => if fld w0 24 8 == 0 then .ok .none else .error .reservedField
  | _ => .ok (.q (fld w0 24 8))

/-- The index of class XM (15 R326). -/
def xidxOf (w1 w2 : Word) : Except Reject (Option (BitVec 8)) :=
  if fld w2 4 1 == 1 then .ok (some (fld w1 12 8))
  else if fld w1 12 8 == 0 then .ok none else .error .reservedField

/-- The displacement of class XM (15 R326). -/
def xdispOf (w2 : Word) (lit : Option Dword) : Except Reject XDisp :=
  match lit with
  | some x => if fld w2 16 16 == 0 then .ok (.lit x) else .error .reservedField
  | none => .ok (.short (fld w2 16 16))

/-- Class XM (15 R326). -/
def parseXM (w0 w1 w2 : Word) (lit : Option Dword) : Except Reject Enc :=
  if fld w1 30 2 != 0 then .error .reservedField
  else
    match xdataOf w0 w2, xbaseOf w0 w2, xidxOf w1 w2, xdispOf w2 lit with
    | .ok d, .ok b, .ok i, .ok p =>
      .ok (.xm (fld w1 0 12)
        ⟨xguardOf w0, hintOf w0, d, b, i, fld w1 20 8, fld w1 28 1 == 1, fld w1 29 1 == 1, fld w2 5 2, fld w2 7 2,
          fld w2 9 2, fld w2 11 2, fld w2 13 3, p⟩)
    | .error e, _, _, _ => .error e
    | _, .error e, _, _ => .error e
    | _, _, .error e, _ => .error e
    | _, _, _, .error e => .error e

/-- Class XT (15 R327). -/
def parseXT (w0 w1 w2 : Word) (lit : Option Dword) : Except Reject Enc :=
  if fld w2 30 2 != 0 then .error .reservedField
  else
    match opndsOf w0 w1 w2 lit with
    | .ok (d, a, b, c) =>
      .ok (.xt (fld w1 0 12)
        ⟨xguardOf w0, hintOf w0, fld w1 28 2, fld w1 30 2, d, a, b, c, fld w2 12 5, fld w2 17 6, fld w2 23 6,
          fld w2 29 1 == 1⟩)
    | .error e => .error e

/-- Class XE (15 R328). -/
def parseXE (w0 w1 w2 : Word) (lit : Option Dword) : Except Reject Enc :=
  if fld w2 28 4 != 0 then .error .reservedField
  else
    match opndsOf w0 w1 w2 lit with
    | .ok (d, a, b, c) =>
      .ok (.xe (fld w1 0 12)
        ⟨xguardOf w0, hintOf w0, fld w1 28 2, fld w1 30 2, d, a, b, c, fld w2 12 2, fld w2 14 2, fld w2 16 1 == 1,
          fld w2 17 1 == 1, fld w2 18 4, fld w2 22 6⟩)
    | .error e => .error e

/-- The target of class XC (15 R329). -/
def xtargetOf (w0 w1 w2 : Word) (lit : Option Dword) : Except Reject XTarget :=
  match (fld w1 28 2).toNat, lit with
  | 0, none => if fld w0 24 8 == 0 then .ok (.rel w2) else .error .reservedField
  | 1, none => if w2 == 0 then .ok (.reg (fld w0 24 8)) else .error .reservedField
  | 2, some x => if fld w0 24 8 == 0 && w2 == 0 then .ok (.lit x) else .error .reservedField
  | 2, none => .error .literal
  | 3, _ => .error .kind
  | _, _ => .error .literal

/-- Class XC (15 R329). -/
def parseXC (w0 w1 w2 : Word) (lit : Option Dword) : Except Reject Enc :=
  if fld w1 30 2 != 0 || fld w1 12 16 != 0 || fld w0 16 8 != 0 then .error .reservedField
  else
    match xtargetOf w0 w1 w2 lit with
    | .ok t => .ok (.xc (fld w1 0 12) ⟨xguardOf w0, hintOf w0, t⟩)
    | .error e => .error e

/-- Class XS (15 R330). -/
def parseXS (w0 w1 w2 : Word) (lit : Option Dword) : Except Reject Enc :=
  if fld w1 28 4 != 0 then .error .reservedField
  else
    match opndsOf w0 w1 w2 lit with
    | .ok (d, a, b, c) => .ok (.xs (fld w1 0 12) ⟨xguardOf w0, hintOf w0, d, a, b, c, fld w2 12 20⟩)
    | .error e => .error e

/-- The class of an extended major (15 R331). -/
def parseExt (w0 w1 w2 : Word) (lit : Option Dword) : Except Reject Enc :=
  match (fld w0 5 7).toNat with
  | 0x70 => parseXR w0 w1 w2 lit
  | 0x71 => parseXM w0 w1 w2 lit
  | 0x72 => parseXT w0 w1 w2 lit
  | 0x73 => parseXC w0 w1 w2 lit
  | 0x74 => parseXE w0 w1 w2 lit
  | 0x75 => parseXS w0 w1 w2 lit
  | _ => .error .major

/-- A base major, allowed by LEN 0b00 and 0b01, is below 0x70 (15 R318). -/
def isBaseMajor (w : Word) : Bool := (fld w 5 7).toNat < 0x70

/-- The encoded form that the words at a position hold, and its length in words (15 R318). -/
def parse (ws : List Word) : Except Reject (Enc × Nat) :=
  match ws with
  | [] => .error .noWords
  | w0 :: rest =>
    match (fld w0 0 2).toNat, isBaseMajor w0, rest with
    | 0, true, _ => (parseBase w0 none).map (·, 1)
    | 1, true, lo :: hi :: _ => (parseBase w0 (some (litOf lo hi))).map (·, 3)
    | 2, false, w1 :: w2 :: _ => (parseExt w0 w1 w2 none).map (·, 3)
    | 3, false, w1 :: w2 :: lo :: hi :: _ => (parseExt w0 w1 w2 (some (litOf lo hi))).map (·, 5)
    | 0, false, _ => .error .lenMajor
    | 1, false, _ => .error .lenMajor
    | 2, true, _ => .error .lenMajor
    | 3, true, _ => .error .lenMajor
    | _, _, _ => .error .noWords

/-- The base majors of subformat BZ (15 R331). -/
def ofBZ (m : Nat) (o : BZ) : Option Instr :=
  match m with
  | 0x1 => some (.nop o)
  | 0x2 => some (.yield o)
  | 0x3 => some (.exit o)
  | 0x4 => some (.ret o)
  | _ => none

/-- The base majors of subformat BB (15 R331). -/
def ofBB (m : Nat) (o : BB) : Option Instr :=
  match m with
  | 0x5 => some (.bra o)
  | 0x6 => some (.bru o)
  | 0x7 => some (.call o)
  | _ => none

/-- The base majors of subformat BR and BA (15 R331). -/
def ofBR (m : Nat) (o : BR) : Option Instr :=
  match m with
  | 0x10 => some (.add o)
  | 0x11 => some (.sub o)
  | 0x12 => some (.mul o)
  | 0x13 => some (.mulh o)
  | 0x14 => some (.and o)
  | 0x15 => some (.or o)
  | 0x16 => some (.xor o)
  | 0x17 => some (.andn o)
  | 0x18 => some (.min o)
  | 0x19 => some (.max o)
  | 0x20 => some (.fadd o)
  | 0x21 => some (.fsub o)
  | 0x22 => some (.fmul o)
  | 0x23 => some (.fmin o)
  | 0x24 => some (.fmax o)
  | 0x25 => some (.hadd2 o)
  | 0x26 => some (.hmul2 o)
  | 0x28 => some (.fma o)
  | 0x29 => some (.mad o)
  | 0x2A => some (.hfma2 o)
  | _ => none

/-- The base majors of subformat BI and of BMG and BMS (15 R331). -/
def ofBI (m : Nat) (o : BI) : Option Instr :=
  match m with
  | 0x1A => some (.shl o)
  | 0x1B => some (.shr o)
  | 0x1C => some (.rol o)
  | 0x30 => some (.ld o)
  | 0x31 => some (.st o)
  | 0x32 => some (.lds o)
  | 0x33 => some (.sts o)
  | _ => none

/-- The base majors of subformat BU (15 R331). -/
def ofBU (m : Nat) (o : BU) : Option Instr :=
  match m with
  | 0x1D => some (.mov o)
  | 0x40 => some (.frcp o)
  | 0x41 => some (.frsq o)
  | 0x42 => some (.fexp2 o)
  | 0x43 => some (.flog2 o)
  | 0x44 => some (.fsqrt o)
  | 0x45 => some (.abs o)
  | 0x46 => some (.neg o)
  | 0x47 => some (.clz o)
  | 0x48 => some (.popc o)
  | 0x49 => some (.brev o)
  | _ => none

/-- The base majors of subformat BL (15 R331). -/
def ofBL (m : Nat) (o : BL) : Option Instr :=
  match m with
  | 0x1E => some (.li o)
  | _ => none

/-- The base majors of subformat BC (15 R331). -/
def ofBC (m : Nat) (o : BC) : Option Instr :=
  match m with
  | 0x1F => some (.cmp o)
  | 0x27 => some (.fcmp o)
  | _ => none

/-- The minors of class XR (15 R332), and the variants of SHFL, VOTE and MATCH (23 R459; 24 R478; 21 R425). -/
def ofXR (m : Nat) (o : XR) : Option Instr :=
  match m with
  | 0x1 => some (.addX o)
  | 0x2 => some (.subX o)
  | 0x3 => some (.mulX o)
  | 0x4 => some (.mulhX o)
  | 0x5 => some (.madX o)
  | 0x6 => some (.div o)
  | 0x7 => some (.rem o)
  | 0x8 => some (.andX o)
  | 0x9 => some (.orX o)
  | 0xA => some (.xorX o)
  | 0xB => some (.andnX o)
  | 0xC => some (.minX o)
  | 0xD => some (.maxX o)
  | 0xE => some (.absX o)
  | 0xF => some (.negX o)
  | 0x10 => some (.shlX o)
  | 0x11 => some (.shrX o)
  | 0x12 => some (.rolX o)
  | 0x13 => some (.clzX o)
  | 0x14 => some (.popcX o)
  | 0x15 => some (.brevX o)
  | 0x16 => some (.bfx o)
  | 0x17 => some (.bfi o)
  | 0x18 => some (.movX o)
  | 0x19 => some (.liX o)
  | 0x1A => some (.sel o)
  | 0x1B => some (.cmpX o)
  | 0x1C => some (.plop o)
  | 0x1D => some (.movs o)
  | 0x40 => some (.faddX o)
  | 0x41 => some (.fsubX o)
  | 0x42 => some (.fmulX o)
  | 0x43 => some (.fmaX o)
  | 0x44 => some (.fdiv o)
  | 0x45 => some (.fsqrtX o)
  | 0x46 => some (.fminX o)
  | 0x47 => some (.fmaxX o)
  | 0x48 => some (.frnd o)
  | 0x49 => some (.fclass o)
  | 0x4A => some (.fcmpX o)
  | 0x4B => some (.fcvt o)
  | 0x4C => some (.frcpX o)
  | 0x4D => some (.frsqX o)
  | 0x4E => some (.fexp2X o)
  | 0x4F => some (.flog2X o)
  | 0x50 => some (.fsin o)
  | 0x51 => some (.fcos o)
  | 0x52 => some (.hadd2X o)
  | 0x53 => some (.hmul2X o)
  | 0x54 => some (.hfma2X o)
  | 0x60 => some (.bcvt o)
  | 0x61 => some (.bdot o)
  | 0x80 =>
    if o.var == 0 then some (.shflIdx o)
    else if o.var == 1 then some (.shflUp o)
    else if o.var == 2 then some (.shflDown o)
    else if o.var == 3 then some (.shflXor o)
    else none
  | 0x81 =>
    if o.var == 0 then some (.voteMask o)
    else if o.var == 1 then some (.voteCount o)
    else if o.var == 2 then some (.voteQuorum o)
    else if o.var == 3 then some (.voteSplit o)
    else none
  | 0x82 => some (.gred o)
  | 0x83 => some (.gscan o)
  | 0x84 =>
    if o.var == 0 then some (.matchAny o)
    else if o.var == 1 then some (.matchAll o)
    else none
  | 0x85 => some (.rebal o)
  | 0x86 => some (.topk o)
  | _ => none

/-- The minors of class XM (15 R333), the operations of CACHE (18 R373) and the orders of FENCE (19 R402). -/
def ofXM (m : Nat) (o : XM) : Option Instr :=
  match m with
  | 0x1 => some (.ldX o)
  | 0x2 => some (.stX o)
  | 0x3 => some (.ldsX o)
  | 0x4 => some (.stsX o)
  | 0x5 => some (.ldx o)
  | 0x6 => some (.stx o)
  | 0x7 => some (.lea o)
  | 0x8 => some (.pref o)
  | 0x9 =>
    if o.c == 0 then some (.cacheWb o)
    else if o.c == 1 then some (.cacheInv o)
    else if o.c == 2 then some (.cacheClel o)
    else none
  | 0xA =>
    if o.ord == 1 then some (.fenceAcq o)
    else if o.ord == 2 then some (.fenceRel o)
    else if o.ord == 3 then some (.fenceAr o)
    else none
  | 0x20 => some (.atomAdd o)
  | 0x21 => some (.atomAnd o)
  | 0x22 => some (.atomOr o)
  | 0x23 => some (.atomXor o)
  | 0x24 => some (.atomMin o)
  | 0x25 => some (.atomMax o)
  | 0x26 => some (.atomUmin o)
  | 0x27 => some (.atomUmax o)
  | 0x28 => some (.atomExch o)
  | 0x29 => some (.atomCas o)
  | 0x2A => some (.atomFadd o)
  | 0x30 => some (.atomsAdd o)
  | 0x31 => some (.atomsAnd o)
  | 0x32 => some (.atomsOr o)
  | 0x33 => some (.atomsXor o)
  | 0x34 => some (.atomsMin o)
  | 0x35 => some (.atomsMax o)
  | 0x36 => some (.atomsUmin o)
  | 0x37 => some (.atomsUmax o)
  | 0x38 => some (.atomsExch o)
  | 0x39 => some (.atomsCas o)
  | 0x3A => some (.atomsFadd o)
  | _ => none

/-- The minors of class XT (15 R334). -/
def ofXT (m : Nat) (o : XT) : Option Instr :=
  match m with
  | 0x1 => some (.tdef o)
  | 0x2 => some (.tcopy o)
  | 0x3 => some (.tfree o)
  | 0x4 => some (.tstat o)
  | 0x5 => some (.unfset o)
  | 0x6 => some (.mloop o)
  | 0x7 => some (.mma o)
  | 0x8 => some (.dload o)
  | 0x9 => some (.aalloc o)
  | 0xA => some (.afree o)
  | _ => none

/-- The minors of class XC (15 R334). -/
def ofXC (m : Nat) (o : XC) : Option Instr :=
  match m with
  | 0x1 => some (.braX o)
  | 0x2 => some (.bruX o)
  | 0x3 => some (.callX o)
  | 0x4 => some (.callr o)
  | 0x5 => some (.retX o)
  | 0x6 => some (.exitX o)
  | 0x7 => some (.yieldX o)
  | 0x8 => some (.nopX o)
  | _ => none

/-- The minors of class XE (15 R335), and the TRY forms of ENQ and DEQ (08 R178). -/
def ofXE (m : Nat) (o : XE) : Option Instr :=
  match m with
  | 0x1 => some (.copy o)
  | 0x2 => some (.gather o)
  | 0x3 => some (.scatter o)
  | 0x4 => some (.mcast o)
  | 0x5 => some (.cseal o)
  | 0x6 =>
    if o.tryb == false then some (.enq o)
    else if o.tryb == true then some (.enqTry o)
    else none
  | 0x7 =>
    if o.tryb == false then some (.deq o)
    else if o.tryb == true then some (.deqTry o)
    else none
  | 0x8 => some (.qinit o)
  | 0x9 => some (.qstat o)
  | 0xA => some (.chsend o)
  | 0xB => some (.chrecv o)
  | 0xC => some (.spawn o)
  | 0xD => some (.abinit o)
  | 0xE => some (.sdef o)
  | 0xF => some (.sstop o)
  | 0x10 => some (.tlread o)
  | _ => none

/-- SETC, by its selector and the value it writes (23 R456; log 6). -/
def ofSetc (o : XS) : Option Instr :=
  match o.imm.toNat with
  | 0 => some (.setcFpctl o)
  | 1 => some (.setcFpflags o)
  | 2 => some (.setcBfflags o)
  | 3 => some (.setcIssuepol o)
  | 4 => some (.setcTrapvec o)
  | 5 => some (.setcFaultq o)
  | 6 => some (.setcLkstat o)
  | 7 => some (.setcStatclr o)
  | 8 => some (if Instr.wf.cpstatDropOnly o then .cpstatClearDrop o else .cpstatClearErr o)
  | 9 =>
    if Instr.wf.mxstatAct o == 1 then some (.mxstatResume o)
    else if Instr.wf.mxstatAct o == 2 then some (.mxstatResumeIgnoring o)
    else if Instr.wf.mxstatAct o == 4 then some (.mxstatAbandon o)
    else some (.setcMxstat o)
  | 10 => some (.setcTrapinfo o)
  | 11 => some (.setcTrapva o)
  | _ => none

/-- The minors of class XS (15 R335), the forms of GBAR (20 R407) and the supervisor services (23 R468). -/
def ofXS (m : Nat) (o : XS) : Option Instr :=
  match m with
  | 0x1 => some (.bar o)
  | 0x2 =>
    if o.imm == 0 then some (.gbar o)
    else if o.imm == 1 then some (.gbarEnter o)
    else if o.imm == 2 then some (.gbarLeave o)
    else none
  | 0x3 => some (.abwait o)
  | 0x4 => some (.wait o)
  | 0x5 => some (.tlwait o)
  | 0x6 => some (.cwait o)
  | 0x7 => some (.getc o)
  | 0x8 => ofSetc o
  | 0x9 => some (.setw o)
  | 0xA => some (.reord o)
  | 0xB =>
    if o.imm == 128 then some (.resolve o)
    else if o.imm == 129 then some (.xlinv o)
    else if o.imm == 130 then some (.resume o)
    else some (.svc o)
  | 0xC => some (.trap o)
  | 0xD => some (.locki o)
  | 0xE => some (.unlocki o)
  | _ => none

/-- The instruction an encoded form names, whatever its operands (15 R331 to R335). -/
def ofEnc : Enc → Option Instr
  | .bz m o => ofBZ m.toNat o
  | .bb m o => ofBB m.toNat o
  | .br m o => ofBR m.toNat o
  | .bi m o => ofBI m.toNat o
  | .bu m o => ofBU m.toNat o
  | .bl m o => ofBL m.toNat o
  | .bc m o => ofBC m.toNat o
  | .xr m o => ofXR m.toNat o
  | .xm m o => ofXM m.toNat o
  | .xt m o => ofXT m.toNat o
  | .xe m o => ofXE m.toNat o
  | .xc m o => ofXC m.toNat o
  | .xs m o => ofXS m.toNat o

/-- The instruction that the words at a position hold, and its length in words (15 R316, R318, R336). -/
def decode (ws : List Word) : Except Reject (Instr × Nat) :=
  match parse ws with
  | .error e => .error e
  | .ok (e, n) =>
    match ofEnc e with
    | none => .error .minor
    | some i => if i.wf then .ok (i, n) else .error .operand

/-- The instruction in a word numbered as spec/opcode_table.json numbers its bits: the first word in bits 31 to 0, and
the words above it 0 where `nbits` gives none. -/
def decodeTableWord (nbits w : Nat) : Option Instr :=
  let x := w % 2 ^ nbits
  match decode ((upto 5).map fun i => BitVec.ofNat 32 (x / 2 ^ (32 * i))) with
  | .ok (i, _) => some i
  | .error _ => none

/-! The encoder. -/

/-- The code of a base guard (15 R319). -/
def bguardCode : BGuard → Nat
  | .always => 0
  | .k1 => 1
  | .k2 => 2
  | .notK1 => 3

/-- HINT as a number (04 R87). -/
def hintCode (h : Hint) : Nat := h.stall.toNat + 4 * b2n h.yield

/-- A base first word (15 R319). -/
def baseWord (len major : Nat) (g : BGuard) (h : Hint) (d a b : Nat) : Word :=
  BitVec.ofNat 32 (len + hintCode h * 2 ^ 2 + major * 2 ^ 5 + bguardCode g * 2 ^ 12 + d * 2 ^ 14 + a * 2 ^ 20 + b * 2 ^ 26)

/-- The two words of a literal (15 R318). -/
def litWords (x : Dword) : List Word := [BitVec.ofNat 32 x.toNat, BitVec.ofNat 32 (x.toNat / 2 ^ 32)]

/-- The words of subformats BR and BA (15 R320). -/
def brWords (major : Nat) (o : BR) : List Word :=
  match o.b with
  | .reg n => [baseWord 0 major o.gd o.h o.d.toNat o.a.toNat n.toNat]
  | .lit x => baseWord 1 major o.gd o.h o.d.toNat o.a.toNat 0 :: litWords x

/-- The words of subformat BL (15 R320). -/
def blWords (major : Nat) (o : BL) : List Word :=
  match o.imm with
  | .short x => [baseWord 0 major o.gd o.h o.d.toNat (x.toNat % 2 ^ 6) (x.toNat / 2 ^ 6)]
  | .lit x => baseWord 1 major o.gd o.h o.d.toNat 0 0 :: litWords x

/-- The words of subformat BC (15 R320). -/
def bcWords (major : Nat) (o : BC) : List Word :=
  let d := o.kd.toNat + 8 * o.cc.toNat
  match o.b with
  | .reg n => [baseWord 0 major o.gd o.h d o.a.toNat n.toNat]
  | .lit x => baseWord 1 major o.gd o.h d o.a.toNat 0 :: litWords x

/-- Word 0 of the extended form (15 R322). -/
def extWord0 (len major : Nat) (g : XGuard) (h : Hint) (d a : Nat) : Word :=
  BitVec.ofNat 32 (len + hintCode h * 2 ^ 2 + major * 2 ^ 5 + g.k.toNat * 2 ^ 12 + b2n g.neg * 2 ^ 15 + d * 2 ^ 16 +
    a * 2 ^ 24)

/-- Word 1 of the extended form (15 R322). -/
def extWord1 (minor b c cx : Nat) : Word := BitVec.ofNat 32 (minor + b * 2 ^ 12 + c * 2 ^ 20 + cx * 2 ^ 28)

/-- The kind code of an operand (15 R323). -/
def kindCode : Opnd → Nat
  | .v _ => 0
  | .g _ => 1
  | .k _ => 2
  | .q _ => 3
  | .imm _ => 4
  | .lit _ => 5
  | .none => 6

/-- The field of an operand (15 R323). -/
def fieldCode : Opnd → Nat
  | .v n | .g n | .k n | .q n | .imm n => n.toNat
  | _ => 0

/-- The kinds of word 2 (15 R323). -/
def kindsCode (d a b c : Opnd) : Nat := kindCode d + 8 * kindCode a + 64 * kindCode b + 512 * kindCode c

/-- The literal among four operands (15 R323). -/
def litAmong (d a b c : Opnd) : Option Dword := ([d, a, b, c].filterMap Opnd.lit?).head?

/-- The words of a literal, or none. -/
def litTail : Option Dword → List Word
  | some x => litWords x
  | none => []

/-- LEN of an extended instruction (15 R318). -/
def extLen (lit : Option Dword) : Nat := if lit.isSome then 3 else 2

/-- An instruction of classes XR, XT, XE and XS: CX and word 2 above the kinds (15 R322, R323). -/
def xWords (major minor : Nat) (g : XGuard) (h : Hint) (d a b c : Opnd) (cx w2 : Nat) : List Word :=
  let lit := litAmong d a b c
  extWord0 (extLen lit) major g h (fieldCode d) (fieldCode a) :: extWord1 minor (fieldCode b) (fieldCode c) cx ::
    BitVec.ofNat 32 (kindsCode d a b c + w2) :: litTail lit

/-- Class XR (15 R325). -/
def xrWords (minor : Nat) (o : XR) : List Word :=
  xWords 0x70 minor o.gd o.h o.d o.a o.b o.c o.var.toNat
    (o.rnd.toNat * 2 ^ 12 + b2n o.sat * 2 ^ 15 + b2n o.u * 2 ^ 16 + o.cc.toNat * 2 ^ 17 + o.fa.toNat * 2 ^ 20 +
      o.fb.toNat * 2 ^ 24 + o.bsel.toNat * 2 ^ 28)

/-- Class XM (15 R326). -/
def xmWords (minor : Nat) (o : XM) : List Word :=
  let (kd, df) := match o.d with
    | .v n => (0, n.toNat)
    | .g n => (1, n.toNat)
  let (ka, af) := match o.base with
    | .v n => (0, n.toNat)
    | .g n => (1, n.toNat)
    | .none => (2, 0)
    | .q n => (3, n.toNat)
  let (ix, bf) := match o.idx with
    | some n => (1, n.toNat)
    | none => (0, 0)
  let (lit, disp) := match o.disp with
    | .short x => (none, x.toNat)
    | .lit x => (some x, 0)
  extWord0 (extLen lit) 0x71 o.gd o.h df af :: extWord1 minor bf o.c.toNat (b2n o.sx + 2 * b2n o.mkb) ::
    BitVec.ofNat 32 (kd + ka * 2 ^ 2 + ix * 2 ^ 4 + o.scale.toNat * 2 ^ 5 + o.pol.toNat * 2 ^ 7 + o.res.toNat * 2 ^ 9 +
      o.ord.toNat * 2 ^ 11 + o.size.toNat * 2 ^ 13 + disp * 2 ^ 16) :: litTail lit

/-- Class XT (15 R327). -/
def xtWords (minor : Nat) (o : XT) : List Word :=
  xWords 0x72 minor o.gd o.h o.d o.a o.b o.c (o.pol.toNat + 4 * o.res.toNat)
    (o.tn.toNat * 2 ^ 12 + o.slot.toNat * 2 ^ 17 + o.cnt.toNat * 2 ^ 23 + b2n o.srcs * 2 ^ 29)

/-- Class XE (15 R328). -/
def xeWords (minor : Nat) (o : XE) : List Word :=
  xWords 0x74 minor o.gd o.h o.d o.a o.b o.c (o.pol.toNat + 4 * o.res.toNat)
    (o.dirm.toNat * 2 ^ 12 + o.mode.toNat * 2 ^ 14 + b2n o.tryb * 2 ^ 16 + b2n o.abe * 2 ^ 17 + o.mask.toNat * 2 ^ 18 +
      o.n6.toNat * 2 ^ 22)

/-- Class XC (15 R329). -/
def xcWords (minor : Nat) (o : XC) : List Word :=
  match o.tgt with
  | .rel ofs => [extWord0 2 0x73 o.gd o.h 0 0, extWord1 minor 0 0 0, ofs]
  | .reg n => [extWord0 2 0x73 o.gd o.h 0 n.toNat, extWord1 minor 0 0 1, 0]
  | .lit x => extWord0 3 0x73 o.gd o.h 0 0 :: extWord1 minor 0 0 2 :: 0 :: litWords x

/-- Class XS (15 R330). -/
def xsWords (minor : Nat) (o : XS) : List Word :=
  xWords 0x75 minor o.gd o.h o.d o.a o.b o.c 0 (o.imm.toNat * 2 ^ 12)

/-- The words of an encoded form. -/
def Enc.words : Enc → List Word
  | .bz m o => [baseWord 0 m.toNat o.gd o.h 0 0 0]
  | .bb m o => [baseWord 0 m.toNat o.gd o.h (o.ofs.toNat % 2 ^ 6) (o.ofs.toNat / 2 ^ 6 % 2 ^ 6) (o.ofs.toNat / 2 ^ 12)]
  | .br m o => brWords m.toNat o
  | .bi m o => [baseWord 0 m.toNat o.gd o.h o.d.toNat o.a.toNat o.b.toNat]
  | .bu m o => [baseWord 0 m.toNat o.gd o.h o.d.toNat o.a.toNat 0]
  | .bl m o => blWords m.toNat o
  | .bc m o => bcWords m.toNat o
  | .xr m o => xrWords m.toNat o
  | .xm m o => xmWords m.toNat o
  | .xt m o => xtWords m.toNat o
  | .xe m o => xeWords m.toNat o
  | .xc m o => xcWords m.toNat o
  | .xs m o => xsWords m.toNat o

/-- The encoded form of an instruction, and none for a step that no word encodes (15 R331 to R335). -/
def Instr.enc : Instr → Option Enc
  | .nop o => some (.bz 0x1 o)
  | .nopX o => some (.xc 0x8 o)
  | .yield o => some (.bz 0x2 o)
  | .yieldX o => some (.xc 0x7 o)
  | .exit o => some (.bz 0x3 o)
  | .exitX o => some (.xc 0x6 o)
  | .ret o => some (.bz 0x4 o)
  | .retX o => some (.xc 0x5 o)
  | .bra o => some (.bb 0x5 o)
  | .braX o => some (.xc 0x1 o)
  | .bru o => some (.bb 0x6 o)
  | .bruX o => some (.xc 0x2 o)
  | .call o => some (.bb 0x7 o)
  | .callX o => some (.xc 0x3 o)
  | .callr o => some (.xc 0x4 o)
  | .add o => some (.br 0x10 o)
  | .addX o => some (.xr 0x1 o)
  | .sub o => some (.br 0x11 o)
  | .subX o => some (.xr 0x2 o)
  | .mul o => some (.br 0x12 o)
  | .mulX o => some (.xr 0x3 o)
  | .mulh o => some (.br 0x13 o)
  | .mulhX o => some (.xr 0x4 o)
  | .mad o => some (.br 0x29 o)
  | .madX o => some (.xr 0x5 o)
  | .and o => some (.br 0x14 o)
  | .andX o => some (.xr 0x8 o)
  | .or o => some (.br 0x15 o)
  | .orX o => some (.xr 0x9 o)
  | .xor o => some (.br 0x16 o)
  | .xorX o => some (.xr 0xA o)
  | .andn o => some (.br 0x17 o)
  | .andnX o => some (.xr 0xB o)
  | .min o => some (.br 0x18 o)
  | .minX o => some (.xr 0xC o)
  | .max o => some (.br 0x19 o)
  | .maxX o => some (.xr 0xD o)
  | .shl o => some (.bi 0x1A o)
  | .shlX o => some (.xr 0x10 o)
  | .shr o => some (.bi 0x1B o)
  | .shrX o => some (.xr 0x11 o)
  | .rol o => some (.bi 0x1C o)
  | .rolX o => some (.xr 0x12 o)
  | .mov o => some (.bu 0x1D o)
  | .movX o => some (.xr 0x18 o)
  | .li o => some (.bl 0x1E o)
  | .liX o => some (.xr 0x19 o)
  | .cmp o => some (.bc 0x1F o)
  | .cmpX o => some (.xr 0x1B o)
  | .fadd o => some (.br 0x20 o)
  | .faddX o => some (.xr 0x40 o)
  | .fsub o => some (.br 0x21 o)
  | .fsubX o => some (.xr 0x41 o)
  | .fmul o => some (.br 0x22 o)
  | .fmulX o => some (.xr 0x42 o)
  | .fmin o => some (.br 0x23 o)
  | .fminX o => some (.xr 0x46 o)
  | .fmax o => some (.br 0x24 o)
  | .fmaxX o => some (.xr 0x47 o)
  | .fma o => some (.br 0x28 o)
  | .fmaX o => some (.xr 0x43 o)
  | .fdiv o => some (.xr 0x44 o)
  | .fsqrt o => some (.bu 0x44 o)
  | .fsqrtX o => some (.xr 0x45 o)
  | .hadd2 o => some (.br 0x25 o)
  | .hadd2X o => some (.xr 0x52 o)
  | .hmul2 o => some (.br 0x26 o)
  | .hmul2X o => some (.xr 0x53 o)
  | .hfma2 o => some (.br 0x2A o)
  | .hfma2X o => some (.xr 0x54 o)
  | .fcmp o => some (.bc 0x27 o)
  | .fcmpX o => some (.xr 0x4A o)
  | .fclass o => some (.xr 0x49 o)
  | .fcvt o => some (.xr 0x4B o)
  | .frnd o => some (.xr 0x48 o)
  | .frcp o => some (.bu 0x40 o)
  | .frcpX o => some (.xr 0x4C o)
  | .frsq o => some (.bu 0x41 o)
  | .frsqX o => some (.xr 0x4D o)
  | .fexp2 o => some (.bu 0x42 o)
  | .fexp2X o => some (.xr 0x4E o)
  | .flog2 o => some (.bu 0x43 o)
  | .flog2X o => some (.xr 0x4F o)
  | .fsin o => some (.xr 0x50 o)
  | .fcos o => some (.xr 0x51 o)
  | .abs o => some (.bu 0x45 o)
  | .absX o => some (.xr 0xE o)
  | .neg o => some (.bu 0x46 o)
  | .negX o => some (.xr 0xF o)
  | .clz o => some (.bu 0x47 o)
  | .clzX o => some (.xr 0x13 o)
  | .popc o => some (.bu 0x48 o)
  | .popcX o => some (.xr 0x14 o)
  | .brev o => some (.bu 0x49 o)
  | .brevX o => some (.xr 0x15 o)
  | .div o => some (.xr 0x6 o)
  | .rem o => some (.xr 0x7 o)
  | .bfx o => some (.xr 0x16 o)
  | .bfi o => some (.xr 0x17 o)
  | .sel o => some (.xr 0x1A o)
  | .plop o => some (.xr 0x1C o)
  | .movs o => some (.xr 0x1D o)
  | .bcvt o => some (.xr 0x60 o)
  | .bdot o => some (.xr 0x61 o)
  | .shflIdx o => some (.xr 0x80 o)
  | .shflUp o => some (.xr 0x80 o)
  | .shflDown o => some (.xr 0x80 o)
  | .shflXor o => some (.xr 0x80 o)
  | .voteMask o => some (.xr 0x81 o)
  | .voteCount o => some (.xr 0x81 o)
  | .voteQuorum o => some (.xr 0x81 o)
  | .voteSplit o => some (.xr 0x81 o)
  | .gred o => some (.xr 0x82 o)
  | .gscan o => some (.xr 0x83 o)
  | .matchAny o => some (.xr 0x84 o)
  | .matchAll o => some (.xr 0x84 o)
  | .rebal o => some (.xr 0x85 o)
  | .topk o => some (.xr 0x86 o)
  | .ld o => some (.bi 0x30 o)
  | .ldX o => some (.xm 0x1 o)
  | .st o => some (.bi 0x31 o)
  | .stX o => some (.xm 0x2 o)
  | .lds o => some (.bi 0x32 o)
  | .ldsX o => some (.xm 0x3 o)
  | .sts o => some (.bi 0x33 o)
  | .stsX o => some (.xm 0x4 o)
  | .ldx o => some (.xm 0x5 o)
  | .stx o => some (.xm 0x6 o)
  | .lea o => some (.xm 0x7 o)
  | .pref o => some (.xm 0x8 o)
  | .cacheWb o => some (.xm 0x9 o)
  | .cacheInv o => some (.xm 0x9 o)
  | .cacheClel o => some (.xm 0x9 o)
  | .fenceAcq o => some (.xm 0xA o)
  | .fenceRel o => some (.xm 0xA o)
  | .fenceAr o => some (.xm 0xA o)
  | .atomAdd o => some (.xm 0x20 o)
  | .atomAnd o => some (.xm 0x21 o)
  | .atomOr o => some (.xm 0x22 o)
  | .atomXor o => some (.xm 0x23 o)
  | .atomMin o => some (.xm 0x24 o)
  | .atomMax o => some (.xm 0x25 o)
  | .atomUmin o => some (.xm 0x26 o)
  | .atomUmax o => some (.xm 0x27 o)
  | .atomExch o => some (.xm 0x28 o)
  | .atomCas o => some (.xm 0x29 o)
  | .atomFadd o => some (.xm 0x2A o)
  | .atomsAdd o => some (.xm 0x30 o)
  | .atomsAnd o => some (.xm 0x31 o)
  | .atomsOr o => some (.xm 0x32 o)
  | .atomsXor o => some (.xm 0x33 o)
  | .atomsMin o => some (.xm 0x34 o)
  | .atomsMax o => some (.xm 0x35 o)
  | .atomsUmin o => some (.xm 0x36 o)
  | .atomsUmax o => some (.xm 0x37 o)
  | .atomsExch o => some (.xm 0x38 o)
  | .atomsCas o => some (.xm 0x39 o)
  | .atomsFadd o => some (.xm 0x3A o)
  | .tdef o => some (.xt 0x1 o)
  | .tcopy o => some (.xt 0x2 o)
  | .tfree o => some (.xt 0x3 o)
  | .tstat o => some (.xt 0x4 o)
  | .unfset o => some (.xt 0x5 o)
  | .mloop o => some (.xt 0x6 o)
  | .mma o => some (.xt 0x7 o)
  | .dload o => some (.xt 0x8 o)
  | .aalloc o => some (.xt 0x9 o)
  | .afree o => some (.xt 0xA o)
  | .copy o => some (.xe 0x1 o)
  | .gather o => some (.xe 0x2 o)
  | .scatter o => some (.xe 0x3 o)
  | .mcast o => some (.xe 0x4 o)
  | .cseal o => some (.xe 0x5 o)
  | .cwait o => some (.xs 0x6 o)
  | .enq o => some (.xe 0x6 o)
  | .enqTry o => some (.xe 0x6 o)
  | .deq o => some (.xe 0x7 o)
  | .deqTry o => some (.xe 0x7 o)
  | .qinit o => some (.xe 0x8 o)
  | .qstat o => some (.xe 0x9 o)
  | .chsend o => some (.xe 0xA o)
  | .chrecv o => some (.xe 0xB o)
  | .spawn o => some (.xe 0xC o)
  | .abinit o => some (.xe 0xD o)
  | .abwait o => some (.xs 0x3 o)
  | .sdef o => some (.xe 0xE o)
  | .sstop o => some (.xe 0xF o)
  | .tlread o => some (.xe 0x10 o)
  | .tlwait o => some (.xs 0x5 o)
  | .bar o => some (.xs 0x1 o)
  | .gbar o => some (.xs 0x2 o)
  | .gbarEnter o => some (.xs 0x2 o)
  | .gbarLeave o => some (.xs 0x2 o)
  | .wait o => some (.xs 0x4 o)
  | .getc o => some (.xs 0x7 o)
  | .setcFpctl o => some (.xs 0x8 o)
  | .setcFpflags o => some (.xs 0x8 o)
  | .setcBfflags o => some (.xs 0x8 o)
  | .setcIssuepol o => some (.xs 0x8 o)
  | .setcTrapvec o => some (.xs 0x8 o)
  | .setcFaultq o => some (.xs 0x8 o)
  | .setcLkstat o => some (.xs 0x8 o)
  | .setcStatclr o => some (.xs 0x8 o)
  | .cpstatClearErr o => some (.xs 0x8 o)
  | .cpstatClearDrop o => some (.xs 0x8 o)
  | .setcMxstat o => some (.xs 0x8 o)
  | .mxstatResume o => some (.xs 0x8 o)
  | .mxstatResumeIgnoring o => some (.xs 0x8 o)
  | .mxstatAbandon o => some (.xs 0x8 o)
  | .setcTrapinfo o => some (.xs 0x8 o)
  | .setcTrapva o => some (.xs 0x8 o)
  | .setw o => some (.xs 0x9 o)
  | .reord o => some (.xs 0xA o)
  | .svc o => some (.xs 0xB o)
  | .resolve o => some (.xs 0xB o)
  | .xlinv o => some (.xs 0xB o)
  | .resume o => some (.xs 0xB o)
  | .trap o => some (.xs 0xC o)
  | .locki o => some (.xs 0xD o)
  | .unlocki o => some (.xs 0xE o)
  | _ => none

/-- The words of an instruction; none for a step that no word encodes. -/
def encode (i : Instr) : List Word :=
  match i.enc with
  | some e => e.words
  | none => []

end Sys2Proof
end

