-- ==== Sys2Proof/Machine/State.lean ====
section
/-! DEFINITION. The state of the machine, as plain data: fibres, groups, teams, cores, contexts, launches, memory,
engines and the device. INVENTORY.md lists every piece with the rule that names it. -/

namespace Sys2Proof.Machine

/-- Why a step of the machine stops. -/
inductive Fault where
  /-- Raised by the step of the hardware, the firmware or the outside that the name gives, where that step cannot
  take place in the state it is asked of: nothing of the device happens. Safe: the machine stops where the device
  has no such step (log 1). -/
  | notEnabled (step : String)
  deriving DecidableEq, Repr

/-- Why an instruction has no meaning. -/
inductive Refusal where
  /-- Raised by an arm of `exec` that is not modelled yet. Safe: the machine stops where the device goes on. -/
  | notModelled (mnemonic : String)
  deriving DecidableEq, Repr

/-- A register of a fibre, a group or a team (02 R40 to R43), or the return stack of a refilling RET (04 R90). -/
inductive Reg where
  | v (n : Nat)
  | k (n : Nat)
  | g (n : Nat)
  | ret
  deriving DecidableEq, Repr

/-- A fixed-latency write that is not readable before clock `ready` of the core that made it (04 R89), and the group
that made it. -/
structure Late where
  reg : Reg
  val : Dword
  ready : Nat
  core : Nat := 0
  gid : Nat := 0
  deriving DecidableEq, Repr

/-- What a parked fibre waits for (12 R268; the wake conditions of R54). -/
inductive Wake where
  /-- BAR: the team barrier's phase (17 R362) -/
  | bar (next : Dword)
  /-- SETW with its request and destination (02 R36) -/
  | setw (req : Nat) (exact : Bool) (dest : Nat) (next : Dword)
  /-- REORD: scope, .mix, key register, payload register and count; the key and payload stay in the fibre's
  registers (11 R239, R249) -/
  | reord (gallery mix : Bool) (key payload n : Nat) (next : Dword)
  /-- GBAR: arrived in phase n of the gallery barrier, which completes it (20 R407) -/
  | gbar (phase : Nat) (next : Dword)
  /-- GBAR and its forms: phase n of the gallery barrier has to complete before they act (20 R407) -/
  | gphase (phase : Nat)
  /-- ABWAIT: offset and phase (17 R353) -/
  | abwait (offset phase : Nat)
  /-- WAIT: the four limits, for the fibres that were active (24 R479) -/
  | counters (l s c t : Nat) (active : List FibreId)
  /-- TLWAIT: a timeline of a team reaches n (24 R474) -/
  | timeline (tid : Nat) (mat : Bool) (n : Nat)
  /-- CWAIT: at most n sealed batches of each of some active fibres are unfinished (09 R201) -/
  | batches (n : Nat) (active : List FibreId)
  /-- CSEAL: each of some fibres with a batch to seal holds at most 15 unfinished ones (18 R384) -/
  | seal (sealing : List FibreId)
  /-- ENQ, DEQ, SPAWN and QINIT: the reply to a request (08 R176) -/
  | request (id : Nat)
  /-- CHSEND: credits on a channel (08 R186) -/
  | credits (chan need : Nat)
  /-- CHRECV: landed slots on a channel (08 R186) -/
  | slots (chan need : Nat)
  /-- LDX, STX and MCAST: a gallery member starts (03 R70) -/
  | member (index : Nat)
  /-- TDEF, TCOPY and TFREE: a tile reaches a state (10 R218) -/
  | tile (n : Nat)
  /-- MLOOP and MMA: tiles and places (10 R227) -/
  | matrix
  /-- AALLOC: n banks (17 R349) -/
  | banks (n : Nat)
  /-- a stop point of 12 R270: met at once, issues at restore -/
  | stopped
  deriving DecidableEq, Repr

/-- The state of a fibre (02 R53). Stalled is a `notBefore` ahead of the clock or a pending register; Unstarted is a
pending team; Saved is a saved context; Trapped is `firm`, `heldBy` or `handler` of the fibre. -/
inductive Status where
  | ready
  | blocked (w : Wake)
  | faulted (faultId : Nat)
  | exited
  deriving DecidableEq, Repr

/-- The handler record of a fibre (12 R257, R258). -/
structure Handler where
  base : Nat
  cause : Nat
  detail : Nat
  skip : Bool
  va : Dword
  deriving DecidableEq, Repr

/-- A stream slot of a fibre (02 R44; 09 R207 to R211). -/
structure Stream where
  defined : Bool := false
  out : Bool := false
  sx : Bool := false
  esz : Nat := 1
  /-- counts and strides, dimension 0 first -/
  dims : List (Nat × Int) := []
  /-- base + offset -/
  start : Int := 0
  /-- index of the next element to pop or write -/
  cursor : Nat := 0
  /-- the releases that hold elements written to it and not performed (09 R209; 23 R454) -/
  popped : List Nat := []
  /-- elements prefetched and not popped, oldest first -/
  ahead : List Word := []
  /-- a fault held for the pop of the element after `ahead`: cause and address; PAGE is recoverable -/
  bad : Option (Nat × Nat) := none
  /-- registrations of the fibre's own stores before its SDEF, which its reads follow (07 R167) -/
  waits : List Nat := []
  deriving DecidableEq, Repr, Inhabited

/-- A fibre's private state (02 R26). -/
structure Fibre where
  role : Nat := 0
  gid : Nat := 0
  pc : Dword := 0
  /-- k0 to k7; bit 0 is never read (02 R43) -/
  k : BitVec 8 := 0
  v : List Word := []
  late : List Late := []
  /-- return references on chip, newest first (04 R97) -/
  rstack : List Dword := []
  /-- return references in the spill area (04 R81) -/
  spilled : Nat := 0
  /-- the reference that a refilling RET has loaded (04 R97) -/
  refill : Option Dword := none
  stack : Dword := 0
  stackTop : Dword := 0
  stackBottom : Dword := 0
  rsl : Bool := false
  mx : Bool := false
  fpflags : BitVec 5 := 0
  bfflags : BitVec 3 := 0
  ldc : Nat := 0
  stc : Nat := 0
  cpc : Nat := 0
  tlc : Nat := 0
  /-- the open batch, empty or the highest number on each copy timeline that it names, by team, and the sealed batches,
  oldest first (09 R201; 11 R247) -/
  openBatch : KV Nat := []
  sealed : List (KV Nat) := []
  streams : List Stream := []
  handler : Option Handler := none
  /-- handler lanes that hold this lane (12 R257, R259) -/
  heldBy : List FibreId := []
  /-- FAULTIDs of the records that hold the fibre for firmware (12 R260) -/
  firm : List Nat := []
  status : Status := .ready
  /-- not to issue before this clock of its core (Stalled) -/
  notBefore : Nat := 0
  /-- registrations and loads that a release or fence in progress waits for (07 R160) -/
  relWait : Option (List Nat) := none
  /-- what a FENCE.rel holds later stores for, and a FENCE.acq later accesses (19 R402) -/
  fenceRel : List Nat := []
  fenceAcq : Option (List Nat) := none
  /-- operands that a wait keeps while it is parked (10 R221; 17 R353) -/
  again : Option (List Dword) := none
  /-- SPIN of STATUS (02 R48, R51) -/
  spin : Bool := false
  deriving DecidableEq, Repr, Inhabited

/-- A spin counter of a PC subset (02 R51). `branches` are counter updates not yet made, each with its interval's
effect mark and the loads still to judge. -/
structure Spin where
  lanes : List FibreId
  count : Nat := 0
  dirty : Bool := false
  loads : List Nat := []
  branches : List (Bool × List Nat) := []
  /-- the count has reached 16, and the demotion has not begun -/
  due : Bool := false
  demotedUntil : Option Nat := none
  deriving DecidableEq, Repr

/-- A group (02 R24, R34, R42; 04 R79). -/
structure Group where
  ctx : Nat := 0
  core : Nat := 0
  /-- 0 to 3 vector, 4 control -/
  slot : Nat := 0
  age : Nat := 0
  grant : Nat := 0
  members : List FibreId := []
  /-- g16 to g63 -/
  g : List Dword := List.replicate 48 0
  late : List Late := []
  nextIssue : Nat := 0
  yielded : Bool := false
  waited : Nat := 0
  lifted : Bool := false
  spins : List Spin := []
  deriving DecidableEq, Repr, Inhabited

/-- A tile table entry in force and its state (10 R215, R218). -/
structure Tile where
  desc : Dword := 0
  /-- 0 Empty, 1 Filling, 2 Ready, 3 Draining -/
  state : Nat := 0
  /-- RDRS: incomplete matrix operations that read it -/
  readers : Nat := 0
  deriving DecidableEq, Repr, Inhabited

/-- A held run of accumulator banks (10 R220). -/
structure Banks where
  /-- bank numbers of the core, rising -/
  held : List Nat := []
  /-- generation that names undefined contents, per bank -/
  gens : KV Nat := []
  /-- written elements, by bank × 8192 + row × 512 + column -/
  cells : KV Word := []
  deriving DecidableEq, Repr, Inhabited

/-- MXSTAT and the stop of a matrix operation (10 R237). -/
structure MxStat where
  err : Bool := false
  stp : Bool := false
  ecause : Nat := 0
  flg : BitVec 5 := 0
  bflg : BitVec 3 := 0
  srow : Nat := 0
  sblk : Nat := 0
  sph : Bool := false
  deriving DecidableEq, Repr, Inhabited

/-- A team on its core (02 R27, R41; 03 R62). -/
structure Team where
  ctx : Nat := 0
  launch : Nat := 0
  num : Nat := 0
  /-- gallery number and member index (02 R25) -/
  gallery : Nat := 0
  member : Nat := 0
  core : Nat := 0
  control : Bool := false
  nfib : Nat := 0
  fibres : KV Fibre := []
  g : List Dword := List.replicate 16 0
  late : List Late := []
  fpctl : Dword := 1
  cpErr : Bool := false
  cpCause : Nat := 0
  cpDrop : Nat := 0
  mx : MxStat := {}
  req : Nat := 32
  grant : Nat := 0
  /-- GRANT in effect at the stop of a saved context (02 R38; 12 R272) -/
  stopGrant : Nat := 0
  /-- the team barrier (12 R273): phase, and FIDs that have arrived -/
  barPhase : Nat := 0
  /-- scratchpad: bytes written, allocation size, of which SPAD bytes, and generation tag (03 R62, R69) -/
  spad : KV Byte := []
  /-- names the undefined bytes of its scratchpad and tile rows (log 4) -/
  gen : Nat := 0
  spadBytes : Nat := 0
  ownBytes : Nat := 0
  tag : Nat := 0
  trows : Nat := 0
  tiles : List Tile := []
  /-- tile store bytes written, by row × 768 + column -/
  tileBytes : KV Byte := []
  banks : Banks := {}
  /-- unfold views, eight doublewords each once defined (10 R225) -/
  views : List (Option (List Dword)) := []
  copyDone : Nat := 0
  copyNext : Nat := 1
  copyFin : List Nat := []
  matDone : Nat := 0
  matNext : Nat := 1
  matFin : List Nat := []
  ended : Bool := false
  deriving DecidableEq, Repr, Inhabited

/-- An L1 word: its value and whether the core owns it (06 R133). -/
structure L1Word where
  data : Word
  owned : Bool
  deriving DecidableEq, Repr

/-- An L1 line: when it was last used and its residence hints (06 R137, R138). -/
structure L1Line where
  used : Nat
  ef : Bool := false
  el : Bool := false
  deriving DecidableEq, Repr

/-- A line of L2: when it was last used, its residence hints, and whether it is to leave (01 R17; 06 R137, R138). -/
structure L2Line where
  used : Nat
  ef : Bool := false
  el : Bool := false
  out : Bool := false
  deriving DecidableEq, Repr

/-- A guest copy: the bytes of a line, and when it was last used (01 R17; 06 R139). -/
structure GuestLine where
  data : List Byte
  used : Nat
  deriving DecidableEq, Repr

/-- A line of a core's instruction cache: context, slot, line number, its 32 words as fetched, and when it was last used
(01 R11; 13 R288). -/
structure CodeLine where
  ctx : Nat
  slot : Nat
  line : Nat
  words : List Word
  used : Nat
  deriving DecidableEq, Repr

/-- A cached translation (06 R147). -/
structure TlbEntry where
  ctx : Nat
  /-- 64 KiB page number, or 512 MiB page number for a big page -/
  vpn : Nat
  big : Bool
  pte : Dword
  deriving DecidableEq, Repr

/-- A drain slot: its micro-op count and words, and its constants (10 R229). -/
structure Drain where
  ops : List Word := []
  consts : List Word := []
  deriving DecidableEq, Repr, Inhabited

/-- A slot's last issue on its main port (04 R80, R82): the clock, the group, and the lanes of the subset that may issue
on the second port in that clock. -/
structure Port where
  clock : Nat
  gid : Nat
  second : List FibreId := []
  /-- the clocks that the instruction holds the slot (04 R80) -/
  hold : Nat := 1
  deriving DecidableEq, Repr

/-- A core (01 R11). -/
structure Core where
  clock : Nat := Config.clockOrigin
  widthLimit : Nat := Config.widthLimit
  l1 : KV L1Word := []
  lines : KV L1Line := []
  stamp : Nat := 0
  tlb : List TlbEntry := []
  /-- the instruction cache -/
  code : List CodeLine := []
  /-- locked instruction lines: context, slot, line number (13 R290) -/
  locked : List (Nat × Nat × Nat) := []
  /-- drain store, by context × 64 + slot -/
  drains : KV Drain := []
  /-- AALLOC waiters, oldest first: team, n, group (17 R350) -/
  bankQueue : List (Nat × Nat × Nat) := []
  nextTag : Nat := 0
  nextAge : Nat := 0
  /-- the group each slot chose last: by slot, and by slot × 4 + class (04 R85; 25 R482) -/
  lastSlot : KV Nat := []
  lastClass : KV Nat := []
  /-- the last issue of each slot -/
  ports : KV Port := []
  deriving DecidableEq, Repr, Inhabited

/-- An ownership registration (06 R134). -/
structure Registration where
  core : Nat
  sector : Nat
  words : List Nat
  fibres : List FibreId
  /-- the home has recorded it; the acknowledgement is on its way -/
  recorded : Bool := false
  /-- the physical addresses of the bytes stored since it was formed (07 R152, R155) -/
  bytes : List Nat := []
  deriving DecidableEq, Repr

/-- What an unanswered load reads. -/
inductive LoadReq where
  /-- global memory: physical address, whether it fills L1, and .sys (06 R136, R137) -/
  | global (pa : Nat) (l1 sys : Bool)
  /-- a gallery member's scratchpad (20 R418) -/
  | gallery (target offset : Nat)
  /-- a releasing atomic that is not performed yet (07 R160) -/
  | atomic
  deriving DecidableEq, Repr

/-- A pending result (04 R90): who waits, the destinations with their values, and the WAIT counter. -/
structure Pending where
  fib : FibreId
  gid : Nat
  core : Nat
  /-- the team whose g0 to g15 it writes -/
  tid : Nat := 0
  dests : List (Reg × Dword)
  /-- the fibres in which a g destination has its pending bit: those active as it issued (04 R90) -/
  bits : List FibreId := []
  /-- the fibres whose LDC counts it (04 R93) -/
  count : List FibreId := []
  /-- a load not yet answered, with its size and sign extension -/
  load : Option (LoadReq × Nat × Bool) := none
  /-- the bytes that it took held an uncorrectable error, which its registers hold then (06 R150; log 9) -/
  bad : Bool := false
  deriving DecidableEq, Repr

/-- What a release, or an access that a FENCE.rel holds, does once its conditions hold (07 R160; 19 R402). -/
inductive Releasing where
  /-- a store: policy, residence; fibre, physical address and bytes, in FID order -/
  | store (pol res : Nat) (l : List (FibreId × Nat × List Byte))
  /-- an ATOM: policy, residence, operation, bytes, .ar; fibre, address, operand, compare value and pending
  result -/
  | atom (pol res op size : Nat) (acq : Bool) (l : List (FibreId × Nat × Nat × Nat × Nat))
  /-- an ATOMS: fibre, team, offset, operand, compare value and pending result -/
  | atoms (op size : Nat) (acq : Bool) (l : List (FibreId × Nat × Nat × Nat × Nat × Nat))
  /-- an STS: fibre, team, offset and bytes -/
  | spad (l : List (FibreId × Nat × Nat × List Byte))
  /-- an STX, group-scope or not: fibre, team, offset and bytes -/
  | stx (whole : Bool) (l : List (FibreId × Nat × Nat × List Byte))
  /-- the arrival of a GBAR.enter, by its fibre -/
  | enter
  deriving DecidableEq, Repr

/-- A release that has issued and is not performed: its core, its fibres, and what it waits for (07 R160). -/
structure Release where
  core : Nat
  fibres : List FibreId
  /-- the fibres whose STC counts it (04 R93) -/
  count : List FibreId
  waits : List Nat
  act : Releasing
  deriving DecidableEq, Repr

/-- An STX packet in flight (06 R142; 09 R196). -/
structure Packet where
  src : FibreId
  /-- the fibres whose STC counts it (04 R93) -/
  count : List FibreId
  srcCore : Nat
  target : Nat
  tag : Nat
  offset : Nat
  data : List Byte
  seq : Nat
  deriving DecidableEq, Repr

/-- An outstanding or waiting fault record (12 R262, R263). -/
structure FaultRec where
  cause : Nat
  src : Nat
  recov : Bool
  wr : Bool
  held : Bool
  dbl : Bool
  detail : Nat
  core : Nat
  team : Nat
  fid : Nat
  id : Nat
  launchId : Dword
  pc : Dword
  va : Nat
  lanes : Dword
  ctl : Dword
  ctx : Nat
  /-- the lanes concerned, the command, dispatcher record or launch: what RESOLVE and RESUME act on -/
  fibres : List FibreId := []
  next : Dword := 0
  subject : Nat := 0
  deriving DecidableEq, Repr

/-- A code object table entry (13 R284). -/
structure CodeSlot where
  hash : List Byte := []
  laddr : Nat := 0
  /-- 0 empty, 1 installed, 2 untrusted -/
  state : Nat := 0
  wdep : Bool := false
  step : Nat := 0
  /-- PHASH, and the page hashes that lie there -/
  phash : Nat := 0
  pageHash : List (List Byte) := []
  npage : Nat := 0
  /-- VBM, and the pages whose bits are set there -/
  vbmAt : Nat := 0
  vbm : List Nat := []
  deriving DecidableEq, Repr, Inhabited

/-- What leaves the package (14 R302 to R312). -/
inductive Sent where
  /-- RDMA WRITE and READ requests to a remote queue pair: first PSN, rkey, remote address (14 R311, R312) -/
  | rdmaWrite (qpn psn rkey addr : Nat) (data : List Byte)
  | rdmaRead (qpn psn rkey addr len : Nat)
  /-- a responder's answers with their PSN: read data, an acknowledgement, the PSN it expects, the remote access error;
  and a congestion notification (R311, R496) -/
  | readReply (qpn psn : Nat) (data : List Byte)
  | ack (qpn psn : Nat)
  | sequenceError (qpn psn : Nat)
  | accessError (qpn psn : Nat)
  | congestion (qpn : Nat)
  /-- a Druiraim frame: receiver, KIND, CTXID, SEQ, payload, TAG (14 R303, R306) -/
  | druiraim (dest : Sender) (kind ctxid seq : Nat) (payload : List Byte) (tag : Nat)
  /-- ARP and neighbour discovery: address asked for, or address and MAC answered (14 R302) -/
  | ask (v6 : Bool) (ip : Nat)
  | answer (v6 : Bool) (ip mac dest : Nat)
  /-- an echo reply with its data (14 R302) -/
  | echo (v6 : Bool) (dest : Nat) (data : List Byte)
  deriving DecidableEq, Repr

/-- A RoCE v2 queue pair (14 R311, R312). -/
structure QueuePair where
  ctx : Nat
  port : Nat
  v6 : Bool := false
  ip : Nat := 0
  rqpn : Nat := 0
  /-- the PSN expected of the remote side, and that of the next own request (14 R311) -/
  rpsn : Nat := 0
  lpsn : Nat := 0
  /-- the rate in Gb/s, as a fraction (14 R311) -/
  rate : Nat := 0
  rateDen : Nat := 1
  /-- when its last congestion notification was sent (14 R311) -/
  notified : Option Nat := none
  /-- own requests that have no route yet, oldest first (14 R302, R311; log 24) -/
  unsent : List Sent := []
  deriving DecidableEq, Repr, Inhabited

/-- An endpoint table entry (14 R312). -/
structure Endpoint where
  qpn : Nat
  rkey : Nat
  base : Nat
  bytes : Nat
  deriving DecidableEq, Repr, Inhabited

/-- Memory registered for remote access (14 R307). -/
structure Region where
  va : Nat
  bytes : Nat
  rd : Bool
  wr : Bool
  deriving DecidableEq, Repr

/-- A SAVE that is to be answered: its session and number, and the save area (14 R307). -/
structure SaveDue where
  session : Nat
  seq : Nat
  area : Nat
  bytes : Nat
  deriving DecidableEq, Repr

/-- A context (01 R10; 12 R269; 13 R281; 14 R307). -/
structure Context where
  partition : Nat := 0
  supervisor : Bool := false
  supervised : List Nat := []
  root : Nat := 0
  issuepol : Bool := false
  trapvec : Dword := 0
  faultq : Nat := 0
  lost : Bool := false
  ilk : Bool := false
  stop : Bool := false
  saved : Bool := false
  drainUs : Nat := 0
  slots : KV CodeSlot := []
  /-- a saved context's occupied slots: object hash and state (13 R291) -/
  recorded : KV (List Byte × Nat) := []
  endpoints : KV Endpoint := []
  /-- breakpoints 0 to 7 (14 R307) -/
  breaks : KV Dword := []
  /-- memory registered for RoCE access, by rkey (14 R307) -/
  regions : KV Region := []
  /-- the firmware area: waiter area and REORD spill area (14 R307) -/
  fwArea : Nat := 0
  fwBytes : Nat := 0
  saver : Option SaveDue := none
  /-- the dispatch list: control block and priority (03 R56) -/
  queues : List (Nat × Nat) := []
  /-- ended, and only its launches' reports are due (12 R494) -/
  ended : Bool := false
  /-- records not yet enqueued, oldest first, and records outstanding, by FAULTID (12 R262, R263) -/
  waiting : List FaultRec := []
  records : KV FaultRec := []
  /-- records of parked groups resolved while a stop is pending or the context is saved; true is fail (02 R55) -/
  resolved : List (FaultRec × Bool) := []
  nextFault : Nat := 1
  deriving DecidableEq, Repr, Inhabited

/-- A subset that waits at CHSEND or CHRECV: its active fibres, and all its lanes (08 R186; 18 R379). -/
structure ChanWait where
  act : List FibreId
  lanes : List FibreId
  deriving DecidableEq, Repr

/-- A channel of a launch (08 R184 to R188; 18 R378, R379). -/
structure Channel where
  slots : Nat := 1
  size : Nat := 16
  prod : Nat := 0
  cons : Nat := 0
  /-- the producer's next slot and credits -/
  next : Nat := 0
  credits : Nat := 0
  /-- the consumer's next slot and landed count -/
  rnext : Nat := 0
  landed : Nat := 0
  /-- waiting groups of each direction, oldest first -/
  sendq : List ChanWait := []
  recvq : List ChanWait := []
  deriving DecidableEq, Repr, Inhabited

/-- The barrier of a gallery (12 R273; 20 R406): phase number, and the FIDs arrived in it, by team. -/
structure Gallery where
  phase : Nat := 0
  arrived : List FibreId := []
  deriving DecidableEq, Repr, Inhabited

/-- A launch table entry (03 R57 to R67). -/
structure Launch where
  launchId : Dword := 0
  ctx : Nat := 0
  depth : Nat := 0
  parent : Nat := 0xFFFF
  /-- the launch record, sixteen doublewords -/
  words : List Dword := []
  prio : Nat := 0
  /-- the package-wide core of each team -/
  place : List Nat := []
  /-- P0 to P7 and the parameter block -/
  params : List Dword := List.replicate 16 0
  /-- teams not started, rising -/
  unstarted : List Nat := []
  /-- teams started and not completed, by tid -/
  running : List Nat := []
  started : Nat := 0
  children : Nat := 0
  err : Bool := false
  cause : Nat := 0
  detail : Nat := 0
  /-- 0 its checks wait for a read, 1 in force, 2 complete and its report due -/
  phase : Nat := 0
  /-- its place in the order in which launches were taken -/
  born : Nat := 0
  /-- FAULTID of the record that holds its reads or its report -/
  heldBy : Option Nat := none
  galleries : KV Gallery := []
  channels : KV Channel := []
  /-- the graph and node that activated it, and that node's successors (03 R75) -/
  graph : Option (Nat × Nat) := none
  succs : List Nat := []
  deriving DecidableEq, Repr, Inhabited

/-- A launch graph that is running or waits to (03 R73 to R77), under its record's launch. -/
structure Graph where
  ctx : Nat
  /-- the header's virtual and physical address -/
  hdr : Nat
  pa : Nat := 0
  prio : Nat := 0
  active : Bool := false
  nnode : Nat := 0
  /-- activations not yet made, in order; node launches outstanding, and made in all -/
  acts : List Nat := []
  out : Nat := 0
  made : Nat := 0
  /-- the first error's CAUSE and DETAIL -/
  err : Option (Nat × Nat) := none
  /-- FAULTID of the record that holds a read -/
  heldBy : Option Nat := none
  deriving DecidableEq, Repr, Inhabited

/-- Where an uncorrectable error may lie (06 R150; 11 R242). -/
inductive Place where
  /-- a word of memory, by physical word number; in HBM, L2 or an L1 -/
  | mem (word : Nat)
  | spad (tid ofs : Nat)
  | v (f : FibreId) (n : Nat)
  | k (f : FibreId) (n : Nat)
  /-- g0 to g15 of a team, g16 to g63 of a group -/
  | teamG (tid n : Nat)
  | groupG (gid n : Nat)
  /-- a byte of a team's tile store, a cell of its accumulator banks -/
  | tile (tid byte : Nat)
  | acc (tid cell : Nat)
  /-- a drain slot of a core, by context × 64 + slot -/
  | drain (core slot : Nat)
  /-- the sump or spill area of a chamber -/
  | sump (chamber : Nat)
  deriving DecidableEq, Repr

/-- A place in the registers, the tile store or the banks of a team. -/
def Place.ofTeam (tid : Nat) : Place → Bool
  | .v f _ => f.team == tid
  | .k f _ => f.team == tid
  | .teamG t _ => t == tid
  | .tile t _ => t == tid
  | .acc t _ => t == tid
  | _ => false

/-- What may move next, as data (log 1). -/
inductive Directive where
  /-- an event of the hardware, the firmware or the outside -/
  | ev (i : Instr)
  /-- a slot of a core issues on its main port -/
  | issue (core slot : Nat)
  /-- the second port issues beside the main port's group -/
  | second (core slot : Nat)
  /-- a core's clock runs on -/
  | tick (core n : Nat)
  /-- firmware sets a core's width limit as it places a time slice on it (02 R33) -/
  | width (core limit : Nat)
  /-- an uncorrectable error arises (06 R150) -/
  | damage (p : Place)
  deriving DecidableEq, Repr

/-- The instruction being issued: its group, lanes, place and length (log 3). -/
structure Issue where
  gid : Nat
  core : Nat
  ctx : Nat
  pc : Dword
  next : Dword
  /-- the whole PC subset, in LANE order: lane and fibre -/
  lanes : List (Nat × FibreId)
  /-- the instruction's last word is the object's last -/
  atEnd : Bool
  /-- the access that may fail writes: WR of a fault record (12 R262) -/
  wr : Bool := false
  deriving DecidableEq, Repr

/-- A request of a group to a queue's home slice (08 R173 to R181). -/
structure Request where
  /-- 0 ENQ, 1 DEQ, 2 SPAWN -/
  kind : Nat
  iss : Issue
  /-- the fibres by rank, in LANE order -/
  ranks : List FibreId
  cb : Nat
  pa : Nat
  esz : Nat
  trying : Bool
  /-- the elements, by rank -/
  data : List (List Byte)
  /-- where SPAWN's record lies in the scratchpad -/
  recOfs : Nat := 0
  /-- the first v destination; the g and k destinations -/
  vreg : Nat
  greg : Nat
  kreg : Nat
  /-- 0 on its way, 1 a registered waiter, 2 reserved, 3 with its reply -/
  state : Nat := 0
  /-- its waiter entry is spilled to memory (08 R179) -/
  spilled : Bool := false
  /-- elements moved, or the index reserved by SPAWN -/
  moved : Nat := 0
  /-- elements that a DEQ takes -/
  got : List (List Byte) := []
  deriving DecidableEq, Repr

/-- Waiter lists of a queue, oldest first, by request (08 R177). -/
structure Waiters where
  enq : List Nat := []
  deq : List Nat := []
  deriving DecidableEq, Repr, Inhabited

/-- A reservation that is not published (08 R174): its queue, indices, element writes by physical address. -/
structure Reservation where
  pa : Nat
  ctx : Nat
  /-- the core of the group that enqueues; none for other agents -/
  core : Option Nat := none
  first : Nat
  count : Nat
  writes : List (Nat × List Byte)
  /-- the request that waits for it -/
  request : Option Nat
  /-- the element writes are performed -/
  done : Bool := false
  deriving DecidableEq, Repr

/-- A channel slot in flight (08 R186). -/
structure Flight where
  launch : Nat
  cid : Nat
  slot : Nat
  data : List Byte
  src : FibreId
  /-- what the release that it carries waits for (07 R160) -/
  waits : List Nat := []
  deriving DecidableEq, Repr

/-- A target scratchpad of a copy command (09 R195, R196, R203). -/
structure CTarget where
  /-- the gallery member index -/
  member : Nat
  /-- the team, once it has started, and its tag as sampled -/
  tid : Option Nat := none
  tag : Nat := 0
  /-- the barrier arrival is made; the phase number that landings count for -/
  arrived : Bool := false
  phase : Option Nat := none
  /-- bytes landed or dropped, pieces read and not landed, granules dropped -/
  sent : Nat := 0
  queue : List (Nat × List Byte) := []
  lost : List Nat := []
  deriving DecidableEq, Repr, Inhabited

/-- A copy command that is accepted and not complete (09 R189 to R206). -/
structure Cmd where
  /-- 0 COPY, 1 GATHER, 2 SCATTER, 3 MCAST, 4 TCOPY -/
  kind : Nat
  tid : Nat
  ctx : Nat
  core : Nat
  num : Nat := 0
  issuers : List FibreId
  /-- 0 plain, 1 .fadd, 2 .iadd -/
  mode : Nat
  pol : Nat
  res : Nat
  /-- a global source; the destination: 0 scratchpad, 1 global, 2 tile -/
  srcG : Bool
  dst : Nat
  tile : Nat
  sbase : Nat
  dbase : Nat
  /-- the descriptor's doublewords, or RB, SRS and DRS -/
  shape : List Nat
  /-- rows by rank: source and destination row of each entry that is not skipped -/
  entries : List (Option (Nat × Nat))
  /-- barrier offset -/
  bar : Option Nat
  /-- actual bytes -/
  actual : Nat
  targets : KV CTarget := []
  /-- next element or entry, and the scatter journal -/
  next : Nat := 0
  journal : List Nat := []
  /-- what the release towards it waits for (07 R160, R164) -/
  waits : List Nat := []
  /-- FAULTID of the record that parks it -/
  parked : Option Nat := none
  failed : Bool := false
  /-- the queue pairs that have its requests, each with the PSN after the last of them (07 R165; 14 R311) -/
  posted : KV Nat := []
  deriving DecidableEq, Repr, Inhabited

/-- A matrix operation that is accepted and not complete, with its cursor (10 R212, R222, R238). -/
structure MatOp where
  tid : Nat
  ctx : Nat
  core : Nat
  num : Nat := 0
  issuers : List FibreId
  /-- the operand record, and the view that A comes from -/
  dw : List Nat
  view : List Nat := []
  steps : Nat := 1
  interval : Nat := 1
  /-- FPCTL at issue -/
  fpctl : Nat := 0
  /-- leased translations: 64 KiB page and its physical address (10 R228) -/
  lease : KV Nat := []
  /-- what the release towards it waits for (07 R160, R164) -/
  waits : List Nat := []
  /-- the next step, the first of its interval, the sums of the interval, and whether a first promotion is done -/
  step : Nat := 0
  first : Nat := 0
  parts : List Float.FVal := []
  promoted : Bool := false
  /-- the drain's row and block, d0 to d7, RM, RS and the row buffer -/
  row : Nat := 0
  blk : Nat := 0
  d : List (List Word) := []
  rm : Word := 0xFF800000
  rs : Word := 0
  buf : List (Nat × List Word) := []
  stopped : Bool := false
  ignoring : Bool := false
  deriving DecidableEq, Repr, Inhabited

/-- A frame on the wire: its port, the source MAC address, the destination's (none for a broadcast or multicast), the VLAN tag
and the priority it carries; family, source and destination address and DSCP of an IP packet; and its contents (14 R300,
R302). -/
structure Wired where
  port : Nat
  smac : Nat
  dmac : Option Nat
  vid : Option Nat
  prio : Nat
  ip : Option (Bool × Nat × Nat)
  dscp : Option Nat
  pkt : Sent
  deriving DecidableEq, Repr

/-- A packet that waits for its next hop or for a pause to end (14 R302): the hop, or the MAC address it goes to, and the
family and destination of an IP packet. -/
structure Outgoing where
  hop : Option (Bool × Nat)
  mac : Option Nat := none
  ip : Option (Bool × Nat) := none
  pkt : Sent
  deriving DecidableEq, Repr

/-- An Ethernet port (14 R302, R304). -/
structure NetPort where
  up : Bool := false
  /-- resolved next hops: IPv4 and IPv6 address to MAC -/
  hops4 : KV Nat := []
  hops6 : KV Nat := []
  /-- the router of the most recent router advertisement -/
  router : Option Nat := none
  /-- nothing is sent before this clock (14 R302) -/
  paused : Nat := 0
  out : List Outgoing := []
  deriving DecidableEq, Repr, Inhabited

/-- A Druiraim session (14 R305, R310). -/
structure Session where
  sender : Sender
  port : Nat
  /-- the hash of the management key that opened it, and whether that is the owner's -/
  key : List Byte
  owner : Bool
  /-- the session key -/
  skey : List Byte
  /-- the lowest number not executed, by CTXID -/
  next : KV Nat := []
  held : List Frame := []
  /-- kept replies: CTXID, SEQ, KIND and payload, oldest first -/
  kept : List (Nat × Nat × Nat × List Byte) := []
  used : Nat := 0
  deriving DecidableEq, Repr

/-- The device: bring-up, identity, configuration, power, health and the network (14 R297 to R314). -/
structure Device where
  power : Bool := false
  /-- STAGE, READY and FAIL of MSTAT (14 R298) -/
  stage : Nat := 0
  ready : Bool := false
  fail : Nat := 0
  /-- THR of each die, the entry points that it has passed and not left, a bit each, and its last junction reading (14
  R298, R314) -/
  thr : List Nat := [0, 0, 0, 0]
  passed : List Nat := [0, 0, 0, 0]
  junction : List Nat := [0, 0, 0, 0]
  boardTag : Nat := 0
  secret : Nat := 0
  /-- what the unclonable function yields, once it has been read: the same at every power-up (14 R301) -/
  puf : Option Nat := none
  fwVersion : Nat := 0
  fwHash : List Byte := []
  ownerKeys : List Byte := []
  /-- the configuration record in force (14 R300) -/
  cfg : List Dword := []
  cfgHash : List Byte := []
  /-- the cap of a PCAP operation, 0 for none (14 R307) -/
  cap : Nat := 0
  health : HealthReport := ⟨[0, 0, 0, 0], 0, 0, 0, 0, 0⟩
  /-- the hourly history in the external flash, newest first; it outlives the supply (14 R313) -/
  history : List HealthSample := []
  sessions : KV Session := []
  /-- PEER entries: key hash and contexts (14 R307) -/
  peers : KV (List Byte × List Nat) := []
  ports : KV NetPort := []
  stamp : Nat := 0
  deriving DecidableEq, Repr, Inhabited

/-- The machine. -/
structure State where
  agenda : List Directive
  issue : Option Issue
  fresh : Nat
  nextId : Nat
  mem : List Host.Cell
  /-- bytes performed at a home slice and not yet in HBM, by physical address (06 R140) -/
  l2 : KV Byte
  /-- the core that owns each word, by physical word number (06 R132) -/
  owners : KV Nat
  /-- guest copies, by line × 16 + sector of the package that holds them (06 R139) -/
  guests : KV GuestLine
  /-- the lines that the home slices hold, and the count that orders their uses (01 R17; 06 R137, R138) -/
  l2lines : KV L2Line
  l2stamp : Nat
  /-- shared TLB of each sector (06 R147) -/
  stlb : KV (List TlbEntry)
  /-- the spread share S of the configuration image, in GiB (06 R131; 14 R300) -/
  spread : Nat
  registrations : KV Registration
  /-- words whose owner is asked to give them up (06 R492) -/
  withdrawals : List Nat
  pending : KV Pending
  /-- releases not yet performed (07 R160) -/
  releases : KV Release
  packets : KV Packet
  requests : KV Request
  /-- waiter lists, by physical address of the control block -/
  queues : KV Waiters
  reservations : KV Reservation
  /-- a QINIT that waits at a block for its reservations to be published: the group (22 R442) -/
  qhold : KV Nat
  flights : KV Flight
  /-- credits on their way back: launch, channel, count (08 R186) -/
  creditFlights : KV (Nat × Nat × Nat)
  /-- accepted matrix operations -/
  mats : KV MatOp
  /-- open queue pairs, by local number (14 R312) -/
  qps : KV QueuePair
  /-- accepted copy commands -/
  cmds : KV Cmd
  cores : KV Core
  contexts : KV Context
  teams : KV Team
  groups : KV Group
  /-- uncorrectable ECC errors: physical words, scratchpad bytes by team, and v registers (06 R150; log 9) -/
  badMem : List Nat
  badSpad : List (Nat × Nat)
  badReg : List (FibreId × Nat)
  /-- chambers whose sump or spill area holds one (11 R242; log 9) -/
  badSump : List Nat
  /-- the other places that hold one: k and g registers, tile store, accumulator banks, drain store (06 R150; log 9) -/
  badElse : List Place
  /-- words found bad as they were written back with no consumer (06 R150) -/
  badWritten : List Nat
  /-- first fetches that wait for a page-hash check: context, slot, page (13 R286) -/
  hashWait : List (Nat × Nat × Nat)
  /-- the groups that wait for such a check: context, slot, page and the issue that waits (13 R286, R287) -/
  hashHeld : List (Nat × Nat × Nat × Issue)
  /-- launch tables, by die × 16384 + entry (03 R57) -/
  launches : KV Launch
  /-- graphs, by their records' launch -/
  graphs : KV Graph
  /-- per die: launches taken, the context served last; per die, context and priority: the queue served last (03 R57,
  R58) -/
  taken : KV Nat
  lastCtx : KV Nat
  lastQueue : KV Nat
  /-- launches to be aborted for CODEHASH (13 R287) -/
  aborts : List Nat
  /-- what the package has sent, newest first (14 R302 to R312) -/
  wire : List Wired
  dev : Device
  deriving DecidableEq, Repr

/-- The machine right after reset: no power-good yet, every list empty (14 R297). -/
def State.reset : State where
  agenda := []
  issue := none
  fresh := 0
  nextId := 1
  mem := []
  l2 := []
  owners := []
  guests := []
  l2lines := []
  l2stamp := 0
  stlb := []
  spread := 0
  registrations := []
  withdrawals := []
  pending := []
  releases := []
  packets := []
  requests := []
  queues := []
  reservations := []
  qhold := []
  flights := []
  creditFlights := []
  mats := []
  qps := []
  cmds := []
  cores := []
  contexts := []
  teams := []
  groups := []
  badMem := []
  badSpad := []
  badReg := []
  badSump := []
  badElse := []
  badWritten := []
  hashWait := []
  hashHeld := []
  launches := []
  graphs := []
  taken := []
  lastCtx := []
  lastQueue := []
  aborts := []
  wire := []
  dev := {}

end Sys2Proof.Machine
end

