-- ==== Sys2Proof/Machine/Access.lean ====
section
/-! DEFINITION. Accessors of the state: the parts by name, registers with the window of 04 R89, free values, and who
is live, parked or held. -/

namespace Sys2Proof.Machine

/-- The fibre of an index that no team lists. -/
def noFibre : Fibre := { status := .exited }

namespace State

def core (s : State) (n : Nat) : Core := s.cores.getD n {}
def setCore (s : State) (n : Nat) (c : Core) : State := { s with cores := s.cores.put n c }
def modCore (s : State) (n : Nat) (f : Core → Core) : State := s.setCore n (f (s.core n))

def ctx (s : State) (n : Nat) : Context := s.contexts.getD n {}
def setCtx (s : State) (n : Nat) (c : Context) : State := { s with contexts := s.contexts.put n c }
def modCtx (s : State) (n : Nat) (f : Context → Context) : State := s.setCtx n (f (s.ctx n))

def team (s : State) (n : Nat) : Team := s.teams.getD n {}
def setTeam (s : State) (n : Nat) (t : Team) : State := { s with teams := s.teams.put n t }
def modTeam (s : State) (n : Nat) (f : Team → Team) : State := s.setTeam n (f (s.team n))

def group (s : State) (n : Nat) : Group := s.groups.getD n {}
def setGroup (s : State) (n : Nat) (g : Group) : State := { s with groups := s.groups.put n g }
def modGroup (s : State) (n : Nat) (f : Group → Group) : State := s.setGroup n (f (s.group n))

def fibre (s : State) (f : FibreId) : Fibre := (s.team f.team).fibres.getD f.fid noFibre
def setFibre (s : State) (f : FibreId) (x : Fibre) : State :=
  s.modTeam f.team fun t => { t with fibres := t.fibres.put f.fid x }
def modFibre (s : State) (f : FibreId) (g : Fibre → Fibre) : State := s.setFibre f (g (s.fibre f))

/-- The core a fibre runs on: its group's. -/
def coreOf (s : State) (f : FibreId) : Nat := (s.group (s.fibre f).gid).core

def clockOf (s : State) (core : Nat) : Nat := (s.core core).clock

/-- A fresh undefined value (log 4). -/
def freeVal (s : State) : Dword × State := (Config.freeValue s.fresh, { s with fresh := s.fresh + 1 })

/-- A fresh name for a command, packet, request or record (log 5). -/
def newId (s : State) : Nat × State := (s.nextId, { s with nextId := s.nextId + 1 })

/-- One update after another, in list order. -/
def each {α : Type} (s : State) (l : List α) (f : State → α → State) : State := l.foldl f s

end State

/-- A result for a g register. -/
def isG (r : Reg) : Bool :=
  match r with
  | .g _ => true
  | _ => false

/-- The latest listed write to a register that is readable; `done` says which writes are (04 R89). -/
def lateRead (late : List Late) (r : Reg) (done : Late → Bool) : Option Dword :=
  ((late.filter fun l => decide (l.reg = r) && done l).getLast?).map (·.val)

/-- A listed write to a register is not yet readable (04 R91). -/
def latePending (late : List Late) (r : Reg) (done : Late → Bool) : Bool :=
  late.any fun l => decide (l.reg = r) && !done l

/-- A write is readable at a clock of the core that made it. -/
def Late.readyBy (clock : Nat) (l : Late) : Bool := decide (l.ready ≤ clock)

namespace Fibre

/-- Exited fibres are not live (02 R29). -/
def live (f : Fibre) : Bool := f.status != .exited

/-- Call depth (04 R81). -/
def depth (f : Fibre) : Nat := f.rstack.length + f.spilled

/-- v register n at a clock (02 R40; 04 R89). -/
def vAt (f : Fibre) (clock n : Nat) : Word :=
  match lateRead f.late (.v n) (Late.readyBy clock) with
  | some x => x.setWidth 32
  | none => f.v.getD n 0

/-- Predicate n at a clock; k0 reads true (02 R43). -/
def kAt (f : Fibre) (clock n : Nat) : Bool :=
  n == 0 ||
    match lateRead f.late (.k n) (Late.readyBy clock) with
    | some x => x.getLsbD 0
    | none => f.k.getLsbD n

/-- A write that lands at once; a write to k0 is discarded (02 R43). -/
def land (f : Fibre) (r : Reg) (x : Dword) : Fibre :=
  match r with
  | .v n => { f with v := f.v.set n (x.setWidth 32) }
  | .k n =>
    if n == 0 then f
    else { f with k := if x.getLsbD 0 then f.k ||| (1#8 <<< n) else f.k &&& ~~~(1#8 <<< n) }
  | .g _ => f
  | .ret => { f with refill := some x }

/-- Every late write that is readable at a clock lands. -/
def flush (f : Fibre) (clock : Nat) : Fibre :=
  let (old, keep) := f.late.partition (Late.readyBy clock)
  { old.foldl (fun x l => x.land l.reg l.val) f with late := keep }

/-- A write of a fixed-latency unit issued at a clock (04 R89). The listed writes before the first that is not readable
land: what the registers read as at any clock from then on stays. -/
def writeLate (f : Fibre) (clock : Nat) (r : Reg) (x : Dword) : Fibre :=
  let done := Late.readyBy clock
  { (f.late.takeWhile done).foldl (fun x l => x.land l.reg l.val) f with
    late := f.late.dropWhile done ++ [{ reg := r, val := x, ready := clock + 4 }] }

/-- A write that lands now, over every earlier one of the register. -/
def writeNow (f : Fibre) (r : Reg) (x : Dword) : Fibre :=
  { f.land r x with late := f.late.filter fun l => decide (l.reg ≠ r) }

/-- The window of v registers (02 R31, R40). -/
def window (f : Fibre) : Nat := f.v.length

end Fibre

/-- A g register of a list of copies based at `base`. -/
def gRead (regs : List Dword) (late : List Late) (base n : Nat) (done : Late → Bool) : Dword :=
  match lateRead late (.g n) done with
  | some x => x
  | none => regs.getD (n - base) 0

/-- Late writes of g registers land, in their order. -/
def gLand (regs : List Dword) (late : List Late) (base : Nat) : List Dword :=
  late.foldl (fun r l => match l.reg with
    | .g n => if base ≤ n then r.set (n - base) l.val else r
    | _ => r) regs

/-- Late writes of g registers that are readable land. -/
def gFlush (regs : List Dword) (late : List Late) (base : Nat) (done : Late → Bool) : List Dword × List Late :=
  let (old, keep) := late.partition done
  (gLand regs old base, keep)

namespace State

/-- The lead fibre of a group: its member with the lowest FID, then the lowest member index (11 R246; log 14). A lane
whose fibre left for another group counts no more. -/
def lead (s : State) (gid : Nat) : FibreId :=
  (sortBy (fun f : FibreId => f.fid * 2 ^ 24 + (s.team f.team).num)
    ((s.group gid).members.filter fun f => f.team != 0)).headD ⟨0, 0⟩

/-- The team whose g0 to g15, FPCTL, CPSTAT and MXSTAT a group uses (11 R246, R247). -/
def leadTeam (s : State) (gid : Nat) : Nat := (s.lead gid).team

/-- A write has completed: the core that made it has reached its clock (02 R41, R47; 04 R89). -/
def lateDone (s : State) (l : Late) : Bool := l.readyBy (s.clockOf l.core)

/-- A g register as a group reads it at its issue clock (02 R41, R42). -/
def gReg (s : State) (gid n : Nat) : Dword :=
  if n < 16 then
    let t := s.team (s.leadTeam gid)
    gRead t.g t.late 0 n s.lateDone
  else
    let grp := s.group gid
    gRead grp.g grp.late 16 n s.lateDone

/-- A g write of a fixed-latency unit (02 R41; 04 R89). The listed writes before the first that is not readable land. -/
def gWriteLate (s : State) (gid n : Nat) (x : Dword) : State :=
  let core := (s.group gid).core
  let w : Late := ⟨.g n, x, s.clockOf core + 4, core, gid⟩
  if n < 16 then
    s.modTeam (s.leadTeam gid) fun t =>
      { t with g := gLand t.g (t.late.takeWhile s.lateDone) 0, late := t.late.dropWhile s.lateDone ++ [w] }
  else
    s.modGroup gid fun t =>
      { t with g := gLand t.g (t.late.takeWhile s.lateDone) 16, late := t.late.dropWhile s.lateDone ++ [w] }

/-- A write of g0 to g15 of a team that lands now. Writes of other groups that have not completed stay to come (02 R41). -/
def teamGNow (s : State) (tid gid n : Nat) (x : Dword) : State :=
  s.modTeam tid fun t =>
    { t with
      g := t.g.set n x
      late := t.late.filter fun l => decide (l.reg ≠ .g n) || (decide (l.gid ≠ gid) && !s.lateDone l) }

/-- The place of a g register that a group with a lead team sees. -/
def gPlace (gid tid n : Nat) : Place := if n < 16 then .teamG tid n else .groupG gid n

/-- A g write that lands now; an error in the register goes with it (06 R150). -/
def gWriteNow (s : State) (gid n : Nat) (x : Dword) : State :=
  let s := { s with badElse := s.badElse.filter fun x => x != gPlace gid (s.leadTeam gid) n }
  if n < 16 then s.teamGNow (s.leadTeam gid) gid n x
  else
    s.modGroup gid fun t =>
      { t with g := t.g.set (n - 16) x, late := t.late.filter fun l => decide (l.reg ≠ .g n) }

/-- An error in a register goes with the write of a result (06 R150). -/
def mendReg (s : State) (f : FibreId) (gid tid : Nat) (r : Reg) : State :=
  match r with
  | .v n => { s with badReg := s.badReg.filter fun x => x != (f, n) }
  | .k n => { s with badElse := s.badElse.filter fun x => x != .k f n }
  | .g n => { s with badElse := s.badElse.filter fun x => x != gPlace gid tid n }
  | .ret => s

/-- A result lands in its destinations: those of a fibre, and g registers. g0 to g15 are those of the team that its
group used as it issued, g16 to g63 go with a group that is no more (02 R41, R42). -/
def landResult (s : State) (f : FibreId) (gid tid : Nat) (dests : List (Reg × Dword)) : State :=
  s.each dests fun s (r, x) =>
    let s := s.mendReg f gid tid r
    match r with
    | .g n =>
      if n < 16 then if (s.teams.find tid).isSome then s.teamGNow tid gid n x else s
      else if (s.groups.find gid).isSome then s.gWriteNow gid n x else s
    | _ => s.modFibre f fun t => t.writeNow r x

/-- The members of a group that are live, with their lanes (02 R24, R34). -/
def liveLanes (s : State) (gid : Nat) : List (Nat × FibreId) :=
  let m := (s.group gid).members
  ((upto m.length).zip m).filter fun x => (s.fibre x.2).live

/-- Lanes that a handler of the group leaves free to run: all but the held ones (12 R257, R259). -/
def freeLanes (s : State) (gid : Nat) : List (Nat × FibreId) :=
  (s.liveLanes gid).filter fun x => (s.fibre x.2).heldBy.isEmpty

/-- Lanes that take part in the vote: neither Blocked nor Faulted nor held (04 R81; 12 R259, R260). -/
def voters (s : State) (gid : Nat) : List (Nat × FibreId) :=
  (s.freeLanes gid).filter fun x =>
    let f := s.fibre x.2
    f.status == .ready && f.firm.isEmpty

/-- A group is diverged when its live lanes do not all stand at one PC (02 R42; 12 R257). -/
def diverged (s : State) (gid : Nat) : Bool :=
  match s.freeLanes gid with
  | [] => false
  | (_, f) :: r => r.any fun x => (s.fibre x.2).pc != (s.fibre f).pc

/-- DEPTH of a launch: nesting depth, 0 to 8 (03 R59). -/
def depthOf (s : State) (key : Nat) : Nat := (s.launches.getD key {}).depth

/-- Live fibres of a team (02 R29). -/
def liveFibres (s : State) (tid : Nat) : List FibreId :=
  ((s.team tid).fibres.filter fun x => x.2.live).map fun x => ⟨tid, x.1⟩

/-- The team's fibres run with its own rights in a handler (12 R257). -/
def inHandler (s : State) (f : FibreId) : Bool := (s.fibre f).handler.isSome

end State

/-- The sector of the package that a core lies in (01 R9). -/
def sectorOfCore (core : Nat) : Nat := core / 16

/-- The chamber of a core (01 R9). -/
def chamberOfCore (core : Nat) : Nat := core / 4

end Sys2Proof.Machine
end

