-- ==== Sys2Proof/Machine/Memory.lean ====
section
/-! DEFINITION. Memory: HBM in canonical form, the home slices, L1 with ownership, registrations, and translation
(06_memory_hierarchy R127 to R150, R492). -/

namespace Sys2Proof.Machine

/-! HBM. An unlisted byte reads 0: bring-up writes zero to every location (14 R297). -/

/-- The byte of HBM at a physical address. -/
def Memory.read (m : List Host.Cell) (a : Nat) : Byte := KV.getD m a 0

/-- A byte of HBM written; zero is not listed. -/
def Memory.write (m : List Host.Cell) (a : Nat) (b : Byte) : List Host.Cell := if b == 0 then KV.del m a else KV.put m a b

/-- The canonical form: addresses rise strictly and no listed byte is 0. -/
def Memory.wf (m : List Host.Cell) : Bool := KV.sorted m && m.all (·.2 != 0)

/-- Consecutive bytes of HBM written. -/
def Memory.writes (m : List Host.Cell) : Nat → List Byte → List Host.Cell
  | _, [] => m
  | a, b :: r => Memory.writes (Memory.write m a b) (a + 1) r

/-- A word of four bytes. -/
def wordOf (bs : List Byte) : Word := BitVec.ofNat 32 (leNat bs)

/-- Byte i of a word. -/
def byteOf (w : Word) (i : Nat) : Byte := BitVec.ofNat 8 (w.toNat / 2 ^ (8 * i))

/-- A word with byte i replaced. -/
def setByte (w : Word) (i : Nat) (b : Byte) : Word :=
  wordOf ((upto 4).map fun j => if j == i then b else byteOf w j)

/-- The home slice of a line, numbered in the package (06 R132). -/
def homeSlice (pa : Nat) : Nat :=
  if pa < 2 ^ 47 then 24 * (pa / 2 ^ 37) + pa % 2 ^ 37 / 512 % 24
  else 24 * ((pa - 2 ^ 47) / 4096 % 4) + (pa - 2 ^ 47) / 512 % 24

/-- The die of a home slice. -/
def homeDie (pa : Nat) : Nat := homeSlice pa / 24

/-- The sector of the package that a line's home slice lies in (06 R132). -/
def homeSector (pa : Nat) : Nat := homeSlice pa / 8

/-- The set of its home slice that a line falls into: 4,096 sets of 16 ways (01 R17). DESIGN CHOICE (log 34): the spec
gives no index; the lines of a slice are counted in address order, modulo 4,096. -/
def l2Set (line : Nat) : Nat :=
  let o := if 64 * line < 2 ^ 47 then 64 * line % 2 ^ 37 else 64 * line - 2 ^ 47
  (o / 512 / (if 64 * line < 2 ^ 47 then 24 else 96) * 8 + line % 8) % 4096

/-- The 64-byte lines that a run of bytes touches. -/
def linesOf (pa n : Nat) : List Nat := if n == 0 then [] else stepsFrom (pa / 64) 1 ((pa + n - 1) / 64 + 1 - pa / 64)

/-- The slice and the set that hold a line at its home (01 R17; 06 R132). -/
def homeWay (line : Nat) : Nat × Nat := (homeSlice (64 * line), l2Set line)

/-- The slice and the set that hold a guest copy: the slice of its sector whose index is the home slice's (06 R139). -/
def guestWay (key : Nat) : Nat × Nat := (8 * (key % 16) + homeSlice (64 * (key / 16)) % 8, l2Set (key / 16))

/-- Two lines compete for the ways of one L2 set. -/
def sameL2Set (a b : Nat) : Bool := homeWay a == homeWay b

namespace State

/-- A byte as the home slice holds it without asking an owner (06 R132, R140). -/
def sliceByte (s : State) (pa : Nat) : Byte :=
  match s.l2.find pa with
  | some b => b
  | none => Memory.read s.mem pa

/-- A byte as a read that reaches the home returns it: the owner answers for an owned word (06 R135). -/
def homeByte (s : State) (pa : Nat) : Byte :=
  match s.owners.find (pa / 4) with
  | some c =>
    match (s.core c).l1.find (pa / 4) with
    | some w => byteOf w.data (pa % 4)
    | none => s.sliceByte pa
  | none => s.sliceByte pa

def homeBytes (s : State) (pa n : Nat) : List Byte := (upto n).map fun i => s.homeByte (pa + i)

def homeWord (s : State) (w : Nat) : Word := wordOf (s.homeBytes (4 * w) 4)

def home64 (s : State) (pa : Nat) : Dword := BitVec.ofNat 64 (leNat (s.homeBytes pa 8))

/-- The home invalidates every guest copy of a line (06 R139). -/
def dropGuests (s : State) (line : Nat) : State := { s with guests := s.guests.filter fun x => x.1 / 16 != line }

/-- A core's copy of a word is discarded. -/
def l1Drop (s : State) (core w : Nat) : State := s.modCore core fun c => { c with l1 := c.l1.del w }

/-- The least recently used of some L2 lines. -/
def l2Oldest {α : Type} (l : List (α × L2Line)) : Option α := (sortBy (fun x : α × L2Line => x.2.used) l).head?.map (·.1)

/-- A line is used at its home's L2 without a hint: allocated where it is new, else with the marks it has (06 R137, R138). -/
def l2Touch (s : State) (line : Nat) : State :=
  { s with
    l2stamp := s.l2stamp + 1
    l2lines := s.l2lines.put line { s.l2lines.getD line { used := 0 } with used := s.l2stamp + 1 } }

/-- A line is used at its home's L2, allocated where it is new, with its residence hint. An evict-last allocation into a
full quota of eight sends the set's least recently used evict-last line out (06 R137, R138). DESIGN CHOICE (log 15): a line
keeps an evict-first mark, at L1 and at L2, until it leaves or is made evict-last, whatever hints later accesses carry. -/
def l2Hint (s : State) (pa : Nat) (res : Nat) : State :=
  let line := pa / 64
  let old := s.l2lines.getD line { used := 0 }
  let quota := s.l2lines.filter fun x => x.2.el && !x.2.out && x.1 != line && sameL2Set x.1 line
  let lines := if res == 2 && !old.el && 8 ≤ quota.length then
      match l2Oldest quota with
      | some v => s.l2lines.upd v fun x => { x with out := true }
      | none => s.l2lines
    else s.l2lines
  { s with
    l2stamp := s.l2stamp + 1
    l2lines := lines.put line
      { used := s.l2stamp + 1, ef := (res == 1 || old.ef) && !(old.el || res == 2), el := old.el || res == 2 } }

/-- Bytes enter the coherence order at the home slice; nobody owns their words any more (06 R135). -/
def slicePut (s : State) (pa : Nat) (bs : List Byte) : State :=
  let s := s.each ((upto bs.length).zip bs) fun s (i, b) => { s with l2 := s.l2.put (pa + i) b }
  s.each (linesOf pa bs.length) l2Touch

/-- The 64-bit granule of a word holds an uncorrectable error: one of its two words has not been overwritten since
(06 R150; log 9). -/
def badWord (s : State) (w : Nat) : Bool := s.badMem.any fun x => x / 2 == w / 2

/-- A line leaves L2: its dirty bytes go to HBM (06 R138, R140). An error in one of them that nobody consumes is told to
firmware (R150). -/
def l2Evict (s : State) (line : Nat) : State :=
  let dirty := s.l2.filter fun x => x.1 / 64 == line
  { s with
    l2lines := s.l2lines.del line
    l2 := s.l2.filter fun x => x.1 / 64 != line
    mem := dirty.foldl (fun m x => Memory.write m x.1 x.2) s.mem
    badWritten := s.badWritten ++ nub ((dirty.map fun x => x.1 / 4).filter s.badWord) }

/-- The line that leaves an overfull L2 set: evict-first, then the least recently used that is not evict-last, then the
least recently used (06 R137, R138; log 15). -/
def l2Victim {α : Type} (l : List (α × L2Line)) : Option α :=
  match l2Oldest (l.filter (·.2.ef)) with
  | some x => some x
  | none =>
    match l2Oldest (l.filter fun x => !x.2.el) with
    | some x => some x
    | none => l2Oldest l

/-- What stands in the ways of a set of a slice: home lines and guest copies (01 R17; 06 R139). -/
def l2Ways (s : State) (w : Nat × Nat) : List ((Bool × Nat) × L2Line) :=
  ((s.l2lines.filter fun x => homeWay x.1 == w).map fun x => ((true, x.1), x.2)) ++
    ((s.guests.filter fun x => guestWay x.1 == w).map fun x => ((false, x.1), { used := x.2.used }))

/-- A set is brought back to sixteen ways (01 R17); a guest copy leaves without a trace. -/
def l2Fit (s : State) (w : Nat × Nat) : State :=
  let set := s.l2Ways w
  if set.length ≤ 16 then s
  else
    match l2Victim set with
    | some (true, v) => s.l2Evict v
    | some (false, k) => { s with guests := s.guests.del k }
    | none => s

/-- The slices send out what has to leave: lines that lost a quota, and a line of every overfull set (06 R138). -/
def l2Trim (s : State) : State :=
  let s := s.each (s.l2lines.filter (·.2.out)) fun s x => s.l2Evict x.1
  if s.l2lines.length + s.guests.length ≤ 16 then s
  else
    let s := s.each s.l2lines fun s x => s.l2Fit (homeWay x.1)
    s.each s.guests fun s x => s.l2Fit (guestWay x.1)

/-- A registration without a word. -/
def dropWord (r : Registration) (w : Nat) : Registration :=
  { r with words := r.words.filter (· != w), bytes := r.bytes.filter (· / 4 != w) }

/-- A word leaves every registration of a core that is still in the core; one that the home has recorded is acknowledged
first (06 R135). -/
def unregister (s : State) (core w : Nat) : State :=
  let kept := s.registrations.filter fun x => !(x.2.core == core && x.2.recorded && x.2.words.contains w)
  let left := kept.map fun x => (x.1, if x.2.core == core then dropWord x.2 w else x.2)
  { s with registrations := left.filter fun x => !x.2.words.isEmpty }

/-- A former owner's copy is discarded without write-back (06 R135). DESIGN CHOICE (log 34): a newer store of that core
whose registration is still in the core counts as having reached the home before, since reads forwarded to the owner
have returned it (07 R157); its registration ends there. -/
def discard (s : State) (core w : Nat) : State :=
  let left := s.registrations.map fun x =>
    (x.1, if x.2.core == core && !x.2.recorded then dropWord x.2 w else x.2)
  { s with registrations := left.filter fun x => !x.2.words.isEmpty }.l1Drop core w

/-- The registration of a core that holds a word and has not reached the home (06 R134). -/
def unrecorded (s : State) (core w : Nat) : Option Registration :=
  (s.registrations.find? fun x => x.2.core == core && !x.2.recorded && x.2.words.contains w).map (·.2)

/-- A core's copy of a word as the home is to take it. DEDUCED (log 34): stores of two agents to different bytes of a word
are no conflict (07 R152), and both last (R155), so of a word that the home does not yet know to be the core's, the bytes
that the core has not stored are those that the home or the former owner holds now. -/
def merged (s : State) (core w : Nat) (x : Word) : Word :=
  match s.unrecorded core w with
  | some r =>
    if s.owners.find w == some core then x
    else wordOf ((upto 4).map fun i => if r.bytes.contains (4 * w + i) then byteOf x i else s.homeByte (4 * w + i))
  | none => x

/-- The core's copy of a word takes the bytes that it has not stored from the home (log 34). -/
def mergeWord (s : State) (core w : Nat) : State :=
  match (s.core core).l1.find w with
  | some x => if x.owned then s.modCore core fun c => { c with l1 := c.l1.put w { x with data := s.merged core w x.data } } else s
  | none => s

/-- A core writes an owned word back to the home and gives up its ownership, and invalidates its copy (06 R135, R492).
A registration still in the core is replaced by this message: the former owner's copy is discarded. An error in the
word, which nobody consumes, is told to firmware (R150). -/
def writeBack1 (s : State) (core w : Nat) : State :=
  match (s.core core).l1.find w with
  | some x =>
    if x.owned then
      let data := s.merged core w x.data
      let s := if s.badWord w then { s with badWritten := s.badWritten ++ [w] } else s
      let s := match s.owners.find w with
        | some c => if c == core then s else s.discard c w
        | none => s
      let s := (s.unregister core w).dropGuests (w / 16)
      let s := { s with owners := s.owners.del w }
      (s.slicePut (4 * w) ((upto 4).map (byteOf data))).l1Drop core w
    else s
  | none => s

/-- The other word of a word's 64-bit granule. -/
def twin (w : Nat) : Nat := w / 2 * 2 + (1 - w % 2)

/-- A core writes an owned word back. DEDUCED (log 34): where one registration that is still in the core holds both words of
a 64-bit granule and the home knows the core as owner of neither, both are written back together, since one store may have
written them (07 R157). -/
def writeBack (s : State) (core w : Nat) : State :=
  let both := match s.unrecorded core w with
    | some r => r.words.contains (twin w) && s.owners.find w != some core && s.owners.find (twin w) != some core
    | none => false
  if both then (s.writeBack1 core w).writeBack1 core (twin w) else s.writeBack1 core w

/-- The home withdraws a word from its recorded owner (06 R492). -/
def withdraw (s : State) (w : Nat) : State :=
  match s.owners.find w with
  | some c => { s.writeBack c w with owners := s.owners.del w }
  | none => s

/-- The words that a run of bytes touches. -/
def wordsOf (pa n : Nat) : List Nat := if n == 0 then [] else stepsFrom (pa / 4) 1 ((pa + n - 1) / 4 + 1 - pa / 4)

/-- The 16-byte sectors that a run of bytes touches. -/
def sectorsOf (pa n : Nat) : List Nat := if n == 0 then [] else stepsFrom (pa / 16) 1 ((pa + n - 1) / 16 + 1 - pa / 16)

/-- A word that a run of bytes writes whole holds no error any more; its granule reads without one once both its words are
so written (06 R150; log 9). -/
def repair (s : State) (pa n : Nat) : State :=
  if s.badMem.isEmpty then s
  else { s with badMem := s.badMem.filter fun w => !(decide (pa ≤ 4 * w) && decide (4 * w + 4 ≤ pa + n)) }

/-- A write performed at the home slice: ownership withdrawn, guest copies invalidated (06 R135, R139, R492). -/
def homeWrite (s : State) (pa : Nat) (bs : List Byte) : State :=
  let s := s.each (wordsOf pa bs.length) fun s w => (s.withdraw w).dropGuests (w / 16)
  (s.repair pa bs.length).slicePut pa bs

def homeWrite64 (s : State) (pa : Nat) (x : Dword) : State := s.homeWrite pa (leBytes 8 x.toNat)

/-- The home writes owned and dirty words of some sectors back to HBM (06 R140). DESIGN CHOICE (log 34): every owned word
of the sectors is withdrawn under R492, for a .sys load too, so that its owner loses ownership and copy; R140 says only that
it is written back. An error in a dirty word, which nobody consumes, is told to firmware (R150). -/
def flushSectors (s : State) (pa n : Nat) : State :=
  s.each (sectorsOf pa n) fun s q =>
    let s := s.each (stepsFrom (4 * q) 1 4) fun s w => s.withdraw w
    let bad := (stepsFrom (4 * q) 1 4).filter fun w =>
      s.badWord w && !s.badWritten.contains w && (upto 4).any fun i => (s.l2.find (4 * w + i)).isSome
    let s := if bad.isEmpty then s else { s with badWritten := s.badWritten ++ bad }
    s.each (stepsFrom (16 * q) 1 16) fun s a =>
      match s.l2.find a with
      | some b => { s with mem := Memory.write s.mem a b, l2 := s.l2.del a }
      | none => s

/-- A .sys load (06 R140). -/
def sysRead (s : State) (pa n : Nat) : List Byte × State :=
  let s := s.flushSectors pa n
  ((upto n).map fun i => Memory.read s.mem (pa + i), s)

/-- A .sys store: through to HBM (06 R140). -/
def sysWrite (s : State) (pa : Nat) (bs : List Byte) : State :=
  let s := (s.homeWrite pa bs).flushSectors pa bs.length
  s

/-- A remote write goes to HBM and invalidates clean copies (06 R140). DESIGN CHOICE (log 34): where the home holds
dirty bytes or an owner holds the word, those stay and hide HBM's new bytes until a .sys access; R140 allows either
value there. An error in a word of HBM that is overwritten whole goes (R150). -/
def remoteWrite (s : State) (pa : Nat) (bs : List Byte) : State :=
  let s := s.each (wordsOf pa bs.length) fun s w => s.dropGuests (w / 16)
  let hidden := fun (w : Nat) => (s.owners.find w).isSome || (upto 4).any fun i => (s.l2.find (4 * w + i)).isSome
  { s with
    mem := Memory.writes s.mem pa bs
    badMem := s.badMem.filter fun w => !(decide (pa ≤ 4 * w) && decide (4 * w + 4 ≤ pa + bs.length)) || hidden w }

/-- A remote read takes HBM's bytes (06 R140). -/
def remoteRead (s : State) (pa n : Nat) : List Byte := (upto n).map fun i => Memory.read s.mem (pa + i)

/-! L1 (06 R133 to R138). -/

/-- The words of a line that a core holds. -/
def l1LineWords (c : Core) (line : Nat) : List Nat :=
  (c.l1.filter fun x => x.1 / 16 == line).map (·.1)

/-- The words of a line that a core owns. -/
def ownedWords (s : State) (core line : Nat) : List Nat :=
  ((s.core core).l1.filter fun x => x.1 / 16 == line && x.2.owned).map (·.1)

/-- A line leaves L1: owned words are written back, their acknowledgements first, the rest dropped (06 R135). -/
def evictLine (s : State) (core line : Nat) : State :=
  let s := s.each (l1LineWords (s.core core) line) fun s w => (s.writeBack core w).l1Drop core w
  s.modCore core fun c => { c with lines := c.lines.del line }

/-- The least recently used of some L1 lines. -/
def lruLine (ls : List (Nat × L1Line)) : Option Nat := (sortBy (fun x : Nat × L1Line => x.2.used) ls).head?.map (·.1)

/-- The line that leaves a full set: evict-first, then the least recently used that is not evict-last, then the least
recently used (06 R137, R138; log 15). -/
def victim (ls : List (Nat × L1Line)) : Option Nat :=
  match lruLine (ls.filter (·.2.ef)) with
  | some x => some x
  | none =>
    match lruLine (ls.filter fun x => !x.2.el) with
    | some x => some x
    | none => lruLine ls

/-- The lines of an L1 set: 256 sets (06 R133). DESIGN CHOICE (log 34): the spec does not say which set an address
falls into; it is the physical line number modulo 256. -/
def setLines (c : Core) (line : Nat) : List (Nat × L1Line) := c.lines.filter fun x => x.1 % 256 == line % 256

/-- A line is used, allocated where it is new, with its hint: `st` makes a line that it allocates evict-first. An
evict-last allocation into a full quota sends the set's least recently used evict-last line out, and then a new line in a
full set the victim (06 R137, R138). A line keeps an evict-first mark until it leaves or is made evict-last, a DESIGN CHOICE
(log 15): the spec does not say whether a later access without a hint clears it. -/
def touchLine (s : State) (core line : Nat) (st ef el : Bool) : State :=
  let old := (s.core core).lines.find line
  let quota := (setLines (s.core core) line).filter fun x => x.2.el && x.1 != line
  let full := if el && !(old.any (·.el)) && 4 ≤ quota.length then lruLine quota else none
  let s := match full with
    | some v => s.evictLine core v
    | none => s
  let out := if old.isSome || (setLines (s.core core) line).length < 8 then none else victim (setLines (s.core core) line)
  let s := match out with
    | some v => s.evictLine core v
    | none => s
  let first := match old with
    | some x => ef || x.ef
    | none => ef || st
  let last := el || old.any (·.el)
  s.modCore core fun c => { c with stamp := c.stamp + 1, lines := c.lines.put line ⟨c.stamp + 1, first && !last, last⟩ }

/-- A word's copy is written in L1. -/
def l1Put (s : State) (core w : Nat) (x : L1Word) : State := s.modCore core fun c => { c with l1 := c.l1.put w x }

/-- The guest copy of a line in a core's sector (06 R139). -/
def guestOf (s : State) (core line : Nat) : Option GuestLine := s.guests.find (line * 16 + sectorOfCore core)

/-- A guest copy of a line stands in a core's sector and is used now. -/
def guestPut (s : State) (core line : Nat) (bs : List Byte) : State :=
  { s with l2stamp := s.l2stamp + 1, guests := s.guests.put (line * 16 + sectorOfCore core) ⟨bs, s.l2stamp + 1⟩ }

/-- A read of a core that reaches L2 leaves a guest copy in its sector, where the line is homed in another (06 R139). -/
def guestAdd (s : State) (core line : Nat) : State :=
  if homeSector (64 * line) == sectorOfCore core || (s.guestOf core line).isSome then s
  else s.guestPut core line ((upto 64).map fun i => s.sliceByte (64 * line + i))

/-- A byte as a core's read beyond its L1 returns it: from the guest copy of its sector, an owned word passing through to
the home (06 R135, R139). -/
def readByte (s : State) (core pa : Nat) : Byte :=
  match s.owners.find (pa / 4), s.guestOf core (pa / 64) with
  | none, some x => x.data.getD (pa % 64) 0
  | _, _ => s.homeByte pa

/-- A read beyond a core's L1: what it returns, with the lines used at L2 and the guest copies made (06 R135, R139). -/
def readHome (s : State) (core pa n : Nat) : List Byte × State :=
  let s := s.each (linesOf pa n) fun s line =>
    match s.guestOf core line with
    | some x => s.guestPut core line x.data
    | none => (s.l2Touch line).guestAdd core line
  ((upto n).map fun i => s.readByte core (pa + i), s)

/-- The words of a sector that the core does not own are filled from the home (06 R136). Words that are valid and not
owned are filled again, so that no access finds parts of two values (07 R157). The sector's line stands in L1 already,
with the marks of the access that allocated it, or is allocated without a hint (R137). -/
def l1Fill (s : State) (core sector : Nat) : State :=
  let s := if ((s.core core).lines.find (sector / 4)).isSome then s else s.touchLine core (sector / 4) false false false
  let (bs, s) := s.readHome core (16 * sector) 16
  s.each (stepsFrom (4 * sector) 1 4) fun s w =>
    let new : L1Word := ⟨wordOf ((bs.drop (4 * (w % 4))).take 4), false⟩
    match (s.core core).l1.find w with
    | some x => if x.owned then s else s.l1Put core w new
    | none => s.l1Put core w new

/-- Every byte of a run is valid in a core's L1. -/
def l1Valid (s : State) (core pa n : Nat) : Bool :=
  (wordsOf pa n).all fun w => ((s.core core).l1.find w).isSome

/-- Bytes of valid words of L1. -/
def l1Bytes (s : State) (core pa n : Nat) : List Byte :=
  (upto n).map fun i =>
    match (s.core core).l1.find ((pa + i) / 4) with
    | some w => byteOf w.data ((pa + i) % 4)
    | none => s.homeByte (pa + i)

/-- A registration for some words of a sector, with the bytes stored in them: merged with one that has not left the core
(06 R134). -/
def register (s : State) (core sector : Nat) (ws bytes : List Nat) (fibs : List FibreId) : State :=
  match s.registrations.find? fun (_, r) => r.core == core && r.sector == sector && !r.recorded with
  | some (i, r) =>
    let r' : Registration := { r with
      words := r.words ++ ws.filter (fun w => !r.words.contains w)
      fibres := r.fibres ++ fibs.filter (fun f => !r.fibres.contains f)
      bytes := r.bytes ++ bytes.filter (fun a => !r.bytes.contains a) }
    { s with registrations := s.registrations.put i r' }
  | none =>
    let (i, s) := s.newId
    { s with registrations := s.registrations.put i ⟨core, sector, ws, fibs, false, bytes⟩ }

/-- The words of 64-bit granules that a store writes whole of which the core is the recorded owner, while the other word of
the granule is not the core's. -/
def halfOwned (s : State) (core pa n : Nat) : List Nat :=
  (wordsOf pa n).filter fun w =>
    decide (pa ≤ w / 2 * 8) && decide (w / 2 * 8 + 8 ≤ pa + n) && s.owners.find w == some core &&
      s.owners.find (twin w) != some core

/-- A store performed in L1 (06 R134). DEDUCED (log 34): where the core is the recorded owner of one word of a 64-bit
granule that the store writes whole, it writes that word back first, so that the home has both words old until it records
both (07 R157). -/
def l1Store (s : State) (core : Nat) (fib : FibreId) (pa : Nat) (bs : List Byte) (st ef el : Bool) : State :=
  let s := s.each (sectorsOf pa bs.length) fun s q =>
    let ws := (wordsOf pa bs.length).filter fun w => w / 4 == q
    let whole := ws.all fun w => pa ≤ 4 * w && 4 * w + 4 ≤ pa + bs.length
    let s := s.touchLine core (q / 4) st ef el
    if whole || s.l1Valid core pa bs.length then s else s.l1Fill core q
  let s := s.each (s.halfOwned core pa bs.length) fun s w => s.writeBack core w
  let s := s.repair pa bs.length
  let s := s.each (wordsOf pa bs.length) fun s w =>
    let old := match (s.core core).l1.find w with
      | some x => x.data
      | none => 0
    let new := (upto 4).foldl (fun x i =>
      if pa ≤ 4 * w + i && 4 * w + i < pa + bs.length then setByte x i (bs.getD (4 * w + i - pa) 0) else x) old
    s.l1Put core w ⟨new, true⟩
  s.each (sectorsOf pa bs.length) fun s q =>
    s.register core q ((wordsOf pa bs.length).filter fun w => w / 4 == q)
      ((stepsFrom pa 1 bs.length).filter fun a => a / 16 == q) [fib]

/-- An acquire clears every word that the core does not own (06 R136; 07 R161). Of the words whose registration has not
reached the home, the bytes that the core has not stored are read anew (log 34). -/
def l1Acquire (s : State) (core : Nat) : State :=
  let s := s.modCore core fun c => { c with l1 := c.l1.filter fun x => x.2.owned }
  let waiting := s.registrations.filter fun x => x.2.core == core && !x.2.recorded
  s.each (waiting.map (·.2.words)).flatten fun s w => s.mergeWord core w

/-- The issuing core's own owned words of a run are written back, and its copies made invalid (06 R137, R143, R492). -/
def cleanOwn (s : State) (core : Nat) (ws : List Nat) : State :=
  s.each ws fun s w => (s.writeBack core w).l1Drop core w

/-- An access at the home clears a core's copies that it does not own, so that a later load refills them (07 R159). -/
def staleDrop (s : State) (core : Nat) (ws : List Nat) : State :=
  s.each ws fun s w =>
    match (s.core core).l1.find w with
    | some x => if x.owned then s else s.l1Drop core w
    | none => s

/-- A registration of the core covers a word and the home has recorded it: a write-back waits for its
acknowledgement (06 R135). -/
def ackPending (s : State) (core w : Nat) : Bool :=
  s.registrations.any fun (_, r) => r.core == core && r.recorded && r.words.contains w

/-- A registration of a fibre, or of its core, to a line is not acknowledged (07 R159). DEDUCED (log 34): R159 names the
fibre's own; what another fibre of the core has stored in L1 the fibre may have read there, and an access at the home that
came before that store's registration would then go back in the word's order (R157). -/
def lineRegistered (s : State) (fib : FibreId) (line : Nat) : Bool :=
  s.registrations.any fun (_, r) => r.sector / 4 == line && (r.fibres.contains fib || r.core == s.coreOf fib)

/-! Translation (06 R144 to R148). -/

end State

/-- Why an access is made (06 R146). -/
inductive Xlat where
  | ok (pa : Nat)
  /-- a network-window page: endpoint and remote offset -/
  | net (ep offset : Nat)
  /-- a fault, recoverable or not -/
  | fault (recoverable : Bool)
  /-- an uncorrectable error in a table entry (06 R150) -/
  | ecc
  deriving DecidableEq, Repr

/-- A physical address that HBM backs (06 R131). -/
def populated (spread pa : Nat) : Bool :=
  if pa < 2 ^ 47 then decide (pa / 2 ^ 37 < 4) && decide (pa % 2 ^ 37 < (96 - spread) * 2 ^ 30)
  else decide (pa - 2 ^ 47 < 4 * spread * 2 ^ 30)

/-- Reserved bits of a valid entry (06 R145; log 16). -/
def pteReserved (p : Nat) : Bool :=
  bits p 15 9 != 0 || bit p 47 ||
    (if bit p 1 then !bit p 5 && bits p 63 48 != 0 else bits p 8 2 != 0 || bits p 63 48 != 0)

/-- A leaf where none may be, or none where one must be (06 R145, R146). -/
def leafIllegal (p level : Nat) : Bool :=
  (level == 1 && bit p 1) || (level == 3 && !bit p 1) ||
    (level == 2 && bit p 1 && !bit p 5 && bits p 28 16 != 0)

/-- The index of a level (06 R144). -/
def pteIndex (va level : Nat) : Nat :=
  if level == 1 then bits va 47 42 else if level == 2 then bits va 41 29 else bits va 28 16

/-- The physical address or remote offset that a leaf gives an address (06 R145). -/
def leafTarget (p va : Nat) (big : Bool) : Xlat :=
  let ofs := if big then va % 2 ^ 29 else va % 2 ^ 16
  if bit p 5 then .net (bits p 63 48) (bits p 46 16 * 2 ^ 16 + ofs)
  else .ok ((if bit p 4 then 2 ^ 47 else 0) + bits p 46 16 * 2 ^ 16 + ofs)

/-- The checks that a leaf's kind of use asks for (06 R146): W is asked of an access of kind write alone. -/
def leafFault (p : Nat) (spread : Nat) (kind : WalkKind) (write : Bool) : Option Bool :=
  if write && !bit p 2 then some (bit p 8)
  else if kind == .fetch && !bit p 3 then some false
  else if bit p 5 && kind != .copy then some false
  else if !bit p 5 && !populated spread ((if bit p 4 then 2 ^ 47 else 0) + bits p 46 16 * 2 ^ 16) then some false
  else none

namespace State

/-- An uncorrectable error lies in a run of physical bytes (06 R150; log 9). -/
def eccBad (s : State) (pa n : Nat) : Bool := !s.badMem.isEmpty && (wordsOf pa n).any s.badWord

/-- An uncorrectable error lies in a 64-bit granule of a run of a scratchpad's bytes (06 R150; log 9). -/
def spadBad (s : State) (tid ofs n : Nat) : Bool :=
  n != 0 && s.badSpad.any fun p => p.1 == tid && decide (ofs / 8 ≤ p.2 / 8) && decide (p.2 / 8 ≤ (ofs + n - 1) / 8)

/-- The walk from a table (06 R146): the leaf's entry, whether it is big, or the fault; none is an uncorrectable error in
an entry that it reads (R150). -/
def walk (s : State) (va : Nat) (kind : WalkKind) (write : Bool) :
    Nat → Nat → Nat → State × Except (Option Bool) (Dword × Bool)
  | 0, _, _ => (s, .error (some false))
  | n + 1, level, tbl =>
    let a := tbl + 8 * pteIndex va level
    let p := (s.home64 a).toNat
    if s.eccBad a 8 then (s, .error none)
    else if !bit p 0 then (s, .error (some (bit p 8)))
    else if pteReserved p || leafIllegal p level then (s, .error (some false))
    else if bit p 1 then
      match leafFault p s.spread kind write with
      | some r => (s, .error (some r))
      | none =>
        let q := BitVec.ofNat 64 p ||| 0x40#64 ||| (if write then 0x80#64 else 0#64)
        let s := if q.toNat == p then s else s.homeWrite64 a q
        (s, .ok (q, level == 2))
    else s.walk va kind write n (level + 1) (bits p 46 16 * 2 ^ 16)

/-- What a failed walk means for the access. -/
def walkFault (r : Option Bool) : Xlat :=
  match r with
  | some x => .fault x
  | none => .ecc

/-- A cached translation serves an access, unless a first write has to set D (06 R146, R147). -/
def tlbFind (l : List TlbEntry) (ctx va : Nat) (write : Bool) : Option TlbEntry :=
  l.find? fun e => e.ctx == ctx && e.vpn == (if e.big then va / 2 ^ 29 else va / 2 ^ 16) &&
    (!write || e.pte.getLsbD 7 || !e.pte.getLsbD 2)

/-- An entry is cached, the oldest leaving a full TLB (06 R147; log 15). -/
def tlbAdd (l : List TlbEntry) (cap : Nat) (e : TlbEntry) : List TlbEntry :=
  let l := l.filter fun x => !(x.ctx == e.ctx && x.vpn == e.vpn && x.big == e.big)
  let l := if l.length < cap then l else l.drop 1
  l ++ [e]

def sectorTlb (s : State) (core : Nat) : List TlbEntry := s.stlb.getD (sectorOfCore core) []

/-- Walk and cache the translation of a page (06 R146, R147). -/
def walkFill (s : State) (core ctx va : Nat) (kind : WalkKind) (write : Bool) :
    State × Except (Option Bool) (Dword × Bool) :=
  match s.walk va kind write 3 1 (s.ctx ctx).root with
  | (s, .error r) => (s, .error r)
  | (s, .ok (p, big)) =>
    let e : TlbEntry := ⟨ctx, if big then va / 2 ^ 29 else va / 2 ^ 16, big, p⟩
    let s := s.modCore core fun c => { c with tlb := tlbAdd c.tlb 256 e }
    let s := { s with stlb := s.stlb.put (sectorOfCore core) (tlbAdd (s.sectorTlb core) 8192 e) }
    (s, .ok (p, big))

/-- Translate an address for an access by a core (06 R128, R146, R147). -/
def translate (s : State) (core ctx va : Nat) (kind : WalkKind) (write : Bool) : State × Xlat :=
  if 2 ^ 48 ≤ va then (s, .fault false)
  else
    let hit := match tlbFind (s.core core).tlb ctx va write with
      | some e => some e
      | none => tlbFind (s.sectorTlb core) ctx va write
    match hit with
    | some e =>
      match leafFault e.pte.toNat s.spread kind write with
      | some r => (s, .fault r)
      | none => (s, leafTarget e.pte.toNat va e.big)
    | none =>
      match s.walkFill core ctx va kind write with
      | (s, .error r) => (s, walkFault r)
      | (s, .ok (p, big)) => (s, leafTarget p.toNat va big)

/-- Translate for an agent without a TLB: dispatchers, graph walkers, firmware, queue slices (03 R65; 06 R146). -/
def translateRaw (s : State) (ctx va : Nat) (kind : WalkKind) (write : Bool) : State × Xlat :=
  if 2 ^ 48 ≤ va then (s, .fault false)
  else
    match s.walk va kind write 3 1 (s.ctx ctx).root with
    | (s, .error r) => (s, walkFault r)
    | (s, .ok (p, big)) => (s, leafTarget p.toNat va big)

/-! What an access waits for (07 R159 to R161). -/

/-- Some of the things named are not done yet. -/
def anyOpen (s : State) (ids : List Nat) : Bool :=
  ids.any fun i => (s.registrations.find i).isSome || (s.packets.find i).isSome || (s.releases.find i).isSome ||
    (s.flights.find i).isSome ||
    match s.pending.find i with
    | some p => p.load.isSome
    | none => false

/-- What a fibre's release waits for: registrations of its core, its loads, its STX packets and its earlier releases
(07 R160). -/
def releaseSet (s : State) (core : Nat) (f : FibreId) : List Nat :=
  (s.registrations.filter fun x => x.2.core == core).map (·.1) ++
    (s.pending.filter fun x => x.2.fib == f && x.2.load.isSome).map (·.1) ++
    (s.packets.filter fun x => x.2.src == f).map (·.1) ++
    (s.releases.filter fun x => x.2.fibres.contains f).map (·.1)

/-- FENCE.acq and FENCE.rel hold a fibre's later accesses (19 R402). -/
def accessOpen (s : State) (fs : List FibreId) (store : Bool) : Bool :=
  !fs.any fun f => s.anyOpen ((s.fibre f).fenceAcq.getD []) || (store && s.anyOpen (s.fibre f).fenceRel)

/-- Fibres get through: a FENCE.acq whose loads have returned acquires now (07 R161). -/
def accessDone (s : State) (core : Nat) (fs : List FibreId) : State :=
  s.each fs fun s f =>
    match (s.fibre f).fenceAcq with
    | some _ => (s.l1Acquire core).modFibre f fun x => { x with fenceAcq := none }
    | none => s

/-- What an acquire of fibres follows is performed: the releases of ST.rel, of releasing atomics and of FENCE.rel, the
CHSENDs (07 R156), and what an earlier FENCE.acq waits for (07 R161). -/
def acquireOpen (s : State) (fs : List FibreId) : Bool :=
  !fs.any fun f => s.anyOpen (s.fibre f).fenceRel || s.anyOpen ((s.fibre f).fenceAcq.getD []) ||
    (s.releases.any fun x => x.2.fibres.contains f) || s.flights.any fun x => x.2.src == f

/-- Two runs of bytes touch one word. -/
def shareWord (a m b n : Nat) : Bool := decide (a / 4 * 4 < b + n) && decide (b / 4 * 4 < a + m)

/-- Two runs of bytes touch one byte. -/
def shareByte (a m b n : Nat) : Bool := decide (a < b + n) && decide (b < a + m)

/-- The loads and releases of a fibre that are not performed and touch one of these words: later accesses of the fibre to
them follow (07 R159). -/
def wordWaits (s : State) (f : FibreId) (pa n : Nat) : List Nat :=
  (s.pending.filter fun x => x.2.fib == f &&
    match x.2.load with
    | some (.global p _ _, m, _) => shareWord p m pa n
    | _ => false).map (·.1) ++
  (s.releases.filter fun x => match x.2.act with
    | .store _ _ l => l.any fun y => y.1 == f && shareWord y.2.1 y.2.2.length pa n
    | .atom _ _ _ m _ l => l.any fun y => y.1 == f && shareWord y.2.1 m pa n
    | .atoms _ _ _ _ | .spad _ | .stx _ _ | .enter => false).map (·.1)

/-- A load or release of the fibre that is not performed touches one of these words (07 R159). -/
def loadPending (s : State) (f : FibreId) (pa n : Nat) : Bool := !(s.wordWaits f pa n).isEmpty

/-- The releases of a fibre in which accesses of these bytes of a team's scratchpad wait; `stream`: an STX to any byte of it
counts, as one of the same ordered stream (07 R168). -/
def heldThere (s : State) (f : FibreId) (tid ofs n : Nat) (stream : Bool) : List Nat :=
  (s.releases.filter fun x => match x.2.act with
    | .atoms _ m _ l => l.any fun y => y.1 == f && y.2.1 == tid && shareByte y.2.2.1 m ofs n
    | .spad l => l.any fun y => y.1 == f && y.2.1 == tid && shareByte y.2.2.1 y.2.2.2.length ofs n
    | .stx _ l => l.any fun y => y.1 == f && y.2.1 == tid && (stream || shareByte y.2.2.1 y.2.2.2.length ofs n)
    | .store _ _ _ | .atom _ _ _ _ _ _ | .enter => false).map (·.1)

/-- The gallery loads of a fibre from these bytes of a team's scratchpad that are not answered (07 R168). -/
def readsThere (s : State) (f : FibreId) (tid ofs n : Nat) : List Nat :=
  (s.pending.filter fun x => x.2.fib == f && match x.2.load with
    | some (.gallery t o, m, _) => t == tid && shareByte o m ofs n
    | _ => false).map (·.1)

/-- The packets of a fibre to these bytes of a team's scratchpad that have not landed (07 R168). -/
def packetsThere (s : State) (f : FibreId) (tid ofs n : Nat) : List Nat :=
  (s.packets.filter fun x => x.2.src == f && x.2.target == tid && shareByte x.2.offset x.2.data.length ofs n).map (·.1)

/-- The accesses of a fibre to these bytes of a team's scratchpad that are not performed: its later accesses to them follow
(07 R168). -/
def spadWaits (s : State) (f : FibreId) (tid ofs n : Nat) : List Nat :=
  s.heldThere f tid ofs n false ++ s.readsThere f tid ofs n ++ s.packetsThere f tid ofs n

end State

/-! What accesses of a scratchpad wait for (07 R168). -/

/-- A packet of a fibre to a team's own scratchpad is under way: its later accesses there follow it (07 R168). -/
def packetHome (s : State) (tids : List Nat) (fs : List FibreId) : Bool :=
  s.packets.any fun x => fs.contains x.2.src && tids.contains x.2.target

/-- An access of a fibre to a team's scratchpad waits for a release or a FENCE.rel: its later accesses there follow it (07
R168). -/
def atomsOpen (s : State) (tids : List Nat) (fs : List FibreId) : Bool :=
  s.releases.any fun x => match x.2.act with
    | .atoms _ _ _ l => l.any fun y => fs.contains y.1 && tids.contains y.2.1
    | .spad l => l.any fun y => fs.contains y.1 && tids.contains y.2.1
    | .stx _ l => l.any fun y => fs.contains y.1 && tids.contains y.2.1
    | _ => false

/-- A gallery load of a fibre from a team's scratchpad is not answered: its later accesses there follow it (07 R168). -/
def ldxOpen (s : State) (tids : List Nat) (fs : List FibreId) : Bool :=
  s.pending.any fun x => fs.contains x.2.fib && match x.2.load with
    | some (.gallery t _, _, _) => tids.contains t
    | _ => false

/-- Accesses of some fibres to some teams' scratchpads have nothing earlier under way there. -/
def homeOpen (s : State) (tids : List Nat) (fs : List FibreId) : Bool :=
  !packetHome s tids fs && !atomsOpen s tids fs && !ldxOpen s tids fs

/-- The read of a record in a team's scratchpad follows the earlier accesses of the active fibres there, and what their
FENCE.acq hold it for (07 R168; 19 R402). -/
def recordOpen (s : State) (act : List (Nat × FibreId)) (tid : Nat) : Bool :=
  let fs := act.map (·.2)
  s.accessOpen fs false && homeOpen s [tid] fs

end Sys2Proof.Machine
end

