-- ==== Sys2Proof/Machine/Ops.lean ====
section
/-! DEFINITION. Named operations that the meanings share: code references and their checks, the settling of register
writes, taking a trap and returning from one, page parking, release and acquire, parking and waking, forming groups,
the end of a fibre. -/

namespace Sys2Proof.Machine

/-! Causes (12 R254). -/

def cILLEGAL : Nat := 0x01
def cPRIV : Nat := 0x02
def cUNIF : Nat := 0x03
def cMASK : Nat := 0x04
def cMASKDL : Nat := 0x05
def cCFI : Nat := 0x06
def cALIGN : Nat := 0x07
def cPAGE : Nat := 0x08
def cACCESS : Nat := 0x09
def cECC : Nat := 0x0A
def cARITH : Nat := 0x0B
def cSTACK : Nat := 0x0C
def cTILE : Nat := 0x0D
def cACCUM : Nat := 0x0E
def cDRAIN : Nat := 0x0F
def cQCORRUPT : Nat := 0x10
def cQSIZE : Nat := 0x11
def cCHAN : Nat := 0x12
def cLAUNCH : Nat := 0x13
def cCODEHASH : Nat := 0x14
def cSVC : Nat := 0x15
def cTRAP : Nat := 0x16
def cNEST : Nat := 0x17
def cWIDTH : Nat := 0x18
def cREORD : Nat := 0x19
def cENGINE : Nat := 0x1A
def cDEBUG : Nat := 0x1B
def cENDED : Nat := 0x1C

/-- Causes that go to a handler (12 R254). -/
def toHandler (cause : Nat) : Bool :=
  1 ≤ cause && cause ≤ 0x1A && cause != cPAGE && cause != cLAUNCH && cause != cCODEHASH

/-! Code references (13 R283, R285; 04 R99). -/

def refSlot (r : Dword) : Nat := bits r.toNat 63 52
def refOfs (r : Dword) : Nat := bits r.toNat 51 0

/-- What a movement of control to a reference meets. -/
inductive Move where
  | ok
  /-- a trap of the cause -/
  | trap (cause va : Nat)
  /-- a recoverable fetch fault -/
  | page (va : Nat)
  /-- a code page whose hash is not checked yet -/
  | hash (slot page : Nat)
  deriving DecidableEq, Repr

namespace State

def codeSlot (s : State) (ctx : Nat) (r : Dword) : CodeSlot := (s.ctx ctx).slots.getD (refSlot r) {}

/-- The checks of 13 R285, in order. -/
def refCheck (s : State) (ctx : Nat) (r : Dword) : Option Nat :=
  let c := s.codeSlot ctx r
  if c.state == 0 then some cCFI
  else if c.state == 2 then some cCODEHASH
  else if refOfs r % 4 != 0 || c.npage * 65536 ≤ refOfs r then some cCFI
  else none

/-- The set of the instruction cache that a line takes a way of: bits [13:7] of its virtual address (20 R421). -/
def codeSet (s : State) (ctx slot line : Nat) : Nat := ((s.ctx ctx).slots.getD slot {}).laddr / 128 % 128 + line

/-- A line stands in a core's instruction cache. -/
def codeHit (s : State) (core ctx slot line : Nat) : Option CodeLine :=
  (s.core core).code.find? fun x => x.ctx == ctx && x.slot == slot && x.line == line

/-- A fetched line enters a core's instruction cache, 1,024 lines of 8 ways; where its set is full the least recently
used line that is not locked leaves (01 R11; 13 R289). -/
def codeFill (s : State) (core : Nat) (x : CodeLine) : State :=
  s.modCore core fun c =>
    let mine := fun (y : CodeLine) => s.codeSet y.ctx y.slot y.line % 128 == s.codeSet x.ctx x.slot x.line % 128
    let set := c.code.filter fun y => mine y && !c.locked.contains (y.ctx, y.slot, y.line)
    let old := (sortBy (·.used) set).head?
    let code := if (c.code.filter mine).length < 8 then c.code else c.code.filter fun y => some y != old
    { c with stamp := c.stamp + 1, code := code ++ [{ x with used := c.stamp + 1 }] }

/-- A line of the instruction cache is used. -/
def codeTouch (s : State) (core : Nat) (x : CodeLine) : State :=
  s.modCore core fun c => { c with
    stamp := c.stamp + 1, code := c.code.map fun y => if y == x then { y with used := c.stamp + 1 } else y }

/-- A word of code, fetched by a core: from its instruction cache, else with its whole line (06 R146; 13 R286, R288). A
line with an uncorrectable error in another of its words is not kept. -/
def codeWord (s : State) (core ctx : Nat) (r : Dword) : State × Except Move Word :=
  let c := s.codeSlot ctx r
  let page := refOfs r / 65536
  let va := c.laddr + refOfs r
  let ofs := refOfs r % 128
  match s.translate core ctx va .fetch false with
  | (s, .ok pa) =>
    if !c.vbm.contains page then
      if s.eccBad pa 4 then (s, .error (.trap cECC va)) else (s, .error (.hash (refSlot r) page))
    else
      match s.codeHit core ctx (refSlot r) (refOfs r / 128) with
      | some x => (s.codeTouch core x, .ok (x.words.getD (ofs / 4) 0))
      | none =>
        if s.eccBad pa 4 then (s, .error (.trap cECC va))
        else
          let words := (upto 32).map fun i => s.homeWord ((pa - ofs) / 4 + i)
          let x : CodeLine := ⟨ctx, refSlot r, refOfs r / 128, words, 0⟩
          (if s.eccBad (pa - ofs) 128 then s else s.codeFill core x, .ok (words.getD (ofs / 4) 0))
  | (s, .net _ _) => (s, .error (.trap cACCESS va))
  | (s, .fault true) => (s, .error (.page va))
  | (s, .fault false) => (s, .error (.trap cACCESS va))
  | (s, .ecc) => (s, .error (.trap cECC va))

/-- The checks of a transfer's target: 13 R285, then the marks of 04 R99. A function entry is asked of calls. -/
def targetCheck (s : State) (core ctx : Nat) (r : Dword) (call : Bool) : State × Move :=
  match s.refCheck ctx r with
  | some c => (s, .trap c r.toNat)
  | none =>
    let idx := refOfs r % 128 / 4
    match s.codeWord core ctx (r - BitVec.ofNat 64 (refOfs r % 128)) with
    | (s, .error m) => (s, m)
    | (s, .ok h) =>
      let marked := idx != 0 && h.getLsbD idx
      if marked && (!call || (idx == 1 && h.getLsbD 0)) then (s, .ok) else (s, .trap cCFI r.toNat)

/-! Settling register writes (04 R92; 12 R255). -/

/-- Every fixed-latency write that a group has issued lands (04 R92). Those of other groups to g0 to g15 that have not
completed stay to come (R89). -/
def settleLate (s : State) (gid : Nat) : State :=
  let s := s.each (s.group gid).members fun s f =>
    if (s.fibre f).late.isEmpty then s else s.modFibre f (·.flush (2 ^ 64))
  let s := s.modTeam (s.leadTeam gid) fun t =>
    let (g, late) := gFlush t.g t.late 0 fun l => s.lateDone l || l.gid == gid
    { t with g := g, late := late }
  if (s.group gid).late.isEmpty then s
  else
    s.modGroup gid fun t =>
      let (g, late) := gFlush t.g t.late 16 fun _ => true
      { t with g := g, late := late }

/-- A byte of a team's scratchpad; one never written since the allocation is undefined (03 R69). -/
def spadByte (s : State) (tid ofs : Nat) : Byte :=
  let t := s.team tid
  t.spad.getD ofs (Config.freeByte t.gen ofs)

def spadBytes (s : State) (tid ofs n : Nat) : List Byte := (upto n).map fun i => s.spadByte tid (ofs + i)

/-- Bytes land in a scratchpad; an error in them goes (06 R150). -/
def spadWrite (s : State) (tid ofs : Nat) (bs : List Byte) : State :=
  let s := { s with badSpad := s.badSpad.filter fun x => x.1 != tid || x.2 < ofs || ofs + bs.length ≤ x.2 }
  s.modTeam tid fun t => { t with spad := ((upto bs.length).zip bs).foldl (fun m (i, b) => m.put (ofs + i) b) t.spad }

/-- The loaded values of destinations, from the bytes read (15 R326): pieces of 4 bytes for v, the whole for g. -/
def loadVals (dests : List (Reg × Dword)) (size : Nat) (sx : Bool) (bs : List Byte) : List (Reg × Dword) :=
  let x := leNat bs
  ((upto dests.length).zip dests).map fun (i, (r, _)) =>
    match r with
    | .g _ | .ret => (r, if sx then wrapI 64 (sext (8 * size) x) else BitVec.ofNat 64 x)
    | _ =>
      if size < 4 then (r, ((if sx then wrapI 32 (sext (8 * size) x) else BitVec.ofNat 32 x) : Word).setWidth 64)
      else (r, BitVec.ofNat 64 (x / 2 ^ (32 * i) % 2 ^ 32))

/-- An STX packet lands, or is dropped on a stale tag or an ended team; its STC counts down either way
(09 R196; 12 R276; 07 R169). -/
def landPacket (s : State) (id : Nat) : State :=
  match s.packets.find id with
  | none => s
  | some p =>
    let s := { s with packets := s.packets.del id }
    let s := s.each p.count fun s f => s.modFibre f fun x => { x with stc := x.stc - 1 }
    if (s.team p.target).tag == p.tag && !(s.team p.target).ended then s.spadWrite p.target p.offset p.data
    else s.modTeam p.src.team fun t => { t with cpDrop := min (t.cpDrop + 1) 65535 }

/-- What is under way on the ordered stream of a pair of cores: packets and gallery reads, in the order in which they
were sent (06 R142). -/
def streamItems (s : State) (srcCore tgtCore : Nat) : List Nat :=
  sortBy (fun i : Nat => i)
    ((s.packets.filter fun (_, p) => p.srcCore == srcCore && (s.team p.target).core == tgtCore).map (·.1) ++
      (s.pending.filter fun (_, p) => match p.load with
        | some (.gallery t _, _, _) => p.core == srcCore && (s.team t).core == tgtCore
        | _ => false).map (·.1))

/-- What was sent on the same ordered stream before an item (06 R142). -/
def streamBefore (s : State) (srcCore tgtCore id : Nat) : List Nat :=
  (s.streamItems srcCore tgtCore).filter fun i => decide (i < id)

/-- A pending load takes its bytes. DEDUCED (log 9): an error that lay in them as they were read is consumed by whoever
reads the registers that take them (06 R150). -/
def deliver (s : State) (id : Nat) (p : Pending) (size : Nat) (sx : Bool) (bs : List Byte) (bad : Bool) : State :=
  { s with pending := s.pending.put id { p with dests := loadVals p.dests size sx bs, load := none, bad := bad } }

/-- An item of an ordered stream is performed at its target: a packet lands, a read takes its bytes (06 R142; 20 R418). -/
def streamPerform (s : State) (id : Nat) : State :=
  match s.pending.find id with
  | some p =>
    match p.load with
    | some (.gallery target ofs, size, sx) =>
      let bs := s.spadBytes target ofs size
      s.deliver id p size sx bs (s.spadBad target ofs size)
    | _ => s
  | none => s.landPacket id

/-- A pending load is answered: its value is read where it is performed (06 R135, R136, R140; 20 R418). A copy that the
core has filled since a .na or .sys load of it was issued is dropped (07 R159). -/
def answer (s : State) (id : Nat) : State :=
  match s.pending.find id with
  | none => s
  | some p =>
    match p.load with
    | none => s
    | some (.global pa l1 sys, size, sx) =>
      let bad := s.eccBad pa size
      let (bs, s) :=
        if sys then s.sysRead pa size
        else if l1 then
          let s := s.each (sectorsOf pa size) fun s q => s.l1Fill p.core q
          (s.l1Bytes p.core pa size, s)
        else s.readHome p.core pa size
      let s := if l1 then s else s.staleDrop p.core (wordsOf pa size)
      s.deliver id p size sx bs bad
    | some (.gallery target _, _, _) =>
      (s.each (s.streamBefore p.core (s.team target).core id) fun s i => s.streamPerform i).streamPerform id
    | some (.atomic, _, _) => s

/-- The registers of a result hold an uncorrectable error (06 R150; log 9). -/
def spoil (s : State) (p : Pending) : State :=
  s.each p.dests fun s x => match x.1 with
    | .v n => { s with badReg := s.badReg ++ [(p.fib, n)] }
    | .k n => { s with badElse := s.badElse ++ [.k p.fib n] }
    | .g n => { s with badElse := s.badElse ++ [gPlace p.gid p.tid n] }
    | .ret => s

/-- An answered result is written: its pending bits clear and LDC counts down (04 R90, R93). -/
def writeResult (s : State) (id : Nat) : State :=
  match s.pending.find id with
  | none => s
  | some p =>
    let s := { s with pending := s.pending.del id }
    let s := s.landResult p.fib p.gid p.tid p.dests
    let s := if p.bad then s.spoil p else s
    s.each p.count fun s c => s.modFibre c fun f => { f with ldc := f.ldc - 1 }

/-- Every register write of a group's earlier instructions is performed (12 R255). -/
def settle (s : State) (gid : Nat) : State :=
  let s := s.settleLate gid
  s.each ((s.pending.filter fun (_, p) => p.gid == gid).map (·.1)) fun s i => (s.answer i).writeResult i

/-! Fault records (12 R261 to R263). -/

/-- The lowest FID among lanes, and its fibre. -/
def lowest (ls : List (Nat × FibreId)) : FibreId :=
  ((sortBy (fun x : Nat × FibreId => x.2.fid) ls).map (·.2)).headD ⟨0, 0⟩

/-- A mask of lanes (12 R262). -/
def laneMask (ls : List (Nat × FibreId)) : Dword := ls.foldl (fun m x => m ||| (1#64 <<< x.1)) 0

/-- The number of a launch, LAUNCHID. -/
def launchIdOf (s : State) (key : Nat) : Dword := (s.launches.getD key {}).launchId

/-- The FAULTID of a context's next record: the counter's, or the first after it, around 2^32, that no outstanding record
bears (12 R262). -/
def faultId (s : State) (ctx : Nat) : Nat :=
  let c := s.ctx ctx
  let used := c.waiting.map (·.id) ++ c.records.map (·.1) ++ c.resolved.map (·.1.id)
  (((upto (used.length + 1)).map fun i => (c.nextFault + i) % 2 ^ 32).find? fun i => !used.contains i).getD c.nextFault

/-- A record of a context is made: it waits for FAULTQ, under a fresh FAULTID (12 R262, R263). -/
def addRecord (s : State) (ctx : Nat) (r : FaultRec) : Nat × State :=
  let id := s.faultId ctx
  (id, s.modCtx ctx fun c => { c with
    nextFault := (id + 1) % 2 ^ 32
    waiting := c.waiting ++ [{ r with id := id, ctx := ctx }] })

/-- The record of a group's trap or fault (12 R262). -/
def groupRecord (s : State) (iss : Issue) (cause detail va : Nat) (recov wr held dbl : Bool) : FaultRec :=
  let f := lowest iss.lanes
  let t := s.team f.team
  { cause := cause, src := 0, recov := recov, wr := wr, held := held, dbl := dbl, detail := detail, core := iss.core,
    team := t.num, fid := f.fid, id := 0, launchId := s.launchIdOf t.launch, pc := iss.pc, va := va % 2 ^ 48,
    lanes := laneMask iss.lanes, ctl := 0, ctx := iss.ctx, fibres := iss.lanes.map (·.2), next := iss.next }

/-- The fibres that a trap holds for firmware: the group's live lanes and every live fibre of the trapping lanes' teams
(12 R260). DEDUCED (log 35): R260 and 95_what_each_step_holds say that the team is held, R262 and R265 speak of the group. -/
def heldWith (s : State) (iss : Issue) : List FibreId :=
  (s.liveLanes iss.gid).map (·.2) ++ ((nub (iss.lanes.map fun x => x.2.team)).map s.liveFibres).flatten

/-- The team is held for firmware: a record, and none of its live fibres issues before a RESUME (12 R260). -/
def holdGroup (s : State) (iss : Issue) (cause detail va : Nat) (dbl : Bool) : State :=
  let (id, s) := s.addRecord iss.ctx (s.groupRecord iss cause detail va false iss.wr true dbl)
  let s := s.each iss.lanes fun s x => s.modFibre x.2 fun f => { f with again := none, refill := none, relWait := none }
  s.each (s.heldWith iss) fun s x =>
    if (s.fibre x).firm.contains id then s else s.modFibre x fun f => { f with firm := f.firm ++ [id] }

/-- A recoverable page fault parks the lanes of the subset as Faulted (06 R149; 04 R92). -/
def parkPage (s : State) (iss : Issue) (va : Nat) (wr : Bool) : State :=
  let s := s.settleLate iss.gid
  let (id, s) := s.addRecord iss.ctx (s.groupRecord iss cPAGE 0 va true wr false false)
  s.each iss.lanes fun s x => s.modFibre x.2 fun f => { f with status := .faulted id }

/-- The subset stays where it stands and may be chosen again from the next clock (Stalled, 02 R53). -/
def stall (s : State) (iss : Issue) : State :=
  let c := s.clockOf iss.core
  s.each iss.lanes fun s x => s.modFibre x.2 fun f => { f with notBefore := c + 1 }

/-- The subset waits for a page-hash check (13 R286). -/
def waitHash (s : State) (iss : Issue) (slot page : Nat) : State :=
  let s := if s.hashWait.contains (iss.ctx, slot, page) then s
    else { s with hashWait := s.hashWait ++ [(iss.ctx, slot, page)] }
  let others := s.hashHeld.filter fun x => x.2.2.2.gid != iss.gid || x.2.2.2.pc != iss.pc
  { s with hashHeld := others ++ [(iss.ctx, slot, page, iss)] }.stall iss

/-! The return stack (04 R96 to R98). -/

end State

/-- What a push meets. -/
inductive Push where
  | ok
  | trap (cause va : Nat)
  | page (va : Nat)
  deriving DecidableEq, Repr

namespace State

/-- Whether a fibre can push a return reference (04 R97, R98): a spill is translated as a write. -/
def pushCheck (s : State) (core ctx : Nat) (f : FibreId) : State × Push :=
  let x := s.fibre f
  if x.rstack.length < 4 then (s, .ok)
  else if x.stack.toNat < x.stackBottom.toNat + 8 then (s, .trap cSTACK (x.stack - 8).toNat)
  else
    let va := (x.stack - 8).toNat
    match s.translate core ctx va .write true with
    | (s, .ok pa) => if s.eccBad pa 8 then (s, .trap cECC va) else (s, .ok)
    | (s, .net _ _) => (s, .trap cSTACK va)
    | (s, .fault true) => (s, .page va)
    | (s, .fault false) => (s, .trap cSTACK va)
    | (s, .ecc) => (s, .trap cECC va)

/-- A spill is an ordinary access of the fibre: it waits for the fibre's fences, and for its earlier accesses of the slot
(04 R97; 07 R159 to R161). -/
def spillWaits (s : State) (core ctx : Nat) (f : FibreId) : Bool :=
  let x := s.fibre f
  decide (4 ≤ x.rstack.length) && (!s.accessOpen [f] true ||
    match (s.translate core ctx (x.stack - 8).toNat .write true).2 with
    | .ok pa => s.loadPending f pa 8
    | _ => false)

/-- A push that its check let through (04 R97). -/
def push (s : State) (core ctx : Nat) (f : FibreId) (ref : Dword) : State :=
  let x := s.fibre f
  if x.rstack.length < 4 then s.modFibre f fun x => { x with rstack := ref :: x.rstack }
  else
    let va := x.stack - 8
    let old := x.rstack.getLastD 0
    let s := s.accessDone core [f]
    let s := match s.translate core ctx va.toNat .write true with
      | (s, .ok pa) => s.l1Store core f pa (leBytes 8 old.toNat) false false false
      | (s, _) => s
    s.modFibre f fun x => { x with
      stack := va, spilled := x.spilled + 1, rstack := ref :: x.rstack.dropLast }

/-- The first lane of a list whose push fails, checking every lane before any pushes (12 R255). -/
def pushAllCheck (s : State) (core ctx : Nat) : List (Nat × FibreId) → State × Push
  | [] => (s, .ok)
  | (_, f) :: r =>
    match s.pushCheck core ctx f with
    | (s, .ok) => s.pushAllCheck core ctx r
    | (s, p) => (s, p)

/-! Taking a trap (12 R255 to R260). -/

/-- Entry to the handler: the subset's lanes push the reference of the instruction, take TRAPINFO and TRAPVA and move
to HREF; every other lane of the group is held (12 R257, R258). -/
def enterHandler (s : State) (iss : Issue) (cause detail : Nat) (va : Nat) : State :=
  let href := (s.ctx iss.ctx).trapvec
  let hs := iss.lanes.map (·.2)
  let others := (s.liveLanes iss.gid).filter fun x => !hs.contains x.2
  let s := s.each others fun s x => s.modFibre x.2 fun f => { f with heldBy := f.heldBy ++ hs }
  s.each hs fun s f =>
    let s := s.push iss.core iss.ctx f iss.pc
    s.modFibre f fun x => { x with
      handler := some ⟨x.depth, cause, detail, false, BitVec.ofNat 64 va⟩
      pc := href
      again := none
      refill := none
      relWait := none }

/-- CODEHASH of a group (13 R287): a record with HELD 0, and the launches of its lanes are to be aborted. -/
def raiseCodeHash (s : State) (iss : Issue) : State :=
  let s := s.settle iss.gid
  let (_, s) := s.addRecord iss.ctx (s.groupRecord iss cCODEHASH 0 0 false false false
    (iss.lanes.any fun x => s.inHandler x.2))
  { s with aborts := s.aborts ++ (nub (iss.lanes.map fun x => (s.team x.2.team).launch)).filter fun l =>
      !s.aborts.contains l }

/-- A releasing atomic of the group has yet to give its result: a trap waits for it (07 R160; 12 R255). -/
def atomicOpen (s : State) (gid : Nat) : Bool :=
  s.pending.any fun x => x.2.gid == gid && match x.2.load with
    | some (.atomic, _, _) => true
    | _ => false

/-- A precise trap of a group at the instruction it issues (12 R255 to R260): delivery to the handler, or a record and
the team held for firmware. A recoverable fetch fault on HREF parks the group, and the trap is raised again as its
instruction is replayed (13 R285). -/
def raise (s : State) (iss : Issue) (cause detail : Nat) (va : Nat) : State :=
  if s.atomicOpen iss.gid then s.stall iss
  else
    let s := s.settle iss.gid
    let dbl := iss.lanes.any fun x => s.inHandler x.2
    let href := (s.ctx iss.ctx).trapvec
    if toHandler cause && href != 0 && !dbl then
      match s.targetCheck iss.core iss.ctx href true with
      | (s, .hash slot page) => s.waitHash iss slot page
      | (s, .page va) => s.parkPage iss va false
      | (s, .trap c _) => if c == cCODEHASH then s.raiseCodeHash iss else s.holdGroup iss cause detail va true
      | (s, .ok) =>
        if iss.lanes.any fun x => s.spillWaits iss.core iss.ctx x.2 then s.stall iss
        else
          match s.pushAllCheck iss.core iss.ctx iss.lanes with
          | (s, .ok) => s.enterHandler iss cause detail va
          | (s, _) => s.holdGroup iss cause detail va true
    else s.holdGroup iss cause detail va dbl

/-- A movement of control that failed. -/
def moveFail (s : State) (iss : Issue) (m : Move) : State :=
  match m with
  | .ok => s
  | .trap c va => if c == cCODEHASH then s.raiseCodeHash iss else s.raise iss c 0 va
  | .page va => s.parkPage iss va false
  | .hash slot page => s.waitHash iss slot page

/-- A lane leaves the lists of the lanes that a handler holds; the last one to leave releases them (12 R259). -/
def releaseHeld (s : State) (f : FibreId) : State :=
  let ctx := (s.team f.team).ctx
  s.each ((s.teams.filter fun x => x.2.ctx == ctx).map (·.1)) fun s tid =>
    s.each ((s.team tid).fibres.map (·.1)) fun s n =>
      let g : FibreId := ⟨tid, n⟩
      if (s.fibre g).heldBy.contains f then s.modFibre g fun x => { x with heldBy := x.heldBy.filter (· != f) } else s

/-! Release and acquire (07 R160, R161). -/

/-- The release of some lanes: what was open when it began is captured once; whether it is done (07 R160). -/
def releaseStep (s : State) (core : Nat) (ls : List (Nat × FibreId)) : State × Bool :=
  let s := s.each ls fun s x =>
    match (s.fibre x.2).relWait with
    | some _ => s
    | none => s.modFibre x.2 fun f => { f with relWait := some (s.releaseSet core x.2) }
  let done := ls.all fun x => !s.anyOpen ((s.fibre x.2).relWait.getD [])
  if done then (s.each ls fun s x => s.modFibre x.2 fun f => { f with relWait := none }, true) else (s, false)

/-- What the releases of some fibres wait for (07 R160). -/
def releaseWaits (s : State) (core : Nat) (fs : List FibreId) : List Nat := nub (fs.map (s.releaseSet core)).flatten

/-- A release, or an access that a FENCE.rel holds back, is left to be performed once its conditions hold; the fibre's later
accesses are not held back (07 R160; 19 R402). -/
def delay (s : State) (core : Nat) (fs count : List FibreId) (waits : List Nat) (act : Releasing) : State :=
  let (id, s) := s.newId
  let s := s.each count fun s f => s.modFibre f fun x => { x with stc := x.stc + 1 }
  { s with releases := s.releases.put id ⟨core, fs, count, waits, act⟩ }

/-- The acquire of fibres: their cores drop every word they do not own (07 R161). -/
def acquire (s : State) (fs : List FibreId) : State :=
  s.each (nub (fs.map s.coreOf)) fun s c => s.l1Acquire c

/-! Moving on, parking and waking. -/

/-- Lanes move to a reference; an operand kept for a wait is dropped. -/
def goto (s : State) (ls : List (Nat × FibreId)) (ref : Dword) : State :=
  s.each ls fun s x => s.modFibre x.2 fun f => { f with pc := ref, again := none, refill := none, relWait := none }

/-- The whole subset goes to the next instruction. -/
def advance (s : State) (iss : Issue) : State := s.goto iss.lanes iss.next

/-- Lanes park at a blocking point at the instruction (12 R268; 04 R92). `keep` is what the wait keeps of its
operands. DESIGN CHOICE (log 34): at a blocking point other than SETW the hardware may split or merge groups of one team
and role at one PC (02 R34); the model leaves the groups as they are. -/
def park (s : State) (iss : Issue) (ls : List (Nat × FibreId)) (w : Wake) (keep : Option (List Dword)) : State :=
  let s := s.settleLate iss.gid
  s.each ls fun s x => s.modFibre x.2 fun f => { f with status := .blocked w, again := keep, relWait := none }

/-- Some lanes park for a stop request before they issue; what a wait of theirs has kept stays (12 R270). -/
def parkStop (s : State) (iss : Issue) (ls : List (Nat × FibreId)) : State :=
  (s.park iss ls .stopped none).each ls fun t x => t.modFibre x.2 fun f => { f with again := (s.fibre x.2).again }

/-- A wake condition holds: the fibre is Ready, or stays parked with its condition met while a stop request is
pending (02 R54, R495). Its group is as it was (log 34, for 02 R34). -/
def wake (s : State) (f : FibreId) : State :=
  let st := (s.ctx (s.team f.team).ctx).stop
  s.modFibre f fun x => { x with status := if st then .blocked .stopped else .ready }

/-- A wait that completes without issuing again: the fibre moves on (17 R362; 02 R36). -/
def wakeTo (s : State) (f : FibreId) (ref : Dword) : State :=
  (s.wake f).modFibre f fun x => { x with pc := ref, again := none }

/-! Forming groups (02 R34; 04 R79). -/

/-- A register file of n undefined values. -/
def freeRegs (s : State) (n : Nat) : List Dword × State :=
  ((upto n).map fun i => Config.freeValue (s.fresh + i), { s with fresh := s.fresh + n })

/-- The slot of a new group: the vector slot with the fewest groups, the lowest on a tie; slot 4 for control. -/
def pickSlot (s : State) (core : Nat) (control : Bool) : Nat :=
  if control then 4
  else
    let n := fun (k : Nat) => (s.groups.filter fun x => x.2.core == core && x.2.slot == k).length
    (sortBy n (upto 4)).headD 0

/-- A group is formed of fibres in LANE order. `zero`: g16 to g63 start at 0 (02 R27), else undefined (R42). -/
def makeGroup (s : State) (ctx core grant : Nat) (control zero : Bool) (fs : List FibreId) : State :=
  let (gid, s) := s.newId
  let (regs, s) := if zero then (List.replicate 48 0, s) else s.freeRegs 48
  let slot := s.pickSlot core control
  let age := (s.core core).nextAge
  let s := s.modCore core fun c => { c with nextAge := c.nextAge + 1 }
  let g : Group := { ctx := ctx, core := core, slot := slot, age := age, grant := grant, members := fs, g := regs }
  let s := s.setGroup gid g
  s.each fs fun s f => s.modFibre f fun x => { x with gid := gid, notBefore := 0, spin := false }

/-- A list cut into pieces of n. -/
def chunks {α : Type} (n : Nat) : Nat → List α → List (List α)
  | 0, _ => []
  | _, [] => []
  | k + 1, l => l.take n :: chunks n k (l.drop n)

/-- Fibres leave a group. Where live members remain, its membership has changed: its g16 to g63 are undefined (02 R42)
and its spin counters start anew, with SPIN clear (R48, R51). A group without live members is freed (02 R29). DESIGN CHOICE
(log 30): what remains of a group keeps its slot and its age; the spec does not say whether it is placed and aged anew
(04 R79). -/
def leaveGroup (s : State) (fs : List FibreId) (gid : Nat) : State :=
  match s.groups.find gid with
  | none => s
  | some g =>
    let ms := g.members.map fun x => if fs.contains x then ⟨0, 0⟩ else x
    if ms.any fun x => (s.fibre x).live then
      let (regs, s) := s.freeRegs 48
      let s := s.setGroup gid { g with members := ms, g := regs, late := [], spins := [] }
      s.each (ms.filter fun x => (s.fibre x).spin) fun s x => s.modFibre x fun f => { f with spin := false }
    else { s with groups := s.groups.del gid }

/-- Fibres leave their groups. -/
def leaveGroups (s : State) (fs : List FibreId) : State :=
  s.each (nub (fs.map fun f => (s.fibre f).gid)) fun s gid => s.leaveGroup fs gid

/-- The live fibres of a team, role by role, in rising FID, separated by PC (02 R34). DESIGN CHOICE (log 34): fibres that
keep the operands of different waits are separated as well, so that each wait issues again with its own (08 R181). -/
def canonical (s : State) (tid : Nat) : List (List FibreId) :=
  let fs := s.liveFibres tid
  let key := fun (f : FibreId) => ((s.fibre f).pc, (s.fibre f).again)
  ((upto 4).map fun role =>
    let rs := fs.filter fun f => (s.fibre f).role == role
    let keys := rs.foldl (fun (l : List (Dword × Option (List Dword))) f => if l.contains (key f) then l else l ++ [key f]) []
    keys.map fun k => rs.filter fun f => key f == k).flatten

/-- The groups that a team will have on a core of some width (02 R34, R38). -/
def groupsWith (s : State) (tid : Nat) (grant : Nat) : Nat :=
  ((s.canonical tid).map fun r => (r.length + grant - 1) / grant).foldl (· + ·) 0

/-- A team's groups are formed again in canonical order on its home core (02 R34; 11 R248). -/
def formTeam (s : State) (tid : Nat) (zero : Bool) : State :=
  let t := s.team tid
  let s := s.leaveGroups (s.liveFibres tid)
  let width := if t.control then 1 else t.grant
  s.each ((s.canonical tid).map fun run => chunks width run.length run).flatten fun s fs =>
    s.makeGroup t.ctx t.core t.grant t.control zero fs

/-! The end of a fibre (02 R29; 19 R393). -/

/-- The team barrier completes when every live fibre has arrived (17 R362; 12 R273). -/
def checkBar (s : State) (tid : Nat) : State :=
  let fs := s.liveFibres tid
  let arrived := fs.filter fun f => match (s.fibre f).status with
    | .blocked (.bar _) => true
    | _ => false
  if fs.isEmpty || arrived.length != fs.length then s
  else
    let s := s.modTeam tid fun t => { t with barPhase := t.barPhase + 1 }
    let s := s.each fs fun s f => match (s.fibre f).status with
      | .blocked (.bar n) => s.wakeTo f n
      | _ => s
    s.acquire fs

end State

end Sys2Proof.Machine
end

