-- ==== Sys2Proof/Machine/Operands.lean ====
section
/-! DEFINITION. Operands: which registers an instruction names (15_instruction_formats R320 to R330), how each kind is
read (R323, R324), guards, functional units (04 R84), and the checks that stand before every meaning. -/

namespace Sys2Proof.Machine

/-- The registers an instruction reads and writes. -/
structure Uses where
  vr : List Nat := []
  vw : List Nat := []
  gr : List Nat := []
  gw : List Nat := []
  kr : List Nat := []
  kw : List Nat := []
  qr : List Nat := []
  deriving DecidableEq, Repr

def run (n c : Nat) : List Nat := stepsFrom n 1 c

/-- The uses of two lists together. -/
def Uses.add (x y : Uses) : Uses :=
  ⟨x.vr ++ y.vr, x.vw ++ y.vw, x.gr ++ y.gr, x.gw ++ y.gw, x.kr ++ y.kr, x.kw ++ y.kw, x.qr ++ y.qr⟩

/-- A source of n consecutive registers. -/
def srcUse (o : Opnd) (n : Nat) : Uses :=
  match o with
  | .v x => { vr := run x.toNat n }
  | .g x => { gr := run x.toNat n }
  | .k x => { kr := [x.toNat] }
  | .q x => { qr := [x.toNat] }
  | _ => {}

/-- A destination of n consecutive registers. -/
def dstUse (o : Opnd) (n : Nat) : Uses :=
  match o with
  | .v x => { vw := run x.toNat n }
  | .g x => { gw := run x.toNat n }
  | .k x => { kw := [x.toNat] }
  | _ => {}

def bopUse (b : BOp) : Uses :=
  match b with
  | .reg n => { vr := [n.toNat] }
  | .lit _ => {}

/-- The registers of a base-form arithmetic word; the addend forms read D (15 R320). -/
def brUse (m : Nat) (o : BR) : Uses :=
  ({ vr := o.a.toNat :: (if 0x28 ≤ m then [o.d.toNat] else []), vw := [o.d.toNat] } : Uses).add (bopUse o.b)

/-- The registers of SHL, SHR, ROL, LD, ST, LDS and STS in base form (15 R320). -/
def biUse (m : Nat) (o : BI) : Uses :=
  match m with
  | 0x30 => { vr := [o.b.toNat], vw := [o.d.toNat], gr := [o.a.toNat] }
  | 0x31 => { vr := [o.b.toNat, o.d.toNat], gr := [o.a.toNat] }
  | 0x32 => { vr := [o.a.toNat], vw := [o.d.toNat] }
  | 0x33 => { vr := [o.a.toNat, o.d.toNat] }
  | _ => { vr := [o.a.toNat], vw := [o.d.toNat] }

/-- Containers per lane of a bfp format code (05 R115, R119). -/
def perLane (code : Nat) : Nat := 32 / Block.container (Block.mantBits code)

/-- The registers of class XR. -/
def xrUse (m : Nat) (o : XR) : Uses :=
  match m with
  | 0x04B =>
    let pair := o.var == 1 && o.fa == 1
    ((srcUse o.a 1).add (srcUse o.b 1)).add (dstUse o.d (if pair then 2 else 1))
  | 0x060 =>
    if o.fb == 1 then
      ((srcUse o.a (perLane o.fa.toNat)).add (srcUse o.b 1)).add ((dstUse o.d 1).add (dstUse o.b 1))
    else ((srcUse o.a 1).add (srcUse o.b 1)).add (dstUse o.d (perLane o.fb.toNat))
  | 0x081 =>
    let n := match o.d with
      | .v _ => if o.var == 0 then 2 else 1
      | _ => 1
    (((srcUse o.a 1).add (srcUse o.b 1)).add (srcUse o.c 1)).add (dstUse o.d n)
  | 0x084 => (((srcUse o.a 1).add (srcUse o.b 1)).add (dstUse o.c 1)).add (dstUse o.d 2)
  | 0x085 =>
    (((srcUse o.a 1).add (srcUse o.b 1)).add (dstUse o.c 2)).add ((dstUse o.d 2).add { kw := [o.cc.toNat] })
  | 0x01D => dstUse o.d 1
  | _ => (((srcUse o.a 1).add (srcUse o.b 1)).add (srcUse o.c 1)).add (dstUse o.d 1)

/-- Registers that hold data of a size code (15 R326). -/
def sizeRegs (size : Nat) : Nat := if size == 3 then 2 else if size == 4 then 4 else 1

/-- The registers of class XM. -/
def xmUse (m : Nat) (o : XM) : Uses :=
  let scratch := m == 3 || m == 4 || m == 5 || m == 6 || 0x30 ≤ m
  let base : Uses := match o.base with
    | .v n => { vr := run n.toNat (if scratch then 1 else 2) }
    | .g n => { gr := [n.toNat] }
    | _ => {}
  let idx : Uses := match o.idx with
    | some n => { vr := [n.toNat] }
    | none => {}
  let mem : Uses := if o.mkb then { vr := [o.c.toNat] } else {}
  let n := sizeRegs o.size.toNat
  let dr : Uses := match o.d with
    | .v x => { vr := run x.toNat n }
    | .g x => { gr := [x.toNat] }
  let dw : Uses := match o.d with
    | .v x => { vw := run x.toNat n }
    | .g x => { gw := [x.toNat] }
  let cas : Uses := if m % 16 == 9 then
      match o.d with
      | .v _ => { vr := run o.c.toNat n }
      | .g _ => { gr := [o.c.toNat] }
    else {}
  if m == 0xA then {}
  else if m == 8 || m == 9 then base.add idx
  else if m == 1 || m == 3 || m == 5 then (base.add idx).add (mem.add dw)
  else if m == 2 || m == 4 || m == 6 then (base.add idx).add (mem.add dr)
  else if m == 7 then
    (base.add idx).add (match o.d with
      | .v x => { vw := run x.toNat 2 }
      | .g x => { gw := [x.toNat] })
  else ((base.add idx).add cas).add (dr.add dw)

/-- The registers of class XT: g operands and a g destination. -/
def xtUse (o : XT) : Uses := ((srcUse o.a 1).add (srcUse o.c 1)).add (dstUse o.d 1)

/-- The registers of class XE. -/
def xeUse (m : Nat) (o : XE) : Uses :=
  let n := o.n6.toNat + 1
  match m with
  | 2 | 3 => (((srcUse o.a 2).add (srcUse o.b 2)).add (srcUse o.c 1)).add ((dstUse o.d 1).add { gr := run o.n6.toNat 2 })
  | 6 => (((srcUse o.a 1).add (srcUse o.d n)).add (dstUse o.b 1)).add (dstUse o.c 1)
  | 7 => (((srcUse o.a 1).add (dstUse o.d n)).add (dstUse o.b 1)).add (dstUse o.c 1)
  | 9 => (srcUse o.a 1).add (dstUse o.d 8)
  | 0xA => srcUse o.a n
  | 0xB => dstUse o.d n
  | _ => (((srcUse o.a 1).add (srcUse o.b 1)).add (srcUse o.c 1)).add (dstUse o.d 1)

/-- The registers of class XS. Supervisor services take g16 to g18 and write g16 (12 R265). REORD's payload has a
check of its own (22 R446). -/
def xsUse (m : Nat) (o : XS) : Uses :=
  if m == 0xB && 0x80 ≤ o.imm.toNat then { gr := [16, 17, 18], gw := [16] }
  else if m == 0xA then srcUse o.a 1
  else (((srcUse o.a 1).add (srcUse o.b 1)).add (srcUse o.c 1)).add (dstUse o.d 1)

/-- The registers of an encoded form. -/
def encUse : Enc → Uses
  | .bz _ _ | .bb _ _ => {}
  | .br m o => brUse m.toNat o
  | .bi m o => biUse m.toNat o
  | .bu _ o => { vr := [o.a.toNat], vw := [o.d.toNat] }
  | .bl _ o => { vw := [o.d.toNat] }
  | .bc _ o => ({ vr := [o.a.toNat], kw := [o.kd.toNat] } : Uses).add (bopUse o.b)
  | .xr m o => xrUse m.toNat o
  | .xm m o => xmUse m.toNat o
  | .xt _ o => xtUse o
  | .xe m o => xeUse m.toNat o
  | .xc _ o =>
    match o.tgt with
    | .reg n => { gr := [n.toNat] }
    | _ => {}
  | .xs m o => xsUse m.toNat o

/-- The registers of an instruction. CALLR's target is a v pair (18 R377). -/
def usesOf (i : Instr) : Uses :=
  match i with
  | .callr o =>
    match o.tgt with
    | .reg n => { vr := run n.toNat 2 }
    | _ => {}
  | _ =>
    match i.enc with
    | some e => encUse e
    | none => {}

/-- A base guard as a predicate and its sense (15 R319). -/
def bguard : BGuard → Nat × Bool
  | .always => (0, false)
  | .k1 => (1, false)
  | .k2 => (2, false)
  | .notK1 => (1, true)

def xguard (g : XGuard) : Nat × Bool := (g.k.toNat, g.neg)

/-- The guard of an instruction: predicate and negation (15 R319, R322). -/
def guardOf (i : Instr) : Nat × Bool :=
  match i.enc with
  | none => (0, false)
  | some e =>
    match e with
    | .bz _ o => bguard o.gd
    | .bb _ o => bguard o.gd
    | .br _ o => bguard o.gd
    | .bi _ o => bguard o.gd
    | .bu _ o => bguard o.gd
    | .bl _ o => bguard o.gd
    | .bc _ o => bguard o.gd
    | .xr _ o => xguard o.gd
    | .xm _ o => xguard o.gd
    | .xt _ o => xguard o.gd
    | .xe _ o => xguard o.gd
    | .xc _ o => xguard o.gd
    | .xs _ o => xguard o.gd

/-- HINT of an instruction (04 R87). -/
def hintOfInstr (i : Instr) : Hint :=
  match i.enc with
  | none => ⟨0, false⟩
  | some e =>
    match e with
    | .bz _ o => o.h
    | .bb _ o => o.h
    | .br _ o => o.h
    | .bi _ o => o.h
    | .bu _ o => o.h
    | .bl _ o => o.h
    | .bc _ o => o.h
    | .xr _ o => o.h
    | .xm _ o => o.h
    | .xt _ o => o.h
    | .xe _ o => o.h
    | .xc _ o => o.h
    | .xs _ o => o.h

/-- The functional units (04 R84). -/
inductive Unit' where
  | alu | fma | sfu | lsu | branch | cross | engine | system
  deriving DecidableEq, Repr

/-- The unit of a class XR minor (04 R84). -/
def xrUnit (m : Nat) : Unit' :=
  if m == 0x006 || m == 0x007 || m == 0x044 || m == 0x045 || (0x04C ≤ m && m ≤ 0x051) || m == 0x060 || m == 0x061 then .sfu
  else if m == 0x003 || m == 0x004 || m == 0x005 || (0x040 ≤ m && m ≤ 0x054) then .fma
  else if 0x080 ≤ m then .cross
  else .alu

/-- The unit of an encoded form (04 R84). -/
def encUnit : Enc → Unit'
  | .bz m _ => if m.toNat == 1 then .alu else .branch
  | .bb _ _ => .branch
  | .br m _ => if 0x20 ≤ m.toNat || m.toNat == 0x12 || m.toNat == 0x13 then .fma else .alu
  | .bi m _ => if 0x30 ≤ m.toNat then .lsu else .alu
  | .bu m _ => if 0x40 ≤ m.toNat && m.toNat ≤ 0x44 then .sfu else .alu
  | .bl _ _ => .alu
  | .bc m _ => if m.toNat == 0x27 then .fma else .alu
  | .xr m _ => xrUnit m.toNat
  | .xm m _ => if m.toNat == 7 then .alu else .lsu
  | .xt _ _ => .engine
  | .xe _ _ => .engine
  | .xc m _ => if m.toNat == 8 then .alu else .branch
  | .xs _ _ => .system

/-- The unit of an instruction (04 R84). -/
def unitOf (i : Instr) : Unit' :=
  match i.enc with
  | some e => encUnit e
  | none => .system

/-! Reading operands. -/

def brD (o : BR) : Opnd := .v (o.d.setWidth 8)
def brA (o : BR) : Opnd := .v (o.a.setWidth 8)
def bopO (b : BOp) : Opnd :=
  match b with
  | .reg n => .v (n.setWidth 8)
  | .lit x => .lit x
def brB (o : BR) : Opnd := bopO o.b
def biD (o : BI) : Opnd := .v (o.d.setWidth 8)
def biA (o : BI) : Opnd := .v (o.a.setWidth 8)
def biB (o : BI) : Opnd := .imm (o.b.setWidth 8)
def buD (o : BU) : Opnd := .v (o.d.setWidth 8)
def buA (o : BU) : Opnd := .v (o.a.setWidth 8)

namespace State

/-- The next element of a fibre's stream (09 R208). -/
def qHead (f : Fibre) (n : Nat) : Word := (f.streams.getD n {}).ahead.headD 0

/-- A source of a fibre at 32 bits (15 R323, R324). -/
def src (s : State) (iss : Issue) (f : FibreId) (o : Opnd) : Word :=
  let x := s.fibre f
  match o with
  | .v n => x.vAt (s.clockOf iss.core) n.toNat
  | .g n => (s.gReg iss.gid n.toNat).setWidth 32
  | .k n => if x.kAt (s.clockOf iss.core) n.toNat then 1 else 0
  | .q n => qHead x n.toNat
  | .imm n => n.setWidth 32
  | .lit n => n.setWidth 32
  | .none => 0

/-- A source of a group at 64 bits (15 R324). -/
def srcG (s : State) (iss : Issue) (o : Opnd) : Dword :=
  match o with
  | .g n => s.gReg iss.gid n.toNat
  | .imm n => n.setWidth 64
  | .lit n => n
  | _ => 0

/-- The lanes of the subset whose guard is true (04 R90). -/
def active (s : State) (iss : Issue) (gd : Nat × Bool) : List (Nat × FibreId) :=
  iss.lanes.filter fun x => (s.fibre x.2).kAt (s.clockOf iss.core) gd.1 != gd.2

/-- Lanes in rising FID (18 R381). -/
def byFid (ls : List (Nat × FibreId)) : List (Nat × FibreId) := sortBy (fun x : Nat × FibreId => x.2.fid) ls

/-- A v register at or beyond the window of a fibre of the subset (02 R40). -/
def beyondWindow (s : State) (iss : Issue) (u : Uses) : Bool :=
  iss.lanes.any fun x => (u.vr ++ u.vw).any fun n => (s.fibre x.2).window ≤ n

/-- A q register that is undefined, stopped or an output stream in an active lane (09 R210; log 17). -/
def badStream (s : State) (act : List (Nat × FibreId)) (u : Uses) : Bool :=
  u.qr.any fun n => act.any fun x =>
    let q := (s.fibre x.2).streams.getD n {}
    !q.defined || q.out

/-- The elements of a stream (09 R207). -/
def streamLength (q : Stream) : Nat := (q.dims.map (·.1)).foldl (· * ·) 1

/-- What a pop of the active lanes meets (09 R208): nothing, a stall, or a fault of a lane, its cause and address. DESIGN
CHOICE (log 17): where several lanes' or registers' pops meet something, what counts is that of the lowest FID, and in it of
the register named first, be it a fault of whatever cause or an element still to arrive; R208 gives no order. -/
def popState (s : State) (act : List (Nat × FibreId)) (u : Uses) : Option (Option (Nat × Nat)) :=
  go ((byFid act).map fun x => (u.qr.map fun n => (s.fibre x.2).streams.getD n {})).flatten
where
  /-- The first stream that cannot be popped. -/
  go : List Stream → Option (Option (Nat × Nat))
    | [] => none
    | q :: r =>
      if !q.ahead.isEmpty then go r
      else if streamLength q ≤ q.cursor then some (some (cACCESS, 0))
      else
        match q.bad with
        | some b => some (some b)
        | none => some none

/-- The active lanes pop each q register that the instruction names, once (09 R208). -/
def popStreams (s : State) (act : List (Nat × FibreId)) (u : Uses) : State :=
  if u.qr.isEmpty then s
  else
    s.each act fun s x => s.modFibre x.2 fun f => { f with
      streams := (nub u.qr).foldl (fun l n =>
        modAt l n fun q => { q with ahead := q.ahead.tail, cursor := q.cursor + 1 }) f.streams }

/-- A recoverable fault that a pop met is asked again after its resolution (09 R208; 06 R149). -/
def forgetFault (s : State) (act : List (Nat × FibreId)) (u : Uses) : State :=
  s.each act fun s x => s.modFibre x.2 fun f => { f with
    streams := (nub u.qr).foldl (fun l n => modAt l n fun q => { q with bad := none }) f.streams }

/-- A source register of a fibre holds an uncorrectable error (06 R150). -/
def badLane (s : State) (iss : Issue) (u : Uses) (f : FibreId) : Bool :=
  (u.vr.any fun n => s.badReg.contains (f, n)) || (u.kr.any fun n => s.badElse.contains (.k f n)) ||
    u.gr.any fun n => s.badElse.contains (gPlace iss.gid (s.leadTeam iss.gid) n)

/-- A source register of an active lane holds an uncorrectable error (06 R150). -/
def badSource (s : State) (iss : Issue) (act : List (Nat × FibreId)) (u : Uses) : Bool :=
  act.any fun x => s.badLane iss u x.2

/-- The guard of a lane of the subset holds an uncorrectable error (06 R150). -/
def badGuard (s : State) (iss : Issue) (gd : Nat × Bool) : Bool :=
  iss.lanes.any fun x => s.badElse.contains (.k x.2 gd.1)

/-- A g write in a diverged group, or under a guard that differs among the active lanes (02 R42). -/
def unifBad (s : State) (iss : Issue) (act : List (Nat × FibreId)) (u : Uses) : Bool :=
  !u.gw.isEmpty && !act.isEmpty && (s.diverged iss.gid || act.length != iss.lanes.length)

end State

/-- An operand value is illegal where the instruction acts: not with its guard false in every lane (02 R42; 17 R347). -/
def whenActive (illegal : Issue → Bool) : Issue → List (Nat × FibreId) → Bool := fun iss act => !act.isEmpty && illegal iss

/-- The checks before a meaning, in the order of 04 R100: ILLEGAL, which `illegal` also raises, UNIF, CFI at the object's
end, then the streams. `leaves`: the instruction itself decides where its lanes go. With its guard false in every lane an
instruction does nothing (02 R42; 17 R347). -/
def issuedMem (i : Instr) (s : State) (leaves : Bool) (illegal : Issue → List (Nat × FibreId) → Bool)
    (body : Issue → List (Nat × FibreId) → State) : Host.Outcome State Fault Refusal :=
  match s.issue with
  | none => .next s
  | some iss =>
    let u := usesOf i
    let act := s.active iss (guardOf i)
    if s.beyondWindow iss u || s.badStream act u || illegal iss act then
      .next (s.raise iss cILLEGAL 0 0)
    else if s.unifBad iss act u then .next (s.raise iss cUNIF 0 0)
    else if iss.atEnd && !leaves then .next (s.raise iss cCFI 0 iss.next.toNat)
    else if s.badGuard iss (guardOf i) then .next (s.raise iss cECC 0 0)
    else if act.isEmpty && !leaves then .next (s.advance iss)
    else
      match s.popState act u with
      | some none => .next (s.stall iss)
      | some (some (c, va)) =>
        .next (if c == cPAGE then (s.forgetFault act u).parkPage iss va false else s.raise iss c 0 va)
      | none => .next (body iss act)

/-- What follows the checks of an access: an uncorrectable error in a source register comes after ALIGN, ACCESS and PAGE
(06 R130, R150). -/
def State.sourced (s : State) (iss : Issue) (act : List (Nat × FibreId)) (i : Instr) (k : State) : State :=
  if s.badSource iss act (usesOf i) then s.raise iss cECC 0 0 else k

/-- The checks before a meaning, an uncorrectable error in a source register among them (04 R100; 06 R150). -/
def issued (i : Instr) (s : State) (leaves : Bool) (illegal : Issue → List (Nat × FibreId) → Bool)
    (body : Issue → List (Nat × FibreId) → State) : Host.Outcome State Fault Refusal :=
  issuedMem i s leaves illegal fun iss act => s.sourced iss act i (body iss act)

/-- No operand value is illegal. -/
def legal : Issue → List (Nat × FibreId) → Bool := fun _ _ => false

end Sys2Proof.Machine
end

