-- ==== Sys2Proof/Machine/Flags.lean ====
section
/-! DEFINITION. Flags and results: the per-fibre FPFLAGS and BFFLAGS (05_number_formats R107, R113, R114), the ARITH
trap (R108), and how results are written: fixed latency (04 R89) or pending (04 R90). -/

namespace Sys2Proof.Machine

open Sys2Proof.Float

/-- The rounding mode of an instruction: its field, or FPCTL.RM where the field is 0 (05 R106, R112). -/
def State.modeFor (s : State) (iss : Issue) (rnd : Nat) : Mode :=
  modeOf (if rnd == 0 then bits (s.team (s.leadTeam iss.gid)).fpctl.toNat 2 0 else rnd)

/-- FPCTL of a group (05 R112; 11 R247). -/
def State.fpctl (s : State) (iss : Issue) : Nat := (s.team (s.leadTeam iss.gid)).fpctl.toNat

/-- FTZH (05 R105). -/
def State.ftzh (s : State) (iss : Issue) : Bool := bit (s.fpctl iss) 3

/-- What one fibre's part of an instruction gives: destinations and flags. -/
structure LaneRes where
  dests : List (Reg × Dword) := []
  fl : BitVec 5 := 0
  bf : BitVec 3 := 0
  deriving DecidableEq, Repr

/-- The register of a destination operand, where it has one. -/
def regOf (o : Opnd) : Reg :=
  match o with
  | .g n => .g n.toNat
  | .k n => .k n.toNat
  | .v n => .v n.toNat
  | _ => .k 0

namespace State

/-- Every lane's flags are set (05 R108, R113). -/
def setFlags (s : State) (rs : List ((Nat × FibreId) × LaneRes)) : State :=
  s.each rs fun s x =>
    if x.2.fl == 0 && x.2.bf == 0 then s
    else s.modFibre x.1.2 fun f => { f with fpflags := f.fpflags ||| x.2.fl, bfflags := f.bfflags ||| x.2.bf }

/-- The flags raised whose enables in FPCTL are 1, as TRAPINFO.DETAIL gives them (05 R108, R112; 12 R258). -/
def enabled (s : State) (iss : Issue) (rs : List ((Nat × FibreId) × LaneRes)) : Nat :=
  let fl := rs.foldl (fun x r => x ||| r.2.fl) 0#5
  let bf := rs.foldl (fun x r => x ||| r.2.bf) 0#3
  let en := BitVec.ofNat 5 (bits (s.fpctl iss) 8 4)
  let be := BitVec.ofNat 3 (bits (s.fpctl iss) 11 9)
  (fl &&& en).toNat + 32 * (bf &&& be).toNat

/-- A destination of a fixed-latency unit is written (04 R89). -/
def writeFixed (s : State) (iss : Issue) (f : FibreId) (r : Reg) (x : Dword) : State :=
  let s := s.mendReg f iss.gid (s.leadTeam iss.gid) r
  match r with
  | .g n => s.gWriteLate iss.gid n x
  | _ => s.modFibre f fun t => t.writeLate (s.clockOf iss.core) r x

/-- A result of a variable-latency unit is pending (04 R90). -/
def addPending (s : State) (iss : Issue) (f : FibreId) (dests : List (Reg × Dword)) (count : List FibreId)
    (load : Option (LoadReq × Nat × Bool)) : State :=
  let (id, s) := s.newId
  let s := s.each count fun s c => s.modFibre c fun x => { x with ldc := x.ldc + 1 }
  let p : Sys2Proof.Machine.Pending :=
    { fib := f, gid := iss.gid, core := iss.core, tid := s.leadTeam iss.gid, dests := dests, count := count, load := load
      bits := if dests.any fun d => isG d.1 then iss.lanes.map (·.2) else [] }
  { s with pending := s.pending.put id p }

/-- The end of an instruction of lanes: flags, the ARITH trap, else the results, the pops and the next instruction
(05 R108; 19 R394). -/
def finish (s : State) (iss : Issue) (act : List (Nat × FibreId)) (i : Instr)
    (rs : List ((Nat × FibreId) × LaneRes)) : State :=
  let s := s.setFlags rs
  let en := s.enabled iss rs
  if en != 0 then s.raise iss cARITH en 0
  else
    let fixed := unitOf i == .alu || unitOf i == .fma
    let s := s.each rs fun s x =>
      if x.2.dests.isEmpty then s
      else if fixed then s.each x.2.dests fun s d => s.writeFixed iss x.1.2 d.1 d.2
      else s.addPending iss x.1.2 x.2.dests [] none
    (s.popStreams act (usesOf i)).advance iss

end State

/-- A result for one destination. -/
def res1 (d : Opnd) (x : Dword) : LaneRes := { dests := [(regOf d, x)] }

end Sys2Proof.Machine
end

