-- ==== Sys2Proof/Machine/Int.lean ====
section
/-! DEFINITION. Integer and bit-field arithmetic, moves, compares and predicate logic: the ALU, the integer part of the
FMA unit, and DIV and REM (05_number_formats R101, R102; 17_ref_a_to_b R348 to R371; 18 R380, R381, R387; 20 R420;
21 R423, R424, R432, R433; 22 R435, R437, R445, R449; 23 R455, R460, R467; 24 R480). -/

namespace Sys2Proof.Machine

/-- An operand of n bits as an integer, unsigned with `u` (17 R348; 21 R424). -/
def intOf (n : Nat) (u : Bool) (x : Nat) : Int := if u then (x % 2 ^ n : Nat) else sext n x

/-- The n bits of an exact result: wrapped, or clamped with .sat, or .sat.u (05 R101). -/
def narrow (n : Nat) (sat u : Bool) (r : Int) : Nat :=
  let r := if sat && u then clampI 0 ((2 ^ n : Nat) - 1) r
    else if sat then clampI (-(2 ^ (n - 1) : Nat)) ((2 ^ (n - 1) : Nat) - 1) r
    else r
  (r % (2 ^ n : Nat)).toNat

def addOp (sat u : Bool) (n a b _c : Nat) : Nat := narrow n sat u (intOf n u a + intOf n u b)
def subOp (sat u : Bool) (n a b _c : Nat) : Nat := narrow n sat u (intOf n u a - intOf n u b)
def mulOp (sat u : Bool) (n a b _c : Nat) : Nat := narrow n sat u (intOf n u a * intOf n u b)
def madOp (sat u : Bool) (n a b c : Nat) : Nat := narrow n sat u (intOf n u a * intOf n u b + intOf n u c)

/-- Bits [2N−1:N] of the exact product (21 R424). -/
def mulhOp (u : Bool) (n a b _c : Nat) : Nat := narrow n false false (intOf n u a * intOf n u b / (2 ^ n : Nat))

def andOp (_n a b _c : Nat) : Nat := Nat.land a b
def orOp (_n a b _c : Nat) : Nat := Nat.lor a b
def xorOp (_n a b _c : Nat) : Nat := Nat.xor a b

/-- a AND NOT b (17 R357). -/
def andnOp (n a b _c : Nat) : Nat := Nat.land a (2 ^ n - 1 - b % 2 ^ n)

def minOp (u : Bool) (n a b _c : Nat) : Nat := if intOf n u a ≤ intOf n u b then a % 2 ^ n else b % 2 ^ n
def maxOp (u : Bool) (n a b _c : Nat) : Nat := if intOf n u a ≤ intOf n u b then b % 2 ^ n else a % 2 ^ n

/-- The absolute value; the most negative value wraps to itself without .sat (17 R352). -/
def absOp (sat : Bool) (n a _b _c : Nat) : Nat := narrow n sat false (sext n a).natAbs

def negOp (sat : Bool) (n a _b _c : Nat) : Nat := narrow n sat false (-(sext n a))

/-- Shift left; 0 at a count of the width or more (05 R102). -/
def shlOp (n a b _c : Nat) : Nat := if n ≤ b % 256 then 0 else a * 2 ^ (b % 256) % 2 ^ n

/-- Logical shift right (05 R102). -/
def shrOp (n a b _c : Nat) : Nat := if n ≤ b % 256 then 0 else a % 2 ^ n / 2 ^ (b % 256)

/-- Arithmetic shift right: all sign bits at a count of the width or more (05 R102). -/
def sarOp (n a b _c : Nat) : Nat := narrow n false false (sext n a / (2 ^ min (b % 256) n : Nat))

/-- Rotate left, the count modulo the width (22 R449). -/
def rolOp (n a b _c : Nat) : Nat :=
  let c := b % 256 % n
  let a := a % 2 ^ n
  a * 2 ^ c % 2 ^ n + a / 2 ^ (n - c)

/-- Zero bits above the highest set bit (18 R380). -/
def clzOp (n a _b _c : Nat) : Nat := if a % 2 ^ n == 0 then n else n - 1 - Nat.log2 (a % 2 ^ n)

/-- Set bits among the n bits (22 R437). -/
def popcOp (n a _b _c : Nat) : Nat := ((upto n).filter fun i => bit a i).length

/-- Bit i of the result is bit n − 1 − i of the operand (17 R371). -/
def brevOp (n a _b _c : Nat) : Nat := (upto n).foldl (fun x i => 2 * x + b2n (bit a i)) 0

/-- Bit-field insert (17 R368): ctl is the third operand. -/
def bfiOp (n a b c : Nat) : Nat :=
  let p := c % 256
  let w := c / 256 % 256
  (upto n).foldl (fun x i => x + (if p ≤ i && i < p + w then b2n (bit a (i - p)) else b2n (bit b i)) * 2 ^ i) 0

/-- Bit-field extract (17 R369). -/
def bfxOp (u : Bool) (n a _b c : Nat) : Nat :=
  let p := c % 256
  let w := min (c / 256 % 256) n
  if w == 0 then 0
  else
    let t := (upto w).foldl (fun x i =>
      x + (if p + i < n then b2n (bit a (p + i)) else if u then 0 else b2n (bit a (n - 1))) * 2 ^ i) 0
    if u then t else narrow n false false (sext w t)

/-- Quotient towards zero; all ones for a zero divisor; the dividend at the signed overflow (18 R387). -/
def divOp (u : Bool) (n a b _c : Nat) : Nat :=
  let x := intOf n u a
  let y := intOf n u b
  if y == 0 then 2 ^ n - 1 else narrow n false false (Int.tdiv x y)

/-- Remainder with the dividend's sign; the dividend for a zero divisor (22 R445). -/
def remOp (u : Bool) (n a b _c : Nat) : Nat :=
  let x := intOf n u a
  let y := intOf n u b
  if y == 0 then a % 2 ^ n else narrow n false false (Int.tmod x y)

/-- Compare of two 32-bit values under a condition code (18 R381). -/
def cmpHolds (u : Bool) (cc a b : Nat) : Bool :=
  Float.ccHolds cc (decide (intOf 32 u a < intOf 32 u b)) (a % 2 ^ 32 == b % 2 ^ 32)

/-- An integer instruction: per active fibre at 32 bits, or once at 64 bits with a g destination (15 R324; 17 R348). -/
def intInstr (i : Instr) (s : State) (d a b c : Opnd) (op : Nat → Nat → Nat → Nat → Nat) :
    Host.Outcome State Fault Refusal :=
  issued i s false legal fun iss act =>
    match d with
    | .g _ =>
      let r := op 64 (s.srcG iss a).toNat (s.srcG iss b).toNat (s.srcG iss c).toNat
      s.finish iss act i [(act.headD (0, ⟨0, 0⟩), res1 d (BitVec.ofNat 64 r))]
    | _ =>
      s.finish iss act i ((State.byFid act).map fun x =>
        (x, res1 d (BitVec.ofNat 64
          (op 32 (s.src iss x.2 a).toNat (s.src iss x.2 b).toNat (s.src iss x.2 c).toNat))))

/-- A compare into a predicate (18 R381). -/
def cmpInstr (i : Instr) (s : State) (kd : Nat) (u : Bool) (cc : Nat) (a b : Opnd) :
    Host.Outcome State Fault Refusal :=
  issued i s false legal fun iss act =>
    s.finish iss act i ((State.byFid act).map fun x =>
      (x, { dests := [(.k kd, BitVec.ofNat 64 (b2n (cmpHolds u cc (s.src iss x.2 a).toNat (s.src iss x.2 b).toNat)))] }))

/-- A value of each active fibre written to v, or to g where all lanes agree, else UNIF (02 R46; 20 R419; 21 R432). -/
def agree (i : Instr) (s : State) (iss : Issue) (act : List (Nat × FibreId)) (d : Opnd) (val : Nat × FibreId → Dword) :
    State :=
  match d with
  | .g _ =>
    let x := val (act.headD (0, ⟨0, 0⟩))
    if act.any fun y => val y != x then s.raise iss cUNIF 0 0
    else s.finish iss act i [(act.headD (0, ⟨0, 0⟩), res1 d x)]
  | _ => s.finish iss act i (act.map fun y => (y, res1 d (val y)))

/-- A special register of a lane (02 R45). -/
def special (s : State) (iss : Issue) (sel : Nat) (x : Nat × FibreId) : Dword :=
  let f := s.fibre x.2
  let t := s.team x.2.team
  let n := fun (k : Nat) => BitVec.ofNat 64 k
  match sel with
  | 0 => n x.2.fid
  | 1 => n t.num
  | 2 => n (t.gallery * 4 + t.member)
  | 3 => n x.1
  | 4 => n (s.group iss.gid).grant
  | 5 => n iss.core
  | 6 => n (chamberOfCore iss.core)
  | 7 => n t.nfib
  | 8 => n f.role
  | 9 => n (s.clockOf iss.core)
  | 10 => n (statusWord s iss.ctx f t)
  | 11 => f.stack
  | 12 => n (s.depthOf t.launch)
  | _ => s.launchIdOf t.launch
where
  /-- STATUS (02 R48). -/
  statusWord (s : State) (ctx : Nat) (f : Fibre) (t : Team) : Nat :=
    b2n f.rsl + 2 * b2n f.mx + 4 * b2n t.control + 8 * b2n (s.ctx ctx).ilk + 16 * b2n (s.ctx ctx).stop + 32 * b2n f.spin

/-- A 32-bit value of an operand as a truth value: a predicate, or nonzero (22 R435). -/
def truth (s : State) (iss : Issue) (f : FibreId) (o : Opnd) : Bool := s.src iss f o != 0

/-- ADD, base form (17 R354). -/
def execAdd (o : BR) (s : State) : Host.Outcome State Fault Refusal :=
  intInstr (.add o) s (brD o) (brA o) (brB o) .none (addOp false false)

/-- ADD, extended form (17 R354). -/
def execAddX (o : XR) (s : State) : Host.Outcome State Fault Refusal :=
  intInstr (.addX o) s o.d o.a o.b .none (addOp o.sat o.u)

/-- SUB, base form (23 R467). -/
def execSub (o : BR) (s : State) : Host.Outcome State Fault Refusal :=
  intInstr (.sub o) s (brD o) (brA o) (brB o) .none (subOp false false)

/-- SUB, extended form (23 R467). -/
def execSubX (o : XR) (s : State) : Host.Outcome State Fault Refusal :=
  intInstr (.subX o) s o.d o.a o.b .none (subOp o.sat o.u)

/-- MUL, base form (21 R424). -/
def execMul (o : BR) (s : State) : Host.Outcome State Fault Refusal :=
  intInstr (.mul o) s (brD o) (brA o) (brB o) .none (mulOp false false)

/-- MUL, extended form (21 R424). -/
def execMulX (o : XR) (s : State) : Host.Outcome State Fault Refusal :=
  intInstr (.mulX o) s o.d o.a o.b .none (mulOp o.sat o.u)

/-- MULH, base form (21 R424). -/
def execMulh (o : BR) (s : State) : Host.Outcome State Fault Refusal :=
  intInstr (.mulh o) s (brD o) (brA o) (brB o) .none (mulhOp false)

/-- MULH, extended form (21 R424). -/
def execMulhX (o : XR) (s : State) : Host.Outcome State Fault Refusal :=
  intInstr (.mulhX o) s o.d o.a o.b .none (mulhOp o.u)

/-- AND, base form (17 R356). -/
def execAnd (o : BR) (s : State) : Host.Outcome State Fault Refusal :=
  intInstr (.and o) s (brD o) (brA o) (brB o) .none andOp

/-- AND, extended form (17 R356). -/
def execAndX (o : XR) (s : State) : Host.Outcome State Fault Refusal :=
  intInstr (.andX o) s o.d o.a o.b .none andOp

/-- OR, base form (21 R424). -/
def execOr (o : BR) (s : State) : Host.Outcome State Fault Refusal :=
  intInstr (.or o) s (brD o) (brA o) (brB o) .none orOp

/-- OR, extended form (21 R424). -/
def execOrX (o : XR) (s : State) : Host.Outcome State Fault Refusal :=
  intInstr (.orX o) s o.d o.a o.b .none orOp

/-- XOR, base form (24 R480). -/
def execXor (o : BR) (s : State) : Host.Outcome State Fault Refusal :=
  intInstr (.xor o) s (brD o) (brA o) (brB o) .none xorOp

/-- XOR, extended form (24 R480). -/
def execXorX (o : XR) (s : State) : Host.Outcome State Fault Refusal :=
  intInstr (.xorX o) s o.d o.a o.b .none xorOp

/-- ANDN, base form (17 R357). -/
def execAndn (o : BR) (s : State) : Host.Outcome State Fault Refusal :=
  intInstr (.andn o) s (brD o) (brA o) (brB o) .none andnOp

/-- ANDN, extended form (17 R357). -/
def execAndnX (o : XR) (s : State) : Host.Outcome State Fault Refusal :=
  intInstr (.andnX o) s o.d o.a o.b .none andnOp

/-- MIN, base form (21 R424). -/
def execMin (o : BR) (s : State) : Host.Outcome State Fault Refusal :=
  intInstr (.min o) s (brD o) (brA o) (brB o) .none (minOp false)

/-- MIN, extended form (21 R424). -/
def execMinX (o : XR) (s : State) : Host.Outcome State Fault Refusal :=
  intInstr (.minX o) s o.d o.a o.b .none (minOp o.u)

/-- MAX, base form (21 R424). -/
def execMax (o : BR) (s : State) : Host.Outcome State Fault Refusal :=
  intInstr (.max o) s (brD o) (brA o) (brB o) .none (maxOp false)

/-- MAX, extended form (21 R424). -/
def execMaxX (o : XR) (s : State) : Host.Outcome State Fault Refusal :=
  intInstr (.maxX o) s o.d o.a o.b .none (maxOp o.u)

/-- MAD, base form: vD is the addend (21 R424). -/
def execMad (o : BR) (s : State) : Host.Outcome State Fault Refusal :=
  intInstr (.mad o) s (brD o) (brA o) (brB o) (brD o) (madOp false false)

/-- MAD, extended form (21 R424). -/
def execMadX (o : XR) (s : State) : Host.Outcome State Fault Refusal :=
  intInstr (.madX o) s o.d o.a o.b o.c (madOp o.sat o.u)

/-- SHL, base form (23 R460). -/
def execShl (o : BI) (s : State) : Host.Outcome State Fault Refusal :=
  intInstr (.shl o) s (biD o) (biA o) (biB o) .none shlOp

/-- SHL, extended form (23 R460). -/
def execShlX (o : XR) (s : State) : Host.Outcome State Fault Refusal :=
  intInstr (.shlX o) s o.d o.a o.b .none shlOp

/-- SHR, base form (23 R460). -/
def execShr (o : BI) (s : State) : Host.Outcome State Fault Refusal :=
  intInstr (.shr o) s (biD o) (biA o) (biB o) .none shrOp

/-- SHR, extended form (23 R460). -/
def execShrX (o : XR) (s : State) : Host.Outcome State Fault Refusal :=
  intInstr (.shrX o) s o.d o.a o.b .none (if o.var == 1 then sarOp else shrOp)

/-- ROL, base form (22 R449). -/
def execRol (o : BI) (s : State) : Host.Outcome State Fault Refusal :=
  intInstr (.rol o) s (biD o) (biA o) (biB o) .none rolOp

/-- ROL, extended form (22 R449). -/
def execRolX (o : XR) (s : State) : Host.Outcome State Fault Refusal :=
  intInstr (.rolX o) s o.d o.a o.b .none rolOp

/-- ABS, base form (17 R352). -/
def execAbs (o : BU) (s : State) : Host.Outcome State Fault Refusal :=
  intInstr (.abs o) s (buD o) (buA o) .none .none (absOp false)

/-- ABS, extended form (17 R352). -/
def execAbsX (o : XR) (s : State) : Host.Outcome State Fault Refusal :=
  intInstr (.absX o) s o.d o.a .none .none (absOp o.sat)

/-- NEG, base form (21 R424). -/
def execNeg (o : BU) (s : State) : Host.Outcome State Fault Refusal :=
  intInstr (.neg o) s (buD o) (buA o) .none .none (negOp false)

/-- NEG, extended form (21 R424). -/
def execNegX (o : XR) (s : State) : Host.Outcome State Fault Refusal :=
  intInstr (.negX o) s o.d o.a .none .none (negOp o.sat)

/-- CLZ, base form (18 R380). -/
def execClz (o : BU) (s : State) : Host.Outcome State Fault Refusal :=
  intInstr (.clz o) s (buD o) (buA o) .none .none clzOp

/-- CLZ, extended form (18 R380). -/
def execClzX (o : XR) (s : State) : Host.Outcome State Fault Refusal :=
  intInstr (.clzX o) s o.d o.a .none .none clzOp

/-- POPC, base form (22 R437). -/
def execPopc (o : BU) (s : State) : Host.Outcome State Fault Refusal :=
  intInstr (.popc o) s (buD o) (buA o) .none .none popcOp

/-- POPC, extended form (22 R437). -/
def execPopcX (o : XR) (s : State) : Host.Outcome State Fault Refusal :=
  intInstr (.popcX o) s o.d o.a .none .none popcOp

/-- BREV, base form (17 R371). -/
def execBrev (o : BU) (s : State) : Host.Outcome State Fault Refusal :=
  intInstr (.brev o) s (buD o) (buA o) .none .none brevOp

/-- BREV, extended form (17 R371). -/
def execBrevX (o : XR) (s : State) : Host.Outcome State Fault Refusal :=
  intInstr (.brevX o) s o.d o.a .none .none brevOp

/-- DIV (18 R387). -/
def execDiv (o : XR) (s : State) : Host.Outcome State Fault Refusal :=
  intInstr (.div o) s o.d o.a o.b .none (divOp o.u)

/-- REM (22 R445). -/
def execRem (o : XR) (s : State) : Host.Outcome State Fault Refusal :=
  intInstr (.rem o) s o.d o.a o.b .none (remOp o.u)

/-- BFX (17 R369). -/
def execBfx (o : XR) (s : State) : Host.Outcome State Fault Refusal :=
  intInstr (.bfx o) s o.d o.a .none o.c (bfxOp o.u)

/-- BFI (17 R368). -/
def execBfi (o : XR) (s : State) : Host.Outcome State Fault Refusal :=
  intInstr (.bfi o) s o.d o.a o.b o.c bfiOp

/-- MOV, base form (21 R432). -/
def execMov (o : BU) (s : State) : Host.Outcome State Fault Refusal :=
  intInstr (.mov o) s (buD o) (buA o) .none .none (fun _ a _ _ => a)

/-- MOV, extended form: a v source into g needs equal values (21 R432). -/
def execMovX (o : XR) (s : State) : Host.Outcome State Fault Refusal :=
  issued (.movX o) s false legal fun iss act =>
    match o.d, o.a with
    | .g _, .v n =>
      agree (.movX o) s iss act o.d fun x => (s.src iss x.2 (.v n)).setWidth 64
    | .g _, a => s.finish iss act (.movX o) [(act.headD (0, ⟨0, 0⟩), res1 o.d (s.srcG iss a))]
    | _, a => s.finish iss act (.movX o) ((State.byFid act).map fun x => (x, res1 o.d ((s.src iss x.2 a).setWidth 64)))

/-- LI, base form (20 R420). -/
def execLi (o : BL) (s : State) : Host.Outcome State Fault Refusal :=
  intInstr (.li o) s (.v (o.d.setWidth 8)) (match o.imm with
    | .short x => .lit (x.signExtend 64)
    | .lit x => .lit x) .none .none (fun _ a _ _ => a)

/-- LI, extended form (20 R420). -/
def execLiX (o : XR) (s : State) : Host.Outcome State Fault Refusal :=
  intInstr (.liX o) s o.d o.a .none .none (fun _ a _ _ => a)

/-- CMP, base form: signed (18 R381). -/
def execCmp (o : BC) (s : State) : Host.Outcome State Fault Refusal :=
  cmpInstr (.cmp o) s o.kd.toNat false o.cc.toNat (.v (o.a.setWidth 8)) (bopO o.b)

/-- CMP, extended form (18 R381). -/
def execCmpX (o : XR) (s : State) : Host.Outcome State Fault Refusal :=
  cmpInstr (.cmpX o) s (match o.d with
    | .k n => n.toNat
    | _ => 0) o.u o.cc.toNat o.a o.b

/-- SEL (23 R455). -/
def execSel (o : XR) (s : State) : Host.Outcome State Fault Refusal :=
  issued (.sel o) s false legal fun iss act =>
    s.finish iss act (.sel o) ((State.byFid act).map fun x =>
      (x, res1 o.d ((if truth s iss x.2 o.c then s.src iss x.2 o.a else s.src iss x.2 o.b).setWidth 64)))

/-- PLOP (22 R435): the truth table is FA and FB. -/
def execPlop (o : XR) (s : State) : Host.Outcome State Fault Refusal :=
  issued (.plop o) s false legal fun iss act =>
    let tt := o.fa.toNat + 16 * o.fb.toNat
    s.finish iss act (.plop o) ((State.byFid act).map fun x =>
      (x, res1 o.d (BitVec.ofNat 64 (b2n (bit tt
        (4 * b2n (truth s iss x.2 o.a) + 2 * b2n (truth s iss x.2 o.b) + b2n (truth s iss x.2 o.c)))))))

/-- MOVS (21 R433): a g destination needs equal values (02 R46). -/
def execMovs (o : XR) (s : State) : Host.Outcome State Fault Refusal :=
  issued (.movs o) s false legal fun iss act =>
    match o.a with
    | .imm sel => agree (.movs o) s iss act o.d (special s iss sel.toNat)
    | _ => s.raise iss cILLEGAL 0 0

end Sys2Proof.Machine
end

