-- ==== Sys2Proof/Machine/Fp.lean ====
section
/-! DEFINITION. Floating-point instructions (05_number_formats R103 to R111; 19_ref_e_to_f R394 to R401; 20 R414) and
the block-format instruction BCVT (17 R364, R365). BDOT stands in Cross. -/

namespace Sys2Proof.Machine

open Sys2Proof.Float

/-- A binary32 instruction of up to three sources over the active fibres (19 R394). -/
def fpInstr (i : Instr) (s : State) (rnd : Nat) (d a b c : Opnd) (op : Env → Nat → Nat → Nat → Res) :
    Host.Outcome State Fault Refusal :=
  issued i s false legal fun iss act =>
    let v : Env := ⟨f32, s.modeFor iss rnd, false⟩
    s.finish iss act i ((State.byFid act).map fun x =>
      let r := op v (s.src iss x.2 a).toNat (s.src iss x.2 b).toNat (s.src iss x.2 c).toNat
      (x, { dests := [(regOf d, BitVec.ofNat 64 r.1)], fl := r.2 }))

/-- Two halves of a packed instruction, each its own operation, the flags ORed (05 R110). -/
def halves (f : Nat → Nat → Nat → Res) (a b c : Nat) : Res :=
  let lo := f (a % 65536) (b % 65536) (c % 65536)
  let hi := f (a / 65536) (b / 65536) (c / 65536)
  (lo.1 + 65536 * hi.1, lo.2 ||| hi.2)

/-- A packed instruction in binary16 or bfloat16, with FTZH (05 R105; 20 R414). -/
def halfInstr (i : Instr) (s : State) (fmt rnd : Nat) (d a b c : Opnd) (op : Env → Nat → Nat → Nat → Res) :
    Host.Outcome State Fault Refusal :=
  issued i s false legal fun iss act =>
    let v : Env := ⟨fmtOf fmt, s.modeFor iss rnd, s.ftzh iss⟩
    s.finish iss act i ((State.byFid act).map fun x =>
      let r := halves (op v) (s.src iss x.2 a).toNat (s.src iss x.2 b).toNat (s.src iss x.2 c).toNat
      (x, { dests := [(regOf d, BitVec.ofNat 64 r.1)], fl := r.2 }))

def faddOp (v : Env) (a b _c : Nat) : Res := Float.fadd v a b
def fsubOp (v : Env) (a b _c : Nat) : Res := Float.fsub v a b
def fmulOp (v : Env) (a b _c : Nat) : Res := Float.fmul v a b
def fdivOp (v : Env) (a b _c : Nat) : Res := Float.fdiv v a b
def fsqrtOp (v : Env) (a _b _c : Nat) : Res := Float.fsqrt v a
def fminOp (v : Env) (a b _c : Nat) : Res := Float.minmax v false a b
def fmaxOp (v : Env) (a b _c : Nat) : Res := Float.minmax v true a b
def frndOp (v : Env) (a _b _c : Nat) : Res := Float.frnd v.mode a
def sfuOp (op : Sfu) (v : Env) (a _b _c : Nat) : Res := Float.sfu op v.mode a

/-- FCMP (19 R396). -/
def fcmpInstr (i : Instr) (s : State) (kd cc : Nat) (a b : Opnd) : Host.Outcome State Fault Refusal :=
  issued i s false legal fun iss act =>
    s.finish iss act i ((State.byFid act).map fun x =>
      let r := Float.fcmp cc (s.src iss x.2 a).toNat (s.src iss x.2 b).toNat
      (x, { dests := [(.k kd, BitVec.ofNat 64 (b2n r.1))], fl := r.2 }))

/-- The width of an element of an FCVT format (19 R398). -/
def fcvtWidth (code : Nat) : Nat := if code == 11 || code == 12 then 16 else if code == 13 || code == 14 then 8 else 32

/-- The result of FCVT for a fibre (19 R398, R399). -/
def fcvtRes (dst from_ : Nat) (mode : Mode) (sat ftzh pair : Bool) (d : Opnd) (a b : Nat) : LaneRes :=
  let one := fun x => Float.fcvt dst from_ mode sat ftzh (x % 2 ^ fcvtWidth from_)
  let n := match d with
    | .v x => x.toNat
    | _ => 0
  if !pair then
    let r := one a
    { dests := [(.v n, BitVec.ofNat 64 r.1)], fl := r.2 }
  else if from_ == 1 then
    let lo := one a
    let hi := one b
    { dests := [(.v n, BitVec.ofNat 64 (lo.1 + 2 ^ fcvtWidth dst * hi.1))], fl := lo.2 ||| hi.2 }
  else
    let lo := one a
    let hi := one (a / 2 ^ fcvtWidth from_)
    { dests := [(.v n, BitVec.ofNat 64 lo.1), (.v (n + 1), BitVec.ofNat 64 hi.1)], fl := lo.2 ||| hi.2 }

/-! BCVT (17 R364): the lane map of 05 R119 to R121. -/

/-- The fibre at a lane, where the lane is active. -/
def laneAt (act : List (Nat × FibreId)) (l : Nat) : Option FibreId := (act.find? fun x => x.1 == l).map (·.2)

/-- The lane and byte that hold the scale of block b for a container width (05 R120). -/
def scaleAt (c sel b : Nat) : Nat × Nat := if c == 2 then (b / 2, sel + b % 2) else (8 * b * c / 32, sel)

/-- Encode: the block of an index over the lanes (17 R364). -/
def bcvtBlock (s : State) (iss : Issue) (act : List (Nat × FibreId)) (a m : Nat) (b : Nat) : Nat × List Int × Block.BFlags :=
  let k := 32 / Block.container m
  Block.encode ((upto 8).map fun j =>
    let i := 8 * b + j
    match laneAt act (i / k) with
    | some f => Float.unpack f32 ((s.fibre f).vAt (s.clockOf iss.core) (a + i % k)).toNat
    | none => .fin false 0 0) m

/-- The blocks with at least one element in an active lane. -/
def bcvtBlocks (act : List (Nat × FibreId)) (m : Nat) : List Nat :=
  let k := 32 / Block.container m
  nub ((act.map fun x => (upto k).map fun e => (x.1 * k + e) / 8).flatten)

/-- A container of a word takes a value (05 R119). -/
def putContainer (w : Word) (c e x : Nat) : Word :=
  (w &&& ~~~(BitVec.ofNat 32 (2 ^ c - 1) <<< (e * c))) ||| (BitVec.ofNat 32 x <<< (e * c))

/-- Encode for one lane: block by block its mantissas in the mantissa register, then its scale byte in the scale register,
which may be the same one; and the flags of the blocks it holds an element of. -/
def bcvtEncodeLane (s : State) (iss : Issue) (act : List (Nat × FibreId)) (o : XR) (m : Nat)
    (x : Nat × FibreId) : LaneRes :=
  let c := Block.container m
  let k := 32 / c
  let a := match o.a with
    | .v n => n.toNat
    | _ => 0
  let enc := (bcvtBlocks act m).map fun b => (b, bcvtBlock s iss act a m b)
  let mine := fun (b : Nat) => (upto k).filter fun e => (x.1 * k + e) / 8 == b
  let mants := fun (w : Word) (y : Nat × Nat × List Int × Block.BFlags) => (mine y.1).foldl (fun w e =>
    putContainer w c e ((y.2.2.1.getD ((x.1 * k + e) % 8) 0) % (2 ^ c : Nat)).toNat) w
  let scaled := fun (y : Nat × Nat × List Int × Block.BFlags) => (scaleAt c o.bsel.toNat y.1).1 == x.1
  let scale := fun (w : Word) (y : Nat × Nat × List Int × Block.BFlags) =>
    if scaled y then setByte w (scaleAt c o.bsel.toNat y.1).2 (BitVec.ofNat 8 y.2.1) else w
  let old := s.src iss x.2 o.b
  let dests : List (Reg × Dword) :=
    if regOf o.d == regOf o.b then [(regOf o.d, (enc.foldl (fun w y => scale (mants w y) y) old).setWidth 64)]
    else (regOf o.d, (enc.foldl mants 0).setWidth 64) ::
      (if enc.any scaled then [(regOf o.b, (enc.foldl scale old).setWidth 64)] else [])
  let fl := enc.foldl (fun f y => if (mine y.1).isEmpty then f else f ||| y.2.2.2) (0 : Block.BFlags)
  { dests := dests, bf := fl }

/-- Decode for one lane: element e of its containers, under its block's scale, +0 where the scale's lane is not
active (17 R364). -/
def bcvtDecodeLane (s : State) (iss : Issue) (act : List (Nat × FibreId)) (o : XR) (m : Nat)
    (x : Nat × FibreId) : LaneRes :=
  let c := Block.container m
  let k := 32 / c
  let d := match o.d with
    | .v n => n.toNat
    | _ => 0
  let w := (s.src iss x.2 o.a).toNat
  { dests := (upto k).map fun e =>
      let b := (x.1 * k + e) / 8
      let (l, byte) := scaleAt c o.bsel.toNat b
      let v := match laneAt act l with
        | some f => Block.valueBits (byteOf (s.src iss f o.b) byte).toNat (w / 2 ^ (e * c) % 2 ^ m) m
        | none => 0
      (.v (d + e), BitVec.ofNat 64 v) }

/-- FADD, base form: the dynamic mode (19 R395). -/
def execFadd (o : BR) (s : State) : Host.Outcome State Fault Refusal :=
  fpInstr (.fadd o) s 0 (brD o) (brA o) (brB o) .none faddOp

/-- FADD, extended form (19 R395). -/
def execFaddX (o : XR) (s : State) : Host.Outcome State Fault Refusal :=
  fpInstr (.faddX o) s o.rnd.toNat o.d o.a o.b .none faddOp

/-- FSUB, base form: the dynamic mode (19 R395). -/
def execFsub (o : BR) (s : State) : Host.Outcome State Fault Refusal :=
  fpInstr (.fsub o) s 0 (brD o) (brA o) (brB o) .none fsubOp

/-- FSUB, extended form (19 R395). -/
def execFsubX (o : XR) (s : State) : Host.Outcome State Fault Refusal :=
  fpInstr (.fsubX o) s o.rnd.toNat o.d o.a o.b .none fsubOp

/-- FMUL, base form: the dynamic mode (19 R395). -/
def execFmul (o : BR) (s : State) : Host.Outcome State Fault Refusal :=
  fpInstr (.fmul o) s 0 (brD o) (brA o) (brB o) .none fmulOp

/-- FMUL, extended form (19 R395). -/
def execFmulX (o : XR) (s : State) : Host.Outcome State Fault Refusal :=
  fpInstr (.fmulX o) s o.rnd.toNat o.d o.a o.b .none fmulOp

/-- FMIN, base form: the dynamic mode (19 R395). -/
def execFmin (o : BR) (s : State) : Host.Outcome State Fault Refusal :=
  fpInstr (.fmin o) s 0 (brD o) (brA o) (brB o) .none fminOp

/-- FMIN, extended form (19 R395). -/
def execFminX (o : XR) (s : State) : Host.Outcome State Fault Refusal :=
  fpInstr (.fminX o) s o.rnd.toNat o.d o.a o.b .none fminOp

/-- FMAX, base form: the dynamic mode (19 R395). -/
def execFmax (o : BR) (s : State) : Host.Outcome State Fault Refusal :=
  fpInstr (.fmax o) s 0 (brD o) (brA o) (brB o) .none fmaxOp

/-- FMAX, extended form (19 R395). -/
def execFmaxX (o : XR) (s : State) : Host.Outcome State Fault Refusal :=
  fpInstr (.fmaxX o) s o.rnd.toNat o.d o.a o.b .none fmaxOp

/-- FMA, base form: vD is the addend (19 R395). -/
def execFma (o : BR) (s : State) : Host.Outcome State Fault Refusal :=
  fpInstr (.fma o) s 0 (brD o) (brA o) (brB o) (brD o) Float.fma

/-- FMA, extended form (19 R395). -/
def execFmaX (o : XR) (s : State) : Host.Outcome State Fault Refusal :=
  fpInstr (.fmaX o) s o.rnd.toNat o.d o.a o.b o.c Float.fma

/-- FDIV (19 R395). -/
def execFdiv (o : XR) (s : State) : Host.Outcome State Fault Refusal :=
  fpInstr (.fdiv o) s o.rnd.toNat o.d o.a o.b .none fdivOp

/-- FSQRT, base form (19 R395). -/
def execFsqrt (o : BU) (s : State) : Host.Outcome State Fault Refusal :=
  fpInstr (.fsqrt o) s 0 (buD o) (buA o) .none .none fsqrtOp

/-- FSQRT, extended form (19 R395). -/
def execFsqrtX (o : XR) (s : State) : Host.Outcome State Fault Refusal :=
  fpInstr (.fsqrtX o) s o.rnd.toNat o.d o.a .none .none fsqrtOp

/-- FRND (19 R400). -/
def execFrnd (o : XR) (s : State) : Host.Outcome State Fault Refusal :=
  fpInstr (.frnd o) s o.rnd.toNat o.d o.a .none .none frndOp

/-- FRCP, base form (19 R401). -/
def execFrcp (o : BU) (s : State) : Host.Outcome State Fault Refusal :=
  fpInstr (.frcp o) s 0 (buD o) (buA o) .none .none (sfuOp .rcp)

/-- FRCP, extended form (19 R401). -/
def execFrcpX (o : XR) (s : State) : Host.Outcome State Fault Refusal :=
  fpInstr (.frcpX o) s o.rnd.toNat o.d o.a .none .none (sfuOp .rcp)

/-- FRSQ, base form (19 R401). -/
def execFrsq (o : BU) (s : State) : Host.Outcome State Fault Refusal :=
  fpInstr (.frsq o) s 0 (buD o) (buA o) .none .none (sfuOp .rsq)

/-- FRSQ, extended form (19 R401). -/
def execFrsqX (o : XR) (s : State) : Host.Outcome State Fault Refusal :=
  fpInstr (.frsqX o) s o.rnd.toNat o.d o.a .none .none (sfuOp .rsq)

/-- FEXP2, base form (19 R401). -/
def execFexp2 (o : BU) (s : State) : Host.Outcome State Fault Refusal :=
  fpInstr (.fexp2 o) s 0 (buD o) (buA o) .none .none (sfuOp .exp2)

/-- FEXP2, extended form (19 R401). -/
def execFexp2X (o : XR) (s : State) : Host.Outcome State Fault Refusal :=
  fpInstr (.fexp2X o) s o.rnd.toNat o.d o.a .none .none (sfuOp .exp2)

/-- FLOG2, base form (19 R401). -/
def execFlog2 (o : BU) (s : State) : Host.Outcome State Fault Refusal :=
  fpInstr (.flog2 o) s 0 (buD o) (buA o) .none .none (sfuOp .log2)

/-- FLOG2, extended form (19 R401). -/
def execFlog2X (o : XR) (s : State) : Host.Outcome State Fault Refusal :=
  fpInstr (.flog2X o) s o.rnd.toNat o.d o.a .none .none (sfuOp .log2)

/-- FSIN (19 R401). -/
def execFsin (o : XR) (s : State) : Host.Outcome State Fault Refusal :=
  fpInstr (.fsin o) s o.rnd.toNat o.d o.a .none .none (sfuOp .sin)

/-- FCOS (19 R401). -/
def execFcos (o : XR) (s : State) : Host.Outcome State Fault Refusal :=
  fpInstr (.fcos o) s o.rnd.toNat o.d o.a .none .none (sfuOp .cos)

/-- FCMP, base form (19 R396). -/
def execFcmp (o : BC) (s : State) : Host.Outcome State Fault Refusal :=
  fcmpInstr (.fcmp o) s o.kd.toNat o.cc.toNat (.v (o.a.setWidth 8)) (bopO o.b)

/-- FCMP, extended form (19 R396). -/
def execFcmpX (o : XR) (s : State) : Host.Outcome State Fault Refusal :=
  fcmpInstr (.fcmpX o) s (match o.d with
    | .k n => n.toNat
    | _ => 0) o.cc.toNat o.a o.b

/-- FCLASS (19 R397): the encoding in format FA. -/
def execFclass (o : XR) (s : State) : Host.Outcome State Fault Refusal :=
  issued (.fclass o) s false legal fun iss act =>
    let f := fmtOf o.fa.toNat
    s.finish iss act (.fclass o) ((State.byFid act).map fun x =>
      (x, res1 o.d (BitVec.ofNat 64 (Float.fclass f ((s.src iss x.2 o.a).toNat % 2 ^ f.width)))))

/-- FCVT (19 R398, R399). -/
def execFcvt (o : XR) (s : State) : Host.Outcome State Fault Refusal :=
  issued (.fcvt o) s false legal fun iss act =>
    let mode := s.modeFor iss o.rnd.toNat
    s.finish iss act (.fcvt o) ((State.byFid act).map fun x =>
      (x, fcvtRes o.fa.toNat o.fb.toNat mode o.sat (s.ftzh iss) (o.var == 1) o.d (s.src iss x.2 o.a).toNat
        (s.src iss x.2 o.b).toNat))

/-- HADD2, base form: binary16 (20 R414). -/
def execHadd2 (o : BR) (s : State) : Host.Outcome State Fault Refusal :=
  halfInstr (.hadd2 o) s 11 0 (brD o) (brA o) (brB o) .none faddOp

/-- HADD2, extended form (20 R414). -/
def execHadd2X (o : XR) (s : State) : Host.Outcome State Fault Refusal :=
  halfInstr (.hadd2X o) s o.fa.toNat o.rnd.toNat o.d o.a o.b .none faddOp

/-- HMUL2, base form: binary16 (20 R414). -/
def execHmul2 (o : BR) (s : State) : Host.Outcome State Fault Refusal :=
  halfInstr (.hmul2 o) s 11 0 (brD o) (brA o) (brB o) .none fmulOp

/-- HMUL2, extended form (20 R414). -/
def execHmul2X (o : XR) (s : State) : Host.Outcome State Fault Refusal :=
  halfInstr (.hmul2X o) s o.fa.toNat o.rnd.toNat o.d o.a o.b .none fmulOp

/-- HFMA2, base form: vD is the addend (20 R414). -/
def execHfma2 (o : BR) (s : State) : Host.Outcome State Fault Refusal :=
  halfInstr (.hfma2 o) s 11 0 (brD o) (brA o) (brB o) (brD o) Float.fma

/-- HFMA2, extended form (20 R414). -/
def execHfma2X (o : XR) (s : State) : Host.Outcome State Fault Refusal :=
  halfInstr (.hfma2X o) s o.fa.toNat o.rnd.toNat o.d o.a o.b o.c Float.fma

/-- BCVT (17 R364, R365). -/
def execBcvt (o : XR) (s : State) : Host.Outcome State Fault Refusal :=
  issued (.bcvt o) s false legal fun iss act =>
    s.finish iss act (.bcvt o) (act.map fun x =>
      (x, if o.fb == 1 then bcvtEncodeLane s iss act o (Block.mantBits o.fa.toNat) x
          else bcvtDecodeLane s iss act o (Block.mantBits o.fb.toNat) x))

end Sys2Proof.Machine
end

