-- ==== Sys2Proof/Machine/Collect.lean ====
section
/-! DEFINITION. Barriers and waits: BAR, GBAR, SETW, arrival barriers with ABINIT and ABWAIT, WAIT, and what a fibre's
end does to them (02_execution_model R29, R36; 09_copy_engine_and_streams R202 to R204; 17_ref_a_to_b R351, R353, R362;
20_ref_g_to_l R406, R407; 23_ref_s R458; 24_ref_t_to_y R479). -/

namespace Sys2Proof.Machine

/-- A field of a launch record (03 R59). -/
def recField (l : List Dword) (dw hi lo : Nat) : Nat := bits (l.getD dw 0).toNat hi lo

/-- The control mask of a record: member index i makes control teams (03 R59). -/
def recControl (l : List Dword) (member : Nat) : Bool := bit (recField l 0 11 8) member

def recGsize (l : List Dword) : Nat := recField l 0 6 4
def recGrid (l : List Dword) : Nat := recField l 0 47 24

/-- Fibre counts of the four roles (03 R59). -/
def recRoles (l : List Dword) : List Nat :=
  [recField l 2 10 0, recField l 2 21 11, recField l 2 32 22, recField l 2 43 33]

/-- Windows of the four roles, in registers (03 R59). -/
def recWindows (l : List Dword) : List Nat :=
  [8 * recField l 2 49 44, 8 * recField l 2 55 50, 8 * recField l 2 61 56, 8 * recField l 3 53 48]

/-- The fibres that a team of a member index declares (03 R59; 02 R39). -/
def recFibres (l : List Dword) (member : Nat) : Nat :=
  if recControl l member then recField l 3 56 54 + 1 else (recRoles l).foldl (· + ·) 0

namespace State

/-- The key of a launch's team by its number, once it has started. -/
def teamOf (s : State) (launch num : Nat) : Option Nat :=
  (s.teams.find? fun x => x.2.launch == launch && x.2.num == num).map (·.1)

/-- The numbers of the teams of a gallery (02 R25). -/
def galleryTeams (s : State) (launch gallery : Nat) : List Nat :=
  let g := recGsize (s.launches.getD launch {}).words
  (upto g).map fun i => gallery * g + i

/-- The state of a gallery. -/
def gallery (s : State) (launch n : Nat) : Gallery := (s.launches.getD launch {}).galleries.getD n {}

def modGallery (s : State) (launch n : Nat) (f : Gallery → Gallery) : State :=
  match s.launches.find launch with
  | some l => { s with launches := s.launches.put launch { l with galleries := l.galleries.put n (f (l.galleries.getD n {})) } }
  | none => s

/-- The live fibres of a gallery's started members. -/
def galleryFibres (s : State) (launch n : Nat) : List FibreId :=
  ((s.galleryTeams launch n).map fun t =>
    match s.teamOf launch t with
    | some tid => s.liveFibres tid
    | none => []).flatten

/-- What a phase of a gallery barrier expects (20 R406). -/
def galleryExpected (s : State) (launch n : Nat) : Nat :=
  let l := s.launches.getD launch {}
  ((s.galleryTeams launch n).map fun t =>
    if l.unstarted.contains t then recFibres l.words (t % recGsize l.words)
    else match s.teamOf launch t with
      | some tid => (s.liveFibres tid).length
      | none => 0).foldl (· + ·) 0

/-- Live fibres that have arrived in the current phase of a gallery barrier. -/
def galleryArrived (s : State) (launch n : Nat) : List FibreId :=
  (s.gallery launch n).arrived.filter fun f => (s.fibre f).live

/-- The gallery barrier's phase completes when the arrivals that are still live are all that is expected (20 R406). -/
def checkGallery (s : State) (launch n : Nat) : State :=
  let a := s.galleryArrived launch n
  if a.isEmpty || a.length != s.galleryExpected launch n then s
  else
    let ph := (s.gallery launch n).phase
    let s := s.modGallery launch n fun g => { g with phase := (g.phase + 1) % 2 ^ 32, arrived := [] }
    let ws := a.filter fun f => match (s.fibre f).status with
      | .blocked (.gbar p _) => p == ph
      | _ => false
    let s := s.each ws fun s f => match (s.fibre f).status with
      | .blocked (.gbar _ r) => s.wakeTo f r
      | _ => s
    s.acquire ws

/-- An issue of some lanes of a group at a PC, for a trap that is taken when a collective completes. -/
def issueFor (s : State) (gid : Nat) (fs : List FibreId) (next : Dword) : Issue :=
  let g := s.group gid
  { gid := gid, core := g.core, ctx := g.ctx, pc := (s.fibre (fs.headD ⟨0, 0⟩)).pc, next := next,
    lanes := ((upto g.members.length).zip g.members).filter fun x => fs.contains x.2, atEnd := false }

/-- Every group of some arrived fibres takes a trap at the instruction it arrived by (02 R36; 11 R240). A second PC
subset of a group issues its arrival again once the first has left its handler, and lanes that a handler holds once they are
released (12 R259). -/
def trapArrivals (s : State) (fs : List FibreId) (cause : Nat) : State :=
  let s := s.each fs fun s f => s.modFibre f fun x => { x with status := .ready }
  s.each (nub (fs.map fun f => (s.fibre f).gid)) fun s gid =>
    let ms := fs.filter fun f => (s.fibre f).gid == gid && (s.fibre f).heldBy.isEmpty
    let first := sortBy (fun f => (s.fibre f).pc.toNat) ms
    let pc := (s.fibre (first.headD ⟨0, 0⟩)).pc
    if ms.isEmpty then s else
    s.raise (s.issueFor gid (ms.filter fun f => (s.fibre f).pc == pc) 0) cause 0 0

/-- A width that the team may request (02 R36). -/
def widthOk (control exact : Bool) (w : Nat) : Bool :=
  if control then w == 1 || (!exact && (w == 16 || w == 32 || w == 64)) else w == 16 || w == 32 || w == 64

/-- The arrivals at SETW of a team's live fibres: fibre, request, .exact, destination. -/
def setwArrivals (s : State) (tid : Nat) : List (FibreId × Nat × Bool × Nat × Dword) :=
  (s.liveFibres tid).filterMap fun f => match (s.fibre f).status with
    | .blocked (.setw r e d n) => some (f, r, e, d, n)
    | _ => none

/-- The vector groups of a core are at most 256 with those that a team's fibres form at a width (01 R11). A core has room
where its four slots have, since a group goes to the slot with the fewest (04 R79). -/
def widthRoom (s : State) (tid grant : Nat) : Bool :=
  let t := s.team tid
  let fs := s.liveFibres tid
  let others := s.groups.filter fun x => x.2.core == t.core && x.2.slot != 4 && !x.2.members.any fs.contains
  t.control || decide (others.length + s.groupsWith tid grant ≤ 256)

/-- SETW completes when every live fibre of the team has arrived (02 R36). DEDUCED (log 34): a SETW is never refused, and a
core holds at most 256 vector groups (01 R11), so one to a narrower width that would need more stays parked until the core
has room. Under a stop request the arrivals are saved, and it completes at restore, against the width limit then in effect
(R495; 23 R458). -/
def checkSetw (s : State) (tid : Nat) : State :=
  let fs := s.liveFibres tid
  let ar := s.setwArrivals tid
  match ar with
  | [] => s
  | (_, r, e, _, _) :: _ =>
    if ar.length != fs.length || (s.ctx (s.team tid).ctx).stop then s
    else
      let t := s.team tid
      let limit := (s.core t.core).widthLimit
      if ar.any (fun x => x.2.1 != r || x.2.2.1 != e) || !widthOk t.control e r then s.trapArrivals fs cWIDTH
      else if e && !t.control && limit < r then s
      else
        let grant := if t.control then 1 else min r limit
        let woken := s.each ar fun s x => s.wakeTo x.1 x.2.2.2.2
        if !woken.widthRoom tid grant then s else
        let s := woken.modTeam tid fun t => { t with req := r, grant := grant }
        let s := s.formTeam tid false
        let s := s.each ar fun s x => s.gWriteNow (s.fibre x.1).gid x.2.2.2.1 (BitVec.ofNat 64 grant)
        s.acquire fs

/-- What the end of a fibre may complete: the team barrier, SETW and the gallery barrier (02 R29). -/
def checkCollectives (s : State) (tid : Nat) : State :=
  let t := s.team tid
  ((s.checkBar tid).checkSetw tid).checkGallery t.launch t.gallery

/-- What is left of a pending result once a fibre has ended: its g registers, and what other fibres count (04 R90, R93). -/
def withoutFibre (f : FibreId) (x : Nat × Sys2Proof.Machine.Pending) : Nat × Sys2Proof.Machine.Pending :=
  (x.1, { x.2 with
    count := x.2.count.filter (· != f)
    dests := if x.2.fib == f then x.2.dests.filter fun d => isG d.1 else x.2.dests })

/-- A fibre ends (02 R29; 19 R393): what was pending for its own registers is dropped, a handler's held lanes lose it, and
barriers count one fibre fewer. -/
def exitFibre (s : State) (f : FibreId) : State :=
  let gid := (s.fibre f).gid
  let s := { s with pending := (s.pending.map (withoutFibre f)).filter fun x =>
    x.2.fib != f || !x.2.dests.isEmpty || !x.2.count.isEmpty }
  let s := s.modFibre f fun x => { x with
    status := .exited, rstack := [], spilled := 0, refill := none, streams := [], openBatch := [], late := [], handler := none
    again := none, relWait := none }
  let s := s.releaseHeld f
  if (s.group gid).members.any fun x => (s.fibre x).live then s else { s with groups := s.groups.del gid }

/-- Fibres end, then the collectives of their teams are looked at. -/
def exitFibres (s : State) (fs : List FibreId) : State :=
  let s := s.each fs exitFibre
  s.each (nub (fs.map (·.team))) fun s t => s.checkCollectives t

/-! Arrival barriers (09 R202, R203). -/

/-- The sixteen bytes of an arrival barrier as two numbers. -/
def barrierAt (s : State) (tid ofs : Nat) : Nat × Nat :=
  (leNat (s.spadBytes tid ofs 8), leNat (s.spadBytes tid (ofs + 8) 8))

def barrierPut (s : State) (tid ofs : Nat) (b : Nat × Nat) : State :=
  s.spadWrite tid ofs (leBytes 8 b.1 ++ leBytes 8 b.2)

/-- The sixteen bytes of a barrier hold an uncorrectable error (06 R150). -/
def barrierEcc (s : State) (tid ofs : Nat) : Bool := s.spadBad tid ofs 16

end State

/-- An arrival barrier by its fields (09 R202). -/
structure Barrier where
  pend : Nat
  arr : Nat
  exp : Nat
  phn : Nat
  fl : Bool
  npend : Nat
  narr : Nat
  magic : Nat
  rsv : Nat
  deriving DecidableEq, Repr

def barrierOf (b : Nat × Nat) : Barrier :=
  ⟨bits b.1 31 0, bits b.1 43 32, bits b.1 55 44, bits b.1 62 56, bit b.1 63, bits b.2 31 0, bits b.2 43 32,
    bits b.2 59 44, bits b.2 63 60⟩

def barrierWords (b : Barrier) : Nat × Nat :=
  (b.pend + b.arr * 2 ^ 32 + b.exp * 2 ^ 44 + b.phn * 2 ^ 56 + b2n b.fl * 2 ^ 63,
    b.npend + b.narr * 2 ^ 32 + b.magic * 2 ^ 44 + b.rsv * 2 ^ 60)

/-- After every update a phase with all its commands and bytes completes (09 R203). -/
def barrierStep (b : Barrier) : Barrier :=
  once (once b)
where
  /-- One phase completes; the counts it takes over may complete the next (log 18). -/
  once (b : Barrier) : Barrier :=
    if b.arr == b.exp && b.pend == 0 then
      { b with phn := (b.phn + 1) % 128, arr := b.narr, pend := b.npend, narr := 0, npend := 0 }
    else b

/-- A sum that would pass 2^32 − 1 clamps and sets FL (09 R203). -/
def addClamp (x n : Nat) (fl : Bool) : Nat × Bool := if 2 ^ 32 ≤ x + n then (2 ^ 32 - 1, true) else (x + n, fl)

/-- A difference that would go below 0 clamps and sets FL. -/
def subClamp (x n : Nat) (fl : Bool) : Nat × Bool := if x < n then (0, true) else (x - n, fl)

/-- A command's arrival (09 R203). The second value says where its landings count: 0 PEND of the phase, 1 NPEND, 2
nowhere. -/
def barrierArrive (b : Barrier) (bytes : Nat) : Barrier × Nat :=
  if b.arr < b.exp then
    let p := addClamp b.pend bytes b.fl
    (barrierStep { b with arr := b.arr + 1, pend := p.1, fl := p.2 }, 0)
  else if b.narr < b.exp then
    let p := addClamp b.npend bytes b.fl
    (barrierStep { b with narr := b.narr + 1, npend := p.1, fl := p.2 }, 1)
  else ({ b with fl := true }, 2)

/-- A landing of bytes counted for the phase (`next` false) or for the next one (09 R203). -/
def barrierLand (b : Barrier) (bytes : Nat) (next : Bool) : Barrier :=
  if next then
    let p := subClamp b.npend bytes b.fl
    barrierStep { b with npend := p.1, fl := p.2 }
  else
    let p := subClamp b.pend bytes b.fl
    barrierStep { b with pend := p.1, fl := p.2 }

/-- Phase p has passed (09 R204). -/
def phasePassed (phn p : Nat) : Bool :=
  let d := (phn + 128 - p % 128) % 128
  1 ≤ d && d ≤ 64

/-- Ticket t of a gallery barrier in phase n has completed (20 R407). -/
def ticketPassed (n t : Nat) : Bool :=
  let d := (n + 2 ^ 32 - t % 2 ^ 32) % 2 ^ 32
  1 ≤ d && d ≤ 2 ^ 31

namespace State

/-- The checks of ABINIT and ABWAIT on an offset: ALIGN, then ACCESS (17 R351; 06 R129; 08 R185). -/
def barrierBad (s : State) (tid ofs : Nat) : Option Nat :=
  if ofs % 16 != 0 then some cALIGN
  else if (s.team tid).ownBytes < ofs + 16 then some cACCESS
  else none

/-- The live fibres whose group's lead is of a team, parked with a wait. -/
def waitersOf (s : State) (tid : Nat) (p : Wake → Bool) : List FibreId :=
  ((s.groups.filter fun x => s.leadTeam x.1 == tid).map fun x =>
    ((s.liveLanes x.1).map (·.2)).filter fun f => match (s.fibre f).status with
      | .blocked w => p w
      | _ => false).flatten

/-- Waiting fibres wake to raise ENGINE with a DETAIL: it stands after the operand that the wait keeps (09 R199, R204; 10
R237). -/
def wakeEngine (s : State) (fs : List FibreId) (detail : Nat) : State :=
  s.each fs fun s f => (s.modFibre f fun x => { x with
    again := some [(x.again.getD []).getD 0 0, BitVec.ofNat 64 (detail + 1)] }).wake f

/-- The DETAIL of the ENGINE trap that a woken wait is to raise. -/
def engineDue (f : Fibre) : Option Nat :=
  match (f.again.getD []).getD 1 0 with
  | 0 => none
  | x => some (x.toNat - 1)

/-- A wait at a barrier whose phase has passed: it stands after the operand and the DETAIL (17 R353). -/
def waitOver (f : Fibre) : Bool := (f.again.getD []).getD 2 0 != 0

/-- An update of a team's barriers: where one completed a phase with FL = 1, what waits at it wakes and raises ENGINE; what
waits for a phase that has now passed wakes and goes on, whatever becomes of the barrier later (09 R204; 17 R353). -/
def barrierNoted (s t : State) (tid : Nat) : State :=
  let waits := t.waitersOf tid fun w => match w with
    | .abwait ofs _ =>
      let b := barrierOf (t.barrierAt tid ofs)
      b.fl && b.phn != (barrierOf (s.barrierAt tid ofs)).phn
    | _ => false
  let t := if waits.isEmpty then t else t.wakeEngine waits (t.team tid).cpCause
  let past := t.waitersOf tid fun w => match w with
    | .abwait ofs p => phasePassed (barrierOf (t.barrierAt tid ofs)).phn p
    | _ => false
  t.each past fun t f => (t.modFibre f fun x => { x with again := some [(x.again.getD []).getD 0 0, 0, 1] }).wake f

/-- The lanes outside a list. -/
def others (iss : Issue) (act : List (Nat × FibreId)) : List (Nat × FibreId) :=
  iss.lanes.filter fun x => !act.contains x

end State

/-- The release of an arrival whose departure acquires: it follows every earlier release of the fibres (07 R153, R156). -/
def State.syncStep (s : State) (core : Nat) (ls : List (Nat × FibreId)) : State × Bool :=
  if s.acquireOpen (ls.map (·.2)) then s.releaseStep core ls else (s, false)

/-- BAR (17 R362). -/
def execBar (o : XS) (s : State) : Host.Outcome State Fault Refusal :=
  issued (.bar o) s false legal fun iss act =>
    match s.syncStep iss.core act with
    | (s, false) => s.stall iss
    | (s, true) =>
      let s := s.goto (State.others iss act) iss.next
      let s := s.park iss act (.bar iss.next) none
      s.each (nub (act.map fun x => x.2.team)) fun s t => s.checkBar t

namespace State

/-- The gallery of a fibre's home team: launch and gallery number. -/
def homeGallery (s : State) (f : FibreId) : Nat × Nat := ((s.team f.team).launch, (s.team f.team).gallery)

/-- A fibre has arrived in the current phase of its home gallery's barrier, or is to arrive once its release is done. -/
def hasArrived (s : State) (f : FibreId) : Bool :=
  let g := s.homeGallery f
  (s.gallery g.1 g.2).arrived.contains f || s.releases.any fun x => x.2.act == .enter && x.2.fibres.contains f

/-- A fibre arrives in the current phase of its home gallery's barrier. -/
def arrive (s : State) (f : FibreId) : State :=
  let g := s.homeGallery f
  s.modGallery g.1 g.2 fun x => { x with arrived := x.arrived ++ [f] }

def phaseOf (s : State) (f : FibreId) : Nat :=
  let g := s.homeGallery f
  (s.gallery g.1 g.2).phase

def checkGalleries (s : State) (act : List FibreId) : State :=
  s.each act fun s f =>
    let g := s.homeGallery f
    s.checkGallery g.1 g.2

/-- Fibres arrive by GBAR.enter. -/
def enterNow (s : State) (fs : List FibreId) : State := (s.each fs arrive).checkGalleries fs

end State

/-- GBAR (20 R407). -/
def execGbar (o : XS) (s : State) : Host.Outcome State Fault Refusal :=
  issued (.gbar o) s false legal fun iss act =>
    match s.syncStep iss.core act with
    | (s, false) => s.stall iss
    | (s, true) =>
      let s := s.goto (State.others iss act) iss.next
      let s := s.each act fun s x =>
        let ph := s.phaseOf x.2
        if s.hasArrived x.2 then s.park iss [x] (.gphase ph) none
        else (s.arrive x.2).park iss [x] (.gbar ph iss.next) none
      s.checkGalleries (act.map (·.2))

/-- GBAR.enter (20 R407). A fibre's arrival is performed once its release is done; its later accesses are not held back (07
R160). -/
def execGbarEnter (o : XS) (s : State) : Host.Outcome State Fault Refusal :=
  issued (.gbarEnter o) s false legal fun iss act =>
    let go := (act.filter fun x => !s.hasArrived x.2).map (·.2)
    let s := s.goto (State.others iss act) iss.next
    let s := s.each act fun s x =>
      let ph := s.phaseOf x.2
      if !go.contains x.2 then s.park iss [x] (.gphase ph) none
      else (s.addPending iss x.2 [(regOf o.d, BitVec.ofNat 64 ph)] [] none).goto [x] iss.next
    let late := fun (s : State) (f : FibreId) => s.anyOpen (s.releaseWaits iss.core [f])
    let t := (go.filter (late s)).foldl (fun t f => t.delay iss.core [f] [] (s.releaseWaits iss.core [f]) .enter) s
    t.enterNow (go.filter fun f => !late s f)

/-- GBAR.leave (20 R407). -/
def execGbarLeave (o : XS) (s : State) : Host.Outcome State Fault Refusal :=
  issued (.gbarLeave o) s false legal fun iss act =>
    if !s.acquireOpen (act.map (·.2)) then s.stall iss else
    let s := s.goto (State.others iss act) iss.next
    let s' := s.each act fun s x =>
      let t := (s.src iss x.2 o.a).toNat
      if ticketPassed (s.phaseOf x.2) t then s.goto [x] iss.next else s.park iss [x] (.gphase t) none
    s'.acquire ((act.filter fun x => ticketPassed (s.phaseOf x.2) (s.src iss x.2 o.a).toNat).map (·.2))

/-- SETW (02 R36; 23 R458): IMM20 holds the width and .exact. -/
def execSetw (o : XS) (s : State) : Host.Outcome State Fault Refusal :=
  issued (.setw o) s false legal fun iss act =>
    match s.syncStep iss.core act with
    | (s, false) => s.stall iss
    | (s, true) =>
      let d := match o.d with
        | .g n => n.toNat
        | _ => 0
      let s := s.park iss act (.setw (bits o.imm.toNat 6 0) (bit o.imm.toNat 7) d iss.next) none
      s.each (nub (act.map fun x => x.2.team)) fun s t => s.checkSetw t

/-- ABINIT (17 R351). It follows the fibres' earlier accesses of the scratchpad and what their fences hold it for (07 R168;
19 R402). -/
def execAbinit (o : XE) (s : State) : Host.Outcome State Fault Refusal :=
  issued (.abinit o) s false
    (whenActive fun iss => let e := (s.srcG iss o.b).toNat; e < 1 || 4095 < e)
    fun iss act =>
      let tid := s.leadTeam iss.gid
      let ofs := (s.srcG iss o.a).toNat
      if !recordOpen s act tid || !s.accessOpen (act.map (·.2)) true then s.stall iss
      else
        match s.barrierBad tid ofs with
        | some c => s.raise { iss with wr := true } c 0 ofs
        | none =>
          let e := (s.srcG iss o.b).toNat
          (s.barrierPut tid ofs (e * 2 ^ 44, 0x4142 * 2 ^ 44)).advance iss

/-- ABWAIT (17 R353). A wait keeps its offset, and that its phase has passed. -/
def execAbwait (o : XS) (s : State) : Host.Outcome State Fault Refusal :=
  issued (.abwait o) s false legal fun iss act =>
    let tid := s.leadTeam iss.gid
    let p := bits o.imm.toNat 6 0
    let first := s.fibre (act.headD (0, ⟨0, 0⟩)).2
    let kept := first.again
    let ofs := match kept with
      | some (x :: _) => x.toNat
      | _ => (s.srcG iss o.a).toNat
    let pass := if !s.acquireOpen (act.map (·.2)) then s.stall iss else (s.acquire (act.map (·.2))).advance iss
    match State.engineDue first with
    | some x => s.raise iss cENGINE x 0
    | none =>
      if State.waitOver first then pass
      else if !recordOpen s act tid then s.stall iss
      else
        match s.barrierBad tid ofs with
        | some c => s.raise iss c 0 ofs
        | none =>
          let b := barrierOf (s.barrierAt tid ofs)
          if s.barrierEcc tid ofs then s.raise iss cECC 0 ofs
          else if kept.isNone && b.magic != 0x4142 then s.raise iss cENGINE 0x1A 0
          else if kept.isNone && b.fl then s.raise iss cENGINE (s.team tid).cpCause 0
          else if phasePassed b.phn p then pass
          else if !s.acquireOpen (act.map (·.2)) then s.stall iss
          else s.park iss iss.lanes (.abwait ofs p) (some [BitVec.ofNat 64 ofs])

namespace State

/-- The counters of a fibre are at or below some limits (04 R93). -/
def countersMet (f : Fibre) (l st c t : Nat) : Bool := f.ldc ≤ l && f.stc ≤ st && f.cpc ≤ c && f.tlc ≤ t

end State

/-- WAIT (04 R93; 24 R479). A lane whose guard is false waits with the group and sets no limit. -/
def execWait (o : XS) (s : State) : Host.Outcome State Fault Refusal :=
  let t := match o.a with
    | .imm x => x.toNat
    | _ => 0
  let l := bits o.imm.toNat 5 0
  let st := bits o.imm.toNat 11 6
  let c := bits o.imm.toNat 17 12
  issued (.wait o) s false legal fun iss act =>
    if act.all fun x => State.countersMet (s.fibre x.2) l st c t then s.advance iss
    else s.park iss iss.lanes (.counters l st c t (act.map (·.2))) none

end Sys2Proof.Machine
end

