-- ==== Sys2Proof/Machine/Fetch.lean ====
section
/-! DEFINITION. Fetching an instruction at a code reference, and the reference after it (15_instruction_formats R315 to
R318; 13_compatibility_and_code_loading R285). -/

namespace Sys2Proof.Machine

/-- What stands at a code reference. -/
inductive Fetched where
  /-- an instruction and its length in words -/
  | instr (i : Instr) (len : Nat)
  /-- no instruction: ILLEGAL; the length that LEN gives (15 R317, R318, R336) -/
  | illegal (len : Nat)
  /-- the word cannot be had -/
  | fail (m : Move)
  deriving DecidableEq, Repr

/-- Words of the instruction whose first word has this LEN (15 R318). -/
def lenWords (w : Word) : Nat :=
  match bits w.toNat 1 0 with
  | 0 => 1
  | 1 => 3
  | 2 => 3
  | _ => 5

/-- The reference of what follows n words: word 0 of a line is passed over (15 R316). -/
def nextRef (r : Dword) (n : Nat) : Dword :=
  let x := r + BitVec.ofNat 64 (4 * n)
  if refOfs x % 128 == 0 then x + 4#64 else x

namespace State

/-- The words from a reference on, n of them, within its line. -/
def codeWords (s : State) (core ctx : Nat) (r : Dword) : Nat → State × Except Move (List Word)
  | 0 => (s, .ok [])
  | n + 1 =>
    match s.codeWord core ctx r with
    | (s, .error m) => (s, .error m)
    | (s, .ok w) =>
      match s.codeWords core ctx (r + 4#64) n with
      | (s, .error m) => (s, .error m)
      | (s, .ok l) => (s, .ok (w :: l))

/-- The instruction at a reference (15 R315 to R318, R336). A line's header is never decoded. -/
def fetch (s : State) (core ctx : Nat) (r : Dword) : State × Fetched :=
  match s.refCheck ctx r with
  | some c => (s, .fail (.trap c r.toNat))
  | none =>
    if refOfs r % 128 == 0 then (s, .fail (.trap cCFI r.toNat)) else
    match s.codeWord core ctx r with
    | (s, .error m) => (s, .fail m)
    | (s, .ok w) =>
      let n := lenWords w
      if 32 < refOfs r % 128 / 4 + n then (s, .illegal n)
      else
        match s.codeWords core ctx r n with
        | (s, .error m) => (s, .fail m)
        | (s, .ok ws) =>
          match decode ws with
          | .ok (i, len) => (s, .instr i len)
          | .error _ => (s, .illegal n)

/-- n words from a reference end at the object's last word (13 R285). -/
def endsObject (s : State) (ctx : Nat) (r : Dword) (n : Nat) : Bool :=
  (s.codeSlot ctx r).npage * 65536 ≤ refOfs r + 4 * n

/-- The reference of the instruction after the one at a reference (12 R259). -/
def afterRef (s : State) (core ctx : Nat) (r : Dword) : State × Except Move Dword :=
  match s.fetch core ctx r with
  | (s, .instr _ n) =>
    if s.endsObject ctx r n then (s, .error (.trap cCFI (nextRef r n).toNat)) else (s, .ok (nextRef r n))
  | (s, .illegal n) =>
    if s.endsObject ctx r n then (s, .error (.trap cCFI (nextRef r n).toNat)) else (s, .ok (nextRef r n))
  | (s, .fail m) => (s, .error m)

end State

end Sys2Proof.Machine
end

