-- ==== Sys2Proof/Machine/Control.lean ====
section
/-! DEFINITION. Control transfer: NOP, YIELD, EXIT, BRA, BRU, CALL, CALLR, RET, TRAP and SVC, and the meaning of a word
that is no instruction (04_issue_and_divergence R94 to R100; 17 R370, R372; 18 R375, R377; 19 R393; 21 R434; 22 R448;
24 R476, R480; 12 R259; 15 R336). -/

namespace Sys2Proof.Machine

/-- A relative target: the reference, and whether its offset is at or above 0 and within the slot (15 R320, R329). -/
def relTarget (pc : Dword) (words : Int) : Dword × Bool :=
  let o : Int := (refOfs pc : Int) + 4 * words
  (BitVec.ofNat 64 (refSlot pc * 2 ^ 52 + (o % (2 ^ 52 : Nat)).toNat), decide (0 ≤ o) && decide (o < (2 ^ 52 : Nat)))

/-- The target of a base transfer (15 R320). -/
def bbTarget (iss : Issue) (o : BB) : Dword × Bool := relTarget iss.pc (sext 18 o.ofs.toNat)

namespace State

/-- The target of an extended transfer; a g register is uniform (15 R329; 17 R372). -/
def xcTarget (s : State) (iss : Issue) (o : XC) : Dword × Bool :=
  match o.tgt with
  | .rel x => relTarget iss.pc (sext 32 x.toNat)
  | .reg n => (s.gReg iss.gid n.toNat, true)
  | .lit x => (x, true)

/-- Where a BRA or BRU goes. -/
def branchTarget (s : State) (iss : Issue) (i : Instr) : Option Dword :=
  match i with
  | .bra o | .bru o => some (bbTarget iss o).1
  | .braX o | .bruX o => some (s.xcTarget iss o).1
  | _ => none

/-- A branch whose target lies at or below its own address (02 R51). -/
def branchesBack (s : State) (iss : Issue) (i : Instr) : Bool := (s.branchTarget iss i).any fun r => r.toNat ≤ iss.pc.toNat

/-- The check of one target that all taking lanes share. -/
def checkTarget (s : State) (iss : Issue) (t : Dword × Bool) (call : Bool) : State × Move :=
  if t.2 then s.targetCheck iss.core iss.ctx t.1 call else (s, .trap cCFI t.1.toNat)

/-- Lanes that go on past the object's last word raise CFI (13 R285). -/
def fallsOff (iss : Issue) (stay : List (Nat × FibreId)) : Bool := iss.atEnd && !stay.isEmpty

/-- Lanes with a true guard go to t, the others to the next instruction (04 R94). -/
def branchTo (s : State) (iss : Issue) (act : List (Nat × FibreId)) (t : Dword × Bool) : State :=
  let stay := State.others iss act
  if act.isEmpty then
    if fallsOff iss stay then s.raise iss cCFI 0 iss.next.toNat else s.advance iss
  else
    match s.checkTarget iss t false with
    | (s, .ok) =>
      if fallsOff iss stay then s.raise iss cCFI 0 iss.next.toNat
      else (s.goto act t.1).goto stay iss.next
    | (s, m) => s.moveFail iss m

/-- BRU: the guard may not differ among the lanes (17 R372). -/
def uniformTo (s : State) (iss : Issue) (act : List (Nat × FibreId)) (t : Dword × Bool) : State :=
  if !act.isEmpty && act.length != iss.lanes.length then s.raise iss cUNIF 0 0 else s.branchTo iss act t

/-- What a push of some lanes meets, as a movement of control. -/
def pushMove (p : Push) : Move :=
  match p with
  | .ok => .ok
  | .trap c va => .trap c va
  | .page va => .page va

/-- Every lane of S pushes the next instruction and goes to its target (18 R375). -/
def callTo (s : State) (iss : Issue) (act : List (Nat × FibreId)) (t : FibreId → Dword) : State :=
  let stay := State.others iss act
  if fallsOff iss stay then s.raise iss cCFI 0 iss.next.toNat
  else
    if act.any fun x => s.spillWaits iss.core iss.ctx x.2 then s.stall iss else
    match s.pushAllCheck iss.core iss.ctx (State.byFid act) with
    | (s, .ok) =>
      let s := s.each (State.byFid act) fun s x => (s.push iss.core iss.ctx x.2 iss.next).goto [x] (t x.2)
      s.goto stay iss.next
    | (s, .page va) => s.parkPage iss va true
    | (s, p) => s.moveFail { iss with wr := true } (pushMove p)

/-- A call whose lanes share a target (18 R375). -/
def callShared (s : State) (iss : Issue) (act : List (Nat × FibreId)) (t : Dword × Bool) : State :=
  if act.isEmpty then s.callTo iss act fun _ => t.1
  else
    match s.checkTarget iss t true with
    | (s, .ok) => s.callTo iss act fun _ => t.1
    | (s, m) => s.moveFail iss m

/-- The first lane of a list whose target does not pass the check (18 R377; 22 R448). -/
def checkEach (s : State) (iss : Issue) (call : Bool) : List (FibreId × Dword) → State × Move
  | [] => (s, .ok)
  | (_, t) :: r =>
    match s.targetCheck iss.core iss.ctx t call with
    | (s, .ok) => s.checkEach iss call r
    | (s, m) => (s, m)

/-! RET (22 R448). -/

/-- Where a lane's RET finds its reference: it has it, or it has to load it from a physical address. -/
inductive Refill where
  | have (r : Dword)
  | load (pa : Nat)
  deriving DecidableEq, Repr

/-- What a lane's RET goes back to: its newest reference on chip, one that its refill has loaded, or the checks of a
refill (04 R97, R98). -/
def retFind (s : State) (iss : Issue) (f : FibreId) : State × Except Move Refill :=
  let x := s.fibre f
  match x.rstack, x.refill with
  | r :: _, _ => (s, .ok (.have r))
  | [], some r => (s, .ok (.have r))
  | [], none =>
    let va := x.stack.toNat
    if x.stack == x.stackTop then (s, .error (.trap cSTACK va))
    else
      match s.translate iss.core iss.ctx va .read false with
      | (s, .ok pa) => if s.eccBad pa 8 then (s, .error (.trap cECC va)) else (s, .ok (.load pa))
      | (s, .net _ _) => (s, .error (.trap cSTACK va))
      | (s, .fault true) => (s, .error (.page va))
      | (s, .fault false) => (s, .error (.trap cSTACK va))
      | (s, .ecc) => (s, .error (.trap cECC va))

/-- The references of all lanes, or the first that fails. -/
def retFinds (s : State) (iss : Issue) : List (Nat × FibreId) → State × Except Move (List (FibreId × Refill))
  | [] => (s, .ok [])
  | x :: r =>
    match s.retFind iss x.2 with
    | (s, .error m) => (s, .error m)
    | (s, .ok t) =>
      match s.retFinds iss r with
      | (s, .error m) => (s, .error m)
      | (s, .ok l) => (s, .ok ((x.2, t) :: l))

/-- The lanes that have to refill, and their addresses. -/
def refills (l : List (FibreId × Refill)) : List (FibreId × Nat) :=
  l.filterMap fun x => match x.2 with
    | .load pa => some (x.1, pa)
    | .have _ => none

/-- The references that are there. -/
def founds (l : List (FibreId × Refill)) : List (FibreId × Dword) :=
  l.filterMap fun x => match x.2 with
    | .load _ => none
    | .have r => some (x.1, r)

/-- A refill is an ordinary load of the fibre, pending on its return stack; it waits for the fibre's fences and for its
earlier accesses of the slot (04 R90, R97; 07 R159, R161). The subset is Stalled until it is written (22 R448). -/
def startRefills (s : State) (iss : Issue) (l : List (FibreId × Nat)) : State :=
  let fs := l.map (·.1)
  if !s.accessOpen fs false || l.any fun x => s.loadPending x.1 x.2 8 then s.stall iss
  else
    ((s.accessDone iss.core fs).each l fun s x =>
      if s.pending.any fun p => p.2.fib == x.1 && p.2.dests.any fun d => d.1 == .ret then s
      else s.addPending iss x.1 [(.ret, 0)] [] (some (.global x.2 true false, 8, false))).stall iss

/-- A lane stands at its handler base: its RET is the trap return (12 R259). -/
def atBase (s : State) (f : FibreId) : Bool :=
  match (s.fibre f).handler with
  | some h => h.base == (s.fibre f).depth
  | none => false

/-- A pop (04 R97). -/
def popRef (s : State) (f : FibreId) : State :=
  s.modFibre f fun x =>
    match x.rstack with
    | _ :: r => { x with rstack := r }
    | [] => { x with stack := x.stack + 8, spilled := x.spilled - 1, refill := none }

/-- The targets that a RET moves to, with SKIP passing over the instruction of a trap return (12 R259). The marking rule
holds for the ordinary returns only. -/
def retTargets (s : State) (iss : Issue) : List (FibreId × Dword) → State × Except Move (List (FibreId × Dword))
  | [] => (s, .ok [])
  | (f, t) :: r =>
    let one : State × Except Move Dword :=
      match (s.fibre f).handler with
      | some h =>
        if h.base == (s.fibre f).depth then
          if h.skip then s.afterRef iss.core iss.ctx t
          else
            match s.refCheck iss.ctx t with
            | some c => (s, .error (.trap c t.toNat))
            | none => (s, .ok t)
        else
          match s.targetCheck iss.core iss.ctx t false with
          | (s, .ok) => (s, .ok t)
          | (s, m) => (s, .error m)
      | none =>
        match s.targetCheck iss.core iss.ctx t false with
        | (s, .ok) => (s, .ok t)
        | (s, m) => (s, .error m)
    match one with
    | (s, .error m) => (s, .error m)
    | (s, .ok t) =>
      match s.retTargets iss r with
      | (s, .error m) => (s, .error m)
      | (s, .ok l) => (s, .ok ((f, t) :: l))

/-- A RET that fails takes its refills again when it is replayed. -/
def retFail (s : State) (iss : Issue) (m : Move) : State :=
  (s.each iss.lanes fun s x =>
    if (s.fibre x.2).refill.isNone then s else s.modFibre x.2 fun f => { f with refill := none }).moveFail iss m

/-- RET of the lanes of S (22 R448): the refills, then the checks, then the pops. -/
def returnFrom (s : State) (iss : Issue) (act : List (Nat × FibreId)) : State :=
  let stay := State.others iss act
  match s.retFinds iss (State.byFid act) with
  | (s, .error m) => s.retFail iss m
  | (s, .ok ls) =>
    if !(refills ls).isEmpty then s.startRefills iss (refills ls) else
    match s.retTargets iss (founds ls) with
    | (s, .error m) => s.retFail iss m
    | (s, .ok ts) =>
      if fallsOff iss stay then s.raise iss cCFI 0 iss.next.toNat
      else
        let s := s.each ts fun s x =>
          let base := s.atBase x.1
          let s := (s.popRef x.1).modFibre x.1 fun f => { f with pc := x.2, again := none, refill := none, relWait := none }
          if base then (s.modFibre x.1 fun f => { f with handler := none }).releaseHeld x.1 else s
        s.goto stay iss.next

end State

/-- NOP, base form (21 R434). -/
def execNop (o : BZ) (s : State) : Host.Outcome State Fault Refusal :=
  issued (.nop o) s false legal fun iss _ => s.advance iss

/-- NOP, extended form (21 R434). -/
def execNopX (o : XC) (s : State) : Host.Outcome State Fault Refusal :=
  issued (.nopX o) s false legal fun iss _ => s.advance iss

/-- YIELD, base form: the yield itself is the scheduler's (24 R480; 04 R88). -/
def execYield (o : BZ) (s : State) : Host.Outcome State Fault Refusal :=
  issued (.yield o) s false legal fun iss _ => s.advance iss

/-- YIELD, extended form (24 R480). -/
def execYieldX (o : XC) (s : State) : Host.Outcome State Fault Refusal :=
  issued (.yieldX o) s false legal fun iss _ => s.advance iss

/-- Guarded lanes end, the others go on (19 R393). -/
def exitLanes (s : State) (iss : Issue) (act : List (Nat × FibreId)) : State :=
  let stay := State.others iss act
  if State.fallsOff iss stay then s.raise iss cCFI 0 iss.next.toNat
  else (s.goto stay iss.next).exitFibres (act.map (·.2))

/-- EXIT, base form (19 R393). -/
def execExit (o : BZ) (s : State) : Host.Outcome State Fault Refusal :=
  issued (.exit o) s true legal fun iss act => exitLanes s iss act

/-- EXIT, extended form (19 R393). -/
def execExitX (o : XC) (s : State) : Host.Outcome State Fault Refusal :=
  issued (.exitX o) s true legal fun iss act => exitLanes s iss act

/-- RET, base form (22 R448). -/
def execRet (o : BZ) (s : State) : Host.Outcome State Fault Refusal :=
  issued (.ret o) s true legal fun iss act => s.returnFrom iss act

/-- RET, extended form (22 R448). -/
def execRetX (o : XC) (s : State) : Host.Outcome State Fault Refusal :=
  issued (.retX o) s true legal fun iss act => s.returnFrom iss act

/-- BRA, base form (17 R370). -/
def execBra (o : BB) (s : State) : Host.Outcome State Fault Refusal :=
  issued (.bra o) s true legal fun iss act => s.branchTo iss act (bbTarget iss o)

/-- BRA, extended form (17 R370). -/
def execBraX (o : XC) (s : State) : Host.Outcome State Fault Refusal :=
  issued (.braX o) s true legal fun iss act => s.branchTo iss act (s.xcTarget iss o)

/-- BRU, base form (17 R372). -/
def execBru (o : BB) (s : State) : Host.Outcome State Fault Refusal :=
  issued (.bru o) s true legal fun iss act => s.uniformTo iss act (bbTarget iss o)

/-- BRU, extended form (17 R372). -/
def execBruX (o : XC) (s : State) : Host.Outcome State Fault Refusal :=
  issued (.bruX o) s true legal fun iss act => s.uniformTo iss act (s.xcTarget iss o)

/-- CALL, base form (18 R375). -/
def execCall (o : BB) (s : State) : Host.Outcome State Fault Refusal :=
  issued (.call o) s true legal fun iss act => s.callShared iss act (bbTarget iss o)

/-- CALL, extended form (18 R375). -/
def execCallX (o : XC) (s : State) : Host.Outcome State Fault Refusal :=
  issued (.callX o) s true legal fun iss act => s.callShared iss act (s.xcTarget iss o)

/-- The code reference in a lane's v pair (18 R377). -/
def pairOf (s : State) (iss : Issue) (f : FibreId) (n : Nat) : Dword :=
  let x := s.fibre f
  let c := s.clockOf iss.core
  (x.vAt c (n + 1)) ++ (x.vAt c n)

/-- CALLR (18 R377). -/
def execCallr (o : XC) (s : State) : Host.Outcome State Fault Refusal :=
  let n := match o.tgt with
    | .reg n => n.toNat
    | _ => 0
  issued (.callr o) s true legal fun iss act =>
    match s.checkEach iss true ((State.byFid act).map fun x => (x.2, pairOf s iss x.2 n)) with
    | (s', .ok) => s'.callTo iss act fun f => pairOf s iss f n
    | (s', m) => s'.moveFail iss m

/-- TRAP (24 R476): DETAIL is the immediate. -/
def execTrap (o : XS) (s : State) : Host.Outcome State Fault Refusal :=
  issued (.trap o) s false legal fun iss act =>
    if act.isEmpty then s.advance iss else s.raise iss cTRAP (bits o.imm.toNat 15 0) 0

/-- SVC below 0x80 (23 R468): DETAIL is the service number. -/
def execSvc (o : XS) (s : State) : Host.Outcome State Fault Refusal :=
  issued (.svc o) s false legal fun iss act =>
    if act.isEmpty then s.advance iss else s.raise iss cSVC (bits o.imm.toNat 6 0) 0

/-- A word that is no instruction raises ILLEGAL before anything is performed (15 R336). -/
def execUnassignedEncoding (s : State) : Host.Outcome State Fault Refusal :=
  match s.issue with
  | none => .next s
  | some iss => .next (s.raise iss cILLEGAL 0 0)

end Sys2Proof.Machine
end

