-- ==== Sys2Proof/Machine/Lsu.lean ====
section
/-! DEFINITION. The load-store unit and the streams: LD, ST, LDS, STS, LDX, STX, LEA, PREF, CACHE, FENCE, ATOM, ATOMS,
SDEF, SSTOP, and the completion of walks, reads, registrations and STX packets (06_memory_hierarchy R128 to R149, R492;
07_memory_model R158 to R168; 09_copy_engine_and_streams R207 to R210; 17 R358 to R361; 18 R373; 19 R402; 20 R415 to
R419; 22 R438; 23 R453, R454, R463 to R466). -/

namespace Sys2Proof.Machine

/-- A base global access as the extended form that means the same (15 R320, R337). -/
def bmgOf (o : BI) : XM :=
  { gd := .mk 0 false, h := o.h, d := .v (o.d.setWidth 8), base := .g (o.a.setWidth 8), idx := some (o.b.setWidth 8)
    c := 0, sx := false, mkb := false, scale := 0, pol := 0, res := 0, ord := 0, size := 2, disp := .short 0 }

/-- A base scratchpad access as the extended form that means the same. -/
def bmsOf (o : BI) : XM :=
  { gd := .mk 0 false, h := o.h, d := .v (o.d.setWidth 8), base := .v (o.a.setWidth 8), idx := none
    c := 0, sx := false, mkb := false, scale := 0, pol := 0, res := 0, ord := 0, size := 2
    disp := .short (BitVec.ofNat 16 (4 * o.b.toNat)) }

/-- Bytes of a size code (15 R326). -/
def sizeBytes (o : XM) : Nat := 2 ^ o.size.toNat

/-- The data register is a g register: the access is group-scope (20 R415). -/
def gData (o : XM) : Bool :=
  match o.d with
  | .g _ => true
  | .v _ => false

/-- The displacement (15 R326). -/
def dispOf (o : XM) : Int :=
  match o.disp with
  | .short x => sext 16 x.toNat
  | .lit x => sext 64 x.toNat

/-- The registers that hold data from a number on, with no value yet. -/
def dataRegs (o : XM) : List (Reg × Dword) :=
  match o.d with
  | .g n => [(.g n.toNat, 0)]
  | .v n => (run n.toNat (sizeRegs o.size.toNat)).map fun k => (.v k, 0)

namespace State

/-- The effective address before its space's rule (15 R326). `pair`: a v base is a pair. -/
def effective (s : State) (iss : Issue) (f : FibreId) (o : XM) (pair : Bool) : Int :=
  let x := s.fibre f
  let c := s.clockOf iss.core
  let base : Nat := match o.base with
    | .v n => if pair then (pairOf s iss f n.toNat).toNat else (x.vAt c n.toNat).toNat
    | .g n => (s.gReg iss.gid n.toNat).toNat
    | _ => 0
  let idx : Nat := match o.idx with
    | some n => (x.vAt c n.toNat).toNat * 2 ^ o.scale.toNat
    | none => 0
  (base : Int) + idx + dispOf o

/-- A global effective address (15 R326). -/
def globalEA (s : State) (iss : Issue) (f : FibreId) (o : XM) : Nat := (s.effective iss f o true % (2 ^ 64 : Nat)).toNat

/-- The data of a store or atomic as one number, from a register number on (15 R326). -/
def dataFrom (s : State) (iss : Issue) (f : FibreId) (o : XM) (n : Nat) : Nat :=
  if gData o then (s.gReg iss.gid n).toNat
  else
    let x := s.fibre f
    let c := s.clockOf iss.core
    ((run n (sizeRegs o.size.toNat)).reverse).foldl (fun a k => a * 2 ^ 32 + (x.vAt c k).toNat) 0

/-- The register number of the data operand. -/
def dataNum (o : XM) : Nat :=
  match o.d with
  | .g n => n.toNat
  | .v n => n.toNat

/-- The lanes that perform an access: the lowest-FID active fibre of a group-scope form, else all in rising FID. -/
def performers (o : XM) (act : List (Nat × FibreId)) : List FibreId :=
  let l := (byFid act).map (·.2)
  if gData o then l.take 1 else l

/-! The checks of 06 R130. -/

/-- Every address is translated in FID order; the first that fails is told. A lane whose walk meets an uncorrectable error
has no place: that is told after every fault of translation (06 R130, R150). -/
def translateAll (s : State) (iss : Issue) (kind : WalkKind) (write : Bool) :
    List (FibreId × Nat) → State × Except Move (List (FibreId × Option Nat))
  | [] => (s, .ok [])
  | (f, va) :: r =>
    let rest := fun (s : State) (x : Option Nat) =>
      match s.translateAll iss kind write r with
      | (s, .ok l) => (s, (.ok ((f, x) :: l) : Except Move (List (FibreId × Option Nat))))
      | (s, .error m) => (s, .error m)
    match s.translate iss.core iss.ctx va kind write with
    | (s, .ok pa) => rest s (some pa)
    | (s, .ecc) => rest s none
    | (s, .net _ _) => (s, .error (.trap cACCESS va))
    | (s, .fault true) => (s, .error (.page va))
    | (s, .fault false) => (s, .error (.trap cACCESS va))

/-- Alignment, address bits, translation, errors: in that order over every lane, the lowest FID first within a cause. `mem`:
what a lane consumes at its physical address holds an error; `source`: one of its source registers does (06 R128, R130,
R150). -/
def globalCheck (s : State) (iss : Issue) (kind : WalkKind) (write : Bool) (size : Nat)
    (mem : State → FibreId → Nat → Bool) (source : FibreId → Bool) (l : List (FibreId × Nat)) :
    State × Except Move (List (FibreId × Nat)) :=
  match l.find? fun x => x.2 % size != 0 with
  | some x => (s, .error (.trap cALIGN x.2))
  | none =>
    match l.find? fun x => 2 ^ 48 ≤ x.2 with
    | some x => (s, .error (.trap cACCESS x.2))
    | none =>
      match s.translateAll iss kind write l with
      | (s, .error m) => (s, .error m)
      | (s, .ok ps) =>
        let bad := fun (x : FibreId × Option Nat) => match x.2 with
          | some pa => mem s x.1 pa
          | none => true
        match (l.zip ps).find? fun x => bad x.2 || source x.1.1 with
        | some x => (s, .error (.trap cECC (if bad x.2 then x.1.2 else 0)))
        | none => (s, .ok (ps.map fun x => (x.1, x.2.getD 0)))

/-- A failed access: a recoverable fault parks the lanes (06 R149). -/
def memFail (s : State) (iss : Issue) (m : Move) (wr : Bool) : State :=
  match m with
  | .page va => s.parkPage iss va wr
  | m => s.moveFail { iss with wr := wr } m

/-! Gates: what an access has to wait for. -/

/-- FENCE.acq and FENCE.rel hold a fibre's later accesses (19 R402): whether they get through. -/
def accessGate (s : State) (iss : Issue) (fs : List FibreId) (store : Bool) : State × Bool :=
  if s.accessOpen fs store then (s.accessDone iss.core fs, true) else (s, false)

/-- An access at the home waits for the fibre's registrations of the line (07 R159). -/
def lineGate (s : State) (ps : List (FibreId × Nat)) : Bool := ps.any fun x => s.lineRegistered x.1 (x.2 / 64)

/-- What a write or atomic at the home asks of owners (06 R143, R492): another core's words are asked for and the access
waits; the issuing core's own words are written back, once no acknowledgement is outstanding. `line`: of the whole line. -/
def ownGate (s : State) (iss : Issue) (ps : List (FibreId × Nat)) (n : Nat) (line : Bool) : State × Bool :=
  let ws := nub (ps.map fun x => wordsOf x.2 n).flatten
  let far := ws.filter fun w => match s.owners.find w with
    | some c => c != iss.core
    | none => false
  if !far.isEmpty then
    ({ s with withdrawals := s.withdrawals ++ far.filter fun w => !s.withdrawals.contains w }, false)
  else
    let mine := if line then nub (ws.map fun w => stepsFrom (w / 16 * 16) 1 16).flatten else ws
    if mine.any fun w => s.ackPending iss.core w then (s, false) else (s.cleanOwn iss.core mine, true)

/-! Scratchpad checks (06 R128, R129; 08 R185). -/

/-- The checks of local scratchpad accesses: fibre, team and offset; `bytes` of them are consumed (06 R128 to R130). -/
def spadCheck (s : State) (size bytes : Nat) (source : FibreId → Bool) (l : List (FibreId × Nat × Int)) :
    Option (Nat × Nat) :=
  let va := fun (x : Int) => (x % (2 ^ 64 : Nat)).toNat
  match l.find? fun x => x.2.2 % (size : Int) != 0 with
  | some x => some (cALIGN, va x.2.2)
  | none =>
    match l.find? fun x => x.2.2 < 0 || (((s.team x.2.1).ownBytes : Nat) : Int) < x.2.2 + size with
    | some x => some (cACCESS, va x.2.2)
    | none =>
      let bad := fun (x : FibreId × Nat × Int) => s.spadBad x.2.1 x.2.2.toNat bytes
      match l.find? fun x => bad x || source x.1 with
      | some x => some (cECC, if bad x then va x.2.2 else 0)
      | none => none

/-- The home scratchpad of an access: the fibre's team, or the lead fibre's for a group-scope form (17 R347). -/
def spadTeam (s : State) (iss : Issue) (o : XM) (f : FibreId) : Nat := if gData o then s.leadTeam iss.gid else f.team

end State

/-- A load's destinations with the values of some bytes (20 R415). -/
def valuesOf (o : XM) (bs : List Byte) : List (Reg × Dword) := State.loadVals (dataRegs o) (sizeBytes o) o.sx bs

/-- A counter of some fibre would pass 63 (04 R93). -/
def countFull (s : State) (act : List (Nat × FibreId)) (c : Fibre → Nat) : Bool := act.any fun x => 63 ≤ c (s.fibre x.2)

/-- Who counts an access: every active fibre for a group-scope form, else its own (04 R93). -/
def counted (o : XM) (act : List (Nat × FibreId)) (f : FibreId) : List FibreId :=
  if gData o then act.map (·.2) else [f]

/-- One lane's global load, checked and let through (06 R136, R137, R139; 07 R159, R161). -/
def loadOne (s : State) (iss : Issue) (o : XM) (act : List (Nat × FibreId)) (f : FibreId) (pa : Nat) : State :=
  let n := sizeBytes o
  let cnt := counted o act f
  if o.ord != 0 then
    let (bs, s) := if o.pol == 3 then s.sysRead pa n
      else (if o.pol == 2 then s.l2Hint pa o.res.toNat else s).readHome iss.core pa n
    s.addPending iss f (valuesOf o bs) cnt none
  else if o.pol == 2 || o.pol == 3 then
    let s := s.staleDrop iss.core (State.wordsOf pa n)
    let s := if o.pol == 2 then s.l2Hint pa o.res.toNat else s
    s.addPending iss f (dataRegs o) cnt (some (.global pa false (o.pol == 3), n, o.sx))
  else
    let s := s.touchLine iss.core (pa / 64) (o.pol == 1) (o.res == 1) (o.res == 2)
    if s.l1Valid iss.core pa n then s.addPending iss f (valuesOf o (s.l1Bytes iss.core pa n)) cnt none
    else s.addPending iss f (dataRegs o) cnt (some (.global pa true false, n, o.sx))

/-- n bytes at its address are what a lane consumes, and hold an error (06 R150). -/
def consumes (n : Nat) : State → FibreId → Nat → Bool := fun s _ pa => s.eccBad pa n

/-- The bytes at its address that a store consumes: those of a word that it writes in part (06 R134, R150). -/
def partBytes (n : Nat) : Nat := if n < 4 then n else 0

/-- LD (20 R416). -/
def loadGlobal (i : Instr) (o : XM) (s : State) : Host.Outcome State Fault Refusal :=
  issuedMem i s false legal fun iss act =>
    let fs := State.performers o act
    match s.accessGate iss fs false with
    | (s, false) => s.stall iss
    | (s, true) =>
      if countFull s act (·.ldc) || (o.ord != 0 && !s.acquireOpen fs) then s.stall iss
      else
        match s.globalCheck iss .read false (sizeBytes o) (consumes (sizeBytes o)) (s.badLane iss (usesOf i))
            (fs.map fun f => (f, s.globalEA iss f o)) with
        | (s, .error m) => s.memFail iss m false
        | (s, .ok ps) =>
          if ps.any fun x => s.loadPending x.1 x.2 (sizeBytes o) then s.stall iss
          else if (2 ≤ o.pol.toNat || o.ord != 0) && s.lineGate ps then s.stall iss
          else
            let s := s.each ps fun s x => loadOne s iss o act x.1 x.2
            let s := if o.ord != 0 then s.l1Acquire iss.core else s
            s.advance iss

/-- LD, base form (20 R416). -/
def execLd (o : BI) (s : State) : Host.Outcome State Fault Refusal := loadGlobal (.ld o) (bmgOf o) s

/-- LD, extended form (20 R416). -/
def execLdX (o : XM) (s : State) : Host.Outcome State Fault Refusal := loadGlobal (.ldX o) o s

/-- Bytes are stored for some fibres, in the order listed, at the level that the policy names (06 R134, R137, R140). -/
def storeAll (s : State) (iss : Issue) (pol res : Nat) (l : List (FibreId × Nat × List Byte)) : State :=
  s.each l fun s (f, pa, bs) =>
    if pol == 3 then s.sysWrite pa bs
    else if pol == 2 then (s.l2Hint pa res).homeWrite pa bs
    else s.l1Store iss.core f pa bs (pol == 1) (res == 1) (res == 2)

/-- What the FENCE.rel of some fibres hold their later stores and atomics for, as far as it is not done (19 R402). -/
def fenced (s : State) (fs : List FibreId) : List Nat :=
  ((fs.map fun f => (s.fibre f).fenceRel).flatten).filter fun i => s.anyOpen [i]

/-- A checked store: its gates, its release, the stores (07 R158 to R160; 23 R464). A store that has to wait, for a
FENCE.rel, for earlier accesses of the same words, as a release or at the home for a registration or the owners of its words,
is left behind, and the fibres' later accesses are not held back by it (07 R160; 19 R402). `before`: what else it follows. -/
def storeChecked (s : State) (iss : Issue) (act : List (Nat × FibreId)) (pol res : Nat) (rel : Bool) (before : List Nat)
    (l : List (FibreId × Nat × List Byte)) : State :=
  let ps := l.map fun x => (x.1, x.2.1)
  let n := (l.headD (⟨0, 0⟩, 0, [])).2.2.length
  let fs := act.map (·.2)
  let level := if pol == 3 then 3 else if rel then 2 else pol
  let waits := fenced s (ps.map (·.1)) ++ (if rel then s.releaseWaits iss.core fs else []) ++
    nub (ps.map fun x => s.wordWaits x.1 x.2 n).flatten ++ before
  let later := fun (s : State) (waits : List Nat) => s.delay iss.core fs fs waits (.store level res l)
  if s.anyOpen waits then later s waits
  else if level < 2 then storeAll s iss level res l
  else if s.lineGate ps then later s []
  else
    match s.ownGate iss ps n false with
    | (s, false) => later s []
    | (s, true) => storeAll s iss level res l

/-- A store to global memory from registers (23 R464). -/
def storeGlobal (i : Instr) (o : XM) (s : State) : Host.Outcome State Fault Refusal :=
  issuedMem i s false legal fun iss act =>
    let fs := State.performers o act
    let n := sizeBytes o
    match s.accessGate iss fs false with
    | (s, false) => s.stall iss
    | (s, true) =>
      if countFull s act (·.stc) then s.stall iss
      else
        match s.globalCheck iss .write true n (consumes (partBytes n)) (s.badLane iss (usesOf i))
            (fs.map fun f => (f, s.globalEA iss f o)) with
        | (s, .error m) => s.memFail iss m true
        | (s, .ok ps) =>
          let l := ps.map fun x => (x.1, x.2, leBytes n (s.dataFrom iss x.1 o (State.dataNum o)))
          (storeChecked s iss act o.pol.toNat o.res.toNat (o.ord == 2) [] l).advance iss

/-- What the local scratchpad accesses of some fibres follow: earlier ones to the same bytes that are under way (07 R168). -/
def spadBefore (s : State) (iss : Issue) (o : XM) (fs : List FibreId) : List Nat :=
  nub (fs.map fun f => s.spadWaits f (s.spadTeam iss o f) (s.effective iss f o false).toNat (sizeBytes o)).flatten

/-- Local scratchpad accesses of some fibres have nothing earlier to the same bytes under way. -/
def spadOpen (s : State) (iss : Issue) (o : XM) (fs : List FibreId) : Bool := (spadBefore s iss o fs).isEmpty

/-! Streams (09 R207 to R211). -/

/-- The byte address of element k, dimension 0 varying fastest (09 R207). -/
def streamAddr (q : Stream) (k : Nat) : Nat :=
  (go q.dims k q.start % (2 ^ 64 : Nat)).toNat
where
  /-- The sum of the indices times the strides. -/
  go : List (Nat × Int) → Nat → Int → Int
    | [], _, a => a
    | (n, st) :: r, k, a => go r (k / n) (a + ((k % n : Nat) : Int) * st)

/-- The store's target is an output stream of the lane (09 R210). DEDUCED (log 17): a store to an input stream is ILLEGAL, as
one to an undefined stream is. -/
def outStream (s : State) (f : FibreId) (n : Nat) : Bool :=
  let q := (s.fibre f).streams.getD n {}
  q.defined && q.out

/-- The releases that hold elements of some fibres' output stream n and are not performed: the next element and the end of
the stream follow them (09 R209; 23 R454). -/
def poppedOpen (s : State) (fs : List FibreId) (n : Nat) : List Nat :=
  nub ((fs.map fun f => ((s.fibre f).streams.getD n {}).popped).flatten.filter fun i => s.anyOpen [i])

/-- ST to a q register (09 R209): the next element of each lane's stream, as a .na store, after the elements before it. -/
def storeStream (i : Instr) (o : XM) (n : Nat) (s : State) : Host.Outcome State Fault Refusal :=
  issuedMem i s false (fun _ act => act.any fun x => !outStream s x.2 n) fun iss act =>
    let fs := (State.byFid act).map (·.2)
    match s.accessGate iss fs false with
    | (s, false) => s.stall iss
    | (s, true) =>
      if countFull s act (·.stc) then s.stall iss
      else
        let q := fun (f : FibreId) => (s.fibre f).streams.getD n {}
        match fs.find? fun f => State.streamLength (q f) ≤ (q f).cursor with
        | some _ => s.raise { iss with wr := true } cACCESS 0 0
        | none =>
          match s.globalCheck iss .write true 1 (fun s f pa => s.eccBad pa (partBytes (q f).esz)) (s.badLane iss (usesOf i))
              (fs.map fun f => (f, streamAddr (q f) (q f).cursor)) with
          | (s, .error m) => s.memFail iss m true
          | (s, .ok ps) =>
            let l := ps.map fun x => (x.1, x.2, leBytes (q x.1).esz (s.dataFrom iss x.1 o (State.dataNum o)))
            let id := s.nextId
            let t := storeChecked s iss act 2 0 false (poppedOpen s (act.map (·.2)) n) l
            let left := if (t.releases.find id).isSome then [id] else []
            let t := t.each act fun s x => s.modFibre x.2 fun f => { f with
              streams := modAt f.streams n fun q => { q with
                cursor := q.cursor + 1, popped := q.popped.filter (fun i => s.anyOpen [i]) ++ left } }
            t.advance iss

/-- ST, base form (23 R464). -/
def execSt (o : BI) (s : State) : Host.Outcome State Fault Refusal := storeGlobal (.st o) (bmgOf o) s

/-- ST, extended form, with the stream form (23 R464; 09 R209). -/
def execStX (o : XM) (s : State) : Host.Outcome State Fault Refusal :=
  match o.base with
  | .q n => storeStream (.stX o) o n.toNat s
  | _ => storeGlobal (.stX o) o s

/-- A stream definition of eight doublewords (09 R207): one that breaks the rules is none. DESIGN CHOICE (log 17): the
doublewords of dimensions at or beyond NDIM are not looked at. -/
def streamOf (dw : List Nat) : Option Stream :=
  let d := fun (i : Nat) => dw.getD i 0
  let nd := bits (d 0) 1 0 + 1
  let esz : Nat := 2 ^ bits (d 0) 3 2
  let dims := (upto nd).map fun i => (bits (d (1 + i)) 15 0, sext 32 (bits (d (1 + i)) 63 32))
  if bits (d 0) 3 2 == 3 || bits (d 0) 63 6 != 0 || d 5 != 0 || d 6 != 0 || d 7 != 0 then none
  else if (upto nd).any fun i => bits (d (1 + i)) 31 16 != 0 then none
  else if dims.any fun x => x.1 == 0 || x.2 % (esz : Int) != 0 then none
  else some { defined := true, out := bit (d 0) 4, sx := bit (d 0) 5, esz := esz, dims := dims }

/-- The eight doublewords at a scratchpad offset. -/
def spadDwords (s : State) (tid ofs n : Nat) : List Nat := (upto n).map fun i => leNat (s.spadBytes tid (ofs + 8 * i) 8)

/-- A descriptor's place: ALIGN, then ACCESS (09 R493; 23 R453). DESIGN CHOICE (log 17): R493 gives an uncorrectable error in
the record's bytes no place; ECC comes after ACCESS on the location and before what the contents are judged by. -/
def descBad (s : State) (tid ofs n : Nat) : Option Nat :=
  if ofs % 16 != 0 then some cALIGN
  else if (s.team tid).ownBytes < ofs + n then some cACCESS
  else if s.spadBad tid ofs n then some cECC
  else none

/-- SDEF (23 R453). Over a defined output stream it waits, as SSTOP does, until every element popped to it is written. -/
def execSdef (o : XE) (s : State) : Host.Outcome State Fault Refusal :=
  issued (.sdef o) s false legal fun iss act =>
    let tid := (State.lowest act).team
    let ofs := (s.srcG iss o.c).toNat
    if !recordOpen s act tid then s.stall iss else
    match descBad s tid ofs 64 with
    | some c => s.raise iss c 0 ofs
    | none =>
      match streamOf (spadDwords s tid ofs 8) with
      | none => s.raise iss cILLEGAL 0 0
      | some q =>
        let start := fun (f : FibreId) => ((s.srcG iss o.a).toNat + (s.src iss f o.b).toNat : Nat)
        match (State.byFid act).find? fun x => start x.2 % q.esz != 0 with
        | some x => s.raise iss cALIGN 0 (start x.2)
        | none =>
          if !(poppedOpen s (act.map (·.2)) o.n6.toNat).isEmpty then s.stall iss else
          let s := s.each act fun s x =>
            let waits := (s.registrations.filter fun r => r.2.fibres.contains x.2).map (·.1) ++
              (s.releases.filter fun r => r.2.fibres.contains x.2).map (·.1) ++ ((s.fibre x.2).fenceAcq.getD [])
            s.modFibre x.2 fun f => { f with
              streams := modAt ((f.streams ++ List.replicate (4 - f.streams.length) {})) o.n6.toNat fun _ =>
                { q with start := (start x.2 : Nat), waits := waits } }
          s.advance iss

/-- SSTOP (23 R454): it completes once every element popped to the stream is written. -/
def execSstop (o : XE) (s : State) : Host.Outcome State Fault Refusal :=
  issued (.sstop o) s false legal fun iss act =>
    if !(poppedOpen s (act.map (·.2)) o.n6.toNat).isEmpty then s.stall iss else
    let s := s.each act fun s x => s.modFibre x.2 fun f => { f with
      streams := modAt f.streams o.n6.toNat fun _ => {} }
    s.advance iss

/-- A prefetched element of an input stream arrives, or holds its fault for the pop (09 R208). -/
def execStreamPrefetch (fib : FibreId) (stream : Nat) (s : State) : Host.Outcome State Fault Refusal :=
  let f := s.fibre fib
  let q := f.streams.getD stream {}
  let k := q.cursor + q.ahead.length
  if f.live && !(s.ctx (s.team fib.team).ctx).saved && q.defined && !q.out && q.bad.isNone && !s.anyOpen q.waits &&
    decide (q.ahead.length < 8) && decide (k < State.streamLength q) then
    let t := s.team fib.team
    let core := s.coreOf fib
    let va := streamAddr q k
    let put := fun (s : State) (g : Stream → Stream) =>
      s.modFibre fib fun f => { f with streams := modAt f.streams stream g }
    match s.translate core t.ctx va .read false with
    | (s, .ecc) => .next (put s fun q => { q with bad := some (cECC, va) })
    | (s, .ok pa) =>
      if s.eccBad pa q.esz then .next (put s fun q => { q with bad := some (cECC, va) })
      else
        let (bs, s) := s.readHome core pa q.esz
        let x := leNat bs
        let w : Word := if q.sx then wrapI 32 (sext (8 * q.esz) x) else BitVec.ofNat 32 x
        .next (put s fun q => { q with ahead := q.ahead ++ [w] })
    | (s, .fault true) => .next (put s fun q => { q with bad := some (cPAGE, va) })
    | (s, _) => .next (put s fun q => { q with bad := some (cACCESS, va) })
  else .fault (.notEnabled "STREAM_PREFETCH")

/-! Local scratchpad. -/

/-- The scratchpad accesses of an instruction: fibre, team, offset (06 R129; 11 R247). -/
def spadItems (s : State) (iss : Issue) (o : XM) (fs : List FibreId) : List (FibreId × Nat × Int) :=
  fs.map fun f => (f, s.spadTeam iss o f, s.effective iss f o false)

/-- LDS (20 R417). -/
def loadSpad (i : Instr) (o : XM) (s : State) : Host.Outcome State Fault Refusal :=
  issuedMem i s false legal fun iss act =>
    let fs := State.performers o act
    match s.accessGate iss fs false with
    | (s, false) => s.stall iss
    | (s, true) =>
      if countFull s act (·.ldc) then s.stall iss
      else
        match s.spadCheck (sizeBytes o) (sizeBytes o) (s.badLane iss (usesOf i)) (spadItems s iss o fs) with
        | some (c, va) => if c == cECC && !spadOpen s iss o fs then s.stall iss else s.raise iss c 0 va
        | none =>
          if !spadOpen s iss o fs then s.stall iss else
          let s := s.each fs fun s f =>
            let bs := s.spadBytes (s.spadTeam iss o f) (s.effective iss f o false).toNat (sizeBytes o)
            s.addPending iss f (valuesOf o bs) (counted o act f) none
          s.advance iss

/-- LDS, base form (20 R417). -/
def execLds (o : BI) (s : State) : Host.Outcome State Fault Refusal := loadSpad (.lds o) (bmsOf o) s

/-- LDS, extended form (20 R417). -/
def execLdsX (o : XM) (s : State) : Host.Outcome State Fault Refusal := loadSpad (.ldsX o) o s

/-- Bytes are stored in scratchpads for some fibres, in the order listed: fibre, team, offset. -/
def spadAll (s : State) (l : List (FibreId × Nat × Nat × List Byte)) : State :=
  s.each l fun s y => s.spadWrite y.2.1 y.2.2.1 y.2.2.2

/-- STS (23 R465). One that a FENCE.rel holds (19 R402), or that follows an access to the same bytes (07 R168), is left
behind. -/
def storeSpad (i : Instr) (o : XM) (s : State) : Host.Outcome State Fault Refusal :=
  issuedMem i s false legal fun iss act =>
    let fs := State.performers o act
    match s.accessGate iss fs false with
    | (s, false) => s.stall iss
    | (s, true) =>
      if countFull s act (·.stc) then s.stall iss
      else
        match s.spadCheck (sizeBytes o) 0 (s.badLane iss (usesOf i)) (spadItems s iss o fs) with
        | some (c, va) => s.raise { iss with wr := true } c 0 va
        | none =>
          let l := fs.map fun f => (f, s.spadTeam iss o f, (s.effective iss f o false).toNat,
            leBytes (sizeBytes o) (s.dataFrom iss f o (State.dataNum o)))
          let waits := fenced s fs ++ spadBefore s iss o fs
          if waits.isEmpty then (spadAll s l).advance iss
          else (s.delay iss.core (act.map (·.2)) (act.map (·.2)) waits (.spad l)).advance iss

/-- STS, base form (23 R465). -/
def execSts (o : BI) (s : State) : Host.Outcome State Fault Refusal := storeSpad (.sts o) (bmsOf o) s

/-- STS, extended form (23 R465). -/
def execStsX (o : XM) (s : State) : Host.Outcome State Fault Refusal := storeSpad (.stsX o) o s

/-! Gallery scratchpads (06 R129, R142; 20 R418; 23 R466). -/

/-- What stands behind a member index of a fibre's home gallery. -/
inductive Member where
  | none
  | unstarted
  | ended
  | self
  | other (tid : Nat)
  deriving DecidableEq, Repr

namespace State

/-- The member of a fibre's home gallery (02 R25; 03 R70; 12 R276). -/
def memberOf (s : State) (f : FibreId) (m : Nat) : Member :=
  let t := s.team f.team
  let l := s.launches.getD t.launch {}
  let g := recGsize l.words
  if g ≤ m then .none
  else if m == t.member then .self
  else if l.unstarted.contains (t.gallery * g + m) then .unstarted
  else
    match s.teamOf t.launch (t.gallery * g + m) with
    | some tid => if (s.team tid).ended then .ended else .other tid
    | none => .ended

/-- The member index of a lane (15 R326). -/
def memberIdx (s : State) (iss : Issue) (f : FibreId) (o : XM) : Nat :=
  if o.mkb then ((s.fibre f).vAt (s.clockOf iss.core) o.c.toNat).toNat else bits o.c.toNat 1 0

/-- The team behind a member, once it is known to be there. -/
def memberTeam (f : FibreId) (m : Member) : Nat :=
  match m with
  | .other t => t
  | _ => f.team

/-- The checks of LDX and STX over the lanes: a trap, or the index of an unstarted member; `bytes` of each lane's are consumed
(06 R128 to R130; 03 R70). -/
def galleryCheck (s : State) (iss : Issue) (o : XM) (bytes : Nat) (source : FibreId → Bool) (fs : List FibreId) :
    Option (Except Nat (Nat × Nat)) :=
  let n := sizeBytes o
  let ea := fun (f : FibreId) => s.effective iss f o false
  let va := fun (f : FibreId) => (ea f % (2 ^ 64 : Nat)).toNat
  let mem := fun (f : FibreId) => s.memberOf f (s.memberIdx iss f o)
  match fs.find? fun f => ea f % (n : Int) != 0 with
  | some f => some (.ok (cALIGN, va f))
  | none =>
    let bad := fun (f : FibreId) => match mem f with
      | .none => true
      | .ended => true
      | .unstarted => false
      | m => ea f < 0 || (((s.team (memberTeam f m)).ownBytes : Nat) : Int) < ea f + n
    match fs.find? bad with
    | some f => some (.ok (cACCESS, va f))
    | none =>
      match fs.find? fun f => mem f == .unstarted with
      | some f => some (.error (s.memberIdx iss f o))
      | none =>
        let err := fun (f : FibreId) => s.spadBad (memberTeam f (mem f)) (ea f).toNat bytes
        match fs.find? fun f => err f || source f with
        | some f => some (.ok (cECC, if err f then va f else 0))
        | none => none

/-- An STX packet of a fibre leaves for a team's scratchpad; `count`: whose STC counts it (04 R93; 06 R142; 09 R196). -/
def sendPacket (s : State) (core : Nat) (f : FibreId) (count : List FibreId) (t ofs : Nat) (bs : List Byte) : State :=
  let (id, s) := s.newId
  let p : Packet := ⟨f, count, core, t, (s.team t).tag, ofs, bs, id⟩
  let s := s.each count fun s c => s.modFibre c fun x => { x with stc := x.stc + 1 }
  { s with packets := s.packets.put id p }

end State

/-- What the gallery accesses of some fibres follow (07 R168): to another member, the STX held back to it, whatever the
bytes, since they travel on one ordered stream, and other accesses to the same bytes that are held back; in the fibre's own
scratchpad, what is under way to the same bytes, of which packets only for a load (`stxAll`). -/
def galleryBefore (s : State) (iss : Issue) (o : XM) (load : Bool) (fs : List FibreId) : List Nat :=
  let n := sizeBytes o
  nub (fs.map fun f =>
    let ofs := (s.effective iss f o false).toNat
    match s.memberOf f (s.memberIdx iss f o) with
    | .other t => s.heldThere f t ofs n true
    | _ => s.heldThere f f.team ofs n false ++ s.readsThere f f.team ofs n ++
        if load then s.packetsThere f f.team ofs n else []).flatten

/-- LDX (20 R418). An error in bytes that an earlier access under way may still write is not looked at before it is done. -/
def execLdx (o : XM) (s : State) : Host.Outcome State Fault Refusal :=
  issuedMem (.ldx o) s false legal fun iss act =>
    let fs := State.performers o act
    match s.accessGate iss fs false with
    | (s, false) => s.stall iss
    | (s, true) =>
      if countFull s act (·.ldc) then s.stall iss
      else
        let waits := !(galleryBefore s iss o true fs).isEmpty
        match s.galleryCheck iss o (sizeBytes o) (s.badLane iss (usesOf (.ldx o))) fs with
        | some (.ok (c, va)) => if c == cECC && waits then s.stall iss else s.raise iss c 0 va
        | some (.error m) => s.park iss iss.lanes (.member m) none
        | none =>
          if waits then s.stall iss else
          let s := s.each fs fun s f =>
            let ofs := (s.effective iss f o false).toNat
            match s.memberOf f (s.memberIdx iss f o) with
            | .other t =>
              s.addPending iss f (dataRegs o) (counted o act f) (some (.gallery t ofs, sizeBytes o, o.sx))
            | _ => s.addPending iss f (valuesOf o (s.spadBytes f.team ofs (sizeBytes o))) (counted o act f) none
          s.advance iss

/-- The stores of STX leave, in the order listed: fibre, team, offset and bytes. One to the fibre's own team is made there at
once, unless packets of these fibres go there or are under way: then it goes as a packet too, and the fibres stay in
order (07 R158, R168). -/
def stxAll (s : State) (core : Nat) (count : FibreId → List FibreId) (l : List (FibreId × Nat × Nat × List Byte)) : State :=
  let far := (l.filter fun y => y.2.1 != y.1.team).map fun y => y.2.1
  let fs := l.map (·.1)
  let under := (l.map fun y => y.2.1).filter fun t => packetHome s [t] fs
  s.each l fun s y =>
    if y.2.1 != y.1.team || far.contains y.2.1 || under.contains y.2.1 then
      s.sendPacket core y.1 (count y.1) y.2.1 y.2.2.1 y.2.2.2
    else s.spadWrite y.2.1 y.2.2.1 y.2.2.2

/-- STX (23 R466). One that a FENCE.rel holds (19 R402), or that follows an access that is under way (07 R168), is left
behind. -/
def execStx (o : XM) (s : State) : Host.Outcome State Fault Refusal :=
  issuedMem (.stx o) s false legal fun iss act =>
    let fs := State.performers o act
    match s.accessGate iss fs false with
    | (s, false) => s.stall iss
    | (s, true) =>
      if countFull s act (·.stc) then s.stall iss
      else
        match s.galleryCheck iss o 0 (s.badLane iss (usesOf (.stx o))) fs with
        | some (.ok (c, va)) => s.raise { iss with wr := true } c 0 va
        | some (.error m) => s.park iss iss.lanes (.member m) none
        | none =>
          let l := fs.map fun f => (f, State.memberTeam f (s.memberOf f (s.memberIdx iss f o)),
            (s.effective iss f o false).toNat, leBytes (sizeBytes o) (s.dataFrom iss f o (State.dataNum o)))
          let waits := fenced s fs ++ galleryBefore s iss o false fs
          if waits.isEmpty then (stxAll s iss.core (counted o act) l).advance iss
          else (s.delay iss.core (act.map (·.2)) (act.map (·.2)) waits (.stx (gData o) l)).advance iss

/-! LEA, PREF, CACHE and FENCE. -/

/-- LEA (20 R419). -/
def execLea (o : XM) (s : State) : Host.Outcome State Fault Refusal :=
  issued (.lea o) s false legal fun iss act =>
    let ea := fun (f : FibreId) => BitVec.ofNat 64 (s.globalEA iss f o)
    match o.d with
    | .g n =>
      let x := ea (act.headD (0, ⟨0, 0⟩)).2
      if act.any fun y => ea y.2 != x then s.raise iss cUNIF 0 0
      else s.finish iss act (.lea o) [(act.headD (0, ⟨0, 0⟩), { dests := [(.g n.toNat, x)] })]
    | .v n =>
      s.finish iss act (.lea o) (act.map fun y =>
        (y, { dests := [(.v n.toNat, BitVec.ofNat 64 ((ea y.2).toNat % 2 ^ 32)), (.v (n.toNat + 1), ea y.2 >>> 32)] }))

/-- A page is a network-window page: its walk as a copy would make it says so (06 R146, R148). -/
def windowPage (s : State) (iss : Issue) (va : Nat) : Bool :=
  match (s.translate iss.core iss.ctx va .copy false).2 with
  | .net _ _ => true
  | _ => false

/-- The translations of PREF, once no address has a bit beyond 47: walk faults drop a lane's prefetch, window pages
trap (22 R439; 06 R146, R148). -/
def prefAll (s : State) (iss : Issue) : List Nat → State × Except Nat (List Nat)
  | [] => (s, .ok [])
  | va :: r =>
    if windowPage s iss va then (s, .error va)
    else
      match s.translate iss.core iss.ctx va .read false with
      | (s, x) =>
        match prefAll s iss r with
        | (s, .error v) => (s, .error v)
        | (s, .ok l) =>
          match x with
          | .ok pa => (s, .ok (pa / 64 :: l))
          | _ => (s, .ok l)

/-- The checks of PREF over all lanes: the address bits first, then the pages (06 R130). -/
def prefCheck (s : State) (iss : Issue) (vas : List Nat) : State × Except Nat (List Nat) :=
  match vas.find? fun va => 2 ^ 48 ≤ va with
  | some va => (s, .error va)
  | none => prefAll s iss vas

/-- PREF of a line: at L2, or the sectors of the line that are not valid in L1 (22 R438). -/
def prefLine (s : State) (core : Nat) (o : XM) (l : Nat) : State :=
  if s.eccBad (64 * l) 64 then s
  else if o.pol == 2 then (s.l2Hint (64 * l) o.res.toNat).guestAdd core l
  else
    let s := s.touchLine core l (o.pol == 1) (o.res == 1) (o.res == 2)
    s.each (stepsFrom (4 * l) 1 4) fun s q => if s.l1Valid core (16 * q) 16 then s else s.l1Fill core q

/-- PREF (22 R438 to R440). -/
def execPref (o : XM) (s : State) : Host.Outcome State Fault Refusal :=
  issuedMem (.pref o) s false legal fun iss act =>
    match prefCheck s iss ((State.byFid act).map fun x => s.globalEA iss x.2 o) with
    | (s, .error va) => s.raise iss cACCESS 0 va
    | (s, .ok ls) =>
      s.sourced iss act (.pref o) <|
      (s.each (nub ls) fun s l => prefLine s iss.core o l).advance iss

/-- The distinct lines of a CACHE operation's lanes, or what failed (18 R373). `back`: the owned words of a lane's line are
written back, and consumed (06 R150). -/
def cacheLines (s : State) (iss : Issue) (i : Instr) (o : XM) (back : Bool) (act : List (Nat × FibreId)) :
    State × Except Move (List Nat) :=
  let mem := fun (s : State) (_ : FibreId) (pa : Nat) =>
    back && (s.ownedWords iss.core (pa / 64)).any s.badWord
  match s.globalCheck iss .read false 1 mem (s.badLane iss (usesOf i))
      ((State.byFid act).map fun x => (x.2, s.globalEA iss x.2 o)) with
  | (s, .error m) => (s, .error m)
  | (s, .ok ps) => (s, .ok (nub (ps.map fun x => x.2 / 64)))

/-- Owned words of a line are written back and stay valid, unowned (18 R373). -/
def cleanLine (s : State) (core line : Nat) : State :=
  s.each (s.ownedWords core line) fun s w =>
    let x := ((s.core core).l1.find w).getD ⟨0, false⟩
    (s.writeBack core w).l1Put core w ⟨x.data, false⟩

/-- CACHE.wb and CACHE.inv over the lines (18 R373, R374). -/
def cacheOp (i : Instr) (o : XM) (s : State) (f : State → Nat → Nat → State) : Host.Outcome State Fault Refusal :=
  issuedMem i s false legal fun iss act =>
    match cacheLines s iss i o true act with
    | (s, .error m) => s.memFail iss m false
    | (s, .ok ls) =>
      let ws := (ls.map fun l => s.ownedWords iss.core l).flatten
      if ws.any fun w => s.ackPending iss.core w then s.stall iss
      else (s.each ls fun s l => f s iss.core l).advance iss

/-- CACHE.wb (18 R373). -/
def execCacheWb (o : XM) (s : State) : Host.Outcome State Fault Refusal := cacheOp (.cacheWb o) o s cleanLine

/-- CACHE.inv (18 R373). -/
def execCacheInv (o : XM) (s : State) : Host.Outcome State Fault Refusal :=
  cacheOp (.cacheInv o) o s fun s core l =>
    let s := cleanLine s core l
    s.each (State.l1LineWords (s.core core) l) fun s w => s.l1Drop core w

/-- CACHE.clel (18 R373). -/
def execCacheClel (o : XM) (s : State) : Host.Outcome State Fault Refusal :=
  issuedMem (.cacheClel o) s false legal fun iss act =>
    match cacheLines s iss (.cacheClel o) o false act with
    | (s, .error m) => s.memFail iss m false
    | (s, .ok ls) =>
      let clear := fun (x : Nat × L1Line) => (x.1, if ls.contains x.1 then { x.2 with el := false } else x.2)
      let s := s.modCore iss.core fun c => { c with lines := c.lines.map clear }
      let clear2 := fun (x : Nat × L2Line) => (x.1, if ls.contains x.1 then { x.2 with el := false } else x.2)
      ({ s with l2lines := s.l2lines.map clear2 }).advance iss

namespace State

/-- The unanswered loads of a fibre. -/
def loadsOf (s : State) (f : FibreId) : List Nat :=
  (s.pending.filter fun x => x.2.fib == f && x.2.load.isSome).map (·.1)

/-- What the releases of a fibre are waiting for, and the slots that it has sent (07 R156). -/
def releasesOf (s : State) (f : FibreId) : List Nat :=
  (s.fibre f).fenceRel ++ (s.releases.filter fun x => x.2.fibres.contains f).map (·.1) ++
    (s.flights.filter fun x => x.2.src == f).map (·.1)

end State

/-- FENCE.acq (19 R402): the fibre's later accesses wait for its loads, and for its releases, which an acquire follows (07
R156). -/
def execFenceAcq (o : XM) (s : State) : Host.Outcome State Fault Refusal :=
  issued (.fenceAcq o) s false legal fun iss act =>
    let s := s.each act fun s x =>
      let l := s.loadsOf x.2 ++ s.releasesOf x.2
      s.modFibre x.2 fun f => { f with fenceAcq := some (f.fenceAcq.getD [] ++ l) }
    s.advance iss

/-- FENCE.rel (19 R402). -/
def execFenceRel (o : XM) (s : State) : Host.Outcome State Fault Refusal :=
  issued (.fenceRel o) s false legal fun iss act =>
    let s := s.each act fun s x =>
      let l := s.releaseSet iss.core x.2
      s.modFibre x.2 fun f => { f with fenceRel := l }
    s.advance iss

/-- FENCE.ar (19 R402). -/
def execFenceAr (o : XM) (s : State) : Host.Outcome State Fault Refusal :=
  issued (.fenceAr o) s false legal fun iss act =>
    let s := s.each act fun s x =>
      let l := s.releaseSet iss.core x.2
      let sent := (s.flights.filter fun y => y.2.src == x.2).map (·.1)
      s.modFibre x.2 fun f => { f with fenceRel := l, fenceAcq := some (f.fenceAcq.getD [] ++ l ++ sent) }
    s.advance iss

/-! Atomics (17 R358 to R361). -/

/-- The new value of an atomic operation on n bits (17 R358; 15 R333). -/
def atomNew (op n old x c : Nat) : Nat :=
  let x := x % 2 ^ n
  let le := sext n old ≤ sext n x
  match op with
  | 0 => (old + x) % 2 ^ n
  | 1 => Nat.land old x
  | 2 => Nat.lor old x
  | 3 => Nat.xor old x
  | 4 => if le then old else x
  | 5 => if le then x else old
  | 6 => Nat.min old x
  | 7 => Nat.max old x
  | 8 => x
  | 9 => if old == c % 2 ^ n then x else old
  | _ => (Float.addF32 (BitVec.ofNat 32 old) (BitVec.ofNat 32 x)).toNat

/-- The operand and the compare value of a lane. -/
def atomArgs (s : State) (iss : Issue) (o : XM) (f : FibreId) : Nat × Nat :=
  (s.dataFrom iss f o (State.dataNum o), s.dataFrom iss f o o.c.toNat)

/-- One global atomic at the home: the old bytes and the new state (06 R143). -/
def atomHome (s : State) (pol res op n pa x c : Nat) : List Byte × State :=
  let s := if pol == 3 then s.flushSectors pa n else s.l2Hint pa res
  let old := s.homeBytes pa n
  let new := leBytes n (atomNew op (8 * n) (leNat old) x c)
  (old, if pol == 3 then s.sysWrite pa new else s.homeWrite pa new)

/-- One lane's global atomic at the home (06 R143). -/
def atomOne (s : State) (iss : Issue) (o : XM) (op : Nat) (act : List (Nat × FibreId)) (f : FibreId) (pa : Nat) : State :=
  let n := sizeBytes o
  let (x, c) := atomArgs s iss o f
  let (old, s) := atomHome s o.pol.toNat o.res.toNat op n pa x c
  s.addPending iss f (State.loadVals (dataRegs o) n false old) (counted o act f) none

/-- Every lane's result of a releasing atomic is pending, to be given when it is performed: the pending results, in the
order of the fibres. -/
def atomLater (s : State) (iss : Issue) (o : XM) (act : List (Nat × FibreId)) : List FibreId → List Nat × State
  | [] => ([], s)
  | f :: r =>
    let id := s.nextId
    let s := s.addPending iss f (dataRegs o) (counted o act f) (some (.atomic, sizeBytes o, false))
    let (ids, s) := atomLater s iss o act r
    (id :: ids, s)

/-- A release that acquires too holds the fibres' later accesses until its results are there (07 R161). -/
def holdFor (s : State) (fs : List FibreId) (acq : Bool) (ids : List Nat) : State :=
  if !acq then s else s.each fs fun s f => s.modFibre f fun x => { x with fenceAcq := some (x.fenceAcq.getD [] ++ ids) }

/-- ATOM (17 R359). One that has to wait, for a FENCE.rel (19 R402), for earlier accesses of the same word (07 R159), as a
release (R160), or at the home for a registration or the owner of its word (06 R492), is left behind. -/
def atomGlobal (i : Instr) (o : XM) (op : Nat) (s : State) : Host.Outcome State Fault Refusal :=
  issuedMem i s false legal fun iss act =>
    let fs := State.performers o act
    let n := sizeBytes o
    match s.accessGate iss fs false with
    | (s, false) => s.stall iss
    | (s, true) =>
      let acq := o.ord.toNat % 2 == 1
      let rel := decide (2 ≤ o.ord.toNat)
      if countFull s act (·.ldc) || (acq && !s.acquireOpen fs) then s.stall iss
      else
        match s.globalCheck iss .write true n (consumes n) (s.badLane iss (usesOf i))
            (fs.map fun f => (f, s.globalEA iss f o)) with
        | (s, .error m) => s.memFail iss m true
        | (s, .ok ps) =>
          let waits := fenced s fs ++ (if rel then s.releaseWaits iss.core (act.map (·.2)) else []) ++
            nub (ps.map fun x => s.wordWaits x.1 x.2 n).flatten
          let later := fun (s : State) (waits : List Nat) =>
            let l := ps.map fun x => (x.1, x.2, (atomArgs s iss o x.1).1, (atomArgs s iss o x.1).2)
            let (ids, s) := atomLater s iss o act fs
            let items := (l.zip ids).map fun y => (y.1.1, y.1.2.1, y.1.2.2.1, y.1.2.2.2, y.2)
            let s := s.delay iss.core (act.map (·.2)) [] waits (.atom o.pol.toNat o.res.toNat op n acq items)
            (holdFor s fs acq ids).advance iss
          if s.anyOpen waits then later s waits
          else if s.lineGate ps then later s []
          else
            match s.ownGate iss ps n true with
            | (s, false) => later s []
            | (s, true) =>
              let s := s.each ps fun s x => atomOne s iss o op act x.1 x.2
              let s := if acq then s.l1Acquire iss.core else s
              s.advance iss

/-- One atomic in a scratchpad: the old bytes and the new state. -/
def atomsHome (s : State) (op n t ofs x c : Nat) : List Byte × State :=
  let old := s.spadBytes t ofs n
  (old, s.spadWrite t ofs (leBytes n (atomNew op (8 * n) (leNat old) x c)))

/-- ATOMS (17 R361). One that has to wait, as a release (07 R160), for an access to the same bytes (R168) or for a FENCE.rel
(19 R402), is left behind. -/
def atomSpad (i : Instr) (o : XM) (op : Nat) (s : State) : Host.Outcome State Fault Refusal :=
  issuedMem i s false legal fun iss act =>
    let fs := State.performers o act
    let n := sizeBytes o
    match s.accessGate iss fs false with
    | (s, false) => s.stall iss
    | (s, true) =>
      let acq := o.ord.toNat % 2 == 1
      if countFull s act (·.ldc) || (acq && !s.acquireOpen fs) then s.stall iss
      else
        match s.spadCheck n n (s.badLane iss (usesOf i)) (spadItems s iss o fs) with
        | some (c, va) => s.raise { iss with wr := true } c 0 va
        | none =>
          let waits := fenced s fs ++ (if 2 ≤ o.ord.toNat then s.releaseWaits iss.core (act.map (·.2)) else []) ++
            spadBefore s iss o fs
          let place := fun (f : FibreId) => (s.spadTeam iss o f, (s.effective iss f o false).toNat)
          let l := fs.map fun f => (f, (place f).1, (place f).2, (atomArgs s iss o f).1, (atomArgs s iss o f).2)
          if s.anyOpen waits then
            let (ids, s) := atomLater s iss o act fs
            let items := (l.zip ids).map fun y => (y.1.1, y.1.2.1, y.1.2.2.1, y.1.2.2.2.1, y.1.2.2.2.2, y.2)
            let s := s.delay iss.core (act.map (·.2)) [] waits (.atoms op n acq items)
            (holdFor s fs acq ids).advance iss
          else
            let s := s.each l fun s y =>
              let (old, s) := atomsHome s op n y.2.1 y.2.2.1 y.2.2.2.1 y.2.2.2.2
              s.addPending iss y.1 (State.loadVals (dataRegs o) n false old) (counted o act y.1) none
            let s := if acq then s.l1Acquire iss.core else s
            s.advance iss

namespace State

/-- A pending result of an atomic is known; `bad`: its bytes held an error (06 R150). -/
def atomAnswer (s : State) (id n : Nat) (old : List Byte) (bad : Bool) : State :=
  match s.pending.find id with
  | none => s
  | some p => s.deliver id p n false old bad

/-- A release whose conditions hold gets through at the home: the words that it asks of owners, and whether it may be
performed (06 R143, R492; 07 R159). -/
def releaseGate (s : State) (r : Release) : State × Bool :=
  let iss : Issue := { gid := 0, core := r.core, ctx := 0, pc := 0, next := 0, lanes := [], atEnd := false }
  match r.act with
  | .store pol _ l =>
    let ps := l.map fun x => (x.1, x.2.1)
    if pol < 2 then (s, true)
    else if s.lineGate ps then (s, false)
    else s.ownGate iss ps (l.headD (⟨0, 0⟩, 0, [])).2.2.length false
  | .atom _ _ _ n _ l =>
    let ps := l.map fun x => (x.1, x.2.1)
    if s.lineGate ps then (s, false) else s.ownGate iss ps n true
  | .atoms _ _ _ _ | .spad _ | .stx _ _ | .enter => (s, true)

/-- A release is performed (07 R158, R160). -/
def releaseDo (s : State) (id : Nat) (r : Release) : State :=
  let iss : Issue := { gid := 0, core := r.core, ctx := 0, pc := 0, next := 0, lanes := [], atEnd := false }
  let s := { s with releases := s.releases.del id }
  let s := match r.act with
    | .store pol res l => storeAll s iss pol res l
    | .atom pol res op n acq l =>
      let s := s.each l fun s y =>
        let bad := s.eccBad y.2.1 n
        let (old, s) := atomHome s pol res op n y.2.1 y.2.2.1 y.2.2.2.1
        s.atomAnswer y.2.2.2.2 n old bad
      if acq then s.l1Acquire r.core else s
    | .atoms op n acq l =>
      let s := s.each l fun s y =>
        let bad := s.spadBad y.2.1 y.2.2.1 n
        let (old, s) := atomsHome s op n y.2.1 y.2.2.1 y.2.2.2.1 y.2.2.2.2.1
        s.atomAnswer y.2.2.2.2.2 n old bad
      if acq then s.l1Acquire r.core else s
    | .spad l => spadAll s l
    | .stx whole l => stxAll s r.core (fun f => if whole then r.fibres else [f]) l
    | .enter => s.enterNow (r.fibres.filter fun f => (s.fibre f).live)
  s.each r.count fun s f => s.modFibre f fun x => { x with stc := x.stc - 1 }

/-- A release is tried: what it waits for is done, and it gets through at the home. -/
def releaseTry (s : State) (id : Nat) : State :=
  match s.releases.find id with
  | none => s
  | some r =>
    if s.anyOpen r.waits then s
    else
      match s.releaseGate r with
      | (s, false) => s
      | (s, true) => s.releaseDo id r

/-- Every release whose conditions hold is performed, the oldest first (07 R160). -/
def performReleases (s : State) : State := s.each (s.releases.map (·.1)) releaseTry

end State

/-- ATOM.add (17 R359). -/
def execAtomAdd (o : XM) (s : State) : Host.Outcome State Fault Refusal := atomGlobal (.atomAdd o) o 0 s

/-- ATOM.and (17 R359). -/
def execAtomAnd (o : XM) (s : State) : Host.Outcome State Fault Refusal := atomGlobal (.atomAnd o) o 1 s

/-- ATOM.or (17 R359). -/
def execAtomOr (o : XM) (s : State) : Host.Outcome State Fault Refusal := atomGlobal (.atomOr o) o 2 s

/-- ATOM.xor (17 R359). -/
def execAtomXor (o : XM) (s : State) : Host.Outcome State Fault Refusal := atomGlobal (.atomXor o) o 3 s

/-- ATOM.min (17 R359). -/
def execAtomMin (o : XM) (s : State) : Host.Outcome State Fault Refusal := atomGlobal (.atomMin o) o 4 s

/-- ATOM.max (17 R359). -/
def execAtomMax (o : XM) (s : State) : Host.Outcome State Fault Refusal := atomGlobal (.atomMax o) o 5 s

/-- ATOM.umin (17 R359). -/
def execAtomUmin (o : XM) (s : State) : Host.Outcome State Fault Refusal := atomGlobal (.atomUmin o) o 6 s

/-- ATOM.umax (17 R359). -/
def execAtomUmax (o : XM) (s : State) : Host.Outcome State Fault Refusal := atomGlobal (.atomUmax o) o 7 s

/-- ATOM.exch (17 R359). -/
def execAtomExch (o : XM) (s : State) : Host.Outcome State Fault Refusal := atomGlobal (.atomExch o) o 8 s

/-- ATOM.cas (17 R359). -/
def execAtomCas (o : XM) (s : State) : Host.Outcome State Fault Refusal := atomGlobal (.atomCas o) o 9 s

/-- ATOM.fadd (17 R359). -/
def execAtomFadd (o : XM) (s : State) : Host.Outcome State Fault Refusal := atomGlobal (.atomFadd o) o 10 s

/-- ATOMS.add (17 R361). -/
def execAtomsAdd (o : XM) (s : State) : Host.Outcome State Fault Refusal := atomSpad (.atomsAdd o) o 0 s

/-- ATOMS.and (17 R361). -/
def execAtomsAnd (o : XM) (s : State) : Host.Outcome State Fault Refusal := atomSpad (.atomsAnd o) o 1 s

/-- ATOMS.or (17 R361). -/
def execAtomsOr (o : XM) (s : State) : Host.Outcome State Fault Refusal := atomSpad (.atomsOr o) o 2 s

/-- ATOMS.xor (17 R361). -/
def execAtomsXor (o : XM) (s : State) : Host.Outcome State Fault Refusal := atomSpad (.atomsXor o) o 3 s

/-- ATOMS.min (17 R361). -/
def execAtomsMin (o : XM) (s : State) : Host.Outcome State Fault Refusal := atomSpad (.atomsMin o) o 4 s

/-- ATOMS.max (17 R361). -/
def execAtomsMax (o : XM) (s : State) : Host.Outcome State Fault Refusal := atomSpad (.atomsMax o) o 5 s

/-- ATOMS.umin (17 R361). -/
def execAtomsUmin (o : XM) (s : State) : Host.Outcome State Fault Refusal := atomSpad (.atomsUmin o) o 6 s

/-- ATOMS.umax (17 R361). -/
def execAtomsUmax (o : XM) (s : State) : Host.Outcome State Fault Refusal := atomSpad (.atomsUmax o) o 7 s

/-- ATOMS.exch (17 R361). -/
def execAtomsExch (o : XM) (s : State) : Host.Outcome State Fault Refusal := atomSpad (.atomsExch o) o 8 s

/-- ATOMS.cas (17 R361). -/
def execAtomsCas (o : XM) (s : State) : Host.Outcome State Fault Refusal := atomSpad (.atomsCas o) o 9 s

/-- ATOMS.fadd (17 R361). -/
def execAtomsFadd (o : XM) (s : State) : Host.Outcome State Fault Refusal := atomSpad (.atomsFadd o) o 10 s

/-! The memory system's own steps. -/

/-- A variable-latency result is written (04 R90): its value is there, or is read in a gallery scratchpad or at the
memory side. -/
def execResultWriteback (id : Nat) (s : State) : Host.Outcome State Fault Refusal :=
  match s.pending.find id with
  | none => .fault (.notEnabled "RESULT_WRITEBACK")
  | some p =>
    match p.load with
    | none => .next (s.writeResult id)
    | some (.gallery _ _, _, _) => .next ((s.answer id).writeResult id)
    | some (.global _ _ sys, _, _) =>
      if sys then .next ((s.answer id).writeResult id) else .fault (.notEnabled "RESULT_WRITEBACK")
    | some (.atomic, _, _) => .fault (.notEnabled "RESULT_WRITEBACK")

/-- The home records the new owner of a registration's words, drops guest copies and discards the former owner's copy
(06 R134, R135). The bytes that the core has not stored are taken from where they stand (log 34). -/
def execOwnershipRegistration (id : Nat) (s : State) : Host.Outcome State Fault Refusal :=
  match s.registrations.find id with
  | none => .fault (.notEnabled "OWNERSHIP_REGISTRATION")
  | some r =>
    if r.recorded then .fault (.notEnabled "OWNERSHIP_REGISTRATION")
    else
      let s := s.each r.words fun s w =>
        let s := s.mergeWord r.core w
        let s := match s.owners.find w with
          | some c => if c == r.core then s else s.discard c w
          | none => s
        { s.dropGuests (w / 16) with owners := s.owners.put w r.core }
      .next { s with registrations := s.registrations.put id { r with recorded := true } }

/-- A registration's acknowledgement reaches its core (06 R134). -/
def execRegistrationAck (id : Nat) (s : State) : Host.Outcome State Fault Refusal :=
  match s.registrations.find id with
  | none => .fault (.notEnabled "REGISTRATION_ACK")
  | some r =>
    if r.recorded then .next { s with registrations := s.registrations.del id }
    else .fault (.notEnabled "REGISTRATION_ACK")

/-- The owner answers a read of a word it owns with its current value (06 R135). -/
def execOwnerReadForward (id : Nat) (s : State) : Host.Outcome State Fault Refusal :=
  match s.pending.find id with
  | none => .fault (.notEnabled "OWNER_READ_FORWARD")
  | some p =>
    match p.load with
    | some (.global pa _ false, n, _) =>
      if (State.wordsOf pa n).any fun w => (s.owners.find w).isSome then .next (s.answer id)
      else .fault (.notEnabled "OWNER_READ_FORWARD")
    | _ => .fault (.notEnabled "OWNER_READ_FORWARD")

/-- The collected reads of a line are answered with its value at this moment (06 R141). -/
def execReadCombineReply (line : Nat) (s : State) : Host.Outcome State Fault Refusal :=
  let ids := (s.pending.filter fun x => match x.2.load with
    | some (.global pa _ false, _, _) => pa / 64 == line
    | _ => false).map (·.1)
  if ids.isEmpty then .fault (.notEnabled "READ_COMBINE_REPLY") else .next (s.each ids fun s i => s.answer i)

/-- The owner gives a word up to an operation at its home (06 R492). -/
def execOwnershipWithdrawal (word : Nat) (s : State) : Host.Outcome State Fault Refusal :=
  if !s.withdrawals.contains word then .fault (.notEnabled "OWNERSHIP_WITHDRAWAL")
  else
    let done := { s with withdrawals := s.withdrawals.filter (· != word) }
    match s.owners.find word with
    | none => .next done
    | some c => if s.ackPending c word then .fault (.notEnabled "OWNERSHIP_WITHDRAWAL") else .next (done.withdraw word)

/-- A translation walk of a core completes, for an access that is to come (06 R146). -/
def execPageWalk (core ctx va : Nat) (kind : WalkKind) (s : State) : Host.Outcome State Fault Refusal :=
  if 2 ^ 48 ≤ va || (s.contexts.find ctx).isNone then .fault (.notEnabled "PAGE_WALK")
  else .next (s.walkFill core ctx va kind (kind == .write)).1

/-- An STX packet lands or is dropped; earlier packets and reads of its stream come first (06 R142; 09 R196). -/
def execStxLanding (id : Nat) (s : State) : Host.Outcome State Fault Refusal :=
  match s.packets.find id with
  | none => .fault (.notEnabled "STX_LANDING")
  | some p =>
    if (s.streamBefore p.srcCore (s.team p.target).core id).isEmpty then .next (s.landPacket id)
    else .fault (.notEnabled "STX_LANDING")

end Sys2Proof.Machine
end

