-- ==== Sys2Proof/Machine/Cross.lean ====
section
/-! DEFINITION. The cross-lane unit: SHFL, VOTE, GRED, GSCAN, MATCH, REBAL and TOPK, with the member masks of
12_traps_and_preemption R266 and R267; and BDOT (11 R250, R251; 17 R366; 20 R410 to R413; 21 R425; 22 R444; 23 R459;
24 R475, R478). -/

namespace Sys2Proof.Machine

open Sys2Proof.Float

/-- The member-mask operand of an instruction, where it has one (12 R266). -/
def maskOperand (i : Instr) : Option Opnd :=
  match i with
  | .shflIdx o | .shflUp o | .shflDown o | .shflXor o => some o.c
  | .voteMask o | .voteCount o | .voteQuorum o | .voteSplit o => some o.b
  | .gred o | .gscan o | .matchAny o | .matchAll o => some o.b
  | _ => none

namespace State

/-- The lanes below GRANT that a mask names. -/
def namedLanes (s : State) (gid : Nat) (mask : Dword) : List Nat :=
  (upto (min (s.group gid).grant 64)).filter fun l => mask.getLsbD l

/-- The live, not held lanes of a group that a mask names and that stand outside a list (12 R257, R266). -/
def awaited (s : State) (gid : Nat) (mask : Dword) (lanes : List (Nat × FibreId)) : List (Nat × FibreId) :=
  let n := s.namedLanes gid mask
  (s.freeLanes gid).filter fun x => n.contains x.1 && !lanes.any (fun y => y.1 == x.1)

/-- A named lane holds a fibre that has exited (12 R266). -/
def droppedLane (s : State) (gid : Nat) (mask : Dword) : Bool :=
  let ms := (s.group gid).members
  (s.namedLanes gid mask).any fun l =>
    match ms[l]? with
    | some f => f != ⟨0, 0⟩ && !(s.fibre f).live
    | none => false

/-- Every lane of an issue has gone on to the next instruction: none of them trapped or parked. -/
def wentOn (s t : State) (iss : Issue) : Bool :=
  iss.lanes.all fun x =>
    let f := s.fibre x.2
    let f' := t.fibre x.2
    f'.pc == iss.next && f'.status == f.status && f'.firm == f.firm && f'.handler == f.handler

end State

/-- A member-mask instruction over its gathered lanes (12 R266). With lanes still awaited it stalls: the scheduler does
not choose it before they stand there. The participants are the gathered lanes whose guard is true. `bad`: what the lanes
supply each other holds an error (06 R150). A dropped lane sets STATUS.MX where the instruction does not trap (R255). -/
def maskOp (i : Instr) (s : State)
    (body : State → Issue → List (Nat × FibreId) → List (Nat × FibreId) → State)
    (bad : Issue → List (Nat × FibreId) → List (Nat × FibreId) → Bool := fun _ _ _ => false) :
    Host.Outcome State Fault Refusal :=
  issuedMem i s true legal fun iss act =>
    let mask := s.srcG iss ((maskOperand i).getD .none)
    let n := s.namedLanes iss.gid mask
    if iss.atEnd then s.raise iss cCFI 0 iss.next.toNat
    else if act.any fun x => !n.contains x.1 then s.raise iss cMASK 0 0
    else if !(s.awaited iss.gid mask iss.lanes).isEmpty then s.stall iss
    else
      let gat := iss.lanes.filter fun x => n.contains x.1
      if bad iss gat act then s.raise iss cECC 0 0
      else
        s.sourced iss act i <|
        let t := body s iss gat act
        if s.droppedLane iss.gid mask && s.wentOn t iss then
          t.each iss.lanes fun t x => t.modFibre x.2 fun f => { f with mx := true }
        else t

/-- SHFL: the source lane of a lane for an index, by mode (23 R459). -/
def shflLane (mode g l i : Nat) : Nat :=
  match mode with
  | 0 => i % g
  | 1 => if i ≤ l then l - i else l
  | 2 => if l + i < g then l + i else l
  | _ => Nat.xor l i % g

/-- The fibre whose value a participant of SHFL receives: the gathered one at its source lane, else itself (23 R459). -/
def shflFrom (s : State) (iss : Issue) (o : XR) (mode : Nat) (gat : List (Nat × FibreId)) (x : Nat × FibreId) : FibreId :=
  let l := shflLane mode (s.group iss.gid).grant x.1 (s.src iss x.2 o.b).toNat
  match gat.find? fun y => y.1 == l with
  | some y => y.2
  | none => x.2

/-- SHFL (23 R459). A gathered lane supplies its value with its guard false too, and an error in it is consumed. -/
def shfl (i : Instr) (o : XR) (mode : Nat) (s : State) : Host.Outcome State Fault Refusal :=
  maskOp i s
    (fun s iss gat act =>
      s.finish iss act i (act.map fun x => (x, res1 o.d ((s.src iss (shflFrom s iss o mode gat x) o.a).setWidth 64))))
    fun iss gat act => act.any fun x => s.badLane iss (srcUse o.a 1) (shflFrom s iss o mode gat x)

/-- SHFL.idx (23 R459). -/
def execShflIdx (o : XR) (s : State) : Host.Outcome State Fault Refusal := shfl (.shflIdx o) o 0 s

/-- SHFL.up (23 R459). -/
def execShflUp (o : XR) (s : State) : Host.Outcome State Fault Refusal := shfl (.shflUp o) o 1 s

/-- SHFL.down (23 R459). -/
def execShflDown (o : XR) (s : State) : Host.Outcome State Fault Refusal := shfl (.shflDown o) o 2 s

/-- SHFL.xor (23 R459). -/
def execShflXor (o : XR) (s : State) : Host.Outcome State Fault Refusal := shfl (.shflXor o) o 3 s

/-- A result of the whole group: gD once, else every participant's destinations (20 R411; 24 R478). -/
def toAll (s : State) (iss : Issue) (i : Instr) (act : List (Nat × FibreId)) (d : Opnd) (r : LaneRes)
    (one : Dword) : State :=
  match act with
  | [] => s.finish iss act i []
  | x :: _ =>
    match d with
    | .g _ =>
      let marks := act.map fun y => (y, { r with dests := if y == x then [(regOf d, one)] else [] })
      s.finish iss act i marks
    | _ => s.finish iss act i (act.map fun y => (y, r))

/-- The lane mask of some lanes. -/
def maskOf (ls : List (Nat × FibreId)) : Dword := ls.foldl (fun m x => m ||| (1#64 <<< x.1)) 0

/-- A v pair that takes a 64-bit value, low word first. -/
def pairDests (d : Opnd) (x : Dword) : List (Reg × Dword) :=
  match d with
  | .v n => [(.v n.toNat, BitVec.ofNat 64 (x.toNat % 2 ^ 32)), (.v (n.toNat + 1), x >>> 32)]
  | _ => [(regOf d, x)]

/-- VOTE.mask (24 R478). -/
def execVoteMask (o : XR) (s : State) : Host.Outcome State Fault Refusal :=
  maskOp (.voteMask o) s fun s iss _ act =>
    let m := maskOf (act.filter fun x => truth s iss x.2 o.a)
    toAll s iss (.voteMask o) act o.d { dests := pairDests o.d m } m

/-- The count of participants whose value is 1. -/
def voteCountOf (s : State) (iss : Issue) (o : XR) (act : List (Nat × FibreId)) : Nat :=
  (act.filter fun x => truth s iss x.2 o.a).length

/-- VOTE.count (24 R478). -/
def execVoteCount (o : XR) (s : State) : Host.Outcome State Fault Refusal :=
  maskOp (.voteCount o) s fun s iss _ act =>
    let c := BitVec.ofNat 64 (voteCountOf s iss o act)
    toAll s iss (.voteCount o) act o.d (res1 o.d c) c

/-- VOTE.quorum (24 R478). -/
def execVoteQuorum (o : XR) (s : State) : Host.Outcome State Fault Refusal :=
  maskOp (.voteQuorum o) s fun s iss _ act =>
    let c := voteCountOf s iss o act
    let t := (s.srcG iss o.c).toNat % 2 ^ 32
    let b := if t == 0 then c == act.length else t ≤ c
    toAll s iss (.voteQuorum o) act o.d (res1 o.d (BitVec.ofNat 64 (b2n b))) 0

/-- VOTE.split (24 R478). -/
def execVoteSplit (o : XR) (s : State) : Host.Outcome State Fault Refusal :=
  maskOp (.voteSplit o) s fun s iss _ act =>
    let c := voteCountOf s iss o act
    toAll s iss (.voteSplit o) act o.d (res1 o.d (BitVec.ofNat 64 (b2n (decide (0 < c) && decide (c < act.length))))) 0

/-! GRED and GSCAN (20 R410 to R413). -/

/-- One step of a fold: the value and the flags so far. -/
def redOp (mode : Mode) (flt u : Bool) (op : Nat) (p q : Nat × BitVec 5) : Nat × BitVec 5 :=
  let v : Env := ⟨f32, mode, false⟩
  let (x, fl) : Nat × BitVec 5 :=
    if flt then
      match op with
      | 0 => Float.fadd v p.1 q.1
      | 4 => Float.minmax v false p.1 q.1
      | _ => Float.minmax v true p.1 q.1
    else
      (match op with
      | 0 => addOp false false 32 p.1 q.1 0
      | 1 => Nat.land p.1 q.1
      | 2 => Nat.lor p.1 q.1
      | 3 => Nat.xor p.1 q.1
      | 4 => minOp u 32 p.1 q.1 0
      | _ => maxOp u 32 p.1 q.1 0, 0)
  (x, p.2 ||| q.2 ||| fl)

/-- Combine, with none for a missing value (20 R411). -/
def combine (f : Nat × BitVec 5 → Nat × BitVec 5 → Nat × BitVec 5) (p q : Option (Nat × BitVec 5)) :
    Option (Nat × BitVec 5) :=
  match p, q with
  | none, q => q
  | p, none => p
  | some a, some b => some (f a b)

/-- One level of the tree: neighbours are combined (20 R411). -/
def treeLevel (f : Nat × BitVec 5 → Nat × BitVec 5 → Nat × BitVec 5) :
    List (Option (Nat × BitVec 5)) → List (Option (Nat × BitVec 5))
  | p :: q :: r => combine f p q :: treeLevel f r
  | l => l

/-- The tree over at most 2^n lanes (20 R411). -/
def tree (f : Nat × BitVec 5 → Nat × BitVec 5 → Nat × BitVec 5) :
    Nat → List (Option (Nat × BitVec 5)) → Option (Nat × BitVec 5)
  | 0, l => (l.head?).getD none
  | n + 1, l => tree f n (treeLevel f l)

/-- A fold from the left over a nonempty list. -/
def foldLeft (f : Nat × BitVec 5 → Nat × BitVec 5 → Nat × BitVec 5) : List (Nat × BitVec 5) → Option (Nat × BitVec 5)
  | [] => none
  | a :: r => some (r.foldl f a)

/-- The participants' values in an order. -/
def redVals (s : State) (iss : Issue) (o : XR) (ls : List (Nat × FibreId)) : List (Nat × BitVec 5) :=
  ls.map fun x => ((s.src iss x.2 o.a).toNat, 0)

/-- The step of an instruction of the family. -/
def redStep (s : State) (iss : Issue) (o : XR) : Nat × BitVec 5 → Nat × BitVec 5 → Nat × BitVec 5 :=
  redOp (s.modeFor iss o.rnd.toNat) (o.fa == 1) o.u (o.var.toNat % 8)

/-- GRED (20 R411). -/
def execGred (o : XR) (s : State) : Host.Outcome State Fault Refusal :=
  maskOp (.gred o) s fun s iss _ act =>
    let f := redStep s iss o
    let r := if o.var.getLsbD 3 then foldLeft f (redVals s iss o (State.byFid act))
      else tree f 6 ((upto 64).map fun l =>
        match act.find? fun x => x.1 == l with
        | some x => some ((s.src iss x.2 o.a).toNat, 0)
        | none => none)
    let r := r.getD (0, 0)
    let x := BitVec.ofNat 64 r.1
    toAll s iss (.gred o) act o.d { dests := [(regOf o.d, x)], fl := r.2 } x

/-- The identity of an operation (20 R412). -/
def redIdentity (flt u : Bool) (op : Nat) : Nat :=
  match op with
  | 0 => if flt then 0x80000000 else 0
  | 1 => 0xFFFFFFFF
  | 2 => 0
  | 3 => 0
  | 4 => if flt then 0x7F800000 else if u then 0xFFFFFFFF else 0x7FFFFFFF
  | _ => if flt then 0xFF800000 else if u then 0 else 0x80000000

/-- GSCAN (20 R412). -/
def execGscan (o : XR) (s : State) : Host.Outcome State Fault Refusal :=
  maskOp (.gscan o) s fun s iss _ act =>
    let f := redStep s iss o
    let ls := sortBy (fun x : Nat × FibreId => x.1) act
    let idn := redIdentity (o.fa == 1) o.u (o.var.toNat % 8)
    let one := fun (x : Nat × FibreId) =>
      (foldLeft f (redVals s iss o (ls.filter fun y => y.1 < x.1 || (!o.var.getLsbD 3 && y.1 == x.1)))).getD (idn, 0)
    let fl := act.foldl (fun m x => m ||| (one x).2) 0
    s.finish iss act (.gscan o) (act.map fun x => (x, { dests := [(regOf o.d, BitVec.ofNat 64 (one x).1)], fl := fl }))

/-! MATCH (21 R425). -/

/-- MATCH.any (21 R425). -/
def execMatchAny (o : XR) (s : State) : Host.Outcome State Fault Refusal :=
  maskOp (.matchAny o) s fun s iss _ act =>
    s.finish iss act (.matchAny o) (act.map fun x =>
      (x, { dests := pairDests o.d (maskOf (act.filter fun y => s.src iss y.2 o.a == s.src iss x.2 o.a)) }))

/-- MATCH.all (21 R425). -/
def execMatchAll (o : XR) (s : State) : Host.Outcome State Fault Refusal :=
  maskOp (.matchAll o) s fun s iss _ act =>
    let v := s.src iss (act.headD (0, ⟨0, 0⟩)).2 o.a
    let e := act.all fun x => s.src iss x.2 o.a == v
    let k := match o.c with
      | .k n => [(Reg.k n.toNat, BitVec.ofNat 64 (b2n e))]
      | _ => []
    s.finish iss act (.matchAll o) (act.map fun x => (x, { dests := pairDests o.d (if e then maskOf act else 0) ++ k }))

/-! REBAL (11 R250). -/

/-- The prefix sums of some lengths. -/
def prefixSums : Nat → List Nat → List Nat
  | a, [] => [a]
  | a, x :: r => a :: prefixSums (a + x) r

/-- The row whose range holds x: row and offset (11 R250). -/
def rowOf (ps : List Nat) (x : Nat) : Option (Nat × Nat) :=
  let n := (ps.filter fun p => p ≤ x).length
  if n == 0 || ps.length ≤ n then none else some (n - 1, x - ps.getD (n - 1) 0)

/-- REBAL (11 R250; 22 R444). -/
def execRebal (o : XR) (s : State) : Host.Outcome State Fault Refusal :=
  issued (.rebal o) s false legal fun iss act =>
    let ls := State.byFid act
    let ps := prefixSums 0 (ls.map fun x => (s.src iss x.2 o.a).toNat)
    let t := ps.getLastD 0
    let b := (s.srcG iss o.b).toNat
    let d := match o.d with
      | .v n => n.toNat
      | _ => 0
    let g := match o.c with
      | .g n => n.toNat
      | _ => 0
    let k := o.cc.toNat
    let rs := ((upto ls.length).zip ls).map fun x =>
      let (row, off, v) := match if b + x.1 < t then rowOf ps (b + x.1) else none with
        | some p => (p.1, p.2, 1)
        | none => (0xFFFFFFFF, 0, 0)
      (x.2, { dests := [(Reg.v d, BitVec.ofNat 64 (row % 2 ^ 32)), (.v (d + 1), BitVec.ofNat 64 (off % 2 ^ 32)),
          (.k k, BitVec.ofNat 64 v)] })
    let s := s.addPending iss (ls.headD (0, ⟨0, 0⟩)).2
      [(.g g, BitVec.ofNat 64 t), (.g (g + 1), BitVec.ofNat 64 (min (b + ls.length) t))] [] none
    s.finish iss act (.rebal o) rs

/-! TOPK (11 R251). -/

/-- An entry precedes another (11 R251). -/
def precedes (a b : Nat × Nat) : Bool :=
  let x := Float.unpack f32 a.1
  let y := Float.unpack f32 b.1
  ltV false x y || (eqV x y && decide (a.2 < b.2))

/-- Equal in both fields, −0 and +0 being equal (11 R251). -/
def sameEntry (a b : Nat × Nat) : Bool := eqV (Float.unpack f32 a.1) (Float.unpack f32 b.1) && a.2 == b.2

/-- An entry that counts: its distance is a number and its id is not the sentinel's (11 R251). -/
def entryOk (a : Nat × Nat) : Bool := !(Float.unpack f32 a.1).isNan && a.2 != 0xFFFFFFFF

/-- An entry takes its place in an ordered list, unless an equal one is there. -/
def placeEntry (a : Nat × Nat) : List (Nat × Nat) → List (Nat × Nat)
  | [] => [a]
  | b :: r => if sameEntry a b then b :: r else if precedes a b then a :: b :: r else b :: placeEntry a r

/-- The new list of at most K entries from the old list and the candidates (11 R251; 24 R475). -/
def topkList (k : Nat) (old cand : List (Nat × Nat)) : List (Nat × Nat) :=
  (((old ++ cand).filter entryOk).foldl (fun l a => placeEntry a l) []).take k

/-- TOPK (11 R251; 24 R475), on the scratchpad of the lead fibre's team (17 R347). It follows the fibres' earlier accesses there
and what their fences hold it for (07 R168; 19 R402). -/
def execTopk (o : XR) (s : State) : Host.Outcome State Fault Refusal :=
  issuedMem (.topk o) s false legal fun iss act =>
    let tid := s.leadTeam iss.gid
    let ofs := (s.srcG iss o.c).toNat
    let k := o.fa.toNat + 16 * o.fb.toNat + 1
    let fresh := o.var.getLsbD 0
    if !recordOpen s act tid || !s.accessOpen (act.map (·.2)) true then s.stall iss
    else if ofs % 8 != 0 then s.raise { iss with wr := true } cALIGN 0 ofs
    else if (s.team tid).ownBytes < ofs + 8 * k then s.raise { iss with wr := true } cACCESS 0 ofs
    else if !fresh && s.spadBad tid ofs (8 * k) then s.raise iss cECC 0 ofs
    else
      s.sourced iss act (.topk o) <|
      let old := if fresh then [] else (upto k).map fun e =>
        (leNat (s.spadBytes tid (ofs + 8 * e) 4), leNat (s.spadBytes tid (ofs + 8 * e + 4) 4))
      let cand := (State.byFid act).map fun x => ((s.src iss x.2 o.a).toNat, (s.src iss x.2 o.b).toNat)
      let l := topkList k old cand
      let full := l ++ List.replicate (k - l.length) (0x7F800000, 0xFFFFFFFF)
      let s := s.spadWrite tid ofs (full.map fun e => leBytes 4 e.1 ++ leBytes 4 e.2).flatten
      s.finish iss act (.topk o) [(act.headD (0, ⟨0, 0⟩), res1 o.d (BitVec.ofNat 64 l.length))]

/-! BDOT (17 R366). -/

/-- The blocks of a vector in a scratchpad. -/
def spadBlocks (s : State) (tid ofs m n : Nat) : List (Bool × List FVal) :=
  (upto n).map fun j =>
    let bs := s.spadBytes tid (ofs + j * (1 + m)) (1 + m)
    ((bs.headD 0) == 255#8, Block.values bs m)

/-- BDOT (17 R366, R367). Its reads follow the fibres' earlier accesses of their scratchpads and what their FENCE.acq hold them
for (07 R168; 19 R402). -/
def execBdot (o : XR) (s : State) : Host.Outcome State Fault Refusal :=
  issuedMem (.bdot o) s false
    (whenActive fun iss => let n := ((s.srcG iss o.c).setWidth 32).toNat; n < 1 || 4096 < n)
    fun iss act =>
      let n := ((s.srcG iss o.c).setWidth 32).toNat
      let ma := Block.mantBits o.fa.toNat
      let mb := Block.mantBits o.fb.toNat
      let rows := (State.byFid act).map fun x => (x, (s.src iss x.2 o.a).toNat, (s.src iss x.2 o.b).toNat)
      let out := fun (f : FibreId) (ofs m : Nat) => (s.team f.team).ownBytes < ofs + n * (1 + m)
      let bad := fun (f : FibreId) (ofs m : Nat) => s.spadBad f.team ofs (n * (1 + m))
      if !s.accessOpen (act.map (·.2)) false || act.any fun x => !homeOpen s [x.2.team] [x.2] then s.stall iss else
      match rows.find? fun r => out r.1.2 r.2.1 ma || out r.1.2 r.2.2 mb with
      | some r => s.raise iss cACCESS 0 (if out r.1.2 r.2.1 ma then r.2.1 else r.2.2)
      | none =>
        let source := s.badLane iss (usesOf (.bdot o))
        match rows.find? fun r => bad r.1.2 r.2.1 ma || bad r.1.2 r.2.2 mb || source r.1.2 with
        | some r =>
          s.raise iss cECC 0 (if bad r.1.2 r.2.1 ma then r.2.1 else if bad r.1.2 r.2.2 mb then r.2.2 else 0)
        | none =>
          s.finish iss act (.bdot o) (rows.map fun r =>
            let x := Block.bdot (o.var == 1) (s.modeFor iss o.rnd.toNat)
              (spadBlocks s r.1.2.team r.2.1 ma n) (spadBlocks s r.1.2.team r.2.2 mb n)
            (r.1, { dests := [(regOf o.d, BitVec.ofNat 64 x.1)], fl := x.2 }))

end Sys2Proof.Machine
end

