-- ==== Sys2Proof/Machine/Queue.lean ====
section
/-! DEFINITION. Architected queues: the control block and its checks, ENQ, DEQ, QINIT, QSTAT and SPAWN, the home slice's
steps, and what every agent that enqueues or dequeues shares (08_queues_and_channels R170 to R183; 18 R386; 19 R390 to
R392; 22 R441 to R443; 23 R461, R462). -/

namespace Sys2Proof.Machine

/-! The control block (08 R170). -/

/-- One byte into a CRC-32C remainder (08 R170). -/
def crcByte (c : Nat) (b : Byte) : Nat :=
  (upto 8).foldl (fun c _ => if c % 2 == 1 then Nat.xor (c / 2) 0x82F63B78 else c / 2) (Nat.xor c b.toNat)

/-- CRC-32C of some bytes (08 R170). -/
def crc32c (bs : List Byte) : Nat := Nat.xor (bs.foldl crcByte 0xFFFFFFFF) 0xFFFFFFFF

/-- A control block as its eight doublewords. -/
abbrev QBlock := List Nat

def qField (b : QBlock) (dw hi lo : Nat) : Nat := bits (b.getD dw 0) hi lo
def qEszw (b : QBlock) : Nat := qField b 0 26 20
def qLcap (b : QBlock) : Nat := qField b 0 31 27
def qCap (b : QBlock) : Nat := 2 ^ qLcap b
def qWpe (b : QBlock) : Bool := bit (b.getD 0 0) 32
def qWpd (b : QBlock) : Bool := bit (b.getD 0 0) 33
def qBase (b : QBlock) : Nat := qField b 1 47 0
def qHeadIdx (b : QBlock) : Nat := b.getD 2 0
def qRtail (b : QBlock) : Nat := b.getD 3 0
def qPtail (b : QBlock) : Nat := b.getD 4 0
def qFree (b : QBlock) : Nat := qField b 5 31 0

/-- CHECK of a block (08 R170). -/
def qCheckWord (b : QBlock) : Nat :=
  let d0 := b.getD 0 0 - bits (b.getD 0 0) 35 32 * 2 ^ 32
  crc32c (leBytes 8 d0 ++ leBytes 8 (b.getD 1 0))

/-- The invariants of 08 R171. -/
def qOk (b : QBlock) : Bool :=
  qField b 0 15 0 == 0x5143 && qField b 0 19 16 == 3 && qField b 0 63 36 == 0 && qField b 1 63 48 == 0 &&
    qField b 5 63 32 == 0 && b.getD 6 0 == 0 && qField b 7 63 32 == 0 &&
    decide (1 ≤ qEszw b) && decide (qEszw b ≤ 64) && decide (qLcap b ≤ 24) &&
    decide (qHeadIdx b ≤ qPtail b) && decide (qPtail b ≤ qRtail b) && decide (qRtail b ≤ qHeadIdx b + qCap b) &&
    qFree b == qHeadIdx b + qCap b - qRtail b && decide (qBase b + qCap b * qEszw b * 4 ≤ 2 ^ 48) &&
    qField b 7 31 0 == qCheckWord b

/-- A block as QINIT writes it (08 R170, R183). -/
def qNew (base eszw lcap : Nat) : QBlock :=
  let b := [0x5143 + 3 * 2 ^ 16 + eszw * 2 ^ 20 + lcap * 2 ^ 27, base, 0, 0, 0, 2 ^ lcap, 0, 0]
  b.set 7 (qCheckWord b)

/-- A block with bit i of DW0 as told. -/
def qFlag (b : QBlock) (i : Nat) (x : Bool) : QBlock :=
  b.set 0 (b.getD 0 0 - b2n (bit (b.getD 0 0) i) * 2 ^ i + b2n x * 2 ^ i)

/-- The address of element slot i (08 R170). -/
def qSlot (b : QBlock) (i : Nat) : Nat := qBase b + i % qCap b * (qEszw b * 4)

/-- Why an operation on a queue fails (08 R176). -/
inductive QFail where
  | corrupt
  | size
  | page (va : Nat)
  | access (va : Nat)
  | ecc (va : Nat)
  deriving DecidableEq, Repr

/-- A failure as a trap of a group, or its parking. -/
def qMove (f : QFail) : Move :=
  match f with
  | .corrupt => .trap cQCORRUPT 0
  | .size => .trap cQSIZE 0
  | .page va => .page va
  | .access va => .trap cACCESS va
  | .ecc va => .trap cECC va

namespace State

/-- A block as the home slice holds it, its words withdrawn from every core (08 R172). -/
def qRead (s : State) (pa : Nat) : QBlock × State :=
  let s := s.each (stepsFrom (pa / 4) 1 16) fun s w => s.withdraw w
  ((upto 8).map fun i => leNat (s.homeBytes (pa + 8 * i) 8), s)

/-- A block is written at its home (08 R172; 06 R139). -/
def qWrite (s : State) (pa : Nat) (b : QBlock) : State := s.homeWrite pa (b.map fun d => leBytes 8 d).flatten

/-- The words of a block (08 R170). -/
def qWords (pa : Nat) : List Nat := stepsFrom (pa / 4) 1 16

/-- The issuing core's own words of a block are written back before an operation, those whose registration has not left
the core among them, and its copies made invalid (06 R137, R492; 08 R172). -/
def qOwn (s : State) (core pa : Nat) : State := s.cleanOwn core (qWords pa)

/-- A block word is owned by a core whose acknowledgement is on its way: the operation waits (06 R135). -/
def qBusy (s : State) (pa : Nat) : Bool :=
  (stepsFrom (pa / 4) 1 16).any fun w =>
    match s.owners.find w with
    | some c => s.ackPending c w
    | none => false

/-- A QINIT waits at the block (22 R442). -/
def qHeld (s : State) (pa : Nat) : Bool :=
  match s.qhold.find pa with
  | some g => (s.groups.find g).isSome
  | none => false

/-- A slot's bytes by physical address: cut at a page boundary. -/
def qPieces (va len : Nat) : List (Nat × Nat) :=
  let first := 65536 - va % 65536
  if len ≤ first then [(va, len)] else [(va, first), (va + first, len - first)]

/-- Pieces are translated in order; the first that faults is told. A piece whose walk meets an uncorrectable error has no
place: that is told once all are translated (08 R173, R175 to R177; 06 R150). -/
def qTranslate (s : State) (ctx : Nat) (kind : WalkKind) (write : Bool) :
    List (Nat × Nat) → State × Except QFail (List (Nat × Option Nat × Nat))
  | [] => (s, .ok [])
  | (va, n) :: r =>
    let rest := fun (s : State) (x : Option Nat) =>
      match s.qTranslate ctx kind write r with
      | (s, .ok l) => (s, (.ok ((va, x, n) :: l) : Except QFail (List (Nat × Option Nat × Nat))))
      | (s, .error e) => (s, .error e)
    match s.translateRaw ctx va kind write with
    | (s, .ok pa) => rest s (some pa)
    | (s, .ecc) => rest s none
    | (s, .net _ _) => (s, .error (.access va))
    | (s, .fault true) => (s, .error (.page va))
    | (s, .fault false) => (s, .error (.access va))

/-- The slots from an index on, n of them, translated, and then read where `reads` says so (08 R175, R176). -/
def qPlaces (s : State) (ctx : Nat) (b : QBlock) (i n : Nat) (write reads : Bool) :
    State × Except QFail (List (Nat × Nat)) :=
  match s.qTranslate ctx (if write then .write else .read) write
    (stepsFrom i 1 n |>.map fun k => qPieces (qSlot b k) (qEszw b * 4)).flatten with
  | (s, .error e) => (s, .error e)
  | (s, .ok l) =>
    let bad := fun (x : Nat × Option Nat × Nat) => match x.2.1 with
      | some pa => reads && s.eccBad pa x.2.2
      | none => true
    match l.find? bad with
    | some x => (s, .error (.ecc x.1))
    | none => (s, .ok (l.map fun x => (x.2.1.getD 0, x.2.2)))

/-- The slots from an index on, n of them, translated, and read unless they are written. -/
def qSlots (s : State) (ctx : Nat) (b : QBlock) (i n : Nat) (write : Bool) : State × Except QFail (List (Nat × Nat)) :=
  s.qPlaces ctx b i n write !write

/-- The slots from an index on are only translated: a DEQ that is to park reads none of them (08 R175). -/
def qReach (s : State) (ctx : Nat) (b : QBlock) (i n : Nat) : State × Except QFail (List (Nat × Nat)) :=
  s.qPlaces ctx b i n false false

/-- Bytes cut along pieces. -/
def cutAlong : List (Nat × Nat) → List Byte → List (Nat × List Byte)
  | [], _ => []
  | (pa, n) :: r, bs => (pa, bs.take n) :: cutAlong r (bs.drop n)

/-- n slots are reserved for elements whose slots are translated (08 R173). -/
def qReserve (s : State) (pa ctx : Nat) (b : QBlock) (pieces : List (Nat × Nat)) (data : List (List Byte))
    (request core : Option Nat) : Nat × State :=
  let n := data.length
  let (id, s) := s.newId
  let r : Reservation :=
    { pa := pa, ctx := ctx, core := core, first := qRtail b, count := n, writes := cutAlong pieces data.flatten
      request := request }
  let s := s.qWrite pa ((b.set 3 (qRtail b + n)).set 5 (qFree b - n))
  (id, { s with reservations := s.reservations.put id r })

/-- Elements are read at their homes (08 R175). -/
def qElements (s : State) (pieces : List (Nat × Nat)) (esz : Nat) : List (List Byte) :=
  let bs := (pieces.map fun p => s.homeBytes p.1 p.2).flatten
  (upto (bs.length / esz)).map fun i => (bs.drop (i * esz)).take esz

/-- n elements leave the queue (08 R175). -/
def qConsume (s : State) (pa : Nat) (b : QBlock) (n : Nat) : State :=
  s.qWrite pa ((b.set 2 (qHeadIdx b + n)).set 5 (qFree b + n))

/-- The requests of a group: no lane of it issues while one is open (08 R176). -/
def requestOf (s : State) (gid : Nat) : Option Nat := (s.requests.find? fun x => x.2.iss.gid == gid).map (·.1)

/-- The fibres that a request parked are ready at their instruction, and the request is gone. -/
def unpark (s : State) (id : Nat) (r : Request) : State :=
  let s := { s with requests := s.requests.del id }
  s.each r.iss.lanes fun s x => s.modFibre x.2 fun f => { f with status := .ready }

/-- A failure is delivered to the waiting group as if it had been raised at issue (08 R177). -/
def qDeliver (s : State) (id : Nat) (r : Request) (e : QFail) : State :=
  (s.unpark id r).memFail r.iss (qMove e) (r.kind != 1)

def modRequest (s : State) (id : Nat) (f : Request → Request) : State := { s with requests := s.requests.upd id f }

/-- Flags of a block follow its waiter lists: WPE, WPD and WSP (08 R170, R177, R179). A block that breaks R171 is left
as it is. -/
def qFlags (s : State) (pa : Nat) : State :=
  let w := s.queues.getD pa {}
  let (b, s) := s.qRead pa
  let sp := (w.enq ++ w.deq).any fun i => match s.requests.find i with
    | some r => r.spilled
    | none => false
  let b' := qFlag (qFlag (qFlag b 32 (!w.enq.isEmpty)) 33 (!w.deq.isEmpty)) 35 sp
  if b' == b || !qOk b then s else s.qWrite pa b'

/-- The waiters that a slice holds in its 256 entries (08 R179). DESIGN CHOICE (log 36): a Granted waiter holds none any
more; the spec frees the entry by the reply at the latest. -/
def sliceWaiters (s : State) (pa : Nat) : Nat :=
  (s.requests.filter fun x => x.2.state == 1 && !x.2.spilled && homeSlice x.2.pa == homeSlice pa).length

/-- A waiter joins the tail of its list (08 R177, R179). DESIGN CHOICE (log 36): a spilled entry is kept here and marked;
the layout of the waiter area is not given, and nothing is written there. -/
def qPark (s : State) (id : Nat) (r : Request) : State :=
  let full := 256 ≤ s.sliceWaiters r.pa
  let s := s.modRequest id fun r => { r with state := 1, spilled := full }
  let w := s.queues.getD r.pa {}
  let w := if r.kind == 1 then { w with deq := w.deq ++ [id] } else { w with enq := w.enq ++ [id] }
  { s with queues := s.queues.put r.pa w }.qFlags r.pa

/-- A waiter entry frees: the oldest spilled entry of the slice takes its place (08 R179). -/
def qUnspill (s : State) (pa : Nat) : State :=
  if 256 ≤ s.sliceWaiters pa then s
  else
    match s.requests.find? fun x => x.2.state == 1 && x.2.spilled && homeSlice x.2.pa == homeSlice pa with
    | some (i, r) => (s.modRequest i fun r => { r with spilled := false }).qFlags r.pa
    | none => s

/-- A waiter leaves its list, and its entry frees. -/
def qLeave (s : State) (id : Nat) (r : Request) : State :=
  let s := s.modRequest id fun r => { r with state := 2, spilled := false }
  let w := s.queues.getD r.pa {}
  let w : Waiters := ⟨w.enq.filter (· != id), w.deq.filter (· != id)⟩
  let s := { s with queues := if w.enq.isEmpty && w.deq.isEmpty then s.queues.del r.pa else s.queues.put r.pa w }
  (s.qFlags r.pa).qUnspill r.pa

/-- SPAWN counts its child when the reservation is made (23 R462). -/
def countChild (s : State) (r : Request) : State :=
  if r.kind == 2 then
    let l := (s.team (s.leadTeam r.iss.gid)).launch
    { s with launches := s.launches.upd l fun x => { x with children := x.children + 1 } }
  else s

/-- MD is set once a request from another die has been served (08 R170, R180). -/
def qRemote (s : State) (pa die : Nat) : State :=
  if homeDie pa == die then s
  else
    let (b, s) := s.qRead pa
    if bit (b.getD 0 0) 34 then s else s.qWrite pa (qFlag b 34 true)

/-- The die that a request comes from. -/
def requestDie (r : Request) : Nat := r.iss.core / 48

/-- The checks of ENQ and DEQ at the home: the block, the invariants, the sizes (08 R171, R173, R176). DESIGN CHOICE (log
36): R176 gives an uncorrectable error of the control block no place among its faults; it comes before QCORRUPT and QSIZE,
as 22 R441 has it for QINIT. -/
def homeCheck (s : State) (r : Request) (n : Nat) : State × Except QFail QBlock :=
  if s.eccBad r.pa 64 then (s, .error (.ecc r.cb))
  else
    let (b, s) := s.qRead r.pa
    if !qOk b then (s, .error .corrupt)
    else if r.esz != qEszw b * 4 then (s, .error .size)
    else if !r.trying && qCap b < n then (s, .error .size)
    else (s, .ok b)

/-- A waiter at the head cannot be served and has to leave: its failure is delivered (08 R177). -/
def qDrop (s : State) (id : Nat) (r : Request) (e : QFail) : State × Bool := ((s.qLeave id r).qDeliver id r e, true)

/-- The grant of an enqueue waiter at the head, under R173; true where something moved (08 R177). The waiter's core gives up
the block's words first, those still to be registered among them, so that the checks see what the operation works on (R172;
06 R492). -/
def grantEnq (s : State) (id : Nat) (r : Request) : State × Bool :=
  let s := s.qOwn r.iss.core r.pa
  match s.homeCheck r r.data.length with
  | (s, .error e) => s.qDrop id r e
  | (s, .ok b) =>
    if qFree b < r.data.length then (s, false)
    else
      match s.qSlots r.iss.ctx b (qRtail b) r.data.length true with
      | (s, .error e) => s.qDrop id r e
      | (s, .ok ps) =>
        let (b, s) := (s.qLeave id r).qRead r.pa
        let s := (s.qReserve r.pa r.iss.ctx b ps r.data (some id) (some r.iss.core)).2
        let s := (s.modRequest id fun r => { r with moved := qRtail b }).qRemote r.pa (requestDie r)
        (s.countChild r, true)

/-- The grant of a dequeue waiter at the head, under R175; its core gives up the block's words first (R172). -/
def grantDeq (s : State) (id : Nat) (r : Request) : State × Bool :=
  let n := r.ranks.length
  let s := s.qOwn r.iss.core r.pa
  match s.homeCheck r n with
  | (s, .error e) => s.qDrop id r e
  | (s, .ok b) =>
    if qPtail b - qHeadIdx b < n then (s, false)
    else
      match s.qSlots r.iss.ctx b (qHeadIdx b) n false with
      | (s, .error e) => s.qDrop id r e
      | (s, .ok ps) =>
        let (b, s) := (s.qLeave id r).qRead r.pa
        let els := s.qElements ps (qEszw b * 4)
        let s := s.each ps fun s p => s.staleDrop r.iss.core (wordsOf p.1 p.2)
        let s := s.qConsume r.pa b n
        ((s.modRequest id fun r => { r with state := 3, got := els, moved := n }).qRemote r.pa (requestDie r), true)

/-- The request at the head of a waiter list. -/
def headRequest (s : State) (l : List Nat) : Option (Nat × Request) :=
  match l with
  | i :: _ => (s.requests.find i).map fun r => (i, r)
  | [] => none

/-- One attempt to serve the head waiter of each direction; true where something moved (08 R177). -/
def qServeOne (s : State) (pa : Nat) : State × Bool :=
  let deq := fun (s : State) => match s.headRequest (s.queues.getD pa {}).deq with
    | some (i, r) => s.grantDeq i r
    | none => (s, false)
  match s.headRequest (s.queues.getD pa {}).enq with
  | none => deq s
  | some (i, r) =>
    match s.grantEnq i r with
    | (s, true) => (s, true)
    | (s, false) => deq s

/-- The home slice serves waiters as long as one can be met (08 R177). -/
def qServe (s : State) (pa : Nat) : Nat → State
  | 0 => s
  | n + 1 =>
    match s.qServeOne pa with
    | (s, true) => s.qServe pa n
    | (s, false) => s

/-- Waiters are served after an operation that changes FREE or PTAIL. -/
def qServeAll (s : State) (pa : Nat) : State :=
  let w := s.queues.getD pa {}
  s.qServe pa (w.enq.length + w.deq.length)

/-- An enqueue that never parks: invariants, size, room, slots (08 R182; 12 R263; 03 R67). The value is the index of the
first element, or none where the queue is full or a QINIT waits at it (22 R442). DESIGN CHOICE (log 36): a full queue is
told without the slots being translated. -/
def qOffer (s : State) (ctx pa esz die : Nat) (data : List (List Byte)) : State × Except QFail (Option Nat) :=
  let (b, s) := s.qRead pa
  if s.qHeld pa then (s, .ok none)
  else if s.eccBad pa 64 then (s, .error (.ecc pa))
  else if !qOk b then (s, .error .corrupt)
  else if esz != qEszw b * 4 then (s, .error .size)
  else if qWpe b || qFree b < data.length then (s, .ok none)
  else
    match s.qSlots ctx b (qRtail b) data.length true with
    | (s, .error e) => (s, .error e)
    | (s, .ok ps) =>
      let s := (s.qReserve pa ctx b ps data none none).2
      (s.qRemote pa die, .ok (some (qRtail b)))

/-- One element taken by an agent that never parks (03 R57, R58). -/
def qTake (s : State) (ctx pa esz : Nat) : State × Except QFail (Option (List Byte)) :=
  let (b, s) := s.qRead pa
  if s.qHeld pa then (s, .ok none)
  else if s.eccBad pa 64 then (s, .error (.ecc pa))
  else if !qOk b then (s, .error .corrupt)
  else if esz != qEszw b * 4 then (s, .error .size)
  else if qWpd b || qPtail b == qHeadIdx b then (s, .ok none)
  else
    match s.qSlots ctx b (qHeadIdx b) 1 false with
    | (s, .error e) => (s, .error e)
    | (s, .ok ps) =>
      let els := s.qElements ps esz
      ((s.qConsume pa b 1).qServeAll pa, .ok els.head?)

/-- The checks of a control block's address by a group: ALIGN, then the translation (08 R176). DEDUCED (log 36): ENQ, DEQ and
SPAWN ask for it as a write, as QINIT does (22 R441), since they write the block. -/
def cbCheck (s : State) (iss : Issue) (cb : Nat) (kind : WalkKind) (write : Bool) : State × Except Move Nat :=
  if cb % 64 != 0 then (s, .error (.trap cALIGN cb))
  else if 2 ^ 48 ≤ cb then (s, .error (.trap cACCESS cb))
  else
    match s.translate iss.core iss.ctx cb kind write with
    | (s, .ok pa) => (s, .ok pa)
    | (s, .net _ _) => (s, .error (.trap cACCESS cb))
    | (s, .fault true) => (s, .error (.page cb))
    | (s, .fault false) => (s, .error (.trap cACCESS cb))
    | (s, .ecc) => (s, .error (.trap cECC cb))

/-- A control block is read at its home after the fibres' earlier accesses of its words, and after what their FENCE.acq
hold it for (07 R159, R161; 19 R402). -/
def blockGate (s : State) (fs : List FibreId) (pa : Nat) : Bool :=
  !s.accessOpen fs false || s.lineGate (fs.map fun f => (f, pa)) || fs.any fun f => s.loadPending f pa 64

/-- A request leaves the core; the whole subset waits for its reply (08 R176). -/
def sendRequest (s : State) (r : Request) : State :=
  let (id, s) := s.newId
  let s := { s with requests := s.requests.put id r }
  s.park r.iss r.iss.lanes (.request id) none

/-- The fibres of some lanes by LANE. -/
def byLane (act : List (Nat × FibreId)) : List FibreId := (sortBy (fun x : Nat × FibreId => x.1) act).map (·.2)

end State

/-- The register number of a v, g or k operand. -/
def opNum (o : Opnd) : Nat :=
  match o with
  | .v n => n.toNat
  | .g n => n.toNat
  | .k n => n.toNat
  | .q n => n.toNat
  | .imm n => n.toNat
  | _ => 0

/-- Consecutive v registers of a fibre as bytes. -/
def vBytes (s : State) (iss : Issue) (f : FibreId) (n c : Nat) : List Byte :=
  ((run n c).map fun k => leBytes 4 ((s.fibre f).vAt (s.clockOf iss.core) k).toNat).flatten

/-- The n-th operand that a request kept for its reissue at restore, else as it reads now (08 R181). -/
def keptOr (s : State) (act : List (Nat × FibreId)) (n : Nat) (x : Dword) : Nat :=
  match (s.fibre (act.headD (0, ⟨0, 0⟩)).2).again with
  | some l => (l.getD n x).toNat
  | none => x.toNat

/-- ENQ in both forms (19 R391): its release, the control block's checks, then the request. -/
def enqueue (i : Instr) (o : XE) (trying : Bool) (s : State) : Host.Outcome State Fault Refusal :=
  issuedMem i s false legal fun iss act =>
    match s.releaseStep iss.core act with
    | (s, false) => s.stall iss
    | (s, true) =>
      let cb := keptOr s act 0 (s.srcG iss o.a)
      match s.cbCheck iss cb .write true with
      | (s, .error m) => s.memFail iss m true
      | (s, .ok pa) =>
        s.sourced iss act i <|
        if s.lineGate (act.map fun x => (x.2, pa)) then s.stall iss
        else
          let rs := State.byLane act
          s.sendRequest
            { kind := 0, iss := iss, ranks := rs, cb := cb, pa := pa, esz := 4 * (o.n6.toNat + 1), trying := trying
              data := rs.map fun f => vBytes s iss f (opNum o.d) (o.n6.toNat + 1)
              vreg := 0, greg := opNum o.b, kreg := opNum o.c }

/-- ENQ (19 R391). -/
def execEnq (o : XE) (s : State) : Host.Outcome State Fault Refusal := enqueue (.enq o) o false s

/-- ENQ.try (19 R391; 08 R178). -/
def execEnqTry (o : XE) (s : State) : Host.Outcome State Fault Refusal := enqueue (.enqTry o) o true s

/-- DEQ in both forms (18 R386): with no active lane it still makes its checks. -/
def dequeue (i : Instr) (o : XE) (trying : Bool) (s : State) : Host.Outcome State Fault Refusal :=
  issuedMem i s true legal fun iss act =>
    if iss.atEnd then s.raise iss cCFI 0 iss.next.toNat
    else if trying && act.isEmpty && s.diverged iss.gid then s.raise iss cUNIF 0 0
    else
      let cb := keptOr s iss.lanes 0 (s.srcG iss o.a)
      match s.cbCheck iss cb .write true with
      | (s, .error m) => s.memFail iss m true
      | (s, .ok pa) =>
        s.sourced iss act i <|
        let fs := act.map (·.2)
        if s.blockGate fs pa || !s.acquireOpen fs then s.stall iss
        else
          let s := s.accessDone iss.core fs
          s.sendRequest
            { kind := 1, iss := iss, ranks := State.byLane act, cb := cb, pa := pa, esz := 4 * (o.n6.toNat + 1)
              trying := trying, data := [], vreg := opNum o.d, greg := opNum o.b, kreg := opNum o.c }

/-- DEQ (18 R386). -/
def execDeq (o : XE) (s : State) : Host.Outcome State Fault Refusal := dequeue (.deq o) o false s

/-- DEQ.try (18 R386; 08 R178). -/
def execDeqTry (o : XE) (s : State) : Host.Outcome State Fault Refusal := dequeue (.deqTry o) o true s

/-- A launch record at a scratchpad offset, with PARENT and DEPTH as the hardware writes them (03 R72). -/
def spawnRecord (s : State) (tid ofs : Nat) : List Byte :=
  let l := (s.team tid).launch
  let d0 := leNat (s.spadBytes tid ofs 8)
  let d0 := d0 % 2 ^ 48 + l % 2 ^ 16 * 2 ^ 48
  let d0 := d0 - bits d0 15 12 * 2 ^ 12 + (s.depthOf l + 1) * 2 ^ 12
  leBytes 8 d0 ++ s.spadBytes tid (ofs + 8) 120

/-- SPAWN (23 R461). -/
def execSpawn (o : XE) (s : State) : Host.Outcome State Fault Refusal :=
  issuedMem (.spawn o) s false legal fun iss act =>
    let tid := s.leadTeam iss.gid
    let rec' := keptOr s act 1 (s.srcG iss o.b)
    let cb := keptOr s act 0 (s.srcG iss o.a)
    if rec' % 16 != 0 then s.raise iss cALIGN 0 rec'
    else if cb % 64 != 0 then s.raise { iss with wr := true } cALIGN 0 cb
    else if (s.team tid).ownBytes < rec' + 128 then s.raise iss cACCESS 0 rec'
    else if 8 ≤ s.depthOf (s.team tid).launch then s.raise iss cNEST 0 0
    else
      match s.cbCheck iss cb .write true with
      | (s, .error m) => s.memFail iss m true
      | (s, .ok pa) =>
        s.sourced iss act (.spawn o) <|
        match s.releaseStep iss.core act with
        | (s, false) => s.stall iss
        | (s, true) =>
          if s.spadBad tid rec' 128 then s.raise iss cECC 0 rec'
          else if s.lineGate (act.map fun x => (x.2, pa)) then s.stall iss
          else
            s.sendRequest
              { kind := 2, iss := iss, ranks := (State.byLane act).take 1, cb := cb, pa := pa, esz := 128, trying := false
                data := [spawnRecord s tid rec'], recOfs := rec', vreg := 0, greg := opNum o.d, kreg := 0 }

/-- The checks of QINIT's operands (22 R441). -/
def qinitBad (s : State) (iss : Issue) (o : XE) : Bool :=
  let base := (s.srcG iss o.b).toNat
  let lcap := (s.srcG iss o.c).toNat % 256
  24 < lcap || base % 64 != 0 || 2 ^ 48 ≤ base || 2 ^ 48 < base + 2 ^ lcap * (4 * (o.n6.toNat + 1))

/-- QINIT (22 R441, R442): at the home slice, once its release is done; a block with unpublished reservations is waited
for, the queue being held meanwhile. -/
def execQinit (o : XE) (s : State) : Host.Outcome State Fault Refusal :=
  issuedMem (.qinit o) s false (whenActive fun iss => qinitBad s iss o) fun iss act =>
    let cb := (s.srcG iss o.a).toNat
    match s.cbCheck iss cb .write true with
    | (s, .error m) => s.memFail iss m true
    | (s, .ok pa) =>
      match s.releaseStep iss.core act with
      | (s, false) => s.stall iss
      | (s, true) =>
        if s.lineGate (act.map fun x => (x.2, pa)) || s.qBusy pa || (s.qHeld pa && s.qhold.find pa != some iss.gid) then
          s.stall iss
        else
          let (b, s) := (s.qOwn iss.core pa).qRead pa
          if qOk b && (qWpe b || qWpd b) then { s with qhold := s.qhold.del pa }.raise iss cQCORRUPT 0 0
          else if s.eccBad pa 64 || s.badSource iss act (usesOf (.qinit o)) then
            { s with qhold := s.qhold.del pa }.raise iss cECC 0 cb
          else if qOk b && qPtail b != qRtail b then { s with qhold := s.qhold.put pa iss.gid }.stall iss
          else
            let s := { s with qhold := s.qhold.del pa }
            let nb := qNew (s.srcG iss o.b).toNat (o.n6.toNat + 1) ((s.srcG iss o.c).toNat % 256)
            let s := s.qWrite pa nb
            (s.gWriteNow iss.gid (opNum o.d) (BitVec.ofNat 64 (nb.getD 7 0))).advance iss

/-- QSTAT (22 R443): one atomic read at the home. -/
def execQstat (o : XE) (s : State) : Host.Outcome State Fault Refusal :=
  issuedMem (.qstat o) s false legal fun iss act =>
    let cb := (s.srcG iss o.a).toNat
    match s.cbCheck iss cb .read false with
    | (s, .error m) => s.memFail iss m false
    | (s, .ok pa) =>
      if s.eccBad pa 64 || s.badSource iss act (usesOf (.qstat o)) then s.raise iss cECC 0 cb
      else if s.blockGate (act.map (·.2)) pa || s.qHeld pa then s.stall iss
      else
        let s := (s.accessDone iss.core (act.map (·.2))).staleDrop iss.core (State.qWords pa)
        let s := s.each (upto 8) fun s i => s.gWriteNow iss.gid (opNum o.d + i) (s.home64 (pa + 8 * i))
        s.advance iss

/-! The home slice (08 R173 to R181). -/

/-- An enqueue request is checked, reserved or parked at the home slice (08 R173, R178). -/
def execEnqAtHome (id : Nat) (s : State) : Host.Outcome State Fault Refusal :=
  match s.requests.find id with
  | none => .fault (.notEnabled "ENQ_AT_HOME")
  | some r =>
    if r.kind == 1 || r.state != 0 || s.qHeld r.pa || s.qBusy r.pa then .fault (.notEnabled "ENQ_AT_HOME")
    else
      match (s.qOwn r.iss.core r.pa).homeCheck r r.data.length with
      | (s, .error e) => .next (s.qDeliver id r e)
      | (s, .ok b) =>
        let n := if !r.trying then r.data.length else if qWpe b then 0 else min r.data.length (qFree b)
        match s.qSlots r.iss.ctx b (qRtail b) n true with
        | (s, .error e) => .next (s.qDeliver id r e)
        | (s, .ok ps) =>
          if !r.trying && (qWpe b || qFree b < n) then .next (s.qPark id r)
          else if n == 0 then
            .next ((s.modRequest id fun r => { r with state := 3, moved := 0 }).qRemote r.pa (State.requestDie r))
          else
            let s := (s.qReserve r.pa r.iss.ctx b ps (r.data.take n) (some id) (some r.iss.core)).2
            let s := s.modRequest id fun r => { r with state := 2, moved := if r.kind == 2 then qRtail b else n }
            .next ((s.qRemote r.pa (State.requestDie r)).countChild r)

/-- A fibre of a request has an earlier access of some slots that is not performed: the read at the home waits (07 R159). -/
def slotsGated (s : State) (r : Request) (ps : List (Nat × Nat)) : Bool :=
  ps.any fun p => r.ranks.any fun f =>
    s.loadPending f p.1 p.2 || (linesOf p.1 p.2).any fun l => s.lineRegistered f l

/-- A fibre of a request has an earlier access under way. A request that is to park waits for all of them first, so that its
grant, which may read any slot, follows them (07 R159). -/
def ranksOpen (s : State) (r : Request) : Bool :=
  r.ranks.any fun f =>
    (s.registrations.any fun x => x.2.fibres.contains f) || (s.releases.any fun x => x.2.fibres.contains f) ||
      s.pending.any fun x => x.2.fib == f && x.2.load.isSome

/-- A dequeue request is checked, served or parked at the home slice (08 R175, R178). Its elements are read as .na
accesses (R172). -/
def execDeqAtHome (id : Nat) (s : State) : Host.Outcome State Fault Refusal :=
  match s.requests.find id with
  | none => .fault (.notEnabled "DEQ_AT_HOME")
  | some r =>
    if r.kind != 1 || r.state != 0 || s.qHeld r.pa || s.qBusy r.pa then .fault (.notEnabled "DEQ_AT_HOME")
    else
      match (s.qOwn r.iss.core r.pa).homeCheck r r.ranks.length with
      | (s, .error e) => .next (s.qDeliver id r e)
      | (s, .ok b) =>
        let have' := qPtail b - qHeadIdx b
        let n := if !r.trying then r.ranks.length else if qWpd b then 0 else min r.ranks.length have'
        if !r.trying && n != 0 && (qWpd b || have' < n) then
          match s.qReach r.iss.ctx b (qHeadIdx b) n with
          | (s, .error e) => .next (s.qDeliver id r e)
          | (s, .ok _) => if ranksOpen s r then .fault (.notEnabled "DEQ_AT_HOME") else .next (s.qPark id r)
        else
          match s.qSlots r.iss.ctx b (qHeadIdx b) n false with
          | (s, .error e) => .next (s.qDeliver id r e)
          | (s, .ok ps) =>
            if slotsGated s r ps then .fault (.notEnabled "DEQ_AT_HOME")
            else
              let els := s.qElements ps r.esz
              let s := s.each ps fun s p => s.staleDrop r.iss.core (State.wordsOf p.1 p.2)
              let s := if n == 0 then s else s.qConsume r.pa b n
              let s := s.modRequest id fun r => { r with state := 3, got := els, moved := n }
              let s := s.qRemote r.pa (State.requestDie r)
              .next (if n == 0 then s else s.qServeAll r.pa)

/-- PTAIL passes the published reservations that stand at it, in order (08 R174). -/
def passPublished (s : State) (pa : Nat) : Nat → State
  | 0 => s
  | n + 1 =>
    let (b, s) := s.qRead pa
    match s.reservations.find? fun x => x.2.pa == pa && x.2.done && x.2.first == qPtail b with
    | some (i, r) =>
      passPublished ({ s with reservations := s.reservations.del i }.qWrite pa (b.set 4 (qPtail b + r.count))) pa n
    | none => s

/-- A reservation's element writes are performed; PTAIL advances; waiters are served; the reply is due (08 R174). -/
def execElementPublication (id : Nat) (s : State) : Host.Outcome State Fault Refusal :=
  match s.reservations.find id with
  | none => .fault (.notEnabled "ELEMENT_PUBLICATION")
  | some r =>
    let held := fun (c w : Nat) => s.ackPending c w
    if r.done || s.qBusy r.pa || (match r.core with
      | some c => r.writes.any fun w => (State.wordsOf w.1 w.2.length).any (held c)
      | none => false) then .fault (.notEnabled "ELEMENT_PUBLICATION")
    else
      let s := s.each r.writes fun s w =>
        (match r.core with
          | some c => s.cleanOwn c (State.wordsOf w.1 w.2.length)
          | none => s).homeWrite w.1 w.2
      let s := { s with reservations := s.reservations.put id { r with done := true } }
      let s := match r.request with
        | some q => s.modRequest q fun x => { x with state := 3 }
        | none => s
      let s := passPublished s r.pa s.reservations.length
      .next (s.qServeAll r.pa)

/-- A parked waiter is asked to leave for a stop: it is evicted and keeps the control block's address, the operation and
its elements for its reissue, or was granted already (08 R181; 23 R462). -/
def execWaiterEviction (id : Nat) (s : State) : Host.Outcome State Fault Refusal :=
  match s.requests.find id with
  | none => .fault (.notEnabled "WAITER_EVICTION")
  | some r =>
    if !(s.ctx r.iss.ctx).stop || r.state == 0 || (r.state == 1 && s.qBusy r.pa) then
      .fault (.notEnabled "WAITER_EVICTION")
    else if r.state == 1 then
      let s := (s.qLeave id r).unpark id r
      let keep := [BitVec.ofNat 64 r.cb, BitVec.ofNat 64 r.recOfs]
      let s := s.each r.iss.lanes fun s x => s.modFibre x.2 fun f => { f with
        status := .blocked .stopped, again := some keep }
      .next (s.qServeAll r.pa)
    else .next s

/-- Words of an element. -/
def elementWords (bs : List Byte) : List Word := (upto (bs.length / 4)).map fun i => wordOf ((bs.drop (4 * i)).take 4)

/-- The reply completes the instruction (08 R176, R178; 18 R386; 19 R391; 23 R461). -/
def execQueueReply (id : Nat) (s : State) : Host.Outcome State Fault Refusal :=
  match s.requests.find id with
  | none => .fault (.notEnabled "QUEUE_REPLY")
  | some r =>
    if r.state != 3 then .fault (.notEnabled "QUEUE_REPLY")
    else
      let s := s.unpark id r
      let s := s.each (r.ranks.zip r.got) fun s x =>
        let s := s.each (run r.vreg (x.2.length / 4)) fun s k => s.mendReg x.1 0 0 (.v k)
        let ws := elementWords x.2
        s.modFibre x.1 fun f => ((upto ws.length).zip ws).foldl
          (fun f w => f.writeNow (.v (r.vreg + w.1)) (w.2.setWidth 64)) f
      let s := if !r.trying then s
        else
          let s := s.gWriteNow r.iss.gid r.greg (BitVec.ofNat 64 r.moved)
          s.each ((upto r.ranks.length).zip r.ranks) fun s x =>
            (s.mendReg x.2 0 0 (.k r.kreg)).modFibre x.2 fun f => f.writeNow (.k r.kreg) (if x.1 < r.moved then 1 else 0)
      let s := if r.kind == 2 then s.gWriteNow r.iss.gid r.greg (BitVec.ofNat 64 r.moved) else s
      let s := if r.kind == 1 then s.acquire r.ranks else s
      let s := s.goto r.iss.lanes r.iss.next
      .next (s.each r.iss.lanes fun s x => s.wake x.2)

end Sys2Proof.Machine
end

