-- ==== Sys2Proof/Machine/Channel.lean ====
section
/-! DEFINITION. Dataflow channels: CHSEND, CHRECV, the landing of slots and the return of credits
(08_queues_and_channels R184 to R188; 18_ref_c_to_d R378, R379). -/

namespace Sys2Proof.Machine

namespace State

def launch (s : State) (l : Nat) : Launch := s.launches.getD l {}
def modLaunch (s : State) (l : Nat) (f : Launch → Launch) : State := { s with launches := s.launches.upd l f }

/-- A channel of a launch. -/
def channel (s : State) (l cid : Nat) : Channel := (s.launch l).channels.getD cid {}
def modChannel (s : State) (l cid : Nat) (f : Channel → Channel) : State :=
  s.modLaunch l fun x => { x with channels := x.channels.upd cid f }

/-- Where a channel's slots begin in its consumer's scratchpad: above the SPAD bytes, in rising CID (08 R185). -/
def channelBase (s : State) (l cid : Nat) : Nat :=
  let cons := (s.channel l cid).cons
  let own := 256 * recField (s.launch l).words 6 59 48
  (((s.launch l).channels.filter fun x => x.1 < cid && x.2.cons == cons).map fun x => x.2.slots * x.2.size).foldl
    (· + ·) own

/-- A team of a launch has started and still runs. -/
def started (s : State) (l num : Nat) : Bool := !(s.launch l).unstarted.contains num

/-- A team of a launch has completed. -/
def completed (s : State) (l num : Nat) : Bool :=
  s.started l num && match s.teamOf l num with
    | some t => (s.team t).ended
    | none => true

end State

/-- The checks of 08 R187: the channel, the identity of every active fibre's home team, the counts and sizes. -/
def chanBad (s : State) (act : List (Nat × FibreId)) (cid size : Nat) (send : Bool) : Bool :=
  let l := (s.team (lead act).team).launch
  match (s.launch l).channels.find cid with
  | none => true
  | some c =>
    (act.any fun x => (s.team x.2.team).launch != l || (s.team x.2.team).num != (if send then c.prod else c.cons)) ||
      decide (c.slots < act.length) || c.size != size || (send && s.completed l c.cons)
where
  /-- The first active fibre. -/
  lead (act : List (Nat × FibreId)) : FibreId := (act.headD (0, ⟨0, 0⟩)).2

/-- Two waits share a lane. -/
def ChanWait.meets (x y : ChanWait) : Bool := x.lanes.any fun f => y.lanes.contains f

/-- A subset takes its place in a direction's queue, in the place of what its lanes had there (18 R379). -/
def queueUp (l : List ChanWait) (w : ChanWait) : List ChanWait :=
  if l.any (·.meets w) then place l else l ++ [w]
where
  /-- The first that shares a lane is replaced, later ones go. -/
  place : List ChanWait → List ChanWait
    | [] => []
    | x :: r => if x.meets w then w :: r.filter (fun y => !y.meets w) else x :: place r

/-- A subset leaves a direction's queue. -/
def queueOff (l : List ChanWait) (w : ChanWait) : List ChanWait := l.filter fun x => !x.meets w

/-- The wait at the head of a direction's queue; what has no live lane stands there no more. -/
def chanHead (s : State) (l : List ChanWait) : Option ChanWait := l.find? fun x => x.lanes.any fun f => (s.fibre f).live

/-- CHSEND (18 R378). Its slots leave once the release is done; the fibres' later accesses are not held back (07 R160). -/
def execChsend (o : XE) (s : State) : Host.Outcome State Fault Refusal :=
  issuedMem (.chsend o) s false legal fun iss act =>
    let cid := opNum o.b
    let words := o.n6.toNat + 1
    let rs := State.byLane act
    let l := (s.team (rs.headD ⟨0, 0⟩).team).launch
    let c := s.channel l cid
    let me : ChanWait := ⟨rs, iss.lanes.map (·.2)⟩
    let leave := fun (s : State) => s.modChannel l cid fun c => { c with sendq := queueOff c.sendq me }
    let join := fun (s : State) => s.modChannel l cid fun c => { c with sendq := queueUp c.sendq me }
    if chanBad s act cid (4 * words) true then (leave s).raise iss cCHAN 0 0
    else if s.badSource iss act (usesOf (.chsend o)) then (leave s).raise iss cECC 0 0
    else if countFull s act (·.stc) then s.stall iss
    else if chanHead s (queueUp c.sendq me) != some me || c.credits < rs.length || !s.started l c.cons then
      (join s).park iss iss.lanes (.credits cid rs.length) none
    else
      let waits := s.releaseWaits iss.core rs
      let s := s.each rs fun s f =>
        let c := s.channel l cid
        let (id, s) := s.newId
        let fl : Flight := ⟨l, cid, c.next, vBytes s iss f (opNum o.a) words, f, waits⟩
        let s := { s with flights := s.flights.put id fl }
        let s := s.modChannel l cid fun c => { c with next := (c.next + 1) % c.slots, credits := c.credits - 1 }
        s.modFibre f fun x => { x with stc := x.stc + 1 }
      (leave s).advance iss

/-- CHRECV (18 R378). -/
def execChrecv (o : XE) (s : State) : Host.Outcome State Fault Refusal :=
  issued (.chrecv o) s false legal fun iss act =>
    let cid := opNum o.b
    let words := o.n6.toNat + 1
    let rs := State.byLane act
    let home := (rs.headD ⟨0, 0⟩).team
    let l := (s.team home).launch
    let c := s.channel l cid
    let n := rs.length
    let me : ChanWait := ⟨rs, iss.lanes.map (·.2)⟩
    let leave := fun (s : State) => s.modChannel l cid fun c => { c with recvq := queueOff c.recvq me }
    if chanBad s act cid (4 * words) false then (leave s).raise iss cCHAN 0 0
    else if c.landed < n && s.completed l c.prod then (leave s).raise iss cCHAN 0 0
    else if chanHead s (queueUp c.recvq me) != some me || c.landed < n then
      (s.modChannel l cid fun c => { c with recvq := queueUp c.recvq me }).park iss iss.lanes (.slots cid n) none
    else if !s.acquireOpen rs then s.stall iss
    else
      let base := s.channelBase l cid
      let slot := fun (r : Nat) => base + (c.rnext + r) % c.slots * c.size
      let bad := ((upto n).zip rs).filter fun x => s.spadBad home (slot x.1) c.size
      match sortBy (fun x : Nat × FibreId => x.2.fid) bad with
      | x :: _ => (leave s).raise iss cECC 0 (slot x.1)
      | [] =>
        let s := s.each ((upto n).zip rs) fun s x =>
          let ws := elementWords (s.spadBytes home (slot x.1) c.size)
          s.addPending iss x.2 (((upto ws.length).zip ws).map fun w => (.v (opNum o.d + w.1), w.2.setWidth 64)) [] none
        let s := s.acquire rs
        let (id, s) := s.newId
        let s := { s with creditFlights := s.creditFlights.put id (l, cid, n) }
        ((leave s).modChannel l cid fun c => { c with rnext := (c.rnext + n) % c.slots, landed := c.landed - n }).advance
          iss

namespace State

/-- The place of a parked fibre in a direction's queue. -/
def chanWaitOf (l : List ChanWait) (f : FibreId) : Option ChanWait := l.find? fun x => x.lanes.contains f

/-- A wait at a channel is over for a fibre: it stands nowhere in the queue, or it stands in the wait at its head and
there are as many slots as that has active fibres (08 R186). -/
def chanMet (s : State) (l : List ChanWait) (f : FibreId) (have' : Nat) : Bool :=
  match chanWaitOf l f with
  | none => true
  | some w => chanHead s l == some w && decide (w.act.length ≤ have')

/-- The waits of a queue as their fibres stand in groups now (08 R188): a group that was re-sliced waits in its parts. -/
def regrouped (s : State) (l : List ChanWait) : List ChanWait :=
  (l.map fun w => (nub (w.lanes.map fun f => (s.fibre f).gid)).map fun gid =>
    (⟨w.act.filter fun f => (s.fibre f).gid == gid, w.lanes.filter fun f => (s.fibre f).gid == gid⟩ : ChanWait)).flatten.filter
    fun w => !w.act.isEmpty

/-- The groups of a restored context wait at its channels again (08 R188). -/
def rejoinChannels (s : State) (ctx : Nat) : State :=
  s.each (s.launches.filter fun x => x.2.ctx == ctx) fun s x =>
    s.modLaunch x.1 fun l => { l with channels := l.channels.mapVals fun c =>
      { c with sendq := s.regrouped c.sendq, recvq := s.regrouped c.recvq } }

end State

/-- A channel slot lands in the consumer's scratchpad, in the channel's order and after the release that it carries; STC
counts down (08 R186; 06 R142; 07 R160). -/
def execChannelLanding (id : Nat) (s : State) : Host.Outcome State Fault Refusal :=
  match s.flights.find id with
  | none => .fault (.notEnabled "CHANNEL_LANDING")
  | some fl =>
    if s.anyOpen fl.waits || s.flights.any fun x => x.1 < id && x.2.launch == fl.launch && x.2.cid == fl.cid then
      .fault (.notEnabled "CHANNEL_LANDING")
    else
      let s := { s with flights := s.flights.del id }
      let s := s.modFibre fl.src fun f => { f with stc := f.stc - 1 }
      let c := s.channel fl.launch fl.cid
      match s.teamOf fl.launch c.cons with
      | none => .next s
      | some t =>
        if (s.team t).ended then .next s
        else
          let s := s.spadWrite t (s.channelBase fl.launch fl.cid + fl.slot * c.size) fl.data
          .next (s.modChannel fl.launch fl.cid fun c => { c with landed := c.landed + 1 })

/-- Credits that CHRECV returned reach the producer (08 R186). -/
def execChannelCreditReturn (id : Nat) (s : State) : Host.Outcome State Fault Refusal :=
  match s.creditFlights.find id with
  | none => .fault (.notEnabled "CHANNEL_CREDIT_RETURN")
  | some (l, cid, n) =>
    .next ({ s with creditFlights := s.creditFlights.del id }.modChannel l cid fun c =>
      { c with credits := c.credits + n })

end Sys2Proof.Machine
end

