-- ==== Sys2Proof/Machine/Tile.lean ====
section
/-! DEFINITION. Tensor descriptors, the tiles of a team, and which of their bytes a copy command and a matrix operation use
(09_copy_engine_and_streams R191, R192; 10_matrix_engine R215 to R219, R222, R223, R229 to R231). -/

namespace Sys2Proof.Machine

/-- A dimension of a tensor descriptor (09 R191). -/
structure Dim where
  start : Int
  ext : Nat
  sstr : Int
  count : Nat
  dstr : Int
  deriving DecidableEq, Repr

/-- A tensor descriptor (09 R191). -/
structure Tensor where
  esz : Nat
  cld : Bool
  dims : List Dim
  deriving DecidableEq, Repr

/-- The descriptor in sixteen doublewords; one that breaks the rules is none (09 R191). -/
def tensorOf (dw : List Nat) : Option Tensor :=
  let d := fun (i : Nat) => dw.getD i 0
  let nd := bits (d 0) 2 0 + 1
  let esz : Nat := 2 ^ bits (d 0) 5 3
  let dims : List Dim := (upto nd).map fun i =>
    { start := sext 32 (bits (d (1 + 3 * i)) 31 0), ext := bits (d (1 + 3 * i)) 63 32
      sstr := sext 48 (bits (d (2 + 3 * i)) 47 0), count := bits (d (2 + 3 * i)) 63 48
      dstr := sext 48 (bits (d (3 + 3 * i)) 47 0) }
  if 5 < nd || 4 < bits (d 0) 5 3 || bits (d 0) 63 7 != 0 then none
  else if (upto nd).any fun i => bits (d (3 + 3 * i)) 63 48 != 0 then none
  else if dims.any fun x => x.count == 0 || x.sstr % (esz : Int) != 0 || x.dstr % (esz : Int) != 0 then none
  else if 2 ^ 31 < (dims.map (·.count)).foldl (· * ·) esz then none
  else some ⟨esz, bit (d 0) 6, dims⟩

namespace Tensor

/-- The indices of a dimension that lie in bounds: from, and before (09 R192). -/
def range (x : Dim) : Int × Int := (max 0 (-x.start), min (x.count : Int) ((x.ext : Int) - x.start))

/-- A dimension's length in bounds. -/
def len (x : Dim) : Nat := ((range x).2 - (range x).1).toNat

/-- Actual bytes: the element size times the in-bounds elements (09 R192). -/
def actual (t : Tensor) : Nat := (t.dims.map len).foldl (· * ·) t.esz

/-- All elements of the walk. -/
def total (t : Tensor) : Nat := (t.dims.map (·.count)).foldl (· * ·) 1

/-- The stride of a side, and what multiplies it: the coordinate where the bounds apply, else the index. -/
def term (t : Tensor) (src : Bool) (x : Dim) (i : Int) : Int :=
  (if src != t.cld then x.start + i else i) * (if src then x.sstr else x.dstr)

/-- The lowest address and the end of the in-bounds elements of a side; none where every element is clipped. -/
def span (t : Tensor) (src : Bool) (base : Nat) : Option (Int × Int) :=
  if t.dims.any fun x => len x == 0 then none
  else
    let ends := t.dims.map fun x =>
      let p := t.term src x (range x).1
      let q := t.term src x ((range x).2 - 1)
      (min p q, max p q)
    some ((ends.map (·.1)).foldl (· + ·) (base : Int), (ends.map (·.2)).foldl (· + ·) (base : Int) + t.esz)

/-- Element k of the walk: its source and destination, or none where it is clipped (09 R192). -/
def element (t : Tensor) (sbase dbase k : Nat) : Option (Int × Int) :=
  go t.dims k (sbase : Int) (dbase : Int)
where
  /-- Dimension 0 varies fastest. -/
  go : List Dim → Nat → Int → Int → Option (Int × Int)
    | [], _, a, b => some (a, b)
    | x :: r, k, a, b =>
      let i : Int := ((k % x.count : Nat) : Int)
      if x.start + i < 0 || (x.ext : Int) ≤ x.start + i then none
      else go r (k / x.count) (a + t.term true x i) (b + t.term false x i)

/-- A byte lies in an in-bounds element on a side. -/
def holds (t : Tensor) (src : Bool) (sbase dbase byte : Nat) : Bool :=
  (upto t.total).any fun k => match t.element sbase dbase k with
    | some (a, b) =>
      let x := if src then a else b
      decide (x ≤ byte) && decide ((byte : Int) < x + t.esz)
    | none => false

end Tensor

/-! Tiles' bytes (10 R215, R217). -/

def tileRow0 (d : Dword) : Nat := bits d.toNat 9 0
def tileRows (d : Dword) : Nat := bits d.toNat 19 10 + 1
def tileCol (d : Dword) : Nat := bits d.toNat 29 20
def tileWidth (d : Dword) : Nat := bits d.toNat 39 30 + 1
def tileFmt (d : Dword) : Nat := bits d.toNat 43 40

/-- The first row of a record's region, and its rows; the first column, and its columns (10 R222). -/
def regionRow (dw : List Nat) : Nat := bits (dw.getD 1 0) 7 0
def regionRows (dw : List Nat) : Nat := bits (dw.getD 1 0) 15 8 + 1
def regionCol (dw : List Nat) : Nat := 8 * bits (dw.getD 1 0) 21 16
def regionBlocks (dw : List Nat) : Nat := bits (dw.getD 1 0) 27 22 + 1

/-- A micro-op's fields (10 R230). -/
structure MicroOp where
  op : Nat
  dst : Nat
  sa : Nat
  sb : Nat
  sc : Nat
  na : Bool
  aa : Bool
  nb : Bool
  ab : Bool
  aux : Nat
  deriving DecidableEq, Repr

def microOp (w : Word) : MicroOp :=
  let x := w.toNat
  ⟨bits x 4 0, bits x 7 5, bits x 12 8, bits x 17 13, bits x 22 18, bit x 23, bit x 24, bit x 25, bit x 26, bits x 31 27⟩

namespace MicroOp

/-- The operations that write DST, read SB, read SC, and take the two pairs of modifier bits (10 R230, R232). -/
def writes (m : MicroOp) : Bool := m.op ≤ 0xA || m.op == 0xC
def readsB (m : MicroOp) : Bool := (1 ≤ m.op && m.op ≤ 5) || m.op == 9 || m.op == 0xE
def readsC (m : MicroOp) : Bool := m.op == 3 || m.op == 9
def modifiesA (m : MicroOp) : Bool := m.op != 0

/-- A source of the micro-op is the given one. -/
def uses (m : MicroOp) (n : Nat) : Bool := m.sa == n || (m.readsB && m.sb == n) || (m.readsC && m.sc == n)

end MicroOp

/-- The drain slot of a context on a core. -/
def drainOf (s : State) (core ctx k : Nat) : Drain := (s.core core).drains.getD (ctx * 64 + k) {}

/-- Bytes of an element of a drain format, and of a block of eight (10 R216, R227, R234). -/
def drainElement (fmt : Nat) : Nat := if fmt == 1 then 4 else if fmt == 11 || fmt == 12 then 2 else 1
def drainBlock (fmt : Nat) : Nat :=
  if 2 ≤ fmt && fmt ≤ 10 then 1 + Block.mantBits fmt else 8 * drainElement fmt

/-- The format of a program's ST. -/
def storeFormat (ms : List MicroOp) : Option Nat := (ms.find? fun m => m.op == 0xD).map (·.aux)

/-- Bytes of a row's stores from DADDR + i × DRS, none without an ST. -/
def rowBytes (dw : List Nat) (fmt : Option Nat) : Nat :=
  match fmt with
  | some f => regionBlocks dw * drainBlock f
  | none => 0

namespace State

def tile (s : State) (tid n : Nat) : Tile := (s.team tid).tiles.getD n {}
def modTile (s : State) (tid n : Nat) (f : Tile → Tile) : State :=
  s.modTeam tid fun t => { t with tiles := modAt t.tiles n f }

/-- A tile's rectangle holds a place of the tile store. -/
def tileCovers (d : Dword) (row col : Nat) : Bool :=
  tileRow0 d ≤ row && row < tileRow0 d + tileRows d && tileCol d ≤ col && col < tileCol d + tileWidth d

/-- The tile of A, the view of A and the tile of B that a step reads from. -/
def tileA (m : MatOp) : Nat := bits (m.dw.getD 0 0) 4 0
def tileB (m : MatOp) : Nat := bits (m.dw.getD 0 0) 10 6
def viewA (m : MatOp) : Bool := bit (m.dw.getD 0 0) 5

/-- The tiles that a matrix operation reads (10 R218). -/
def matReads (dw : List Nat) : List Nat :=
  let d0 := dw.getD 0 0
  nub ((if bit d0 5 then [] else [bits d0 4 0]) ++ [bits d0 10 6] ++ (if bit d0 21 then [bits d0 15 11] else []) ++
    (if bit d0 22 then [bits d0 20 16] else []))

/-- The tile that a matrix operation drains into. -/
def matDest (dw : List Nat) : Option Nat :=
  if bit (dw.getD 0 0) 30 && bits (dw.getD 3 0) 1 0 == 0 then some (bits (dw.getD 3 0) 6 2) else none

/-- A matrix operation is the first incomplete one of its team, which takes effect alone (10 R213). -/
def matFirst (s : State) (m : MatOp) : Bool := !s.mats.any fun x => x.2.tid == m.tid && x.2.num < m.num

/-- The program of an operation's drain. -/
def drainOps (s : State) (m : MatOp) : List MicroOp :=
  (drainOf s m.core m.ctx (bits (m.dw.getD 0 0) 29 24)).ops.map microOp

/-- Steps of a block operand: its rows and 32 blocks from the tile's first row and column on, moved on by the record's
increments in each step, hold a place of the tile store. `k`: the half of DW2 of the operand (10 R223). -/
def operandHolds (m : MatOp) (d : Dword) (k rows : Nat) (row col : Nat) : Bool :=
  let inc := fun (n : Nat) => sext 16 (bits (m.dw.getD 2 0) (16 * n + 15) (16 * n))
  (upto m.steps).any fun step =>
    let r : Int := (tileRow0 d : Nat) + step * inc (2 * k)
    let c : Int := (tileCol d : Nat) + step * inc (2 * k + 1)
    decide (r ≤ row) && decide ((row : Int) < r + rows) && decide (c ≤ col) &&
      decide ((col : Int) < c + (32 * (1 + Block.mantBits (tileFmt d)) : Nat))

/-- A place of the tile store lies in the first n bytes of a tile (10 R217). -/
def tileHolds (d : Dword) (n row col : Nat) : Bool :=
  tileCovers d row col && decide ((row - tileRow0 d) * tileWidth d + (col - tileCol d) < n)

/-- The walk of a TCOPY that is under way writes a place of the tile store (10 R217). -/
def copyWrites (s : State) (c : Cmd) (row col : Nat) : Bool :=
  let d := (s.tile c.tid c.tile).desc
  c.kind == 4 && !c.failed && tileCovers d row col &&
    match tensorOf c.shape with
    | some t => t.holds false c.sbase 0 ((row - tileRow0 d) * tileWidth d + (col - tileCol d))
    | none => false

/-- A matrix operation writes a place of the tile store through a tile other than n: its drain stores there (10 R234). -/
def matWrites (s : State) (m : MatOp) (n row col : Nat) : Bool :=
  (matDest m.dw).any fun k =>
    let d := (s.tile m.tid k).desc
    k != n && decide (tileRow0 d ≤ row) && decide (row < tileRow0 d + regionRows m.dw) && decide (tileCol d ≤ col) &&
      decide (col < tileCol d + rowBytes m.dw (storeFormat (s.drainOps m)))

/-- A matrix operation reads a place of the tile store through a tile other than n: as A, B, ROWV or COLV (10 R223,
R228). -/
def matReadsAt (s : State) (m : MatOp) (n row col : Nat) : Bool :=
  let d0 := m.dw.getD 0 0
  let at_ := fun (k : Nat) => (s.tile m.tid k).desc
  let vector := fun (k source len : Nat) => k != n && (s.drainOps m).any (·.uses source) &&
    tileHolds (at_ k) (len * drainElement (tileFmt (at_ k))) row col
  (!viewA m && tileA m != n && operandHolds m (at_ (tileA m)) 0 (regionRows m.dw) row col) ||
    (tileB m != n && operandHolds m (at_ (tileB m)) 1 (8 * regionBlocks m.dw) row col) ||
    (bit d0 30 && bit d0 21 && vector (bits d0 15 11) 9 (regionRows m.dw)) ||
    (bit d0 30 && bit d0 22 && vector (bits d0 20 16) 10 (8 * regionBlocks m.dw))

/-- A place of the tile store that is used through tile n is written by a TCOPY through another name (10 R219). -/
def copyShares (s : State) (tid n row col : Nat) : Bool :=
  s.cmds.any fun x => x.2.tid == tid && x.2.tile != n && s.copyWrites x.2 row col

/-- A place of the tile store that is used through tile n is read or written through another name by the team's first
incomplete matrix operation (10 R213, R219). -/
def matShares (s : State) (tid n row col : Nat) : Bool :=
  s.mats.any fun x => x.2.tid == tid && s.matFirst x.2 && (s.matWrites x.2 n row col || s.matReadsAt x.2 n row col)

/-- A byte of a team's tile rows; one never written is undefined (10 R215). -/
def tileByte (s : State) (tid row col : Nat) : Byte :=
  let t := s.team tid
  t.tileBytes.getD (row * 768 + col) (Config.freeByte t.gen (2 ^ 40 + row * 768 + col))

/-- A run of bytes along a tile row that a matrix operation reads through tile n. A byte that a TCOPY writes through
another name meanwhile reads as an undefined value (10 R219; log 4). -/
def tileRun (s : State) (tid n row col len : Nat) : List Byte :=
  (upto len).map fun i =>
    if s.copyShares tid n row (col + i) then Config.freeByte (2 ^ 65 + s.fresh) (row * 768 + col + i)
    else s.tileByte tid row (col + i)

/-- Bytes are written along a tile row through tile n; a byte that another operation uses through another name holds an
undefined value (10 R219; log 4). An error in them goes (06 R150). -/
def tilePut (s : State) (tid n : Nat) (mat : Bool) (row col : Nat) (bs : List Byte) : State :=
  let at_ := row * 768 + col
  let new := ((upto bs.length).zip bs).map fun x =>
    (at_ + x.1, if s.copyShares tid n row (col + x.1) || (!mat && s.matShares tid n row (col + x.1)) then
      Config.freeByte (2 ^ 66 + s.fresh) (at_ + x.1) else x.2)
  let s := { s with
    fresh := s.fresh + 1
    badElse := s.badElse.filter fun p => match p with
      | .tile t b => t != tid || b < at_ || at_ + bs.length ≤ b
      | _ => true }
  s.modTeam tid fun t => { t with tileBytes := new.foldl (fun m x => m.put x.1 x.2) t.tileBytes }

/-- Bytes that a TCOPY writes at a linear offset of a tile (10 R217). -/
def tileWrite (s : State) (tid n ofs : Nat) (bs : List Byte) : State :=
  let d := (s.tile tid n).desc
  s.tilePut tid n false (tileRow0 d + ofs / tileWidth d) (tileCol d + ofs % tileWidth d) bs

end State

end Sys2Proof.Machine
end

