-- ==== Sys2Proof/Machine/Hash.lean ====
section
/-! DEFINITION. SHA-384, HMAC-SHA-384 and HKDF-SHA-384, which the spec names by their standards (13 R280, R286;
14 R299, R303, R304; log 13). -/

namespace Sys2Proof.Machine

/-- The primes that SHA-384's constants come from. -/
def hashPrimes : List Nat :=
  [2, 3, 5, 7, 11, 13, 17, 19, 23, 29, 31, 37, 41, 43, 47, 53, 59, 61, 67, 71] ++
  [73, 79, 83, 89, 97, 101, 103, 107, 109, 113, 127, 131, 137, 139, 149, 151, 157, 163, 167, 173] ++
  [179, 181, 191, 193, 197, 199, 211, 223, 227, 229, 233, 239, 241, 251, 257, 263, 269, 271, 277, 281] ++
  [283, 293, 307, 311, 313, 317, 331, 337, 347, 349, 353, 359, 367, 373, 379, 383, 389, 397, 401, 409]

/-- The integer part of the k-th root of x, found bit by bit below 2^n. -/
def rootBits (k x : Nat) : Nat → Nat → Nat
  | 0, r => r
  | n + 1, r => rootBits k x n (if (r + 2 ^ n) ^ k ≤ x then r + 2 ^ n else r)

/-- The first 64 fractional bits of the k-th root of p. -/
def rootFrac (k p : Nat) : Dword := BitVec.ofNat 64 (rootBits k (p * 2 ^ (64 * k)) 72 0)

/-- The 80 round constants. -/
def hashK : List Dword := hashPrimes.map (rootFrac 3)

/-- The first hash value: the ninth to the sixteenth prime. -/
def hashInit : List Dword := ((hashPrimes.drop 8).take 8).map (rootFrac 2)

def bigEndian : List Byte → Nat := fun l => l.foldl (fun n b => 256 * n + b.toNat) 0

/-- The n big-endian bytes of a number. -/
def beBytes (n x : Nat) : List Byte := (leBytes n x).reverse

/-- A message with its padding. -/
def hashPad (m : List Byte) : List Byte :=
  m ++ [0x80] ++ List.replicate ((239 - m.length % 128) % 128) 0 ++ beBytes 16 (8 * m.length)

/-- The message schedule, newest word first, from the sixteen words of a block. -/
def hashSchedule : Nat → List Dword → List Dword
  | 0, w => w
  | n + 1, w =>
    let x := w.getD 1 0
    let y := w.getD 14 0
    let s1 := (x.rotateRight 19) ^^^ (x.rotateRight 61) ^^^ (x >>> 6)
    let s0 := (y.rotateRight 1) ^^^ (y.rotateRight 8) ^^^ (y >>> 7)
    hashSchedule n ((s1 + w.getD 6 0 + s0 + w.getD 15 0) :: w)

/-- One round on the eight working words. -/
def hashRound (v : List Dword) (kw : Dword × Dword) : List Dword :=
  match v with
  | [a, b, c, d, e, f, g, h] =>
    let s1 := (e.rotateRight 14) ^^^ (e.rotateRight 18) ^^^ (e.rotateRight 41)
    let s0 := (a.rotateRight 28) ^^^ (a.rotateRight 34) ^^^ (a.rotateRight 39)
    let t1 := h + s1 + ((e &&& f) ^^^ (~~~e &&& g)) + kw.1 + kw.2
    let t2 := s0 + ((a &&& b) ^^^ (a &&& c) ^^^ (b &&& c))
    [t1 + t2, a, b, c, d + t1, e, f, g]
  | _ => v

/-- One block of 128 bytes. -/
def hashBlock (h : List Dword) (block : List Byte) : List Dword :=
  let w := (List.range 16).map fun i => BitVec.ofNat 64 (bigEndian ((block.drop (8 * i)).take 8))
  let ws := (hashSchedule 64 w.reverse).reverse
  (h.zip ((hashK.zip ws).foldl hashRound h)).map fun x => x.1 + x.2

/-- The blocks of a padded message, n of them. -/
def hashBlocks : Nat → List Byte → List Dword → List Dword
  | 0, _, h => h
  | n + 1, m, h => hashBlocks n (m.drop 128) (hashBlock h (m.take 128))

/-- SHA-384 of some bytes. -/
def sha384 (m : List Byte) : List Byte :=
  let p := hashPad m
  (((hashBlocks (p.length / 128) p hashInit).take 6).map fun x => beBytes 8 x.toNat).flatten

/-- HMAC-SHA-384. -/
def hmac384 (key m : List Byte) : List Byte :=
  let k := if 128 < key.length then sha384 key else key
  let k := k ++ List.replicate (128 - k.length) 0
  sha384 ((k.map (· ^^^ 0x5C)) ++ sha384 ((k.map (· ^^^ 0x36)) ++ m))

/-- HKDF-SHA-384 of 48 bytes: salt, input keying material, info (14 R304). -/
def hkdf384 (salt ikm info : List Byte) : List Byte := hmac384 (hmac384 salt ikm) (info ++ [1])

end Sys2Proof.Machine
end

