-- ==== Sys2Proof/Machine/Wire.lean ====
section
/-! DEFINITION. The Ethernet ports: addresses, next hops, sending (14_system_interface R300, R302, R304; log 22). -/

namespace Sys2Proof.Machine

namespace State

def modDev (s : State) (f : Device → Device) : State := { s with dev := f s.dev }
def port (s : State) (n : Nat) : NetPort := s.dev.ports.getD n {}
def modPort (s : State) (n : Nat) (f : NetPort → NetPort) : State :=
  s.modDev fun d => { d with ports := d.ports.put n (f (s.port n)) }

/-- A field of the configuration record in force (14 R300). -/
def cfgField (s : State) (dw hi lo : Nat) : Nat := bits (s.dev.cfg.getD dw 0).toNat hi lo

/-- The configuration is applied (14 R304). -/
def configured (s : State) : Bool := !s.dev.cfg.isEmpty

/-- A port's IPv4 address; 0 for none (14 R300). -/
def portIp4 (s : State) (n : Nat) : Nat := if n == 0 then s.cfgField 10 31 0 else s.cfgField 10 63 32

/-- The provisional link-local address: the modified EUI-64 of the provisional MAC (14 R304). -/
def provisionalIp (s : State) (n : Nat) : Nat :=
  0xFE80 * 2 ^ 112 + n * 2 ^ 48 + s.dev.boardTag / 2 ^ 24 % 256 * 2 ^ 40 + 0xFFFE * 2 ^ 24 + s.dev.boardTag % 2 ^ 24

/-- A port's IPv6 address; 0 for none (14 R300, R304). -/
def portIp6 (s : State) (n : Nat) : Nat :=
  if s.configured then
    let d := fun (i : Nat) => leBytes 8 (s.dev.cfg.getD i 0).toNat
    if n == 0 then bigEndian (d 13 ++ d 14) else bigEndian (d 15 ++ d 16)
  else s.provisionalIp n

/-- A port's MAC address: provisional until the configuration is applied (14 R300, R304). -/
def portMac (s : State) (n : Nat) : Nat :=
  if s.configured then s.cfgField (8 + n) 47 0 else 2 * 2 ^ 40 + n * 2 ^ 32 + s.dev.boardTag % 2 ^ 32

/-- An address is the port's own. -/
def ownIp (s : State) (n : Nat) (v6 : Bool) (ip : Nat) : Bool :=
  ip != 0 && ip == (if v6 then s.portIp6 n else s.portIp4 n)

/-- The port is up and may be used (14 R300, R302). -/
def portLive (s : State) (n : Nat) : Bool :=
  s.dev.power && (s.port n).up && (!s.configured || (n < 2 && bit (s.cfgField 0 8 7) n))

/-- A received frame's VLAN tag is the configured one (14 R300). -/
def vlanOk (s : State) (vid : Option Nat) : Bool :=
  if s.configured && s.cfgField 7 3 3 == 1 then vid == some (s.cfgField 7 15 4) else vid.isNone

/-- A received frame fits: 9,216 bytes with its Ethernet header, tag and check sequence; n are the bytes of its IP
payload (14 R302). -/
def frameFits (vid : Option Nat) (v6 : Bool) (n : Nat) : Bool :=
  decide (18 + (if vid.isSome then 4 else 0) + (if v6 then 40 else 20) + n ≤ 9216)

/-- The next hop to an address: itself on the link, else the gateway or the advertised router (14 R302). A port without an
address of the family sends nothing of it. -/
def nextHop (s : State) (n : Nat) (v6 : Bool) (ip : Nat) : Option Nat :=
  if v6 then
    let len := if n == 0 then s.cfgField 12 22 16 else s.cfgField 12 30 24
    if s.portIp6 n == 0 then none
    else if ip / 2 ^ 118 == 0xFE80 / 64 || ip / 2 ^ (128 - len) == s.portIp6 n / 2 ^ (128 - len) then some ip
    else (s.port n).router
  else
    let len := if n == 0 then s.cfgField 12 5 0 else s.cfgField 12 13 8
    let gw := if n == 0 then s.cfgField 11 31 0 else s.cfgField 11 63 32
    if s.portIp4 n == 0 then none
    else if ip / 2 ^ (32 - len) == s.portIp4 n / 2 ^ (32 - len) then some ip
    else if gw == 0 then none
    else some gw

/-- The MAC of a next hop, where it is known. -/
def hopMac (p : NetPort) (hop : Bool × Nat) : Option Nat := (if hop.1 then p.hops6 else p.hops4).find hop.2

/-- A packet needs no next hop, or the MAC of its next hop is known. -/
def resolved (p : NetPort) (hop : Option (Bool × Nat)) : Bool := hop.all fun h => (hopMac p h).isSome

/-- A packet as it goes out: MAC addresses, the configured VLAN tag, priority and DSCP, and IP addresses (14 R300, R302). -/
def wired (s : State) (n : Nat) (o : Outgoing) : Wired :=
  { port := n
    smac := s.portMac n
    dmac := match o.hop with
      | some h => hopMac (s.port n) h
      | none => o.mac
    vid := if s.configured && s.cfgField 7 3 3 == 1 then some (s.cfgField 7 15 4) else none
    prio := s.cfgField 7 2 0
    ip := o.ip.map fun x => (x.1, if x.1 then s.portIp6 n else s.portIp4 n, x.2)
    dscp := o.ip.map fun _ => s.cfgField 7 21 16
    pkt := o.pkt }

/-- What a port may send is sent, in order (14 R302): not during a pause, not before its next hop is resolved. -/
def pump (s : State) (n : Nat) : State :=
  let p := s.port n
  if !s.portLive n || s.clockOf 0 < p.paused then s
  else
    let (go, stay) := p.out.partition fun o => resolved p o.hop
    if go.isEmpty then s
    else { (s.modPort n fun p => { p with out := stay }) with wire := (go.map (s.wired n)).reverse ++ s.wire }

/-- A packet joins what a port has to send. -/
def sendOut (s : State) (n : Nat) (o : Outgoing) : State := (s.modPort n fun p => { p with out := p.out ++ [o] }).pump n

/-- A next hop is asked for: by ARP, or by neighbour discovery at the solicited-node address (14 R302; RFC 4861). -/
def asking (v6 : Bool) (ip : Nat) : Outgoing :=
  { hop := none, ip := if v6 then some (true, 0xFF02 * 2 ^ 112 + 0x1FF * 2 ^ 24 + ip % 2 ^ 24) else none, pkt := .ask v6 ip }

/-- A packet is sent to an address; the next hop is asked for where it is not known (14 R302). A destination without a
route is unreachable, and the packet is dropped. -/
def transmit (s : State) (n : Nat) (v6 : Bool) (ip : Nat) (pkt : Sent) : State :=
  match s.nextHop n v6 ip with
  | none => s
  | some hop =>
    let p := s.port n
    let h := some (v6, hop)
    let asked := resolved p h || p.out.any fun o => o.hop == h
    let s := if asked then s else s.modPort n fun p => { p with out := p.out ++ [asking v6 hop] }
    s.sendOut n { hop := h, ip := some (v6, ip), pkt := pkt }

/-- A packet of a queue pair goes to its remote address (14 R312). -/
def sendQp (s : State) (qpn : Nat) (pkt : Sent) : State :=
  let q := s.qps.getD qpn { ctx := 0, port := 0 }
  s.transmit q.port q.v6 q.ip pkt

/-- The packets of a message under a path MTU of 4,096 bytes (14 R311). -/
def packetsOf (n : Nat) : Nat := max 1 ((n + 4095) / 4096)

/-- A request of a queue pair, which takes the PSNs of its packets, or of its response's (14 R311; log 22). Where its port has
no route to the remote side, it waits in the queue pair for one (log 24). -/
def requestQp (s : State) (qpn n : Nat) (mk : Nat → Nat → Sent) : State :=
  let q := s.qps.getD qpn { ctx := 0, port := 0 }
  let pkt := mk q.rqpn q.lpsn
  let wait := !q.unsent.isEmpty || (s.nextHop q.port q.v6 q.ip).isNone
  let s := { s with qps := s.qps.upd qpn fun q => { q with
    lpsn := (q.lpsn + packetsOf n) % 2 ^ 24, unsent := if wait then q.unsent ++ [pkt] else q.unsent } }
  if wait then s else s.sendQp qpn pkt

/-- The requests of a queue pair that waited for a route leave, in their order, once there is one (log 24). -/
def sendUnsent (s : State) (qpn : Nat) : State :=
  let q := s.qps.getD qpn { ctx := 0, port := 0 }
  if q.unsent.isEmpty || (s.nextHop q.port q.v6 q.ip).isNone then s
  else { s with qps := s.qps.upd qpn fun q => { q with unsent := [] } }.each q.unsent fun s k => s.sendQp qpn k

/-- The PSN of a request that has not reached the wire, where it goes to a remote queue pair. -/
def requestPsn (rqpn : Nat) (k : Sent) : Option Nat :=
  match k with
  | .rdmaWrite r p _ _ _ => if r == rqpn then some p else none
  | .rdmaRead r p _ _ _ => if r == rqpn then some p else none
  | _ => none

/-- A request of a queue pair with a PSN before some PSN has not left the package. -/
def requestWaits (s : State) (q : QueuePair) (psn : Nat) : Bool :=
  let out := ((s.port q.port).out.filter fun o => o.ip == some (q.v6, q.ip)).map (·.pkt)
  (q.unsent ++ out).any fun k => (requestPsn q.rqpn k).any fun p =>
    let d := (psn + 2 ^ 24 - p) % 2 ^ 24
    d != 0 && decide (d < 2 ^ 23)

end State

end Sys2Proof.Machine
end

