-- ==== Sys2Proof/Machine/Copy.lean ====
section
/-! DEFINITION. The copy engine: COPY, GATHER, SCATTER, MCAST, TCOPY, the batches of CSEAL and CWAIT, the timelines of
TLREAD and TLWAIT, and the engine's own steps (07_memory_model R164, R165; 09_copy_engine_and_streams R189 to R206,
R493; 18 R382 to R385; 20 R403, R404; 21 R426, R427; 23 R450 to R452; 24 R471, R473, R474). -/

namespace Sys2Proof.Machine

namespace State

/-! Timelines (07 R164, R165). -/

/-- A timeline of finished numbers moves on as far as they go. -/
def settleLine : Nat → Nat → List Nat → Nat × List Nat
  | 0, d, fin => (d, fin)
  | n + 1, d, fin => if fin.contains (d + 1) then settleLine n (d + 1) (fin.filter (· != d + 1)) else (d, fin)

/-- A copy command's number is complete. -/
def copyFinished (s : State) (tid num : Nat) : State :=
  s.modTeam tid fun t =>
    let r := settleLine (t.copyFin.length + 1) t.copyDone (t.copyFin ++ [num])
    { t with copyDone := r.1, copyFin := r.2 }

/-- A matrix operation's number is complete. -/
def matFinished (s : State) (tid num : Nat) : State :=
  s.modTeam tid fun t =>
    let r := settleLine (t.matFin.length + 1) t.matDone (t.matFin ++ [num])
    { t with matDone := r.1, matFin := r.2 }

/-- The live fibres that wait for a timeline of a team (24 R474). -/
def timelineWaiters (s : State) (tid : Nat) (mat : Bool) : List FibreId :=
  ((s.groups.map fun x => s.liveLanes x.1).flatten.map (·.2)).filter fun f => match (s.fibre f).status with
    | .blocked (.timeline t m _) => t == tid && m == mat
    | _ => false

/-- The copy engine context of a team is in the error state; what is blocked on the copy timeline or in CWAIT wakes and
raises ENGINE (09 R197, R199, R200). -/
def engineError (s : State) (tid cause : Nat) : State :=
  if (s.team tid).cpErr then s
  else
    let s := s.modTeam tid fun t => { t with cpErr := true, cpCause := cause }
    s.wakeEngine (s.timelineWaiters tid false ++ s.waitersOf tid fun w => match w with
      | .batches _ _ => true
      | _ => false) cause

/-! Arrival barriers of targets (09 R196, R203). -/

/-- A target still is what was sampled: its allocation carries the tag, and it has not ended. -/
def targetLive (s : State) (t : CTarget) : Bool :=
  match t.tid with
  | some tid => (s.team tid).tag == t.tag && !(s.team tid).ended
  | none => false

def modTarget (s : State) (id t : Nat) (f : CTarget → CTarget) : State :=
  { s with cmds := s.cmds.upd id fun c => { c with targets := c.targets.upd t f } }

/-- One atomic update of a target's barrier; without MAGIC, or with an uncorrectable error in it, the issuer's engine
takes the error state (09 R197). -/
def barrierUpdate (s : State) (owner ofs : Nat) (t : CTarget) (f : Barrier → Barrier) : State :=
  if !s.targetLive t then s
  else
    let tid := t.tid.getD 0
    let b := barrierOf (s.barrierAt tid ofs)
    if s.barrierEcc tid ofs then s.engineError owner cECC
    else if b.magic != 0x4142 then s.engineError owner 0x1A
    else s.barrierNoted (s.barrierPut tid ofs (barrierWords (f b))) tid

/-- A command's arrival at a target, with FL in the same step where it settles an error (09 R203; 21 R427). -/
def arriveTarget (s : State) (id t : Nat) (bytes : Nat) (fl : Bool) : State :=
  match s.cmds.find id with
  | none => s
  | some c =>
    match c.targets.find t, c.bar with
    | some x, some ofs =>
      let b := barrierOf (s.barrierAt (x.tid.getD 0) ofs)
      let r := barrierArrive { b with fl := b.fl || fl } bytes
      let ph := if !s.targetLive x || b.magic != 0x4142 || s.barrierEcc (x.tid.getD 0) ofs then none
        else if r.2 == 0 then some b.phn
        else if r.2 == 1 then some ((b.phn + 1) % 128)
        else none
      (s.barrierUpdate c.tid ofs x fun _ => r.1).modTarget id t fun x => { x with arrived := true, phase := ph }
    | _, _ => s

/-- Bytes of a command are no longer expected at a target; FL where they will never land (09 R199, R203). -/
def subtractTarget (s : State) (c : Cmd) (x : CTarget) (bytes : Nat) (fl : Bool) : State :=
  match c.bar with
  | none => s
  | some ofs =>
    s.barrierUpdate c.tid ofs x fun b =>
      let b := { b with fl := b.fl || fl }
      match x.phase with
      | some p => barrierLand b bytes ((b.phn + 1) % 128 == p)
      | none => b

/-- The 64-byte granules of a run of destination offsets (09 R196). -/
def granules (ofs n : Nat) : List Nat := if n == 0 then [] else stepsFrom (ofs / 64) 1 ((ofs + n - 1) / 64 + 1 - ofs / 64)

/-- Bytes reach a target: they land, or are dropped and counted once a granule (09 R196, R200). -/
def landTarget (s : State) (id t : Nat) (ofs : Nat) (bs : List Byte) : State :=
  match s.cmds.find id with
  | none => s
  | some c =>
    match c.targets.find t with
    | none => s
    | some x =>
      let s := s.modTarget id t fun x => { x with sent := x.sent + bs.length }
      if s.targetLive x then (s.spadWrite (x.tid.getD 0) ofs bs).subtractTarget c x bs.length false
      else
        let new := (granules ofs bs.length).filter fun g => !x.lost.contains g
        let s := s.modTarget id t fun x => { x with lost := x.lost ++ new }
        s.modTeam c.tid fun t => { t with cpDrop := min (t.cpDrop + new.length) 65535 }

/-! Access to global rows (06 R140, R146, R148; 09 R197). -/

end State

/-- Where a piece of a row lies. -/
inductive Piece where
  | mem (pa n : Nat)
  /-- a registered remote memory: endpoint, offset from its base -/
  | net (ep ofs n : Nat)
  deriving DecidableEq, Repr

/-- What the engine meets at an element or entry (09 R197). -/
inductive Obstacle where
  | page (va : Nat) (write : Bool)
  | bad
  | ecc
  deriving DecidableEq, Repr

/-- A run of addresses cut at 64 KiB pages. -/
def pagesOf : Nat → Nat → Nat → List (Nat × Nat)
  | 0, _, _ => []
  | _, _, 0 => []
  | k + 1, va, n =>
    let m := min n (65536 - va % 65536)
    (va, m) :: pagesOf k ((va + m) % 2 ^ 64) (n - m)

namespace State

/-- An endpoint entry serves an access: its queue pair is an open one of the context (14 R312). -/
def endpointOk (s : State) (ctx ep ofs n : Nat) : Bool :=
  match (s.ctx ctx).endpoints.find ep with
  | some e => decide (ofs + n ≤ e.bytes) && (s.qps.find e.qpn).any fun q => q.ctx == ctx
  | none => false

/-- Translate every page of a row; `net`: network-window pages are allowed (06 R148). -/
def rowPlaces (s : State) (c : Cmd) (write net : Bool) : List (Nat × Nat) → State × Except Obstacle (List Piece)
  | [] => (s, .ok [])
  | (va, n) :: r =>
    match s.translate c.core c.ctx va .copy false with
    | (s, .fault true) => (s, .error (.page va write))
    | (s, .fault false) => (s, .error .bad)
    | (s, .ecc) => (s, .error .ecc)
    | (s, .net ep ofs) =>
      if net && s.endpointOk c.ctx ep ofs n then
        match s.rowPlaces c write net r with
        | (s, .ok l) => (s, .ok (.net ep ofs n :: l))
        | (s, .error e) => (s, .error e)
      else (s, .error .bad)
    | (s, .ok pa) =>
      match s.rowPlaces c write net r with
      | (s, .ok l) => (s, .ok (.mem pa n :: l))
      | (s, .error e) => (s, .error e)

/-- Bytes read at a place: the home slice, the memory side, or what a remote party answers (06 R140; 14 R311). -/
def placeRead (s : State) (c : Cmd) (p : Piece) : List Byte × State :=
  match p with
  | .mem pa n =>
    if c.pol == 3 then s.sysRead pa n
    else (s.homeBytes pa n, s.each (linesOf pa n) fun s line => s.l2Hint (64 * line) c.res)
  | .net ep ofs n =>
    let e := ((s.ctx c.ctx).endpoints.getD ep ⟨0, 0, 0, 0⟩)
    ((upto n).map (Config.freeByte (2 ^ 64 + s.fresh)),
      { s with fresh := s.fresh + 1 }.requestQp e.qpn n fun q psn => .rdmaRead q psn e.rkey (e.base + ofs) n)

/-- Bytes written at a place. -/
def placeWrite (s : State) (c : Cmd) (p : Piece) (bs : List Byte) : State :=
  match p with
  | .mem pa n =>
    if c.pol == 3 then s.sysWrite pa bs
    else (s.each (linesOf pa n) fun s line => s.l2Hint (64 * line) c.res).homeWrite pa bs
  | .net ep ofs _ =>
    let e := ((s.ctx c.ctx).endpoints.getD ep ⟨0, 0, 0, 0⟩)
    s.requestQp e.qpn bs.length fun q psn => .rdmaWrite q psn e.rkey (e.base + ofs) bs

def placesRead (s : State) (c : Cmd) : List Piece → List Byte × State
  | [] => ([], s)
  | p :: r =>
    let (x, s) := s.placeRead c p
    let (y, s) := s.placesRead c r
    (x ++ y, s)

def placesWrite (s : State) (c : Cmd) : List Piece → List Byte → State
  | [], _ => s
  | .mem pa n :: r, bs => (s.placeWrite c (.mem pa n) (bs.take n)).placesWrite c r (bs.drop n)
  | .net e o n :: r, bs => (s.placeWrite c (.net e o n) (bs.take n)).placesWrite c r (bs.drop n)

/-- An uncorrectable error lies under a place. -/
def placeEcc (s : State) (p : Piece) : Bool :=
  match p with
  | .mem pa n => s.eccBad pa n
  | .net _ _ _ => false

end State

/-- An address of a global side. -/
def globalAddr (x : Int) : Nat := (x % (2 ^ 64 : Nat)).toNat

/-- Unit k of a command: source, destination and bytes; none where it is clipped or skipped (09 R192, R193). -/
def Cmd.unit (c : Cmd) (k : Nat) : Option (Int × Int × Nat) :=
  if c.kind == 1 || c.kind == 2 then
    match c.entries.getD k none with
    | some (a, b) =>
      some ((c.sbase + a * c.shape.getD 1 0 : Nat), (c.dbase + b * c.shape.getD 2 0 : Nat), c.shape.getD 0 0)
    | none => none
  else
    match tensorOf c.shape with
    | some t =>
      match t.element c.sbase c.dbase k with
      | some (a, b) => some (a, b, t.esz)
      | none => none
    | none => none

/-- The units of a command. -/
def Cmd.total (c : Cmd) : Nat :=
  if c.kind == 1 || c.kind == 2 then c.entries.length
  else
    match tensorOf c.shape with
    | some t => t.total
    | none => 0

/-- Every unit of the command is done with. -/
def Cmd.walked (c : Cmd) : Bool :=
  if c.kind == 2 then (upto c.total).all fun r => c.journal.contains r || (c.entries.getD r none).isNone
  else decide (c.total ≤ c.next)

/-- An add of the scatter's mode over the words of a row (09 R194). -/
def addRow (mode : Nat) : List Byte → List Byte → List Byte
  | a0 :: a1 :: a2 :: a3 :: r, b0 :: b1 :: b2 :: b3 :: q =>
    let x := wordOf [a0, a1, a2, a3]
    let y := wordOf [b0, b1, b2, b3]
    let z := if mode == 1 then Float.addF32 x y else x + y
    (upto 4).map (byteOf z) ++ addRow mode r q
  | _, _ => []

namespace State

/-- The bytes of a unit's source (09 R197). -/
def unitRead (s : State) (c : Cmd) (src : Int) (n : Nat) : State × Except Obstacle (List Byte) :=
  if c.srcG then
    match s.rowPlaces c false (c.kind != 4) (pagesOf n (globalAddr src) n) with
    | (s, .error e) => (s, .error e)
    | (s, .ok ps) =>
      if ps.any s.placeEcc then (s, .error .ecc)
      else
        let (bs, s) := s.placesRead c ps
        (s, .ok bs)
  else if s.spadBad c.tid src.toNat n then (s, .error .ecc)
  else (s, .ok (s.spadBytes c.tid src.toNat n))

/-- A multicast whose own member is a target and whose source is its own scratchpad (21 R427). -/
def selfMcast (s : State) (c : Cmd) : Bool :=
  c.kind == 3 && !c.srcG && c.targets.any fun x => x.2.member == (s.team c.tid).member

/-- Bytes of an element of such a multicast as a member gets them: a byte that is source and destination holds an undefined
value, and so does what is read from it (21 R427; log 4). -/
def mcastBytes (s : State) (c : Cmd) (member : Nat) (src dst : Nat) (bs : List Byte) : List Byte :=
  let side := fun (source : Bool) (b : Nat) => match tensorOf c.shape with
    | some t => t.holds source c.sbase c.dbase b
    | none => false
  ((upto bs.length).zip bs).map fun x =>
    if side false (src + x.1) || (member == (s.team c.tid).member && side true (dst + x.1)) then
      Config.freeByte (2 ^ 67 + s.fresh) (dst + x.1)
    else x.2

/-- One unit: both sides are translated before anything is written (09 R194, R198). Bytes for scratchpads go on their
way to every target. -/
def unitDo (s : State) (id : Nat) (c : Cmd) (src dst : Int) (n : Nat) : State × Option Obstacle :=
  if c.dst == 1 then
    match s.rowPlaces c true (c.mode == 0) (pagesOf n (globalAddr dst) n) with
    | (s, .error e) => (s, some e)
    | (s, .ok ps) =>
      match s.unitRead c src n with
      | (s, .error e) => (s, some e)
      | (s, .ok bs) =>
        if c.mode == 0 then (s.placesWrite c ps bs, none)
        else if ps.any s.placeEcc then (s, some .ecc)
        else
          let (old, s) := s.placesRead c ps
          (s.placesWrite c ps (addRow c.mode old bs), none)
  else
    match s.unitRead c src n with
    | (s, .error e) => (s, some e)
    | (s, .ok bs) =>
      if c.dst == 2 then (s.tileWrite c.tid c.tile dst.toNat bs, none)
      else
        let self := s.selfMcast c
        let got := fun (member : Nat) => if self then s.mcastBytes c member src.toNat dst.toNat bs else bs
        let s := if self then { s with fresh := s.fresh + 1 } else s
        (s.each (c.targets.map (·.1)) fun s t => s.modTarget id t fun x => { x with
          queue := x.queue ++ [(dst.toNat, got x.member)] }, none)

/-- The queue pairs that a unit of a command sent requests on are noted with it (07 R165; 14 R311). -/
def notePosts (s t : State) (id : Nat) : State :=
  let used := t.qps.filter fun x => (s.qps.find x.1).map (·.lpsn) != some x.2.lpsn
  if used.isEmpty then t
  else { t with cmds := t.cmds.upd id fun c => { c with posted := used.foldl (fun m x => m.put x.1 x.2.lpsn) c.posted } }

/-- A queue pair that has requests of a command has been closed (14 R312). -/
def postedLost (s : State) (c : Cmd) : Bool := c.posted.any fun x => (s.qps.find x.1).isNone

/-- A request of a command has not left the package, so that the remote endpoint has not acknowledged it (07 R165). -/
def postedWaits (s : State) (c : Cmd) : Bool :=
  c.posted.any fun x => match s.qps.find x.1 with
    | some q => s.requestWaits q x.2
    | none => true

/-- Units in walk order, up to a change of granule, a full landing or an obstacle (09 R196, R198). Rows go one by one. -/
def unitsDo (s : State) (id : Nat) : Nat → Option Nat → State × Option Obstacle
  | 0, _ => (s, none)
  | fuel + 1, gran =>
    match s.cmds.find id with
    | none => (s, none)
    | some c =>
      if c.total ≤ c.next then (s, none)
      else
        let step := fun (s : State) => { s with cmds := s.cmds.upd id fun c => { c with next := c.next + 1 } }
        match c.unit c.next with
        | none => (step s).unitsDo id fuel gran
        | some (a, b, n) =>
          let g := if c.kind == 1 then c.next else globalAddr b / 64
          if gran.isSome && gran != some g then (s, none)
          else
            match s.unitDo id c a b n with
            | (s, some e) => (s, if gran.isSome then none else some e)
            | (t, none) => (step (s.notePosts t id)).unitsDo id fuel (some g)

/-- A target that starts gives its tag (09 R195; 03 R70). -/
def startTarget (s : State) (id t : Nat) : State :=
  match s.cmds.find id with
  | none => s
  | some c =>
    match c.targets.find t with
    | none => s
    | some x =>
      let own := s.team c.tid
      let num := own.gallery * recGsize (s.launch own.launch).words + x.member
      if x.tid.isSome || !s.started own.launch num then s
      else
        match s.teamOf own.launch num with
        | some tid => s.modTarget id t fun x => { x with tid := some tid, tag := (s.team tid).tag }
        | none => s

/-- The oldest piece of a target lands. -/
def landHead (s : State) (id t : Nat) : State :=
  match s.cmds.find id with
  | none => s
  | some c =>
    match c.targets.find t with
    | none => s
    | some x =>
      match x.queue with
      | [] => s
      | (ofs, bs) :: r => (s.modTarget id t fun x => { x with queue := r }).landTarget id t ofs bs

/-- Every piece on its way to a started target lands, after the target's arrival (09 R198, R205). -/
def flushTargets (s : State) (id : Nat) : State :=
  match s.cmds.find id with
  | none => s
  | some c =>
    s.each c.targets fun s (t, x) =>
      if x.tid.isNone then s
      else
        let s := if c.bar.isSome && !x.arrived then s.arriveTarget id t c.actual false else s
        s.each x.queue fun s _ => s.landHead id t

/-- The tile of a TCOPY that is complete or has failed is Ready (10 R218; 24 R471). -/
def tileReady (s : State) (c : Cmd) : State :=
  if c.kind == 4 then s.modTile c.tid c.tile fun x => { x with state := 2 } else s

/-- The error state of a command (09 R199; 21 R427): nothing more is written, its tile is Ready, and its barriers are
settled. -/
def failCmd (s : State) (id cause : Nat) : State :=
  match s.cmds.find id with
  | none => s
  | some c =>
    let s := ((s.engineError c.tid cause).flushTargets id).tileReady c
    let s := { s with cmds := s.cmds.upd id fun c => { c with failed := true, parked := none } }
    match s.cmds.find id with
    | none => s
    | some c =>
      s.each c.targets fun s (t, x) =>
        if x.tid.isNone then s.modTarget id t fun x => { x with queue := [] }
        else s.subtractTarget c x (c.actual - x.sent) true

/-- The command can move: it is not parked, has not failed, and no stop request is pending (09 R198, R199, R205). -/
def cmdRuns (s : State) (c : Cmd) : Bool := c.parked.isNone && !c.failed && !(s.ctx c.ctx).stop && !s.anyOpen c.waits

/-- Two places of rows share a byte: of memory, or of one remote memory. -/
def sharePlace (s : State) (ctx : Nat) (p q : Piece) : Bool :=
  match p, q with
  | .mem a n, .mem b m => shareByte a n b m
  | .net e a n, .net f b m =>
    let x := (s.ctx ctx).endpoints.getD e ⟨0, 0, 0, 0⟩
    let y := (s.ctx ctx).endpoints.getD f ⟨0, 0, 0, 0⟩
    x.qpn == y.qpn && x.rkey == y.rkey && shareByte (x.base + a) n (y.base + b) m
  | _, _ => false

/-- Two destination rows in global memory share a byte where their pages lie, or one of them does not translate yet. -/
def shareRow (s : State) (c : Cmd) (a b : Int) (n : Nat) : Bool :=
  match (s.rowPlaces c true true (pagesOf n (globalAddr a) n)).2, (s.rowPlaces c true true (pagesOf n (globalAddr b) n)).2 with
  | .ok l, .ok m => l.any fun p => m.any fun q => s.sharePlace c.ctx p q
  | _, _ => true

/-- In a plain scatter an entry waits for those of lower rank that write its bytes, by the places that both have in memory
(09 R194; 23 R451). -/
def scatterWaits (s : State) (c : Cmd) (r : Nat) : Bool :=
  c.mode == 0 && (upto r).any fun q => !c.journal.contains q &&
    match c.unit q, c.unit r with
    | some (_, a, n), some (_, b, m) =>
      (decide (a < b + m) && decide (b < a + n)) || (c.dst == 1 && s.shareRow c a b n)
    | _, _ => false

/-- Entry r of a scatter, wholly or not at all (23 R451). -/
def scatterDo (s : State) (id : Nat) (c : Cmd) (r : Nat) : State × Option Obstacle :=
  match c.unit r with
  | none => (s, none)
  | some (a, b, n) =>
    let done := fun (s : State) => { s with cmds := s.cmds.upd id fun c => { c with journal := c.journal ++ [r] } }
    if c.dst == 1 then
      match s.unitDo id c a b n with
      | (t, none) => (done (s.notePosts t id), none)
      | (s, some e) => (s, some e)
    else
      match s.unitRead c a n with
      | (s, .error e) => (s, some e)
      | (t, .ok bs) =>
        let s := s.notePosts t id
        if c.mode != 0 && s.spadBad c.tid b.toNat n then (s, some .ecc)
        else
          let bs := if c.mode == 0 then bs else addRow c.mode (s.spadBytes c.tid b.toNat n) bs
          (done (s.landTarget id 0 b.toNat bs), none)

/-- A command past the clipped elements and skipped entries that stand next (09 R192, R193). -/
def skipClipped : Nat → Cmd → Cmd
  | 0, c => c
  | k + 1, c => if (c.unit c.next).isSome then c else skipClipped k { c with next := c.next + 1 }

/-- The first obstacle that stands before a command, its page faults first for a scatter (09 R197; 23 R451). One whose units
are all done with meets one where a queue pair that has its requests is closed (14 R312). -/
def cmdObstacle (s : State) (id : Nat) (c : Cmd) : State × Option Obstacle :=
  if c.walked then (s, if s.postedLost c then some .bad else none)
  else if c.kind == 2 then
    go s ((upto c.total).filter fun r => !c.journal.contains r && (c.unit r).isSome && !s.scatterWaits c r)
  else
    let c := skipClipped (c.total - c.next) c
    match ({ s with cmds := s.cmds.put id c } : State).unitsDo id 1 none with
    | (s', some e) => (s', some e)
    | _ => (s, none)
where
  /-- The first of the waiting entries that meets one. -/
  go (s : State) : List Nat → State × Option Obstacle
    | [] => (s, none)
    | r :: l =>
      match s.scatterDo id c r with
      | (s', some e) => (s', some e)
      | (_, none) => go s l

end State

/-! Posting. -/

/-- A failed check: its cause and address. -/
abbrev Check := Option (Nat × Nat)

/-- The first check that fails. -/
def firstOf : List Check → Check
  | [] => none
  | some c :: _ => some c
  | none :: r => firstOf r

/-- A check that fails under a condition. -/
def failIf (b : Bool) (cause va : Nat) : Check := if b then some (cause, va) else none

/-- A span of elements outside an allocation of `size` bytes (06 R129). -/
def spanBad (sp : Option (Int × Int)) (size : Nat) : Check :=
  match sp with
  | none => none
  | some (lo, hi) =>
    if lo < 0 then some (cACCESS, globalAddr lo)
    else if (size : Int) < hi then some (cACCESS, globalAddr (hi - 1))
    else none

/-- The checks that a barrier offset meets (09 R203; 06 R129). -/
def barAlign (bar : Option Nat) : Check :=
  match bar with
  | some b => failIf (b % 16 != 0) cALIGN b
  | none => none

def barInside (bar : Option Nat) (size : Nat) : Check :=
  match bar with
  | some b => failIf (decide (size < b + 16)) cACCESS b
  | none => none

namespace State

/-- The command is accepted (18 R383): number, counters, open batch and the local arrival. -/
def acceptCmd (s : State) (iss : Issue) (act : List (Nat × FibreId)) (d : Opnd) (c : Cmd) : State :=
  let n := (s.team c.tid).copyNext
  let s := s.modTeam c.tid fun t => { t with copyNext := t.copyNext + 1 }
  let s := s.each act fun s x => s.modFibre x.2 fun f =>
    let f := { f with openBatch := f.openBatch.put c.tid n }
    if c.kind == 4 then { f with tlc := f.tlc + 1 } else { f with cpc := f.cpc + 1 }
  let (id, s) := s.newId
  let s := { s with cmds := s.cmds.put id { c with num := n } }
  let s := match d with
    | .g g => s.gWriteNow iss.gid g.toNat (BitVec.ofNat 64 n)
    | _ => s
  let me := (s.team c.tid).member
  let s := s.each c.targets fun s (t, x) =>
    if x.member == me && c.bar.isSome then s.arriveTarget id t c.actual false else s
  s.advance iss

/-- The last gates before acceptance: the counters and the 256 places. The engine starts on the command once its release is
done; the fibres' later accesses are not held back (09 R190; 07 R160, R164). -/
def postCmd (s : State) (iss : Issue) (act : List (Nat × FibreId)) (d : Opnd) (c : Cmd) : State :=
  if countFull s act (fun f => if c.kind == 4 then f.tlc else f.cpc) ||
      256 ≤ (s.cmds.filter fun x => x.2.core == c.core && !(s.ctx x.2.ctx).saved).length then s.stall iss
  else s.acceptCmd iss act d { c with waits := s.releaseWaits iss.core (act.map (·.2)) }

/-- The target that is the issuing team itself. -/
def ownTarget (s : State) (tid : Nat) : KV CTarget :=
  [(0, { member := (s.team tid).member, tid := some tid, tag := (s.team tid).tag })]

end State

/-- The common part of a command of a group: its home team and core, its issuers. -/
def baseCmd (s : State) (iss : Issue) (act : List (Nat × FibreId)) (kind pol res : Nat) : Cmd :=
  let tid := s.leadTeam iss.gid
  { kind := kind, tid := tid, ctx := iss.ctx, core := (s.team tid).core, issuers := (State.byFid act).map (·.2),
    mode := 0, pol := pol, res := res, srcG := false, dst := 0, tile := 0, sbase := 0, dbase := 0, shape := [],
    entries := [], bar := none, actual := 0 }

/-- DETAIL of an ENGINE trap (12 R258): ECAUSE, and bit 8 for the matrix engine. -/
def engineDetail (t : Team) (mat : Bool) : Nat := if mat then 256 + t.mx.ecause else t.cpCause

/-- A posting goes on when its checks pass, each with whether what it checks is written (09 R197; 12 R262), and no source
register holds an error, which comes last (06 R130). -/
def checked (s : State) (iss : Issue) (act : List (Nat × FibreId)) (i : Instr) (l : List (Bool × Check))
    (k : State → State) : State :=
  match l.findSome? fun x => x.2.map fun c => (x.1, c) with
  | some (wr, c, va) =>
    s.raise { iss with wr := wr } c (if c == cENGINE then engineDetail (s.team (s.leadTeam iss.gid)) false else 0) va
  | none => s.sourced iss act i (k s)

/-- A descriptor named by the low word of gC: its place, then its contents (09 R493). -/
def withTensor (s : State) (iss : Issue) (act : List (Nat × FibreId)) (c : Dword)
    (k : State → Tensor → List Nat → State) : State :=
  let tid := s.leadTeam iss.gid
  let ofs := bits c.toNat 31 0
  if !recordOpen s act tid then s.stall iss else
  match descBad s tid ofs 128 with
  | some e => s.raise iss e 0 ofs
  | none =>
    let dw := spadDwords s tid ofs 16
    match tensorOf dw with
    | none => s.raise iss cILLEGAL 0 0
    | some t => k s t dw

/-- A stop request parks the group before it posts (09 R205). -/
def unlessStop (s : State) (iss : Issue) (k : State → State) : State :=
  if (s.ctx iss.ctx).stop then s.parkStop iss iss.lanes else k s

/-- COPY (18 R382, R383). -/
def execCopy (o : XE) (s : State) : Host.Outcome State Fault Refusal :=
  issuedMem (.copy o) s false legal fun iss act =>
    unlessStop s iss fun s =>
      let c := s.srcG iss o.c
      withTensor s iss act c fun s t dw =>
        let tid := s.leadTeam iss.gid
        let own := (s.team tid).ownBytes
        let src := (s.srcG iss o.a).toNat
        let dst := (s.srcG iss o.b).toNat
        let sG := !bit o.dirm.toNat 1
        let dG := !bit o.dirm.toNat 0
        let bar := if o.abe then some (bits c.toNat 63 32) else none
        checked s iss act (.copy o)
          [(false, failIf (src % t.esz != 0) cALIGN src), (true, failIf (dst % t.esz != 0) cALIGN dst), (true, barAlign bar),
            (false, if sG then none else spanBad (t.span true src) own),
            (true, if dG then none else spanBad (t.span false dst) own), (true, barInside bar own),
            (false, failIf (s.team tid).cpErr cENGINE 0)] fun s =>
          s.postCmd iss act o.d { baseCmd s iss act 0 o.pol.toNat o.res.toNat with
            srcG := sG, dst := b2n dG, sbase := src, dbase := dst, shape := dw, bar := bar, actual := t.actual
            targets := if dG then [] else s.ownTarget tid }

/-- MCAST (21 R426, R427). -/
def execMcast (o : XE) (s : State) : Host.Outcome State Fault Refusal :=
  issuedMem (.mcast o) s false legal fun iss act =>
    unlessStop s iss fun s =>
      let c := s.srcG iss o.c
      withTensor s iss act c fun s t dw =>
        let tid := s.leadTeam iss.gid
        let own := (s.team tid).ownBytes
        let src := (s.srcG iss o.a).toNat
        let dst := (s.srcG iss o.b).toNat
        let sG := !bit o.dirm.toNat 1
        let bar := if o.abe then some (bits c.toNat 63 32) else none
        let gs := recGsize (s.launch (s.team tid).launch).words
        let named := (upto 4).filter fun i => o.mask.getLsbD i
        checked s iss act (.mcast o)
          [(false, failIf (src % t.esz != 0) cALIGN src), (true, failIf (dst % t.esz != 0) cALIGN dst), (true, barAlign bar),
            (true, failIf (named.any fun i => gs ≤ i) cACCESS 0),
            (false, if sG then none else spanBad (t.span true src) own), (true, spanBad (t.span false dst) own),
            (true, barInside bar own), (false, failIf (s.team tid).cpErr cENGINE 0)] fun s =>
          let tgt := fun (i : Nat) => match s.teamOf (s.team tid).launch ((s.team tid).gallery * gs + i) with
            | some u => (i, ({ member := i, tid := some u, tag := (s.team u).tag } : CTarget))
            | none => (i, { member := i })
          s.postCmd iss act o.d { baseCmd s iss act 3 o.pol.toNat o.res.toNat with
            srcG := sG, sbase := src, dbase := dst, shape := dw, bar := bar, actual := t.actual
            targets := named.map tgt }

/-- The row shape in a pair of g registers: RB, NROW, SRS, DRS; none where it breaks 09 R193. -/
def rowShape (a b : Dword) : Option (Nat × Nat × Nat × Nat) :=
  let rb := bits a.toNat 31 0
  let srs := bits b.toNat 31 0
  let drs := bits b.toNat 63 32
  if rb % 4 != 0 || rb < 4 || 65536 < rb || srs % 4 != 0 || drs % 4 != 0 then none
  else some (rb, bits a.toNat 63 32, srs, drs)

/-- GATHER and SCATTER (20 R403, R404; 23 R450, R451): entries by rank, each with its source and destination row. -/
def postRows (i : Instr) (o : XE) (kind : Nat) (s : State) : Host.Outcome State Fault Refusal :=
  let gP := opNum o.a
  let vI := opNum o.b
  let shape := fun (iss : Issue) => rowShape (s.gReg iss.gid o.n6.toNat) (s.gReg iss.gid (o.n6.toNat + 1))
  issuedMem i s false (whenActive fun iss => (shape iss).isNone) fun iss act =>
    unlessStop s iss fun s =>
      let tid := s.leadTeam iss.gid
      let own := (s.team tid).ownBytes
      let src := (s.gReg iss.gid gP).toNat
      let dst := (s.gReg iss.gid (gP + 1)).toNat
      let sG := !bit o.dirm.toNat 1
      let dG := !bit o.dirm.toNat 0
      let bar := if o.abe then some (s.srcG iss o.c).toNat else none
      let (rb, nrow, srs, drs) := (shape iss).getD (4, 0, 0, 0)
      let clock := s.clockOf iss.core
      let es := (State.byFid act).map fun x =>
        let f := s.fibre x.2
        let x := (f.vAt clock vI).toNat
        let y := (f.vAt clock (vI + 1)).toNat
        if nrow ≤ x then none else if kind == 1 then some (x, y) else some (y, x)
      let live := es.filterMap id
      let rows := fun (base str : Nat) (p : Nat × Nat → Nat) =>
        firstOf (live.map fun e => spanBad (some ((base + p e * str : Nat), (base + p e * str + rb : Nat))) own)
      checked s iss act i
        [(false, failIf (src % 4 != 0) cALIGN src), (true, failIf (dst % 4 != 0) cALIGN dst), (true, barAlign bar),
          (false, if sG then none else rows src srs (·.1)), (true, if dG then none else rows dst drs (·.2)),
          (true, barInside bar own), (false, failIf (s.team tid).cpErr cENGINE 0)] fun s =>
        s.postCmd iss act o.d { baseCmd s iss act kind o.pol.toNat o.res.toNat with
          mode := o.mode.toNat, srcG := sG, dst := b2n dG, sbase := src, dbase := dst, shape := [rb, srs, drs]
          entries := es, bar := bar, actual := rb * live.length, targets := if dG then [] else s.ownTarget tid }

/-- GATHER (20 R403 to R405). -/
def execGather (o : XE) (s : State) : Host.Outcome State Fault Refusal := postRows (.gather o) o 1 s

/-- SCATTER (23 R450 to R452). -/
def execScatter (o : XE) (s : State) : Host.Outcome State Fault Refusal := postRows (.scatter o) o 2 s

/-- An element of a tensor falls at or beyond a tile's last offset, or across the end of a row (10 R217). -/
def tileBad (t : Tensor) (d : Dword) (elements : List Nat) : Bool :=
  let size := tileRows d * tileWidth d
  match t.span false 0 with
  | none => false
  | some (lo, hi) =>
    lo < 0 || (size : Int) < hi ||
      (tileWidth d % t.esz != 0 && elements.any fun k => match t.element 0 0 k with
        | some (_, b) => tileWidth d < b.toNat % tileWidth d + t.esz
        | none => false)

/-- What a TCOPY or TFREE keeps from its first wait for tile n on; once the tile has become Empty it raises TILE (24
R469). -/
def tileWait (n : Nat) : List Dword := [BitVec.ofNat 64 n, 0, 0, 1]

/-- The tile that a TCOPY or TFREE waited for has become Empty (24 R469). -/
def tileDue (s : State) (act : List (Nat × FibreId)) : Bool :=
  (State.engineDue (s.fibre (act.headD (0, ⟨0, 0⟩)).2)).isSome

/-- A tile becomes Empty: every TCOPY and TFREE that waits for it, or has been woken and not yet looked at it, is to raise
TILE (24 R469). -/
def tileEmptied (s : State) (tid n : Nat) : State :=
  let held := ((s.groups.filter fun x => s.leadTeam x.1 == tid).map fun x => s.liveLanes x.1).flatten.map (·.2)
  (s.modTile tid n fun t => { t with state := 0 }).wakeEngine
    (held.filter fun f => (s.fibre f).again == some (tileWait n)) 0

/-- TCOPY (24 R469, R471). -/
def execTcopy (o : XT) (s : State) : Host.Outcome State Fault Refusal :=
  issuedMem (.tcopy o) s false legal fun iss act =>
    if tileDue s act then s.raise iss cTILE 0 0 else
    unlessStop s iss fun s =>
      withTensor s iss act (s.srcG iss o.c) fun s t dw =>
        let tid := s.leadTeam iss.gid
        let src := (s.srcG iss o.a).toNat
        let n := o.tn.toNat
        let ti := s.tile tid n
        checked s iss act (.tcopy o)
          [(false, failIf (src % t.esz != 0) cALIGN src),
            (false, if o.srcs then spanBad (t.span true src) (s.team tid).ownBytes else none),
            (true, failIf (ti.state == 0 || tileBad t ti.desc (upto t.total)) cTILE 0),
            (false, failIf (s.team tid).cpErr cENGINE 0)] fun s =>
          if ti.state != 2 || ti.readers != 0 then s.park iss iss.lanes (.tile n) (some (tileWait n))
          else
            let s' := s.postCmd iss act o.d { baseCmd s iss act 4 o.pol.toNat o.res.toNat with
              srcG := !o.srcs, dst := 2, tile := n, sbase := src, shape := dw, actual := t.actual }
            if (s'.team tid).copyNext == (s.team tid).copyNext then s'
            else s'.modTile tid n fun x => { x with state := 1 }

/-! Batches and timelines. -/

namespace State

/-- A sealed batch is not finished: the copy timeline of a team that it names reads less. The commands of a team that has
completed are complete (09 R201; 02 R30). -/
def batchOpen (s : State) (b : KV Nat) : Bool :=
  b.any fun x => (s.teams.find x.1).isSome && !(s.team x.1).ended && decide ((s.team x.1).copyDone < x.2)

/-- The unfinished sealed batches of a fibre (09 R201). -/
def unfinished (s : State) (f : FibreId) : List (KV Nat) := (s.fibre f).sealed.filter s.batchOpen

end State

/-- CSEAL (18 R384). -/
def execCseal (o : XE) (s : State) : Host.Outcome State Fault Refusal :=
  issued (.cseal o) s false legal fun iss act =>
    let sealing := (act.map (·.2)).filter fun f => !(s.fibre f).openBatch.isEmpty
    if sealing.any fun f => 16 ≤ (s.unfinished f).length then s.park iss iss.lanes (.seal sealing) none
    else
      let s := s.each act fun s x => s.modFibre x.2 fun f =>
        if f.openBatch.isEmpty then f else { f with sealed := s.unfinished x.2 ++ [f.openBatch], openBatch := [] }
      s.advance iss

/-- CWAIT (18 R385). -/
def execCwait (o : XS) (s : State) : Host.Outcome State Fault Refusal :=
  issued (.cwait o) s false legal fun iss act =>
    let n := bits o.imm.toNat 3 0
    let t := s.team (s.leadTeam iss.gid)
    match State.engineDue (s.fibre (act.headD (0, ⟨0, 0⟩)).2) with
    | some x => s.raise iss cENGINE x 0
    | none =>
      if t.cpErr then s.raise iss cENGINE (engineDetail t false) 0
      else if act.all fun x => (s.unfinished x.2).length ≤ n then
        if !s.acquireOpen (act.map (·.2)) then s.stall iss
        else
          let s := s.each act fun s x => s.modFibre x.2 fun f => { f with sealed := s.unfinished x.2 }
          (s.acquire (act.map (·.2))).advance iss
      else s.park iss iss.lanes (.batches n (act.map (·.2))) none

/-- A timeline of a team (07 R164): .mat or .copy. -/
def timeline (t : Team) (mat : Bool) : Nat := if mat then t.matDone else t.copyDone

/-- TLREAD (24 R473). -/
def execTlread (o : XE) (s : State) : Host.Outcome State Fault Refusal :=
  issued (.tlread o) s false legal fun iss act =>
    let t := s.team (s.leadTeam iss.gid)
    s.finish iss act (.tlread o) [(act.headD (0, ⟨0, 0⟩), res1 o.d (BitVec.ofNat 64 (timeline t (o.n6 == 1))))]

/-- TLWAIT (24 R474). A wait keeps its number and the team whose timeline it waits for. -/
def execTlwait (o : XS) (s : State) : Host.Outcome State Fault Refusal :=
  issued (.tlwait o) s false legal fun iss act =>
    let mat := bit o.imm.toNat 0
    let first := s.fibre (act.headD (0, ⟨0, 0⟩)).2
    let (n, tid) := match first.again with
      | some [x, _, y] => (x, y.toNat)
      | _ => (s.srcG iss o.a, s.leadTeam iss.gid)
    let t := s.team tid
    match State.engineDue first with
    | some x => s.raise iss cENGINE x 0
    | none =>
      if if mat then t.mx.err else t.cpErr then s.raise iss cENGINE (engineDetail t mat) 0
      else if n.toNat ≤ timeline t mat then
        if !s.acquireOpen (act.map (·.2)) then s.stall iss else (s.acquire (act.map (·.2))).advance iss
      else s.park iss iss.lanes (.timeline tid mat n.toNat) (some [n, 0, BitVec.ofNat 64 tid])

/-! The engine's own steps. -/

/-- A landing of a copy command at a target, or its next writes to global memory or a tile; of a scatter, entry
`target` (09 R192 to R196; 23 R451). -/
def execCopyLanding (id target : Nat) (s : State) : Host.Outcome State Fault Refusal :=
  let no : Host.Outcome State Fault Refusal := .fault (.notEnabled "COPY_LANDING")
  match s.cmds.find id with
  | none => no
  | some c =>
    if c.kind == 2 then
      if !s.cmdRuns c || c.journal.contains target || (c.unit target).isNone || s.scatterWaits c target then no
      else
        match s.scatterDo id c target with
        | (s, none) => .next s
        | (_, some _) => no
    else if c.dst != 0 then
      if target != 0 || !s.cmdRuns c || c.walked then no
      else
        match s.unitsDo id 64 none with
        | (s, none) => .next s
        | (_, some _) => no
    else
      let s := s.startTarget id target
      match (s.cmds.getD id c).targets.find target with
      | none => no
      | some x =>
        if x.tid.isNone || (c.bar.isSome && !x.arrived) || c.failed then no
        else if !x.queue.isEmpty then .next (s.landHead id target)
        else if !s.cmdRuns c || c.walked then no
        else
          match s.unitsDo id 64 none with
          | (_, some _) => no
          | (s, none) => .next (s.each (((s.cmds.getD id c).targets.getD target x).queue) fun s _ => s.landHead id target)

/-- The arrival of a command at a target's barrier is held up: by the release that the command waits for (07 R164), or by what
its core has sent to the target's core before it on their ordered stream (06 R142; 09 R203). -/
def arrivalHeld (s : State) (id : Nat) (c : Cmd) (x : CTarget) : Bool :=
  match x.tid with
  | some tid => s.anyOpen c.waits || !(s.streamBefore c.core (s.team tid).core id).isEmpty
  | none => false

/-- The arrival at a target has still to come, and is held up: an obstacle waits for it, since what the command has sent lands
first (09 R198, R199). -/
def arrivalsHeld (s : State) (id : Nat) (c : Cmd) : Bool :=
  c.bar.isSome && c.targets.any fun x => !x.2.arrived && arrivalHeld s id c x.2

/-- The arrival of a command at a remote target's barrier, ahead of its landings and after what was sent before it; after an
error, the arrival that settles the target (09 R203; 21 R427). -/
def execBarrierArrival (id target : Nat) (s : State) : Host.Outcome State Fault Refusal :=
  let s := s.startTarget id target
  match s.cmds.find id with
  | none => .fault (.notEnabled "BARRIER_ARRIVAL")
  | some c =>
    match c.targets.find target with
    | none => .fault (.notEnabled "BARRIER_ARRIVAL")
    | some x =>
      if x.tid.isNone || x.arrived || c.bar.isNone || (s.ctx c.ctx).saved || arrivalHeld s id c x then
        .fault (.notEnabled "BARRIER_ARRIVAL")
      else .next (s.arriveTarget id target (if c.failed then 0 else c.actual) c.failed)

/-- A target is done with: every piece has landed or been dropped, or it is settled (21 R427). -/
def targetDone (s : State) (c : Cmd) (x : CTarget) : Bool :=
  if c.bar.isSome then x.arrived && x.queue.isEmpty
  else
    let own := s.team c.tid
    x.queue.isEmpty &&
      (x.tid.isSome || s.started own.launch (own.gallery * recGsize (s.launch own.launch).words + x.member))

/-- A command completes: its counters, its number and its tile (07 R165; 10 R218). What it wrote through a network window has
left the package; the step then stands for the remote endpoint's last acknowledgement (log 24). -/
def execCopyCompletion (id : Nat) (s : State) : Host.Outcome State Fault Refusal :=
  match s.cmds.find id with
  | none => .fault (.notEnabled "COPY_COMPLETION")
  | some c =>
    if c.parked.isNone && !(s.ctx c.ctx).saved && (c.failed || (c.walked && !s.postedWaits c)) &&
        c.targets.all fun x => targetDone s c x.2 then
      let s := { s with cmds := s.cmds.del id }
      let s := s.each c.issuers fun s f => s.modFibre f fun x =>
        if c.kind == 4 then { x with tlc := x.tlc - 1 } else { x with cpc := x.cpc - 1 }
      .next ((if c.failed then s else s.tileReady c).copyFinished c.tid c.num)
    else .fault (.notEnabled "COPY_COMPLETION")

/-- The record of a copy command's page fault (12 R262). -/
def cmdRecord (s : State) (id : Nat) (c : Cmd) (va : Nat) (wr : Bool) : FaultRec :=
  let t := s.team c.tid
  { cause := cPAGE, src := 1, recov := true, wr := wr, held := false, dbl := false, detail := 0, core := c.core,
    team := t.num, fid := (c.issuers.headD ⟨0, 0⟩).fid, id := 0, launchId := s.launchIdOf t.launch, pc := 0,
    va := va % 2 ^ 48, lanes := 0, ctl := BitVec.ofNat 64 c.num, ctx := c.ctx, fibres := [], subject := id }

/-- A command meets a recoverable fault: what stands before it is written, and it parks (09 R197, R198). -/
def execCopyFault (id : Nat) (s : State) : Host.Outcome State Fault Refusal :=
  match s.cmds.find id with
  | none => .fault (.notEnabled "COPY_FAULT")
  | some c =>
    if !s.cmdRuns c || arrivalsHeld s id c then .fault (.notEnabled "COPY_FAULT")
    else
      match s.cmdObstacle id c with
      | (s, some (.page va wr)) =>
        let s := s.flushTargets id
        let (f, s) := s.addRecord c.ctx (cmdRecord s id c va wr)
        .next { s with cmds := s.cmds.upd id fun c => { c with parked := some f } }
      | _ => .fault (.notEnabled "COPY_FAULT")

/-- A command meets an unrecoverable fault or an uncorrectable error in what it reads (09 R197, R199). -/
def execCopyErrorState (id : Nat) (ecc : Bool) (s : State) : Host.Outcome State Fault Refusal :=
  match s.cmds.find id with
  | none => .fault (.notEnabled "COPY_ERROR_STATE")
  | some c =>
    if !s.cmdRuns c || arrivalsHeld s id c then .fault (.notEnabled "COPY_ERROR_STATE")
    else
      match s.cmdObstacle id c with
      | (s, some .bad) => if ecc then .fault (.notEnabled "COPY_ERROR_STATE") else .next (s.failCmd id cACCESS)
      | (s, some .ecc) => if ecc then .next (s.failCmd id cECC) else .fault (.notEnabled "COPY_ERROR_STATE")
      | _ => .fault (.notEnabled "COPY_ERROR_STATE")

end Sys2Proof.Machine
end

