-- ==== Sys2Proof/Machine/Matrix.lean ====
section
/-! DEFINITION. The matrix engine: tiles, accumulator banks, unfold views, drain programs, MLOOP and MMA, and the
sequencer's own steps (05_number_formats R123, R124; 10_matrix_engine R212 to R238; 17 R349, R350, R355; 18 R388, R389;
21 R429 to R431; 24 R469, R470, R472). -/

namespace Sys2Proof.Machine

open Sys2Proof.Float

/-! Tiles (10 R215 to R218). -/

/-- A tile that TDEF, TCOPY, TFREE and a drain destination may take (10 R218). -/
def tileFree (t : Tile) : Bool := t.state == 0 || (t.state == 2 && t.readers == 0)

/-- A tile descriptor that TDEF refuses (10 R215). -/
def tileIllegal (t : Team) (d : Dword) : Bool :=
  t.trows < tileRow0 d + tileRows d || 768 < tileCol d + tileWidth d || tileFmt d == 15 || bits d.toNat 63 44 != 0

/-- TDEF (10 R215, R218; 24 R469, R470). -/
def execTdef (o : XT) (s : State) : Host.Outcome State Fault Refusal :=
  issued (.tdef o) s false (whenActive fun iss => tileIllegal (s.team (s.leadTeam iss.gid)) (s.srcG iss o.a)) fun iss _ =>
    let tid := s.leadTeam iss.gid
    let n := o.tn.toNat
    if tileFree (s.tile tid n) then
      (s.modTile tid n fun _ => { desc := s.srcG iss o.a, state := 2, readers := 0 }).advance iss
    else s.park iss iss.lanes (.tile n) none

/-- TFREE (10 R218; 24 R470). -/
def execTfree (o : XT) (s : State) : Host.Outcome State Fault Refusal :=
  issued (.tfree o) s false legal fun iss act =>
    let tid := s.leadTeam iss.gid
    let n := o.tn.toNat
    let t := s.tile tid n
    if t.state == 0 || tileDue s act then s.raise iss cTILE 0 0
    else if tileFree t then (tileEmptied s tid n).advance iss
    else s.park iss iss.lanes (.tile n) (some (tileWait n))

/-- TSTAT (10 R215; 24 R469). -/
def execTstat (o : XT) (s : State) : Host.Outcome State Fault Refusal :=
  issued (.tstat o) s false legal fun iss act =>
    let t := s.tile (s.leadTeam iss.gid) o.tn.toNat
    let x := t.desc ||| BitVec.ofNat 64 (t.state * 2 ^ 44 + t.readers * 2 ^ 46)
    s.finish iss act (.tstat o) [(act.headD (0, ⟨0, 0⟩), res1 o.d x)]

/-! Unfold views (10 R225, R226). -/

/-- An unfold record that breaks 10 R225. -/
def viewIllegal (dw : List Nat) : Bool :=
  let d := fun (i : Nat) => dw.getD i 0
  let fmt := bits (d 0) 35 32
  fmt < 2 || 10 < fmt || bits (d 0) 63 36 != 0 || bits (d 1) 63 48 != 0 || bits (d 3) 63 48 != 0 ||
    bits (d 1) 15 0 == 0 || bits (d 1) 31 16 == 0 || bits (d 1) 47 32 == 0 || bits (d 1) 47 32 % 8 != 0 ||
    ((upto 6).any fun i => bits (d 2) (8 * i + 7) (8 * i) == 0) || bits (d 3) 15 0 == 0

/-- The bytes of a view's tensor. -/
def viewBytes (dw : List Nat) : Nat :=
  let d := fun (i : Nat) => dw.getD i 0
  bits (d 1) 15 0 * bits (d 1) 31 16 * (bits (d 1) 47 32 / 8) * (1 + Block.mantBits (bits (d 0) 35 32))

/-- UNFSET (10 R225; 24 R472). -/
def execUnfset (o : XT) (s : State) : Host.Outcome State Fault Refusal :=
  issued (.unfset o) s false legal fun iss act =>
    let tid := s.leadTeam iss.gid
    let ofs := (s.srcG iss o.a).toNat
    if !recordOpen s act tid then s.stall iss else
    match descBad s tid ofs 64 with
    | some c => s.raise iss c 0 ofs
    | none =>
      let dw := spadDwords s tid ofs 8
      let base := bits (dw.getD 0 0) 31 0
      if viewIllegal dw then s.raise iss cILLEGAL 0 0
      else if (s.team tid).ownBytes < base + viewBytes dw then s.raise iss cACCESS 0 base
      else
        let set := fun (v : List (Option (List Dword))) =>
          modAt (v ++ List.replicate (4 - v.length) none) o.slot.toNat fun _ => some (dw.map (BitVec.ofNat 64))
        (s.modTeam tid fun t => { t with views := set t.views }).advance iss

/-- A block of A from a view: the bytes, or none where it is zero (10 R226). -/
def viewBlock (dw : List Nat) (i s j : Nat) : Option Nat :=
  let d := fun (i : Nat) => dw.getD i 0
  let h := bits (d 1) 15 0
  let w := bits (d 1) 31 16
  let c := bits (d 1) 47 32
  let k := fun (n : Nat) => bits (d 2) (8 * n + 7) (8 * n)
  let p := bits (d 3) 47 16 + i
  let oh := p / bits (d 3) 15 0
  let ow := p % bits (d 3) 15 0
  let e := 256 * s + 8 * j
  let tap := e / c
  let cb := e % c / 8
  if k 0 * k 1 ≤ tap then none
  else
    let kh := tap / k 1
    let kw := tap % k 1
    let ih : Int := (oh * k 2 + kh * k 4 : Nat) - (k 6 : Int)
    let iw : Int := (ow * k 3 + kw * k 5 : Nat) - (k 7 : Int)
    if ih < 0 || (h : Int) ≤ ih || iw < 0 || (w : Int) ≤ iw then none
    else
      some (bits (d 0) 31 0 + ((ih.toNat * w + iw.toNat) * (c / 8) + cb) * (1 + Block.mantBits (bits (d 0) 35 32)))

/-! Accumulator banks (10 R220, R221). -/

namespace State

/-- The banks that resident teams of a core hold. -/
def banksHeld (s : State) (core : Nat) : List Nat :=
  ((s.teams.filter fun x => x.2.core == core && !x.2.ended && !(s.ctx x.2.ctx).saved).map fun x => x.2.banks.held).flatten

/-- The lowest-numbered free run of n banks (10 R220). -/
def freeRun (s : State) (core n : Nat) : Option Nat :=
  let h := s.banksHeld core
  (upto (17 - n)).find? fun b => (stepsFrom b 1 n).all fun x => !h.contains x

/-- A team takes a run of banks; their contents are undefined (10 R221). -/
def takeBanks (s : State) (tid first n : Nat) : State :=
  let bs := stepsFrom first 1 n
  let s := { s with fresh := s.fresh + 1 }
  s.modTeam tid fun t =>
    { t with banks := {
        held := (upto 16).filter fun b => t.banks.held.contains b || bs.contains b
        gens := bs.foldl (fun m b => m.put b s.fresh) t.banks.gens
        cells := t.banks.cells.filter fun x => !bs.contains (x.1 / 8192) } }

/-- A mask of banks. -/
def bankMask (bs : List Nat) : Dword := bs.foldl (fun m b => m ||| (1#64 <<< b)) 0

/-- An AALLOC waiter completes with its mask: it kept its destination and the next reference (17 R350). -/
def answerBanks (s : State) (gid : Nat) (mask : Dword) : State :=
  let ws := (s.liveLanes gid).filter fun x => match (s.fibre x.2).status with
    | .blocked (.banks _) => true
    | _ => false
  match ws with
  | [] => s
  | x :: _ =>
    let keep := (s.fibre x.2).again.getD []
    let s := s.gWriteNow gid (keep.getD 0 0).toNat mask
    s.each ws fun s x => s.wakeTo x.2 (keep.getD 1 0)

/-- An AALLOC waiter still waits: one whose fibres have ended does not. -/
def bankWaits (s : State) (x : Nat × Nat × Nat) : Bool :=
  (s.liveLanes x.2.2).any fun y => match (s.fibre y.2).status with
    | .blocked (.banks _) => true
    | _ => false

/-- The AALLOC waiters of a core are served strictly in order (17 R350). -/
def serveBanks (s : State) (core : Nat) : State :=
  go ((s.core core).bankQueue.length) (s.modCore core fun c => { c with bankQueue := c.bankQueue.filter s.bankWaits })
where
  /-- The head waiter, as long as it can be served. -/
  go : Nat → State → State
    | 0, s => s
    | k + 1, s =>
      match (s.core core).bankQueue with
      | [] => s
      | (tid, n, gid) :: r =>
        let pop := s.modCore core fun c => { c with bankQueue := r }
        if !(s.team tid).banks.held.isEmpty then go k (pop.answerBanks gid 0)
        else
          match s.freeRun core n with
          | some b => go k ((pop.takeBanks tid b n).answerBanks gid (bankMask (stepsFrom b 1 n)))
          | none => s

/-- Banks of a team become free, and waiters are served (17 R355). -/
def freeBanks (s : State) (tid : Nat) (bs : List Nat) : State :=
  let drop := fun (b : Banks) => { b with
    held := b.held.filter fun x => !bs.contains x
    cells := b.cells.filter fun x => !bs.contains (x.1 / 8192) }
  (s.modTeam tid fun t => { t with banks := drop t.banks }).serveBanks (s.team tid).core

/-- An element of accumulator memory; one never written since the allocation is undefined (10 R221). -/
def accCell (s : State) (tid row col : Nat) : Word :=
  let b := (s.team tid).banks
  b.cells.getD (row * 512 + col) (Config.freeAcc (b.gens.getD (row / 16) 0) (row * 512 + col))

end State

/-- AALLOC (17 R349). While a stop request is pending a waiter joins no queue: it does so at the restore (02 R495). -/
def execAalloc (o : XT) (s : State) : Host.Outcome State Fault Refusal :=
  issued (.aalloc o) s false (whenActive fun iss => let n := (s.srcG iss o.a).toNat; n < 1 || 16 < n) fun iss act =>
    let tid := s.leadTeam iss.gid
    let core := (s.team tid).core
    let n := (s.srcG iss o.a).toNat
    let done := fun (s : State) (x : Dword) => s.finish iss act (.aalloc o) [(act.headD (0, ⟨0, 0⟩), res1 o.d x)]
    match s.freeRun core n, (s.core core).bankQueue.filter s.bankWaits with
    | some b, [] => done (s.takeBanks tid b n) (State.bankMask (stepsFrom b 1 n))
    | _, _ =>
      if !(s.team tid).banks.held.isEmpty then done s 0
      else
        let s := s.park iss iss.lanes (.banks n) (some [BitVec.ofNat 64 (opNum o.d), iss.next])
        if (s.ctx iss.ctx).stop then s
        else s.modCore core fun c => { c with bankQueue := c.bankQueue ++ [(tid, n, iss.gid)] }

/-- The banks that a region lies in. -/
def regionBanks (dw : List Nat) : List Nat :=
  (upto 16).filter fun b => regionRow dw / 16 ≤ b && b ≤ (regionRow dw + regionRows dw - 1) / 16

/-- AFREE (17 R355; 10 R221). -/
def execAfree (o : XT) (s : State) : Host.Outcome State Fault Refusal :=
  issued (.afree o) s false (whenActive fun iss => 2 ^ 16 ≤ (s.srcG iss o.a).toNat) fun iss _ =>
    let tid := s.leadTeam iss.gid
    let bs := (upto 16).filter fun b => (s.srcG iss o.a).getLsbD b
    if bs.any (fun b => !(s.team tid).banks.held.contains b) ||
        s.mats.any fun x => x.2.tid == tid && (regionBanks x.2.dw).any bs.contains then s.raise iss cACCUM 0 0
    else (s.freeBanks tid bs).advance iss

/-! Drain programs (10 R229 to R232). -/

namespace MicroOp

/-- A source that is none (10 R231). -/
def badSource (n : Nat) : Bool := 13 ≤ n && n ≤ 15

/-- An illegal micro-op (10 R230 to R232; 18 R388). -/
def illegal (m : MicroOp) : Bool :=
  0xE < m.op || (!m.writes && m.dst != 0) || badSource m.sa ||
    (if m.readsB then badSource m.sb else m.sb != 0 || m.nb || m.ab) ||
    (if m.readsC then badSource m.sc else m.sc != 0) || (!m.modifiesA && (m.na || m.aa)) ||
    (if m.op == 9 || m.op == 0xE then 5 < m.aux
     else if m.op == 0xC || m.op == 0xD then m.aux == 0 || 15 ≤ m.aux
     else m.aux != 0)

end MicroOp

/-- A program image that is illegal (18 R388). -/
def imageIllegal (ops : List Word) : Bool :=
  let ms := ops.map microOp
  ms.any (·.illegal) || 1 < (ms.filter fun m => m.op == 0xD).length || 1 < (ms.filter fun m => m.op == 0xA).length

/-- DLOAD (10 R229; 18 R388, R389): its reads are .na loads of the lowest-FID active fibre (07 R159, R161). -/
def execDload (o : XT) (s : State) : Host.Outcome State Fault Refusal :=
  issuedMem (.dload o) s false legal fun iss act =>
    let core := (s.team (s.leadTeam iss.gid)).core
    let k := o.slot.toNat
    let n := o.cnt.toNat
    let put := fun (s : State) (d : Drain) =>
      (({ s with badElse := s.badElse.filter fun x => x != Place.drain core (iss.ctx * 64 + k) } : State).modCore core fun c =>
        { c with drains := c.drains.put (iss.ctx * 64 + k) d }).advance iss
    let wait := fun (s : State) => if (s.ctx iss.ctx).stop then s.parkStop iss iss.lanes else s.stall iss
    let busy := s.mats.any fun x => x.2.core == core && x.2.ctx == iss.ctx && bit (x.2.dw.getD 0 0) 30 &&
      bits (x.2.dw.getD 0 0) 29 24 == k
    if n == 0 then if busy then wait s else put s {}
    else
      let va := (s.srcG iss o.a).toNat
      let f := (State.lowest act)
      match s.globalCheck iss .read false 4 (consumes 4) (s.badLane iss (usesOf (.dload o)))
          ((upto (16 + n)).map fun i => (f, va + 4 * i)) with
      | (s, .error m) => s.memFail iss m false
      | (s, .ok ps) =>
        if busy then wait s
        else if !s.accessOpen [f] false || s.lineGate ps || ps.any fun x => s.loadPending f x.2 4 then s.stall iss
        else
          let ws := ps.map fun x => wordOf (s.homeBytes x.2 4)
          let s := s.staleDrop iss.core (ps.map fun x => x.2 / 4)
          if imageIllegal (ws.drop 16) then s.raise iss cILLEGAL 0 0
          else put s { ops := ws.drop 16, consts := ws.take 16 }

/-! The drain (10 R231 to R235). -/

/-- The block of eight lanes converted to a format, with its flags; FTZH as R105 has it (10 R234). -/
def drainEncode (fmt : Nat) (ftzh : Bool) (xs : List Word) : List Byte × Flags × Block.BFlags :=
  if fmt == 1 then ((xs.map fun x => leBytes 4 x.toNat).flatten, noFlags, 0)
  else if 2 ≤ fmt && fmt ≤ 10 then
    let m := Block.mantBits fmt
    let (e, qs, fl) := Block.encode (xs.map fun x => unpack f32 x.toNat) m
    (Block.pack e qs m, noFlags, fl)
  else
    let r := xs.map fun x => Float.fcvt fmt 1 .rne (fmt == 13 || fmt == 14) ftzh x.toNat
    ((r.map fun x => leBytes (drainElement fmt) x.1).flatten, (r.map (·.2)).foldl (· ||| ·) noFlags, 0)

/-- The values of a converted block as binary32 (10 R232). -/
def drainDecode (fmt : Nat) (ftzh : Bool) (bs : List Byte) : List Word :=
  if 2 ≤ fmt && fmt ≤ 10 then
    let m := Block.mantBits fmt
    let (e, qs) := Block.unpack bs m
    qs.map fun q => BitVec.ofNat 32 (Block.valueBits e q m)
  else
    let n := drainElement fmt
    (upto 8).map fun l =>
      let x := leNat ((bs.drop (l * n)).take n)
      if fmt == 1 then BitVec.ofNat 32 x else BitVec.ofNat 32 (Float.fcvt 1 fmt .rne false ftzh x).1

/-- What a block of the drain works on: its cursor state, and its flags so far. -/
structure Lanes where
  d : List (List Word)
  rm : Word
  rs : Word
  buf : List (Nat × List Word)
  /-- the store of the block in a program without RMAX: format and lanes -/
  out : Option (Nat × List Word) := none
  fl : Flags := 0
  bf : Block.BFlags := 0
  trapped : Bool := false
  deriving DecidableEq, Repr

/-- What the micro-ops of a block read besides: ACC, ROWV, COLV and the constants. -/
structure Feeds where
  acc : List Word
  rowv : Word
  colv : List Word
  consts : List Word
  deriving DecidableEq, Repr

/-- binary32, nearest even, subnormals kept (10 R232). -/
def drainEnv : Env := ⟨f32, .rne, false⟩

/-- The eight lanes of a source (10 R231). -/
def laneSource (f : Feeds) (x : Lanes) (n : Nat) : List Word :=
  if n < 8 then x.d.getD n []
  else if n == 8 then f.acc
  else if n == 9 then List.replicate 8 f.rowv
  else if n == 10 then f.colv
  else if n == 11 then List.replicate 8 x.rm
  else if n == 12 then List.replicate 8 x.rs
  else List.replicate 8 (f.consts.getD (n - 16) 0)

/-- The absolute value, then the negation, of a source (10 R230). -/
def modifyLane (neg abs : Bool) (w : Word) : Word :=
  let w := if abs then w &&& 0x7FFFFFFF else w
  if neg then w ^^^ 0x80000000 else w

/-- One lane of an arithmetic micro-op. -/
def laneArith (op : Nat) (a b c : Word) : Res :=
  match op with
  | 1 => fadd drainEnv a.toNat b.toNat
  | 2 => fmul drainEnv a.toNat b.toNat
  | 3 => fma drainEnv a.toNat b.toNat c.toNat
  | 4 => minmax drainEnv false a.toNat b.toNat
  | 5 => minmax drainEnv true a.toNat b.toNat
  | 6 => sfu .exp2 .rne a.toNat
  | 7 => sfu .rcp .rne a.toNat
  | _ => sfu .rsq .rne a.toNat

/-- A running value times a factor, with the flags gathered. -/
def scaleBy (f : Nat) (x : Word) (fl : Flags) : Word × Flags :=
  let r := fmul drainEnv x.toNat f
  (BitVec.ofNat 32 r.1, fl ||| r.2)

/-- The row buffer rescaled (10 R233). -/
def scaleBuf (f : Nat) : List (Nat × List Word) → Flags → List (Nat × List Word) × Flags
  | [], fl => ([], fl)
  | (b, ws) :: r, fl =>
    let q := ws.foldl (fun (a : List Word × Flags) w =>
      let y := scaleBy f w a.2
      (a.1 ++ [y.1], y.2)) ([], fl)
    let t := scaleBuf f r q.2
    ((b, q.1) :: t.1, t.2)

/-- RMAX (10 R233). -/
def drainMax (x : Lanes) (a : List Word) : Lanes :=
  let m := a.foldl (fun (m : Nat × Flags) w =>
    let r := minmax drainEnv true m.1 w.toNat
    (r.1, m.2 ||| r.2)) (x.rm.toNat, x.fl)
  if ltV false (unpack f32 x.rm.toNat) (unpack f32 m.1) then
    let d := fsub drainEnv x.rm.toNat m.1
    let f := sfu .exp2 .rne d.1
    let rs := scaleBy f.1 x.rs (m.2 ||| d.2 ||| f.2)
    let b := scaleBuf f.1 x.buf rs.2
    { x with rm := BitVec.ofNat 32 m.1, rs := rs.1, buf := b.1, fl := b.2 }
  else { x with fl := m.2 }

/-- RSUM (10 R233). -/
def drainSum (x : Lanes) (a : List Word) : Lanes :=
  a.foldl (fun x w =>
    let r := fadd drainEnv x.rs.toNat w.toNat
    { x with rs := BitVec.ofNat 32 r.1, fl := x.fl ||| r.2 }) x

/-- One micro-op on a block (10 R232 to R234). `rescale`: the program holds an RMAX. -/
def microStep (f : Feeds) (rescale ftzh : Bool) (blk : Nat) (x : Lanes) (m : MicroOp) : Lanes :=
  let a := (laneSource f x m.sa).map (modifyLane m.na m.aa)
  let b := (laneSource f x m.sb).map (modifyLane m.nb m.ab)
  let c := laneSource f x m.sc
  let setD := fun (x : Lanes) (v : List Word) => { x with d := modAt x.d m.dst fun _ => v }
  let cmp := (a.zip b).map fun p => Float.fcmp m.aux p.1.toNat p.2.toNat
  let cfl := (cmp.map (·.2)).foldl (· ||| ·) x.fl
  if m.op == 0 then setD x a
  else if m.op ≤ 8 then
    let r := (upto 8).map fun l => laneArith m.op (a.getD l 0) (b.getD l 0) (c.getD l 0)
    setD { x with fl := (r.map (·.2)).foldl (· ||| ·) x.fl } (r.map fun y => BitVec.ofNat 32 y.1)
  else if m.op == 9 then
    let old := x.d.getD m.dst []
    setD { x with fl := cfl } ((upto 8).map fun l => if (cmp.getD l (false, 0)).1 then c.getD l 0 else old.getD l 0)
  else if m.op == 0xA then
    let x := drainMax x a
    setD x (List.replicate 8 x.rm)
  else if m.op == 0xB then drainSum x a
  else if m.op == 0xC then
    let e := drainEncode m.aux ftzh a
    setD { x with fl := x.fl ||| e.2.1, bf := x.bf ||| e.2.2 } (drainDecode m.aux ftzh e.1)
  else if m.op == 0xD then
    if rescale then { x with buf := x.buf ++ [(blk, a)] }
    else
      let e := drainEncode m.aux ftzh a
      { x with out := some (m.aux, a), fl := x.fl ||| e.2.1, bf := x.bf ||| e.2.2 }
  else { x with fl := cfl, trapped := x.trapped || cmp.any (·.1) }

namespace State

/-- The bytes of a tile's linear offsets, as rows and byte columns of the tile store (10 R217). -/
def tilePlaces (d : Dword) (ofs n : Nat) : List (Nat × Nat) :=
  (upto n).map fun i => (tileRow0 d + (ofs + i) / tileWidth d, tileCol d + (ofs + i) % tileWidth d)

/-- The element e of a tile of a vector format: its size and places (10 R228). -/
def elementPlaces (d : Dword) (e : Nat) : List (Nat × Nat) :=
  tilePlaces d (e * drainElement (tileFmt d)) (drainElement (tileFmt d))

/-- A binary16 or bfloat16 value as binary32. DESIGN CHOICE (log 37): a NaN keeps its sign, its quiet bit and its payload, so
that a signalling one raises NV where it is an operand (05 R104). -/
def widen (fmt : Nat) (ftzh : Bool) (x : Nat) : Word :=
  let nan := if fmt == 11 then bits x 14 10 == 31 && bits x 9 0 != 0 else bits x 14 7 == 255 && bits x 6 0 != 0
  if !nan then BitVec.ofNat 32 (Float.fcvt 1 fmt .rne false ftzh x).1
  else if fmt == 11 then BitVec.ofNat 32 (bits x 15 15 * 2 ^ 31 + 255 * 2 ^ 23 + bits x 9 0 * 2 ^ 13)
  else BitVec.ofNat 32 (bits x 15 0 * 2 ^ 16)

/-- A tile's element as binary32, from its linear offset (10 R228; 05 R104, R105). -/
def tileElement (s : State) (tid n e : Nat) (ftzh : Bool) : Word :=
  let d := (s.tile tid n).desc
  let bs := ((elementPlaces d e).map fun p => s.tileRun tid n p.1 p.2 1).flatten
  if tileFmt d == 1 then wordOf bs else widen (tileFmt d) ftzh (leNat bs)

/-- FTZH of an operation (05 R105). -/
def ftzhOf (m : MatOp) : Bool := bit m.fpctl 3

/-- What a block of a drain reads (10 R231). -/
def feedsOf (s : State) (m : MatOp) : Feeds :=
  let d0 := m.dw.getD 0 0
  let cols := (upto 8).map fun l => 8 * m.blk + l
  { acc := cols.map fun c => s.accCell m.tid (regionRow m.dw + m.row) (regionCol m.dw + c)
    rowv := if bit d0 21 then s.tileElement m.tid (bits d0 15 11) m.row (ftzhOf m) else 0
    colv := if bit d0 22 then cols.map fun c => s.tileElement m.tid (bits d0 20 16) c (ftzhOf m) else List.replicate 8 0
    consts := (drainOf s m.core m.ctx (bits d0 29 24)).consts }

def holdsRmax (ms : List MicroOp) : Bool := ms.any fun m => m.op == 0xA

/-- The cause for which a block stops (10 R236): ARITH on an enabled flag, DRAIN on a TRAPIF. DESIGN CHOICE (log 37): where
one block meets several events, an uncorrectable error comes first, then an enabled exception, then a TRAPIF; the spec does
not say which one MXSTAT records. -/
def blockStop (m : MatOp) (x : Lanes) : Option Nat :=
  if m.ignoring then none
  else if x.fl &&& BitVec.ofNat 5 (bits m.fpctl 8 4) != 0 || x.bf &&& BitVec.ofNat 3 (bits m.fpctl 11 9) != 0 then
    some cARITH
  else if x.trapped then some cDRAIN
  else none

/-- What comes next in a block, unless it has stopped (10 R235, R236). -/
def unlessStopped (m : MatOp) (f : Lanes → Lanes) (x : Lanes) : Lanes := if (blockStop m x).isSome then x else f x

/-- A block's micro-ops in order, up to one that stops it, with the conversions at the row's end (10 R234 to R236). -/
def blockRun (s : State) (m : MatOp) : Lanes :=
  let ms := s.drainOps m
  let x : Lanes := { d := m.d, rm := m.rm, rs := m.rs, buf := m.buf }
  let feeds := s.feedsOf m
  let x := ms.foldl (fun x op => unlessStopped m (microStep feeds (holdsRmax ms) (ftzhOf m) m.blk · op) x) x
  if m.blk + 1 == regionBlocks m.dw && holdsRmax ms then
    match storeFormat ms with
    | some f => x.buf.foldl (fun x p => unlessStopped m (fun x =>
        let e := drainEncode f (ftzhOf m) p.2
        { x with fl := x.fl ||| e.2.1, bf := x.bf ||| e.2.2 }) x) x
    | none => x
  else x

/-- A physical address under an operation's lease (10 R228). -/
def leased (m : MatOp) (va : Nat) : Nat := m.lease.getD (va / 65536) 0 + va % 65536

/-- Bytes written to global memory through a lease, page by page. -/
def leaseWrite (s : State) (m : MatOp) (va : Nat) (bs : List Byte) : State :=
  go s (pagesOf bs.length va bs.length) bs
where
  /-- Each page's run in turn. -/
  go (s : State) : List (Nat × Nat) → List Byte → State
    | [], _ => s
    | (a, n) :: r, bs => go (s.homeWrite (leased m a) (bs.take n)) r (bs.drop n)

/-- A converted block is stored at its place (10 R234). -/
def storeBlock (s : State) (m : MatOp) (blk fmt : Nat) (ws : List Word) : State :=
  let bs := (drainEncode fmt (ftzhOf m) ws).1
  let col := blk * drainBlock fmt
  let at_ := bits (m.dw.getD 4 0) 47 0 + m.row * bits (m.dw.getD 5 0) 31 0 + col
  match bits (m.dw.getD 3 0) 1 0 with
  | 0 =>
    let n := bits (m.dw.getD 3 0) 6 2
    let d := (s.tile m.tid n).desc
    s.tilePut m.tid n true (tileRow0 d + m.row) (tileCol d + col) bs
  | 1 => s.spadWrite m.tid at_ bs
  | _ => s.leaseWrite m at_ bs

/-- The stores at a row's end: the row buffer, then RM and RS (10 R234). -/
def storeRowEnd (s : State) (m : MatOp) (x : Lanes) (fmt : Option Nat) : State :=
  let s := match fmt with
    | some f => s.each x.buf fun s p => s.storeBlock m p.1 f p.2
    | none => s
  if bit (m.dw.getD 0 0) 31 then
    let bs := leBytes 4 x.rm.toNat ++ leBytes 4 x.rs.toNat
    let at_ := bits (m.dw.getD 6 0) 47 0 + 8 * m.row
    if bit (m.dw.getD 6 0) 48 then s.leaseWrite m at_ bs else s.spadWrite m.tid at_ bs
  else s

/-- The operation is the one of its team that may move: the first incomplete one, not stopped, of a context that is not
saved, whose release is done (10 R213, R236, R238; 07 R160, R164). -/
def matHead (s : State) (m : MatOp) : Bool :=
  !m.stopped && !(s.ctx m.ctx).saved && s.matFirst m && !s.anyOpen m.waits

/-- Every step is done. -/
def stepped (m : MatOp) : Bool := decide (m.steps ≤ m.step)

/-- The operation drains, and has rows left to drain. -/
def draining (m : MatOp) : Bool := stepped m && bit (m.dw.getD 0 0) 30 && decide (m.row < regionRows m.dw)

def modMat (s : State) (id : Nat) (f : MatOp → MatOp) : State := { s with mats := s.mats.upd id f }

/-- The mantissa width of A's blocks. -/
def widthA (s : State) (m : MatOp) : Nat :=
  Block.mantBits (if viewA m then bits (m.view.getD 0 0) 35 32 else tileFmt (s.tile m.tid (tileA m)).desc)

def widthB (s : State) (m : MatOp) : Nat := Block.mantBits (tileFmt (s.tile m.tid (tileB m)).desc)

/-- Where a step's block of a tile starts: tile row and byte column (10 R223). `k`: the half of DW2 of the operand. -/
def blockPlace (m : MatOp) (d : Dword) (k i j w : Nat) : Nat × Nat :=
  let inc := fun (n : Nat) => sext 16 (bits (m.dw.getD 2 0) (16 * n + 15) (16 * n))
  let row : Int := (tileRow0 d + i : Nat) + m.step * inc (2 * k)
  let col : Int := (tileCol d + j * (1 + w) : Nat) + m.step * inc (2 * k + 1)
  (row.toNat, col.toNat)

/-- The A block of a region row in a step: scale code and mantissas, with the mantissa width (10 R223, R226). -/
def blockA (s : State) (m : MatOp) (i j : Nat) : (Nat × List Nat) × Nat :=
  let w := s.widthA m
  if viewA m then
    match viewBlock m.view i m.step j with
    | some ofs => (Block.unpack (s.spadBytes m.tid ofs (1 + w)) w, w)
    | none => ((0, []), w)
  else
    let p := blockPlace m (s.tile m.tid (tileA m)).desc 0 i j w
    (Block.unpack (s.tileRun m.tid (tileA m) p.1 p.2 (1 + w)) w, w)

/-- The B block of a region column in a step (10 R223). -/
def blockB (s : State) (m : MatOp) (n j : Nat) : (Nat × List Nat) × Nat :=
  let w := s.widthB m
  let p := blockPlace m (s.tile m.tid (tileB m)).desc 1 n j w
  (Block.unpack (s.tileRun m.tid (tileB m) p.1 p.2 (1 + w)) w, w)

/-! Uncorrectable errors (10 R236; log 37). -/

/-- An error in a 64-bit granule of a run of the tile store (06 R150). -/
def tileBad (s : State) (tid row col n : Nat) : Bool :=
  let a := row * 768 + col
  s.badElse.any fun p => match p with
    | .tile t b => t == tid && decide (a / 8 ≤ b / 8) && decide (b / 8 ≤ (a + n - 1) / 8)
    | _ => false

/-- An error in the 64-bit granule of an accumulator element (06 R150). -/
def accBad (s : State) (tid row col : Nat) : Bool :=
  s.badElse.any fun p => match p with
    | .acc t c => t == tid && c / 2 == (row * 512 + col) / 2
    | _ => false

/-- The next K-step meets an error: in A's or B's blocks, or in an element that its promotion reads. -/
def stepBad (s : State) (m : MatOp) : Bool :=
  let rows := upto (regionRows m.dw)
  let cols := upto (8 * regionBlocks m.dw)
  let badA := rows.any fun i => (upto 32).any fun j =>
    if viewA m then
      match viewBlock m.view i m.step j with
      | some ofs => s.spadBad m.tid ofs (1 + s.widthA m)
      | none => false
    else
      let p := blockPlace m (s.tile m.tid (tileA m)).desc 0 i j (s.widthA m)
      s.tileBad m.tid p.1 p.2 (1 + s.widthA m)
  let badB := cols.any fun n => (upto 32).any fun j =>
    let p := blockPlace m (s.tile m.tid (tileB m)).desc 1 n j (s.widthB m)
    s.tileBad m.tid p.1 p.2 (1 + s.widthB m)
  let ends := (m.step + 1) % m.interval == 0 || m.step + 1 == m.steps
  let badAcc := ends && !(bit (m.dw.getD 0 0) 23 && !m.promoted) &&
    rows.any fun i => cols.any fun n => s.accBad m.tid (regionRow m.dw + i) (regionCol m.dw + n)
  badA || badB || badAcc

/-- The next block of the drain meets an error: in its program, the accumulators, or ROWV's and COLV's elements. -/
def blockBad (s : State) (m : MatOp) : Bool :=
  let d0 := m.dw.getD 0 0
  let ms := s.drainOps m
  let cols := (upto 8).map fun l => 8 * m.blk + l
  let badAt := fun (n e : Nat) =>
    (elementPlaces (s.tile m.tid n).desc e).any fun p => s.tileBad m.tid p.1 p.2 1
  s.badElse.contains (.drain m.core (m.ctx * 64 + bits d0 29 24)) ||
    (ms.any (·.uses 8) && cols.any fun c => s.accBad m.tid (regionRow m.dw + m.row) (regionCol m.dw + c)) ||
    (ms.any (·.uses 9) && badAt (bits d0 15 11) m.row) || (ms.any (·.uses 10) && cols.any (badAt (bits d0 20 16)))

/-- The K-step of R123 on every element of the region, row by row. -/
def stepParts (s : State) (m : MatOp) : List FVal :=
  let as := (upto (regionRows m.dw)).map fun i => (upto 32).map fun j => s.blockA m i j
  let bs := (upto (8 * regionBlocks m.dw)).map fun n => (upto 32).map fun j => s.blockB m n j
  let old := if m.parts.isEmpty then List.replicate (as.length * bs.length) Block.accZero else m.parts
  let prods := (as.map fun a => bs.map fun b =>
    (a.zip b).map fun p => Block.blockProduct p.1.1.1 p.2.1.1 p.1.1.2 p.2.1.2 p.1.2 p.2.2).flatten
  (old.zip prods).map fun p => Block.kStep p.1 p.2

/-- The promotions of an interval, over the whole region (05 R124; 10 R212, R224). -/
def promoteAll (s : State) (m : MatOp) (parts : List FVal) : State :=
  let cols := 8 * regionBlocks m.dw
  s.each ((upto parts.length).zip parts) fun s p =>
    let row := regionRow m.dw + p.1 / cols
    let col := regionCol m.dw + p.1 % cols
    let old := if bit (m.dw.getD 0 0) 23 && !m.promoted then 0 else s.accCell m.tid row col
    let s := { s with badElse := s.badElse.filter fun x => x != Place.acc m.tid (row * 512 + col) }
    s.modTeam m.tid fun t => { t with banks := { t.banks with
      cells := t.banks.cells.put (row * 512 + col) (Block.promote old p.2) } }

end State

/-- The array completes a K-step, and promotes at the end of an interval and of the last step (10 R212). After a stop
request only an interval that has begun goes on (10 R238). -/
def execKStep (id : Nat) (s : State) : Host.Outcome State Fault Refusal :=
  match s.mats.find id with
  | none => .fault (.notEnabled "K_STEP")
  | some m =>
    if !s.matHead m || State.stepped m || ((s.ctx m.ctx).stop && m.step == m.first) || s.stepBad m then
      .fault (.notEnabled "K_STEP")
    else
      let parts := s.stepParts m
      let s := { s with fresh := s.fresh + 1 }
      let n := m.step + 1
      if n % m.interval == 0 || n == m.steps then
        .next ((s.promoteAll m parts).modMat id fun m => { m with
          step := n, first := n, parts := [], promoted := true, ignoring := false })
      else .next (s.modMat id fun m => { m with step := n, parts := parts })

/-- A block of the drain commits: flags, d0 to d7, RM and RS, the row buffer and the stores together (10 R235, R236). -/
def execDrainBlockCommit (id : Nat) (s : State) : Host.Outcome State Fault Refusal :=
  match s.mats.find id with
  | none => .fault (.notEnabled "DRAIN_BLOCK_COMMIT")
  | some m =>
    let x := s.blockRun m
    if !s.matHead m || !State.draining m || (s.ctx m.ctx).stop || s.blockBad m || (State.blockStop m x).isSome then
      .fault (.notEnabled "DRAIN_BLOCK_COMMIT")
    else
      let fmt := storeFormat (s.drainOps m)
      let s := s.modTeam m.tid fun t => { t with mx := { t.mx with flg := t.mx.flg ||| x.fl, bflg := t.mx.bflg ||| x.bf } }
      let s := match x.out with
        | some (f, ws) => s.storeBlock m m.blk f ws
        | none => s
      if m.blk + 1 == regionBlocks m.dw then
        .next ((s.storeRowEnd m x fmt).modMat id fun m => { m with
          d := x.d, rm := 0xFF800000, rs := 0, buf := [], row := m.row + 1, blk := 0, ignoring := false })
      else .next (s.modMat id fun m => { m with
        d := x.d, rm := x.rm, rs := x.rs, buf := x.buf, blk := m.blk + 1, ignoring := false })

namespace State

/-- An operation completes or is abandoned: tiles, leases and number; TLC counts down (10 R218, R228; 07 R165). -/
def matEnd (s : State) (id : Nat) : State :=
  match s.mats.find id with
  | none => s
  | some m =>
    let s := { s with mats := s.mats.del id }
    let s := s.each (matReads m.dw) fun s n => s.modTile m.tid n fun t => { t with readers := t.readers - 1 }
    let s := match matDest m.dw with
      | some n => s.modTile m.tid n fun t => { t with state := 2 }
      | none => s
    let s := s.each m.issuers fun s f => s.modFibre f fun x => { x with tlc := x.tlc - 1 }
    s.matFinished m.tid m.num

/-- MXSTAT records a stop, and what is blocked on the matrix timeline wakes and raises ENGINE (10 R236, R237). -/
def matStopped (s : State) (id : Nat) (m : MatOp) (cause srow sblk : Nat) (sph : Bool) : State :=
  let s := s.modMat id fun m => { m with stopped := true, step := m.first, parts := [] }
  let waits := if (s.team m.tid).mx.err then [] else s.timelineWaiters m.tid true
  let s := s.wakeEngine waits (256 + cause)
  s.modTeam m.tid fun t => { t with mx := { t.mx with
    err := true, stp := true, ecause := cause, srow := srow, sblk := sblk, sph := sph } }

end State

/-- A matrix operation completes (07 R165). -/
def execMatrixCompletion (id : Nat) (s : State) : Host.Outcome State Fault Refusal :=
  match s.mats.find id with
  | none => .fault (.notEnabled "MATRIX_COMPLETION")
  | some m =>
    if s.matHead m && State.stepped m && !State.draining m then .next (s.matEnd id)
    else .fault (.notEnabled "MATRIX_COMPLETION")

/-- A matrix operation stops: on an uncorrectable error in what it reads, or at a drain block that traps (10 R236). The row
and block of a stop in the K-steps are not stated: free values (log 19). -/
def execMatrixStop (id : Nat) (ecc : Bool) (s : State) : Host.Outcome State Fault Refusal :=
  match s.mats.find id with
  | none => .fault (.notEnabled "MATRIX_STOP")
  | some m =>
    if !s.matHead m then .fault (.notEnabled "MATRIX_STOP")
    else if ecc then
      if State.draining m then
        if s.blockBad m then .next (s.matStopped id m cECC m.row m.blk true) else .fault (.notEnabled "MATRIX_STOP")
      else if State.stepped m || !s.stepBad m then .fault (.notEnabled "MATRIX_STOP")
      else
        let (a, s) := s.freeVal
        let (b, s) := s.freeVal
        .next (s.matStopped id m cECC (a.toNat % 256) (b.toNat % 64) false)
    else if !State.draining m || s.blockBad m then .fault (.notEnabled "MATRIX_STOP")
    else
      let x := s.blockRun m
      match State.blockStop m x with
      | none => .fault (.notEnabled "MATRIX_STOP")
      | some c =>
        let s := if c == cARITH then
            s.modTeam m.tid fun t => { t with mx := { t.mx with flg := t.mx.flg ||| x.fl, bflg := t.mx.bflg ||| x.bf } }
          else s
        .next (s.matStopped id m c m.row m.blk true)

/-! MLOOP and MMA (10 R227, R228; 21 R429, R430). -/

/-- Rows of signed steps that leave a range: the first row, the increment, the steps, the rows, the bounds. -/
def stepsOutside (start : Nat) (inc : Int) (steps len lo hi : Nat) : Bool :=
  let first : Int := start
  let last : Int := start + ((steps - 1 : Nat) : Int) * inc
  let low := if last < first then last else first
  let high := if last < first then first else last
  low < (lo : Int) || (hi : Int) < high + len

/-- The blocks of an operand leave their tile: rows, byte columns over every step (10 R223, R227). -/
def operandOutside (d : Dword) (rows : Nat) (rowI colI : Int) (steps : Nat) : Bool :=
  let w := Block.mantBits (tileFmt d)
  stepsOutside (tileRow0 d) rowI steps rows (tileRow0 d) (tileRow0 d + tileRows d) ||
    stepsOutside (tileCol d) colI steps (32 * (1 + w)) (tileCol d) (tileCol d + tileWidth d)

/-- A tile that holds blocks. -/
def isBfp (fmt : Nat) : Bool := 2 ≤ fmt && fmt ≤ 10

/-- A row or column vector tile is of a wrong format or too short (10 R227, R228). -/
def vectorBad (d : Dword) (n : Nat) : Bool :=
  let f := tileFmt d
  !(f == 1 || f == 11 || f == 12) || tileRows d * tileWidth d < n * drainElement f

/-- A view reaches outside its tensor: the window of some region row's output pixel begins beyond the tensor's last row
or column, where no tap can lie in it. DEDUCED (log 37): a window that begins before the tensor, or ends after it, only
reads padding there (10 R226). -/
def viewOutside (dw : List Nat) (rows : Nat) : Bool :=
  let d := fun (i : Nat) => dw.getD i 0
  let k := fun (n : Nat) => bits (d 2) (8 * n + 7) (8 * n)
  (upto rows).any fun i =>
    let p := bits (d 3) 47 16 + i
    decide (bits (d 1) 15 0 + k 6 ≤ p / bits (d 3) 15 0 * k 2) || decide (bits (d 1) 31 16 + k 7 ≤ p % bits (d 3) 15 0 * k 3)

/-- The reserved fields of an operand record (10 R222). -/
def recordReserved (dw : List Nat) : Bool :=
  let d := fun (i : Nat) => dw.getD i 0
  bits (d 0) 63 54 != 0 || bits (d 1) 63 28 != 0 || d 7 != 0 ||
    (bit (d 0) 30 && (bits (d 3) 63 7 != 0 || bits (d 4) 63 48 != 0 || bits (d 5) 63 32 != 0 || bits (d 6) 63 49 != 0))

namespace State

/-- The steps of an operation. -/
def stepsOf (dw : List Nat) (mma : Bool) : Nat := if mma then 1 else bits (dw.getD 0 0) 47 32

/-- The runs of global addresses that the drain writes: first address and bytes (10 R227). -/
def drainRuns (dw : List Nat) (fmt : Option Nat) : List (Nat × Nat) :=
  let d0 := dw.getD 0 0
  let rows := regionRows dw
  (if bits (dw.getD 3 0) 1 0 == 2 && fmt.isSome then
    (upto rows).map fun i => (bits (dw.getD 4 0) 47 0 + i * bits (dw.getD 5 0) 31 0, rowBytes dw fmt) else []) ++
    if bit d0 31 && bit (dw.getD 6 0) 48 then [(bits (dw.getD 6 0) 47 0, 8 * rows)] else []

/-- The lease over some pages, or the failure of one (10 R227, R228). -/
def leaseAll (s : State) (core ctx : Nat) : List Nat → State × Except Move (KV Nat)
  | [] => (s, .ok [])
  | p :: r =>
    match s.translate core ctx (p * 65536) .write true with
    | (s, .ok pa) =>
      match s.leaseAll core ctx r with
      | (s, .ok l) => (s, .ok (l.put p pa))
      | (s, .error m) => (s, .error m)
    | (s, .ecc) =>
      match s.leaseAll core ctx r with
      | (s, .ok _) => (s, .error (.trap cECC (p * 65536)))
      | (s, .error m) => (s, .error m)
    | (s, .fault true) => (s, .error (.page (p * 65536)))
    | (s, _) => (s, .error (.trap cACCESS (p * 65536)))

/-- The global pages that an operation's drain writes (10 R227, R228). -/
def drainPages (s : State) (core ctx : Nat) (dw : List Nat) : List Nat :=
  let prog := (drainOf s core ctx (bits (dw.getD 0 0) 29 24)).ops.map microOp
  let runs := if bit (dw.getD 0 0) 30 then drainRuns dw (storeFormat prog) else []
  nub ((runs.map fun r => (pagesOf (r.2 / 65536 + 2) r.1 r.2).map fun p => p.1 / 65536).flatten)

/-- The checks of 10 R227 on the record's contents, orders 1 to 7. DESIGN CHOICE (log 37): STBASE's alignment and the
row-statistics area are checked only where DEN and STEN are 1, since nothing else uses them; R227 lists STBASE without a
condition. -/
def recordChecks (s : State) (tid ctx : Nat) (mma : Bool) (dw : List Nat) : Check :=
  let t := s.team tid
  let d0 := dw.getD 0 0
  let own := t.ownBytes
  let rows := regionRows dw
  let cols := 8 * regionBlocks dw
  let den := bit d0 30
  let kind := bits (dw.getD 3 0) 1 0
  let prog := (drainOf s t.core ctx (bits d0 29 24)).ops.map microOp
  let fmt := if den then storeFormat prog else none
  let esz := match fmt with
    | some f => drainElement f
    | none => 1
  let daddr := bits (dw.getD 4 0) 47 0
  let drs := bits (dw.getD 5 0) 31 0
  let stb := bits (dw.getD 6 0) 47 0
  let sten := den && bit d0 31
  let steps := stepsOf dw mma
  let inc := fun (i : Nat) => sext 16 (bits (dw.getD 2 0) (16 * i + 15) (16 * i))
  let tl := fun (n : Nat) => s.tile tid n
  let ta := tl (bits d0 4 0)
  let tb := tl (bits d0 10 6)
  let aunf := bit d0 5
  let view := t.views.getD (bits d0 1 0) none
  let named := matReads dw ++ (matDest dw).toList
  let dest := match matDest dw with
    | some n =>
      let d := (tl n).desc
      (matReads dw).contains n || tileRows d < rows || tileWidth d < rowBytes dw fmt
    | none => false
  firstOf
    [failIf (recordReserved dw || (!mma && steps == 0) || (den && kind == 3) || (aunf && (inc 0 != 0 || inc 1 != 0)))
        cILLEGAL 0,
      failIf (den && kind != 0 && daddr % esz != 0) cALIGN daddr, failIf (den && kind != 0 && drs % esz != 0) cALIGN daddr,
      failIf (sten && stb % 8 != 0) cALIGN stb,
      failIf (den && kind == 1 && decide (0 < rowBytes dw fmt) && decide (own < daddr + (rows - 1) * drs + rowBytes dw fmt))
        cACCESS daddr,
      failIf (sten && !bit (dw.getD 6 0) 48 && decide (own < stb + 8 * rows)) cACCESS stb,
      failIf (named.any (fun n => (tl n).state == 0) || (!aunf && !isBfp (tileFmt ta.desc)) || !isBfp (tileFmt tb.desc) ||
        (bit d0 21 && vectorBad (tl (bits d0 15 11)).desc rows) || (bit d0 22 && vectorBad (tl (bits d0 20 16)).desc cols) ||
        (!aunf && operandOutside ta.desc rows (inc 0) (inc 1) steps) || operandOutside tb.desc cols (inc 2) (inc 3) steps ||
        dest || (aunf && match view with
          | some v => viewOutside (v.map (·.toNat)) rows
          | none => true)) cTILE 0,
      failIf (decide (256 < regionRow dw + rows) || decide (512 < regionCol dw + cols) ||
        (regionBanks dw).any fun b => !t.banks.held.contains b) cACCUM 0,
      failIf (den && (prog.isEmpty || (prog.any (·.uses 9) && !bit d0 21) || (prog.any (·.uses 10) && !bit d0 22)))
        cDRAIN 0,
      failIf t.mx.err cENGINE 0]

/-- A tile stands as an operation needs it (10 R218). -/
def tilesQualify (s : State) (tid : Nat) (dw : List Nat) : Bool :=
  (matReads dw).all (fun n => (s.tile tid n).state == 2) &&
    match matDest dw with
    | some n => (s.tile tid n).state == 2 && (s.tile tid n).readers == 0
    | none => true

/-- The operation is accepted: number, counter, tile transitions and leases (21 R429). -/
def acceptMat (s : State) (iss : Issue) (act : List (Nat × FibreId)) (tid : Nat) (mma : Bool) (d : Nat)
    (dw : List Nat) (lease : KV Nat) (fpctl : Nat) : State :=
  let t := s.team tid
  let n := t.matNext
  let s := s.modTeam tid fun t => { t with matNext := t.matNext + 1 }
  let s := s.each act fun s x => s.modFibre x.2 fun f => { f with tlc := f.tlc + 1 }
  let s := s.each (matReads dw) fun s n => s.modTile tid n fun t => { t with readers := t.readers + 1 }
  let s := match matDest dw with
    | some n => s.modTile tid n fun t => { t with state := 3 }
    | none => s
  let s := s.gWriteNow iss.gid d (BitVec.ofNat 64 n)
  let (id, s) := s.newId
  let free := (upto 8).map fun r => (upto 8).map fun l => (Config.freeValue (s.fresh + 8 * r + l)).setWidth 32
  let s := { s with fresh := s.fresh + 64 }
  let m : MatOp := { tid := tid, ctx := iss.ctx, core := t.core, num := n, issuers := act.map (·.2), dw := dw
                     view := ((t.views.getD (bits (dw.getD 0 0) 1 0) none).getD []).map (·.toNat)
                     steps := stepsOf dw mma, interval := if mma then 1 else bits (dw.getD 0 0) 53 48 + 1
                     fpctl := fpctl, lease := lease, d := free, waits := s.releaseWaits iss.core (act.map (·.2)) }
  ({ s with mats := s.mats.put id m }).advance iss

/-- No operation can be accepted at present: a counter of an active fibre or the core's 32 places are full (04 R93; 10
R213). -/
def matFull (s : State) (act : List (Nat × FibreId)) (core : Nat) : Bool :=
  countFull s act (·.tlc) || 32 ≤ (s.mats.filter fun x => x.2.core == core && !(s.ctx x.2.ctx).saved).length

/-- What a group keeps while it waits for its tiles: offset, destination, MMA, the next reference, FPCTL at issue, the record
whose tiles it waits for, and the FIDs of the lanes whose guard is true (10 R227, R236). -/
def matKeep (iss : Issue) (act : List (Nat × FibreId)) (ofs d : Nat) (mma : Bool) (fpctl : Nat) (dw : List Nat) : List Dword :=
  [BitVec.ofNat 64 ofs, BitVec.ofNat 64 d, BitVec.ofNat 64 (b2n mma), iss.next, BitVec.ofNat 64 fpctl] ++
    (dw ++ act.map fun x => x.2.fid).map (BitVec.ofNat 64)

/-- The issue of MLOOP and MMA (21 R429): the checks, the wait for the tiles, the place, acceptance. The sequencer starts on the
operation once its release is done; the fibres' later accesses are not held back (07 R160, R164). -/
def postMat (s : State) (iss : Issue) (act : List (Nat × FibreId)) (mma : Bool) (ofs d fpctl : Nat) : State :=
  let tid := s.leadTeam iss.gid
  let t := s.team tid
  if !recordOpen s act tid then s.stall iss else
  match descBad s tid ofs 64 with
  | some c => s.raise iss c 0 ofs
  | none =>
    let dw := spadDwords s tid ofs 8
    match s.recordChecks tid iss.ctx mma dw with
    | some (c, va) =>
      s.raise { iss with wr := c == cALIGN || c == cACCESS } c (if c == cENGINE then engineDetail t true else 0) va
    | none =>
      match s.leaseAll t.core iss.ctx (s.drainPages t.core iss.ctx dw) with
      | (s, .error m) => s.memFail iss m true
      | (s, .ok lease) =>
        if !s.tilesQualify tid dw then
          s.park iss iss.lanes .matrix (some (matKeep iss act ofs d mma fpctl dw))
        else if s.matFull act t.core then s.stall iss
        else s.acceptMat iss act tid mma d dw lease fpctl

/-- FPCTL at the issue of an operation, which a wait for its tiles keeps (21 R429; 10 R236). -/
def matFpctl (s : State) (iss : Issue) (act : List (Nat × FibreId)) : Nat :=
  match (s.fibre (act.headD (0, ⟨0, 0⟩)).2).again with
  | some l => (l.getD 4 0).toNat
  | none => s.fpctl iss

/-- The wait for a record's tiles is over: all of them qualify, or one has become Empty (10 R218; 24 R469). -/
def tilesWaited (s : State) (tid : Nat) (dw : List Nat) : Bool :=
  s.tilesQualify tid dw || (matReads dw ++ (matDest dw).toList).any fun n => (s.tile tid n).state == 0

end State

/-- MLOOP (21 R429). One that a restore issues again has the record offset that its wait kept (08 R181). -/
def execMloop (o : XT) (s : State) : Host.Outcome State Fault Refusal :=
  issued (.mloop o) s false (fun iss _ => (s.team (s.leadTeam iss.gid)).control) fun iss act =>
    unlessStop s iss fun s =>
      s.postMat iss act false (keptOr s act 0 (s.srcG iss o.a)) (opNum o.d) (s.matFpctl iss act)

/-- MMA (21 R430). -/
def execMma (o : XT) (s : State) : Host.Outcome State Fault Refusal :=
  issued (.mma o) s false (fun iss _ => (s.team (s.leadTeam iss.gid)).control) fun iss act =>
    unlessStop s iss fun s =>
      s.postMat iss act true (keptOr s act 0 (s.srcG iss o.a)) (opNum o.d) (s.matFpctl iss act)

/-- A group that waits for its tiles is looked at again once they have qualified, and its operation is checked and accepted;
where no place is free it is then Stalled (10 R213, R227; 21 R429). -/
def execMatrixAccept (gid : Nat) (s : State) : Host.Outcome State Fault Refusal :=
  let ws := (s.liveLanes gid).filter fun x => (s.fibre x.2).status == .blocked .matrix
  match sortBy (fun x : Nat × FibreId => (s.fibre x.2).pc.toNat) ws with
  | [] => .fault (.notEnabled "MATRIX_ACCEPT")
  | w :: _ =>
    let again := (s.fibre w.2).again.getD []
    let keep := fun (i : Nat) => again.getD i 0
    let lanes := ws.filter fun x => (s.fibre x.2).pc == (s.fibre w.2).pc && (s.fibre x.2).again == some again
    let act := lanes.filter fun x => (again.drop 13).contains (BitVec.ofNat 64 x.2.fid)
    let g := s.group gid
    let iss : Issue := { gid := gid, core := g.core, ctx := g.ctx, pc := (s.fibre w.2).pc, next := keep 3, lanes := lanes
                         atEnd := false }
    let tid := s.leadTeam gid
    let dw := (upto 8).map fun i => (keep (5 + i)).toNat
    if (s.ctx g.ctx).stop || !s.tilesWaited tid dw then .fault (.notEnabled "MATRIX_ACCEPT")
    else
      let s := s.each lanes fun s x => s.modFibre x.2 fun f => { f with status := .ready }
      .next (if act.isEmpty then s.advance iss
        else s.postMat iss act (keep 2 != 0) (keep 0).toNat (keep 1).toNat (keep 4).toNat)

end Sys2Proof.Machine
end

