-- ==== Sys2Proof/Machine/Reorder.lean ====
section
/-! DEFINITION. REORD: arrival, sorting, the forming of groups and their dealing to cores
(11_reorder_and_irregular_work R239 to R249; 22 R446). -/

namespace Sys2Proof.Machine

/-- An arrival at REORD as the fibre is parked: scope, .mix, key, payload and count, and the resume PC. -/
structure Arrival where
  fib : FibreId
  gallery : Bool
  mix : Bool
  key : Nat
  payload : Nat
  n : Nat
  next : Dword
  deriving DecidableEq, Repr

namespace State

/-- The arrivals among some fibres. -/
def reordArrivals (s : State) (fs : List FibreId) : List Arrival :=
  fs.filterMap fun f => match (s.fibre f).status with
    | .blocked (.reord g m k p n next) => some ⟨f, g, m, k, p, n, next⟩
    | _ => none

/-- A register of a fibre is pending (11 R239; 04 R90): a result of its own, a g result for which it was active, or, in
interlocked mode, a late write of the fibre or its group (R91). -/
def resultPending (s : State) (f : FibreId) : Bool :=
  let gid := (s.fibre f).gid
  let g := s.group gid
  (s.pending.any fun x => x.2.fib == f || x.2.bits.contains f) ||
    ((s.ctx g.ctx).ilk && ((s.fibre f).late.any (fun l => !l.readyBy (s.clockOf g.core)) ||
      (g.late ++ (s.team (s.leadTeam gid)).late.filter fun l => l.gid == gid).any fun l => !s.lateDone l))

end State

/-- REORD (22 R446; 11 R239, R240): IMM20 holds n − 1, the scope and .mix. -/
def execReord (o : XS) (s : State) : Host.Outcome State Fault Refusal :=
  issuedMem (.reord o) s false legal fun iss act =>
    let n := bits o.imm.toNat 2 0 + 1
    let p := opNum o.b
    if s.diverged iss.gid || act.length != iss.lanes.length || act.any fun x => (s.fibre x.2).window < p + n then
      s.raise iss cREORD 0 0
    else if act.any fun x => (opNum o.a :: run p n).any fun r => s.badReg.contains (x.2, r) then s.raise iss cECC 0 0
    else if act.any fun x => s.resultPending x.2 then s.stall iss
    else s.park iss act (.reord (bit o.imm.toNat 3) (bit o.imm.toNat 4) (opNum o.a) p n iss.next) none

/-! Sorting and forming groups (11 R241, R243). -/

/-- A record of an arrived fibre: its class (4 for control teams), its place in the order, its resume PC and core. -/
structure Rec where
  fib : FibreId
  cls : Nat
  key : Nat
  order : Nat
  next : Dword
  core : Nat
  deriving DecidableEq, Repr

/-- Consecutive records of one key and one resume PC (11 R243). -/
def runsOf : List Rec → List (List Rec)
  | [] => []
  | x :: r =>
    match runsOf r with
    | (y :: l) :: t => if x.key == y.key && x.next == y.next then (x :: y :: l) :: t else [x] :: (y :: l) :: t
    | _ => [[x]]

/-- A list cut into groups of n, a short group last. -/
def cut (n : Nat) (l : List Rec) : List (List Rec) := State.chunks n l.length l

/-- Lists joined by the resume PC of their first records, the PCs in the order in which they first stand. -/
def joinByPc (l : List (List Rec)) : List (List Rec) :=
  let pc := fun (x : List Rec) => (x.head?.map (·.next)).getD 0
  let pcs := l.foldl (fun (a : List Dword) x => if a.contains (pc x) then a else a ++ [pc x]) []
  pcs.map fun p => (l.filter fun x => pc x == p).flatten

/-- The groups of one sorted class, in formation order (11 R243). -/
def formClass (g : Nat) (mix : Bool) (cls : Nat) (l : List Rec) : List (List Rec) :=
  if cls == 4 then l.map fun x => [x]
  else
    let groups := ((runsOf l).map (cut g)).flatten
    if mix then
      let short := groups.filter fun x => x.length < g
      groups.filter (fun x => !decide (x.length < g)) ++ ((joinByPc short).map (cut g)).flatten
    else groups

/-! Dealing (11 R244, R245). -/

/-- The first index from c on, round the list, whose quota passes a test. -/
def firstFrom (quota : List Nat) (c : Nat) (p : Nat → Bool) : Option Nat :=
  ((upto quota.length).map fun i => (c + i) % quota.length).find? fun i => p (quota.getD i 0)

/-- DealClass: pieces of groups with the index of the core that takes each. -/
def dealClass : Nat → List Nat → Nat → List (List Rec) → List (Nat × List Rec)
  | 0, _, _, _ => []
  | _, _, _, [] => []
  | fuel + 1, quota, c, g :: r =>
    if g.isEmpty then dealClass fuel quota c r
    else
      match firstFrom quota c (fun q => decide (g.length ≤ q)) with
      | some t =>
        (t, g) :: dealClass fuel (modAt quota t fun q => q - g.length) ((t + 1) % quota.length) r
      | none =>
        match firstFrom quota c (fun q => decide (0 < q)) with
        | some t =>
          let q := quota.getD t 0
          (t, g.take q) :: dealClass fuel (modAt quota t fun _ => 0) ((t + 1) % quota.length) (g.drop q :: r)
        | none => []

/-- A dealt group: its core, class and grant. -/
structure Dealt where
  core : Nat
  cls : Nat
  grant : Nat
  recs : List Rec
  deriving DecidableEq, Repr

/-- A core with too few vector group slots re-forms what it was dealt (11 R245). -/
def refit (w free : Nat) (core : Nat) (ds : List Dealt) : List Dealt :=
  let mine := ds.filter fun d => d.cls < 4
  let ctl := ds.filter fun d => !decide (d.cls < 4)
  if mine.length ≤ free then ds
  else
    let again := fun (f : List (List Rec) → List (List Rec)) =>
      ((upto 4).map fun cls =>
        (f ((mine.filter fun d => d.cls == cls).map (·.recs))).map fun x => (⟨core, cls, w, x⟩ : Dealt)).flatten
    let one := again fun l => ((joinByPc l).map (cut w)).flatten
    if one.length ≤ free then one ++ ctl else again (fun l => cut w l.flatten) ++ ctl

namespace State

/-- The vector group slots of a core that groups without any of these fibres hold. -/
def slotsTaken (s : State) (core : Nat) (fs : List FibreId) : Nat :=
  (s.groups.filter fun x => x.2.core == core && x.2.slot != 4 &&
    x.2.members.any fun f => (s.fibre f).live && !fs.contains f).length

/-- The groups that a collective of these arrivals deals (11 R241 to R245). -/
def dealing (s : State) (as : List Arrival) : List Dealt :=
  let recs := as.map fun a =>
    let f := s.fibre a.fib
    let t := s.team a.fib.team
    let key := (f.vAt (s.clockOf (s.coreOf a.fib)) a.key).toNat
    ({ fib := a.fib, cls := if t.control then 4 else f.role, key := key
       order := key * 2 ^ 16 + a.fib.fid * 2 ^ 4 + t.member, next := a.next, core := s.coreOf a.fib } : Rec)
  let mix := (as.map (·.mix)).headD false
  let grants := (nub (as.map fun a => a.fib.team)).filterMap fun t =>
    if (s.team t).control then none else some (s.team t).grant
  let g := grants.foldl min 64
  let cores := sortBy (fun c : Nat => c) (nub (recs.map (·.core)))
  let dealt := ((upto 5).map fun cls =>
    let l := sortBy (·.order) (recs.filter fun r => r.cls == cls)
    let quota := cores.map fun c => (l.filter fun r => r.core == c).length
    (dealClass (2 * l.length + cores.length + 1) quota 0 (formClass g mix cls l)).map fun x =>
      (⟨cores.getD x.1 0, cls, if cls == 4 then 1 else g, x.2⟩ : Dealt)).flatten
  (cores.map fun c =>
    refit (s.core c).widthLimit (256 - s.slotsTaken c (as.map (·.fib))) c (dealt.filter fun d => d.core == c)).flatten

/-- The v registers of a fibre become undefined, but for a run of n from p (11 R246). -/
def scramble (s : State) (f : FibreId) (p n : Nat) : State :=
  let x := s.fibre f
  let w := x.window
  let s' := { s with fresh := s.fresh + w }
  s'.modFibre f fun x => { x with
    v := (upto w).map fun i =>
      if p ≤ i && i < p + n then x.v.getD i 0 else (Config.freeValue (s.fresh + i)).setWidth 32 }

/-- The arrived fibres leave their groups, keep their payload and stand at their resume PCs (11 R246). -/
def departAll (s : State) (as : List Arrival) : State :=
  (s.leaveGroups (as.map (·.fib))).each as fun s a => (s.scramble a.fib a.payload a.n).wakeTo a.fib a.next

/-- A dealt group is formed; a fibre that changes core acquires there (11 R244; 07 R163). -/
def placeDealt (s : State) (d : Dealt) : State :=
  let fs := d.recs.map (·.fib)
  let ctx := (s.team ((fs.headD ⟨0, 0⟩).team)).ctx
  let s := s.makeGroup ctx d.core d.grant (d.cls == 4) false fs
  if d.recs.any fun r => r.core != d.core then s.l1Acquire d.core else s

/-- The fibres that a collective at REORD with some team waits for: its own where an arrival names .team, else those of the
gallery, none while a member has not started or an arrival there names .team, whose team completes or fails on its own
(11 R239, R240). -/
def reordScope (s : State) (tid : Nat) : Option (List FibreId) :=
  let own := s.liveFibres tid
  let as := s.reordArrivals own
  if own.isEmpty || as.length != own.length then none
  else if as.any fun a => !a.gallery then some own
  else
    let t := s.team tid
    let ms := s.galleryTeams t.launch t.gallery
    if ms.any fun n => (s.launch t.launch).unstarted.contains n then none
    else
      let all := s.galleryFibres t.launch t.gallery
      if ((s.reordArrivals all).filter (·.gallery)).length == all.length then some all else none

/-- The arrivals of one collective differ (11 R240). -/
def reordMismatch (as : List Arrival) : Bool :=
  match as with
  | [] => false
  | a :: r => r.any fun b => a.gallery != b.gallery || a.mix != b.mix || a.payload != b.payload || a.n != b.n

end State

/-- After the last arrival the records are sorted and groups are formed and dealt (11 R240 to R246); an error in the
sump traps every group, and leaves its v registers undefined (R242). A fibre that changes core has its release first
(07 R163). -/
def execReordDeal (tid : Nat) (s : State) : Host.Outcome State Fault Refusal :=
  match s.reordScope tid with
  | none => .fault (.notEnabled "REORD_DEAL")
  | some fs =>
    let as := s.reordArrivals fs
    if State.reordMismatch as then .next (s.trapArrivals fs cREORD)
    else if s.badSump.contains (chamberOfCore (s.team tid).core) then
      .next ((s.each fs fun s f => s.scramble f 0 0).trapArrivals fs cECC)
    else
      let ds := s.dealing as
      let moves := (ds.map fun d => d.recs.filter fun r => r.core != d.core).flatten
      if moves.any fun r => s.anyOpen (s.releaseSet r.core r.fib) then .fault (.notEnabled "REORD_DEAL")
      else .next ((s.departAll as).each ds fun s d => s.placeDealt d)

end Sys2Proof.Machine
end

