-- ==== Sys2Proof/Machine/Launch.lean ====
section
/-! DEFINITION. Launches: the dispatchers, the checks of a record, the start and the end of teams, completion and its
report, and launch graphs (03_launch_and_dispatch R56 to R77; 02 R27 to R31; 08 R184). -/

namespace Sys2Proof.Machine

/-! Launch records (03 R59). -/

def recVer (l : List Dword) : Nat := recField l 0 3 0
def recParent (l : List Dword) : Nat := recField l 0 63 48
def recEntry (l : List Dword) : Dword := l.getD 1 0
def recSpad (l : List Dword) : Nat := recField l 6 59 48
def recStk (l : List Dword) : Nat := recField l 7 61 48

/-- The doublewords of some bytes. -/
def dwordsOf (bs : List Byte) : List Dword :=
  (upto (bs.length / 8)).map fun i => BitVec.ofNat 64 (leNat ((bs.drop (8 * i)).take 8))

/-- A reserved field of a team record is not zero (03 R59). -/
def recReserved (l : List Dword) : Bool :=
  recField l 0 23 17 != 0 || recField l 2 63 62 != 0 || recField l 3 63 63 != 0 || recField l 4 63 55 != 0 ||
    recField l 6 63 60 != 0 || recField l 7 63 62 != 0

/-- The team shapes of a record break 02 R31 or R39, or its stack area is misaligned (03 R65). -/
def recShapeBad (l : List Dword) : Bool :=
  let g := recGsize l
  let mask := recField l 0 11 8
  let vec := (upto g).any fun i => !bit mask i
  let rs := recRoles l
  let ws := recWindows l
  let sum := rs.foldl (· + ·) 0
  (vec && (rs.any (1024 < ·) || sum == 0 || 1024 < sum ||
    (rs.zip ws).any fun x => x.1 != 0 && (x.2 < 16 || 256 < x.2))) ||
    (mask != 0 && (recField l 3 62 57 < 2 || 32 < recField l 3 62 57)) || mask / 2 ^ g != 0 ||
    (recStk l != 0 && recField l 6 47 0 % 64 != 0)

/-- The 32-bit registers that a team takes (02 R31, R39). -/
def recRegs (l : List Dword) (member : Nat) : Nat :=
  if recControl l member then (recField l 3 56 54 + 1) * 8 * recField l 3 62 57
  else (((recRoles l).zip (recWindows l)).map fun x => x.1 * x.2).foldl (· + ·) 0

/-- A footprint beyond a core's resources (01 R11; 03 R62, R65). -/
def recTooBig (l : List Dword) : Bool :=
  1024 < recField l 5 63 53 || 16 < recField l 5 52 48 || 2048 < recSpad l

/-- Bytes of the channel slots of the team that consumes most (03 R62; 08 R185). -/
def recSlots (ch : KV Channel) : Nat :=
  (ch.map fun x => ((ch.filter fun y => y.2.cons == x.2.cons).map fun y => y.2.slots * y.2.size).foldl (· + ·) 0).foldl max 0

/-- A channel table entry (08 R184), or none where it breaks a rule. -/
def channelOf (l : List Dword) (a b : Nat) : Option (Nat × Channel) :=
  let slots := bits a 11 6 + 1
  let prod := bits a 39 16
  let cons := bits a 63 40
  if recGrid l ≤ prod || recGrid l ≤ cons || b != 0 then none
  else some (bits a 5 0, { slots := slots, size := 16 * (bits a 15 12 + 1), prod := prod, cons := cons, credits := slots })

/-- The channels of a table's doublewords, or none where the table breaks a rule (08 R184). -/
def channelsOf (l : List Dword) : List Dword → Option (KV Channel)
  | a :: b :: r =>
    match channelOf l a.toNat b.toNat, channelsOf l r with
    | some (cid, c), some m => if (m.find cid).isSome then none else some (m.put cid c)
    | _, _ => none
  | _ => some []

/-- Where a record's reads stand (03 R65). -/
inductive Prep where
  | fail (cause detail : Nat)
  /-- a read meets a recoverable fault -/
  | page (va : Nat)
  | graph
  | teams (place : List Nat) (channels : KV Channel) (params : List Dword)
  deriving DecidableEq, Repr

namespace State

/-- Bytes of a context's address space, read at their homes by an agent without a TLB; `true` is a recoverable fault
(03 R58). -/
def readRaw (s : State) (ctx va n : Nat) : State × Except (Nat × Bool) (List Byte) :=
  go s (pagesOf n va n)
where
  /-- Page by page. -/
  go (s : State) : List (Nat × Nat) → State × Except (Nat × Bool) (List Byte)
    | [] => (s, .ok [])
    | (a, m) :: r =>
      match s.translateRaw ctx a .read false with
      | (s, .ok pa) =>
        if s.eccBad pa m then (s, .error (a, false))
        else
          match go s r with
          | (s, .ok l) => (s, .ok (s.homeBytes pa m ++ l))
          | (s, .error e) => (s, .error e)
      | (s, .fault rec) => (s, .error (a, rec))
      | (s, .net _ _) | (s, .ecc) => (s, .error (a, false))

/-- A chamber belongs to a context's partition (01 R10). -/
def inPartition (s : State) (ctx chamber : Nat) : Bool := bit (s.ctx ctx).partition chamber

/-- The core of each team by a placement map (03 R63, R64); none where the map is illegal (check 5). -/
def placement (s : State) (ctx : Nat) (l : List Dword) (hdr : Nat) (bytes : List Byte) : Option (List Nat) :=
  let g := recGsize l
  let first := bits hdr 15 8
  let nch := bits hdr 23 16
  let die := bits hdr 25 24
  let chs := (stepsFrom (12 * die) 1 12).filter fun c => s.inPartition ctx c
  let teams := upto (recGrid l)
  match bits hdr 2 0 with
  | 0 => some (teams.map fun t => (bytes.getD t 0).toNat)
  | 1 =>
    if nch == 0 || 48 < nch || 48 < first + nch then none
    else some (teams.map fun t => 4 * first + t % (4 * nch))
  | 2 =>
    if nch == 0 || 48 < nch || 48 < first + nch then none
    else some (teams.map fun t => 4 * (first + t / g % nch) + t % g)
  | 3 => if chs.isEmpty then none else some (teams.map fun t => 4 * chs.getD (t / g % chs.length) 0 + t % g)
  | _ => none

/-- The members of a gallery are not on distinct cores of one chamber (02 R25). -/
def galleryBad (g : Nat) (place : List Nat) : Bool :=
  (chunks g place.length place).any fun cs =>
    (nub cs).length != cs.length || (nub (cs.map chamberOfCore)).length != 1

/-- A reserved field of the map is not zero (03 R63). -/
def mapReserved (hdr : Nat) : Bool :=
  let form := bits hdr 2 0
  bits hdr 7 3 != 0 || bits hdr 63 26 != 0 || ((form == 0 || form == 3) && bits hdr 23 8 != 0) ||
    (form != 3 && bits hdr 25 24 != 0)

/-- A read failed: recoverable, or DETAIL 12 (03 R65). -/
def readFail (e : Nat × Bool) : Prep := if e.2 then .page e.1 else .fail cACCESS 12

/-- ENTRY is no legal target: the checks of 13 R285, then the marks of 04 R99, an ENTRY lying past word 0 of a function-entry
line (03 R59). DEDUCED (log 26): the line's header is read at its home without a page-hash check, and one that cannot be
read is left to the first fetch of the team. -/
def entryBad (s : State) (ctx : Nat) (ref : Dword) : Bool :=
  let idx := refOfs ref % 128 / 4
  let line := (s.codeSlot ctx ref).laddr + (refOfs ref - refOfs ref % 128)
  (s.refCheck ctx ref).isSome || idx == 0 ||
    match (s.translateRaw ctx line .fetch false).2 with
    | .ok pa =>
      let h := s.homeWord (pa / 4)
      !s.eccBad pa 4 && !(h.getLsbD idx && h.getLsbD 0)
    | _ => false

/-- Checks 8 to 12, with the channel table and the parameter block (03 R65). DESIGN CHOICE (log 38): a misaligned CHTAB
gives DETAIL 8 although its read would fault too, and the slots of the channels, which belong to a footprint (R62), are
known only here: a footprint that they make too large gives DETAIL 4 in the place of check 8. -/
def prepareRest (s : State) (ctx : Nat) (l : List Dword) (hdr : Nat) (place : List Nat) : State × Prep :=
  let chn := recField l 4 54 48
  let chtab := recField l 4 47 0
  if chn != 0 && chtab % 16 != 0 then (s, .fail cLAUNCH 8)
  else
    match if chn == 0 then (s, .ok []) else s.readRaw ctx chtab (16 * chn) with
    | (s, .error e) => (s, readFail e)
    | (s, .ok bs) =>
      match if 64 < chn then none else channelsOf l (dwordsOf bs) with
      | none => (s, .fail cLAUNCH 8)
      | some ch =>
        if 524288 < 256 * recSpad l + recSlots ch then (s, .fail cLAUNCH 4)
        else if 8 < recField l 0 15 12 then (s, .fail cLAUNCH 9)
        else if recReserved l || mapReserved hdr then (s, .fail cLAUNCH 10)
        else if s.entryBad ctx (recEntry l) then (s, .fail cCODEHASH 11)
        else if recField l 0 16 16 == 0 then (s, .teams place ch (List.replicate 8 0))
        else if recField l 7 47 0 % 64 != 0 then (s, .fail cACCESS 12)
        else
          match s.readRaw ctx (recField l 7 47 0) 64 with
          | (s, .error e) => (s, readFail e)
          | (s, .ok bs) => (s, .teams place ch (dwordsOf bs))

/-- The checks of 03 R65 in their order, each read made where the first check needs it. DESIGN CHOICE (log 38): a
misaligned PLACEMAP gives DETAIL 5 although its read would fault too. -/
def prepare (s : State) (ctx : Nat) (l : List Dword) : State × Prep :=
  if recVer l == 15 then
    if (l.getD 0 0).toNat / 256 != 0 || bits (l.getD 0 0).toNat 6 4 != 0 || recField l 1 63 48 != 0 ||
        recField l 5 63 48 != 0 || ((upto 16).any fun i => i != 0 && i != 1 && i != 5 && l.getD i 0 != 0) then
      (s, .fail cLAUNCH 10)
    else (s, .graph)
  else if recVer l != 3 then (s, .fail cLAUNCH 1)
  else if recGsize l == 0 || 4 < recGsize l || recGrid l == 0 || recGrid l % recGsize l != 0 then (s, .fail cLAUNCH 2)
  else if recShapeBad l then (s, .fail cLAUNCH 3)
  else if recTooBig l then (s, .fail cLAUNCH 4)
  else
    let pm := recField l 3 47 0
    if pm % 8 != 0 then (s, .fail cLAUNCH 5)
    else
      match s.readRaw ctx pm 8 with
      | (s, .error e) => (s, readFail e)
      | (s, .ok h) =>
        let hdr := leNat h
        match if bits hdr 2 0 == 0 then s.readRaw ctx (pm + 8) (recGrid l) else (s, .ok []) with
        | (s, .error e) => (s, readFail e)
        | (s, .ok bs) =>
          match s.placement ctx l hdr bs with
          | none => (s, .fail cLAUNCH 5)
          | some place =>
            if place.any fun c => 192 ≤ c || !s.inPartition ctx (chamberOfCore c) then (s, .fail cLAUNCH 6)
            else if galleryBad (recGsize l) place then (s, .fail cLAUNCH 7)
            else s.prepareRest ctx l hdr place

/-- A record without a group (12 R262): a dispatcher's, a walker's or a report's. -/
def launchRecord (key cause src detail va : Nat) (l : Launch) (recov wr : Bool) : FaultRec :=
  { cause := cause, src := src, recov := recov, wr := wr, held := false, dbl := false, detail := detail, core := 0xFF
    team := 0, fid := 0, id := 0, launchId := l.launchId, pc := 0, va := va % 2 ^ 48, lanes := 0, ctl := 0
    ctx := l.ctx, fibres := [], subject := key }

/-- A launch fails: it takes its first cause, and no team of it starts any more (03 R65, R66). -/
def failLaunch (s : State) (key cause detail : Nat) : State :=
  s.modLaunch key fun l =>
    let l := { l with phase := max l.phase 1, unstarted := [], heldBy := none }
    if l.err then l else { l with err := true, cause := cause, detail := detail }

/-- A taken record is checked, or checked again after a fault (03 R58, R65). -/
def prepareLaunch (s : State) (key : Nat) : State :=
  let l := s.launch key
  match s.prepare l.ctx l.words with
  | (s, .fail c d) => s.failLaunch key c d
  | (s, .page va) =>
    let (id, s) := s.addRecord l.ctx (launchRecord key cPAGE 2 12 va l true false)
    s.modLaunch key fun l => { l with heldBy := some id }
  | (s, .graph) =>
    let hdr := recField l.words 1 47 0
    let s := { s with graphs := s.graphs.put key { ctx := l.ctx, hdr := hdr, prio := l.prio } }
    s.modLaunch key fun l => { l with phase := 1 }
  | (s, .teams place ch ps) =>
    s.modLaunch key fun l => { l with
      phase := 1, place := place, unstarted := upto place.length, channels := ch
      params := (stepsFrom 8 1 8).map (fun i => l.words.getD i 0) ++ ps }

/-- The lowest free launch table entry of a die (03 R57). DESIGN CHOICE (log 38): the spec does not say which free entry a
launch gets. -/
def freeEntry (s : State) (die : Nat) : Option Nat :=
  (upto (if die == 3 then 16383 else 16384)).find? fun e => (s.launches.find (die * 16384 + e)).isNone

/-- A record is taken into a die's launch table (03 R57, R58). A graph record has no parent: the field is zero there
(R73). One that SPAWN has enqueued carries its parent and depth (R72), and so fails, and counts down at its spawner. -/
def takeRecord (s : State) (die entry ctx prio : Nat) (words : List Dword) (graph : Option (Nat × Nat))
    (succs : List Nat) : State :=
  let key := die * 16384 + entry
  let seq := s.taken.getD die 0
  let (born, s) := s.newId
  let l : Launch := { launchId := BitVec.ofNat 64 (die * 2 ^ 62 + seq), ctx := ctx, depth := recField words 0 15 12
                      parent := if recVer words == 15 && recField words 0 15 12 == 0 then 0xFFFF else recParent words
                      words := words, prio := prio, born := born, graph := graph, succs := succs }
  { s with launches := s.launches.put key l, taken := s.taken.put die (seq + 1) }.prepareLaunch key

/-! The dispatchers (03 R56, R57). -/

/-- A bound queue that a die's dispatcher may take from: its block is homed there, is sound, has elements of 128 bytes and
holds one. DESIGN CHOICE (log 38): a queue whose block breaks 08 R171, has another element size, does not translate or
holds an error, and one whose head slot does not translate or holds an error, is passed over without a record; so is one
with registered dequeue waiters (WPD = 1): the dispatcher joins no waiter list, and takes once the list is empty. -/
def takeable (s : State) (die ctx cb : Nat) : Option Nat :=
  match (s.translateRaw ctx cb .write true).2 with
  | .ok pa =>
    let b := (s.qRead pa).1
    if cb % 64 == 0 && homeDie pa == die && !s.eccBad pa 64 && qOk b && qEszw b == 32 && !s.qHeld pa && !qWpd b &&
        qPtail b != qHeadIdx b then
      match (s.qSlots ctx b (qHeadIdx b) 1 false).2 with
      | .ok _ => some pa
      | .error _ => none
    else none
  | _ => none

/-- The list turned so that what comes after `last` stands first. -/
def afterLast (last : Option Nat) (l : List Nat) : List Nat :=
  match last with
  | none => l
  | some x => l.filter (x < ·) ++ l.filter (· ≤ x)

/-- A die's choice: context, queue index, block and priority (03 R57). -/
def dispatchChoice (s : State) (die : Nat) : Option (Nat × Nat × Nat × Nat) :=
  let open_ := (s.contexts.filter fun x => !x.2.saved && !x.2.ended).map (·.1)
  (afterLast (s.lastCtx.find die) open_).findSome? fun c =>
    let qs := (s.ctx c).queues
    let good := (upto qs.length).filter fun i => (s.takeable die c (qs.getD i (0, 0)).1).isSome
    match good.map fun i => (qs.getD i (0, 0)).2 with
    | [] => none
    | ps =>
      let p := ps.foldl max 0
      let eq := good.filter fun i => (qs.getD i (0, 0)).2 == p
      match afterLast (s.lastQueue.find ((die * 65536 + c) * 8 + p)) eq with
      | i :: _ => some (c, i, (s.takeable die c (qs.getD i (0, 0)).1).getD 0, p)
      | [] => none

end State

/-- A dispatcher takes a launch record from a queue that it may take from (log 38), assigns LAUNCHID and applies the checks
(03 R57, R58, R65). -/
def execDispatchTake (die : Nat) (s : State) : Host.Outcome State Fault Refusal :=
  if 4 ≤ die then .fault (.notEnabled "DISPATCH_TAKE")
  else
    match s.dispatchChoice die, s.freeEntry die with
    | some (c, i, pa, p), some e =>
      match s.qTake c pa 128 with
      | (s, .ok (some bs)) =>
        let s := { s with lastCtx := s.lastCtx.put die c, lastQueue := s.lastQueue.put ((die * 65536 + c) * 8 + p) i }
        .next (s.takeRecord die e c p (dwordsOf bs) none [])
      | _ => .fault (.notEnabled "DISPATCH_TAKE")
    | _, _ => .fault (.notEnabled "DISPATCH_TAKE")

/-! Starting teams (03 R60 to R62, R68, R69; 02 R27, R28). -/

/-- The name of a team: its launch's entry and its number. -/
def teamKey (launch num : Nat) : Nat := (launch + 1) * 2 ^ 24 + num

namespace State

/-- Teams that hold their footprint on a core. -/
def residents (s : State) (core : Nat) : List Team :=
  (s.teams.filter fun x => x.2.core == core && !x.2.ended && !(s.ctx x.2.ctx).saved).map (·.2)

/-- Scratchpad bytes of a team: SPAD and the slots of the channels that it consumes (03 R62). -/
def spadNeed (l : Launch) (num : Nat) : Nat :=
  256 * recSpad l.words +
    ((l.channels.filter fun x => x.2.cons == num).map fun x => x.2.slots * x.2.size).foldl (· + ·) 0

/-- The 32-bit registers held on a core: the footprints of the teams placed there, or, where that is more, what its fibres
hold there, away fibres among them (03 R62; 11 R247). -/
def regsHeld (s : State) (core : Nat) : Nat :=
  let live := fun (x : Nat × Team) => !x.2.ended && !(s.ctx x.2.ctx).saved
  let away := fun (here : Bool) => ((s.teams.filter fun x => live x && (x.2.core == core) != here).map fun x =>
    ((s.liveFibres x.1).filter fun f => (s.coreOf f == core) == here).map fun f => (s.fibre f).window).flatten.foldl (· + ·) 0
  let home := ((s.residents core).map fun t => recRegs (s.launch t.launch).words t.member).foldl (· + ·) 0
  max home (home - away false + away true)

/-- The groups that a team starts with: its roles cut by the grant, or its control fibres (02 R34, R39). -/
def groupNeed (s : State) (l : Launch) (num core : Nat) : Nat :=
  let m := num % recGsize l.words
  if recControl l.words m then recFibres l.words m
  else
    let g := min 32 (s.core core).widthLimit
    ((recRoles l.words).map fun n => (n + g - 1) / g).foldl (· + ·) 0

/-- The whole footprint of a team is free on its core (03 R62, R68). -/
def fits (s : State) (l : Launch) (num core : Nat) : Bool :=
  let rs := s.residents core
  let m := num % recGsize l.words
  let sum := fun (f : Team → Nat) => (rs.map f).foldl (· + ·) 0
  let groups := (s.groups.filter fun x => x.2.core == core && (x.2.slot == 4) == recControl l.words m).length
  let banks := recField l.words 5 52 48
  decide (s.regsHeld core + recRegs l.words m ≤ 524288) &&
    decide (groups + s.groupNeed l num core ≤ if recControl l.words m then 8 else 256) &&
    decide (sum (·.trows) + recField l.words 5 63 53 ≤ 1024) && (banks == 0 || (s.freeRun core banks).isSome) &&
    decide (sum (·.spadBytes) + spadNeed l num ≤ 524288)

/-- A gallery of a launch has a started member. -/
def galleryBegun (l : Launch) (num : Nat) : Bool :=
  let g := recGsize l.words
  (upto g).any fun i => !l.unstarted.contains (num / g * g + i)

/-- The order in which freed room is offered (03 R68): galleries begun by age; others by priority, age, number. -/
def startRank (l : Launch) (num : Nat) : List Nat :=
  if galleryBegun l num then [0, l.born, num] else [1, 7 - l.prio, l.born, num]

/-- One list of numbers stands before another. -/
def ranksBefore : List Nat → List Nat → Bool
  | a :: r, b :: q => decide (a < b) || (a == b && ranksBefore r q)
  | _, _ => false

/-- Another pending team of the chamber that fits comes first (03 R68). -/
def someoneBefore (s : State) (l : Launch) (num core : Nat) : Bool :=
  s.launches.any fun (_, m) =>
    m.phase == 1 && !(s.ctx m.ctx).saved && m.unstarted.any fun n =>
      chamberOfCore (m.place.getD n 0) == chamberOfCore core && ranksBefore (startRank m n) (startRank l num) &&
        s.fits m n (m.place.getD n 0)

/-- The roles of a team's fibres in FID order, each with its window (02 R28, R39). -/
def fibreShape (l : List Dword) (member : Nat) : List (Nat × Nat) :=
  if recControl l member then List.replicate (recField l 3 56 54 + 1) (3, 8 * recField l 3 62 57)
  else (((upto 4).zip ((recRoles l).zip (recWindows l))).map fun x => List.replicate x.2.1 (x.1, x.2.2)).flatten

/-- A fibre at its team's start (02 R27; 03 R61). -/
def freshFibre (l : List Dword) (num fid role window : Nat) : Fibre :=
  let sz := recStk l * 64
  let top := if sz == 0 then 0 else recField l 6 47 0 + (num * 1024 + fid + 1) * sz
  { role := role, pc := recEntry l, v := List.replicate window 0, stack := BitVec.ofNat 64 top
    stackTop := BitVec.ofNat 64 top, stackBottom := BitVec.ofNat 64 (top - sz) }

/-- A team starts on its core (03 R60 to R62, R69). The start acquires: what happens before it, a SPAWN's release or a
predecessor's completion, is seen (R58, R72, R76; 07 R153). -/
def startTeam (s : State) (key num : Nat) : State :=
  let l := s.launch key
  let core := l.place.getD num 0
  let g := recGsize l.words
  let m := num % g
  let control := recControl l.words m
  let shape := fibreShape l.words m
  let tid := teamKey key num
  let s := s.modCore core fun c => { c with nextTag := c.nextTag + 1 }
  let fibres : KV Fibre := ((upto shape.length).zip shape).map fun x => (x.1, freshFibre l.words num x.1 x.2.1 x.2.2)
  let t : Team := {
    ctx := l.ctx, launch := key, num := num, gallery := num / g, member := m, core := core, control := control
    nfib := shape.length, fibres := fibres, g := l.params
    grant := if control then 1 else min 32 (s.core core).widthLimit
    spadBytes := spadNeed l num, ownBytes := 256 * recSpad l.words, tag := (s.core core).nextTag, gen := s.fresh
    trows := recField l.words 5 63 53, tiles := List.replicate 32 {}, views := List.replicate 4 none }
  let s := { s with
    fresh := s.fresh + 1
    teams := s.teams.put tid t
    badReg := s.badReg.filter fun x => x.1.team != tid
    badElse := s.badElse.filter fun x => !x.ofTeam tid }
  let banks := recField l.words 5 52 48
  let s := match if banks == 0 then none else s.freeRun core banks with
    | some b => s.takeBanks tid b banks
    | none => s
  let s := s.modLaunch key fun l => { l with
    unstarted := l.unstarted.filter (· != num), running := l.running ++ [tid], started := l.started + 1 }
  (s.formTeam tid true).l1Acquire core

end State

/-- A pending team starts when its footprint is free and no other comes first (03 R68, R69). -/
def execTeamStart (tid : Nat) (s : State) : Host.Outcome State Fault Refusal :=
  let key := tid / 2 ^ 24 - 1
  let num := tid % 2 ^ 24
  let l := s.launch key
  let core := l.place.getD num 0
  if tid < 2 ^ 24 || l.phase != 1 || (s.ctx l.ctx).saved || (s.ctx l.ctx).ended || !l.unstarted.contains num ||
      !s.fits l num core || s.someoneBefore l num core then .fault (.notEnabled "TEAM_START")
  else .next (s.startTeam key num)

/-! The end of teams and launches (02 R30; 03 R66, R67). -/

namespace State

/-- Requests whose fibres have all ended leave their queue's lists (02 R29). -/
def dropRequests (s : State) : State :=
  s.each s.requests fun s x =>
    if x.2.state ≤ 1 && !x.2.iss.lanes.any fun y => (s.fibre y.2).live then
      (({ s with requests := s.requests.del x.1 }).qLeave x.1 x.2).qServeAll x.2.pa
    else s

/-- A team is over: its banks and its memories are given back (02 R30; 10 R221; 12 R275). -/
def endTeam (s : State) (tid : Nat) : State :=
  let t := s.team tid
  let s := s.each (s.pending.filter fun x => match x.2.load with
    | some (.gallery u _, _, _) => u == tid
    | _ => false) fun s x => s.answer x.1
  let held := t.banks.held
  let s := s.freeBanks tid held
  let s := s.modTeam tid fun t => { t with ended := true, spad := [], tileBytes := [], banks := {} }
  let s := { s with badSpad := s.badSpad.filter fun x => x.1 != tid }
  (s.modLaunch t.launch fun l => { l with running := l.running.filter (· != tid) }).serveBanks t.core

end State

namespace State

/-- Something that some fibres have issued is not performed: a registration, a packet, a slot sent, an access held back
(19 R393). -/
def issuedOpen (s : State) (mine : FibreId → Bool) : Bool :=
  (s.registrations.any fun x => x.2.fibres.any mine) || (s.packets.any fun x => mine x.2.src) ||
    (s.flights.any fun x => mine x.2.src) || s.releases.any fun x => x.2.fibres.any mine

end State

/-- A team ends: its fibres have exited, its engine operations are complete (02 R30), and what its fibres have issued is
performed: their stores, STX packets and atomics, those held back among them (19 R393). DESIGN CHOICE (log 28): this happens
while the context is saved as well. -/
def execTeamCompletion (tid : Nat) (s : State) : Host.Outcome State Fault Refusal :=
  if (s.teams.find tid).isNone || (s.team tid).ended || !(s.liveFibres tid).isEmpty ||
      (s.cmds.any fun x => x.2.tid == tid) || (s.mats.any fun x => x.2.tid == tid) ||
      s.issuedOpen fun f => f.team == tid then
    .fault (.notEnabled "TEAM_COMPLETION")
  else .next (s.endTeam tid)

namespace State

/-- The launch status word (03 R66). -/
def statusWord (l : Launch) : Dword :=
  BitVec.ofNat 64 (1 + 2 * b2n l.err + l.cause % 256 * 2 ^ 8 + l.detail % 2 ^ 16 * 2 ^ 16 + l.started % 2 ^ 32 * 2 ^ 32)

/-- The successors of a graph node are activated, an index beyond the graph being its first error (03 R75, R77). DESIGN
CHOICE (log 38): where one index lies beyond the graph, no successor of the node is activated, not even an earlier one. -/
def activate (s : State) (g : Nat) (nodes : List Nat) : State :=
  { s with graphs := s.graphs.upd g fun x =>
      if x.err.isSome then x
      else if nodes.any fun n => x.nnode ≤ n then { x with err := some (cLAUNCH, 17), acts := [] }
      else { x with acts := x.acts ++ nodes } }

/-- A graph's first error; nothing more is activated (03 R77). -/
def graphError (s : State) (g cause detail : Nat) : State :=
  { s with graphs := s.graphs.upd g fun x =>
      if x.err.isSome then x else { x with err := some (cause, detail), acts := [] } }

/-- A node's doublewords (03 R74). -/
def nodeAt (s : State) (g n : Nat) : State × Except (Nat × Bool) (List Nat) :=
  let x := s.graphs.getD g { ctx := 0, hdr := 0 }
  match s.readRaw x.ctx (x.hdr + 64 * (n + 1)) 32 with
  | (s, .ok bs) => (s, .ok ((dwordsOf bs).map (·.toNat)))
  | (s, .error e) => (s, .error e)

/-- The successor indices of a node, NS of them (03 R74). -/
def successors (dw : List Nat) : List Nat :=
  (upto (bits (dw.getD 0 0) 5 3)).map fun i => bits (dw.getD 1 0) (16 * i + 15) (16 * i)

/-- A node launch completes: its graph goes on, or takes its error (03 R75, R77). DEDUCED (log 20): the successors are
those that the node held when it was activated. -/
def nodeDone (s : State) (l : Launch) : State :=
  match l.graph with
  | none => s
  | some (g, _) =>
    let s := { s with graphs := s.graphs.upd g fun x => { x with out := x.out - 1 } }
    if l.err then s.graphError g l.cause l.detail else s.activate g l.succs

/-- Steps 3 and 4 of 03 R67: the parent's count, and the table entry is free. -/
def finishLaunch (s : State) (key : Nat) : State :=
  let l := s.launch key
  let s := s.modLaunch l.parent fun p => { p with children := p.children - 1 }
  let s := { s with
    launches := s.launches.del key
    graphs := s.graphs.del key
    teams := s.teams.filter fun x => x.2.launch != key
    flights := s.flights.filter fun x => x.2.launch != key
    creditFlights := s.creditFlights.filter fun x => x.2.1 != key }
  s.nodeDone l

/-- The report fails for good: a record, and it is dropped (03 R67). -/
def dropReport (s : State) (key cause va : Nat) (l : Launch) : State :=
  ((s.addRecord l.ctx (launchRecord key cause 5 0 va l false true)).2).finishLaunch key

/-- The report meets a recoverable fault: a record, and it is held; that of an ended context is dropped (03 R67;
12 R494). -/
def holdReport (s : State) (key va : Nat) (l : Launch) : State :=
  if (s.ctx l.ctx).ended then s.finishLaunch key
  else
    let (id, s) := s.addRecord l.ctx (launchRecord key cPAGE 5 0 va l true true)
    s.modLaunch key fun l => { l with heldBy := some id }

/-- The element slot of a report's queue, where there is room, holds an uncorrectable error (03 R67). -/
def reportSlotBad (s : State) (ctx pa : Nat) : Bool :=
  let b := (s.qRead pa).1
  qOk b && qEszw b == 4 && !qWpe b && qFree b != 0 &&
    match (s.qSlots ctx b (qRtail b) 1 true).2 with
    | .ok ps => ps.any fun p => s.eccBad p.1 p.2
    | .error _ => false

/-- The report of a completed launch is made, held or dropped; the value says whether anything moved (03 R67). -/
def makeReport (s : State) (key : Nat) : State × Bool :=
  let l := s.launch key
  let va := recField l.words 5 47 0
  if va == 0 || l.graph.isSome then (s.finishLaunch key, true)
  else
    let word := recField l.words 0 7 7 == 1
    if va % (if word then 8 else 64) != 0 then (s.dropReport key cALIGN va l, true)
    else
      match s.translateRaw l.ctx va .write true with
      | (s, .fault true) => (s.holdReport key va l, true)
      | (s, .fault false) => (s.dropReport key cACCESS va l, true)
      | (s, .net _ _) => (s.dropReport key cACCESS va l, true)
      | (s, .ecc) => (s.dropReport key cECC va l, true)
      | (s, .ok pa) =>
        if if word then s.eccBad pa 8 else s.reportSlotBad l.ctx pa then (s.dropReport key cECC va l, true)
        else if word then ((s.sysWrite pa (leBytes 8 (statusWord l).toNat)).finishLaunch key, true)
        else
          let el := leBytes 8 l.launchId.toNat ++ leBytes 8 (statusWord l).toNat
          match s.qOffer l.ctx pa 16 (key / 16384) [el] with
          | (s, .ok (some _)) => (s.finishLaunch key, true)
          | (s, .ok none) => (s, false)
          | (s, .error .corrupt) => (s.dropReport key cQCORRUPT va l, true)
          | (s, .error .size) => (s.dropReport key cQSIZE va l, true)
          | (s, .error (.ecc _)) => (s.dropReport key cECC va l, true)
          | (s, .error (.access _)) => (s.dropReport key cACCESS va l, true)
          | (s, .error (.page _)) => (s.holdReport key va l, true)

/-- Every team of a launch has completed, and every launch that it spawned, and its graph's activations, those of an ended
context's graph among them (03 R67, R75; 12 R494). -/
def launchOver (s : State) (key : Nat) : Bool :=
  let l := s.launch key
  l.phase == 1 && l.unstarted.isEmpty && l.running.isEmpty && l.children == 0 &&
    !(s.launches.any fun x => x.2.graph.any fun g => g.1 == key) &&
    match s.graphs.find key with
    | some g => l.err || (g.active && g.acts.isEmpty && g.out == 0)
    | none => true

/-- The release of a launch towards its successors is done (03 R67; 07 R160). -/
def launchReleased (s : State) (key : Nat) : Bool :=
  let l := s.launch key
  let mine := fun (f : FibreId) => (s.team f.team).launch == key
  !(s.registrations.any fun x => l.place.contains x.2.core) && !s.issuedOpen mine

end State

/-- A launch completes: its release, then its report (03 R67). DESIGN CHOICE (log 28): a launch that is over when its context
is saved completes and reports while the context is switched out; 03 R71 and 12 R271 do not say. -/
def execLaunchCompletion (launch : Nat) (s : State) : Host.Outcome State Fault Refusal :=
  if (s.launches.find launch).isNone || !s.launchOver launch || !s.launchReleased launch then
    .fault (.notEnabled "LAUNCH_COMPLETION")
  else
    let s := s.modLaunch launch fun l => { l with phase := 2 }
    let s := match s.graphs.find launch with
      | some g =>
        s.modLaunch launch fun l =>
          let l := { l with started := g.made }
          match g.err with
          | some (c, d) => if l.err then l else { l with err := true, cause := c, detail := d }
          | none => l
      | none => s
    .next (s.makeReport launch).1

/-- A held completion report is made once its queue has room (03 R67), while the context is saved as well (log 28). -/
def execCompletionReport (launch : Nat) (s : State) : Host.Outcome State Fault Refusal :=
  match s.launches.find launch with
  | none => .fault (.notEnabled "COMPLETION_REPORT")
  | some l =>
    if l.phase != 2 || l.heldBy.isSome then .fault (.notEnabled "COMPLETION_REPORT")
    else
      match s.makeReport launch with
      | (s, true) => .next s
      | (_, false) => .fault (.notEnabled "COMPLETION_REPORT")

/-! Launch graphs (03 R73 to R77). -/

namespace State

/-- A walker's access meets a fault: a recoverable one parks the graph under a record, any other ends it (log 20). -/
def graphFault (s : State) (g : Nat) (e : Nat × Bool) (wr : Bool) : State :=
  if e.2 then
    let l := s.launch g
    let (id, s) := s.addRecord l.ctx (launchRecord g cPAGE 2 12 e.1 l true wr)
    { s with graphs := s.graphs.upd g fun x => { x with heldBy := some id } }
  else s.graphError g cACCESS 12

/-- Bytes written for a walker at their home; false where the address does not translate. -/
def graphWrite (s : State) (ctx va : Nat) (bs : List Byte) : State × Except (Nat × Bool) Unit :=
  match s.translateRaw ctx va .write true with
  | (s, .ok pa) => (s.homeWrite pa bs, .ok ())
  | (s, .fault r) => (s, .error (va, r))
  | (s, .net _ _) | (s, .ecc) => (s, .error (va, false))

/-- The walker's owned words of the nodes are set: PEND is N in a join and 0 in a while node (03 R75). A failure says
whether the access writes. -/
def resetNodes (s : State) (g : Nat) (x : Graph) : Nat → Nat → State × Except ((Nat × Bool) × Bool) Unit
  | 0, _ => (s, .ok ())
  | k + 1, n =>
    match s.nodeAt g n with
    | (s, .error e) => (s, .error (e, false))
    | (s, .ok dw) =>
      let kind := bits (dw.getD 0 0) 2 0
      if kind == 1 || kind == 3 then
        let pend := if kind == 1 then bits (dw.getD 3 0) 31 0 else 0
        match s.graphWrite x.ctx (x.hdr + 64 * (n + 1) + 28) (leBytes 4 pend) with
        | (s, .ok _) => s.resetNodes g x k (n + 1)
        | (s, .error e) => (s, .error (e, true))
      else s.resetNodes g x k (n + 1)

/-- A run of the same graph is active, or was asked for earlier (03 R73). DESIGN CHOICE (log 38): a run is active until its
report is made or dropped; R73 does not place its completion before or after the report. -/
def graphBusy (s : State) (g : Nat) (pa : Nat) : Bool :=
  let born := (s.launch g).born
  s.graphs.any fun (k, x) => k != g &&
    match (s.translateRaw x.ctx x.hdr .read false).2 with
    | .ok q => q == pa && (x.active || (s.launch k).born < born)
    | _ => false

/-- An activation of a node: its doublewords where it is the next one and legal. A fault or a bad KIND or NS is dealt
with here (03 R74, R77). -/
def activation (s : State) (g n : Nat) : Option (State × Except State (List Nat)) :=
  match s.graphs.find g with
  | none => none
  | some x =>
    if !x.active || x.err.isSome || x.heldBy.isSome || x.acts.head? != some n || (s.ctx x.ctx).saved then none
    else
      match s.nodeAt g n with
      | (s, .error e) => some (s, .error (s.graphFault g e false))
      | (s, .ok dw) =>
        let kind := bits (dw.getD 0 0) 2 0
        let ns := bits (dw.getD 0 0) 5 3
        if 3 < kind || 4 < ns || (2 ≤ kind && ns != 2) then some (s, .error (s.graphError g cLAUNCH 18))
        else some (s, .ok dw)

/-- The activation at the head of a graph is made. -/
def activated (s : State) (g : Nat) : State := { s with graphs := s.graphs.upd g fun x => { x with acts := x.acts.tail } }

end State

/-- A graph that has started, waits for a read, or has failed, meets a fault of its walker (03 R77; log 20). -/
def State.startFault (s : State) (graph : Nat) (e : Nat × Bool) (wr : Bool) : State :=
  ({ s with graphs := s.graphs.upd graph fun x => { x with active := !e.2 } } : State).graphFault graph e wr

/-- A graph run starts: PEND is set in its nodes and ENTRY is activated (03 R73 to R75, R77). DESIGN CHOICE (log 38): a
header address that is not 64-byte aligned is an error with DETAIL 16, as a bad magic value is. -/
def execGraphStart (graph : Nat) (s : State) : Host.Outcome State Fault Refusal :=
  match s.graphs.find graph with
  | none => .fault (.notEnabled "GRAPH_START")
  | some x =>
    if x.active || x.heldBy.isSome || (s.ctx x.ctx).saved then .fault (.notEnabled "GRAPH_START")
    else
      match s.translateRaw x.ctx x.hdr .read false with
      | (s, .ok pa) =>
        if s.graphBusy graph pa then .fault (.notEnabled "GRAPH_START")
        else
          match s.readRaw x.ctx x.hdr 8 with
          | (s, .error e) => .next (s.startFault graph e false)
          | (s, .ok bs) =>
            let h := leNat bs
            let nn := bits h 31 16
            let s := { s with graphs := s.graphs.upd graph fun x => { x with active := true, pa := pa, nnode := nn } }
            if x.hdr % 64 != 0 || bits h 15 0 != 0x4B47 then .next (s.graphError graph cLAUNCH 16)
            else
              match s.resetNodes graph x nn 0 with
              | (s, .error e) => .next (s.startFault graph e.1 e.2)
              | (s, .ok _) => .next (s.activate graph [bits h 47 32])
      | (s, .fault r) => .next (s.startFault graph (x.hdr, r) false)
      | (s, .net _ _) | (s, .ecc) => .next (s.startFault graph (x.hdr, false) false)

/-- A launch node takes its record as a new launch; it makes no report of its own (03 R75, R77). -/
def execLaunchNodeActivation (graph node : Nat) (s : State) : Host.Outcome State Fault Refusal :=
  match s.activation graph node with
  | none => .fault (.notEnabled "LAUNCH_NODE_ACTIVATION")
  | some (_, .error s) => .next s
  | some (s, .ok dw) =>
    let x := s.graphs.getD graph { ctx := 0, hdr := 0 }
    let die := homeDie x.pa
    if bits (dw.getD 0 0) 2 0 != 0 then .fault (.notEnabled "LAUNCH_NODE_ACTIVATION")
    else
      match s.readRaw x.ctx (bits (dw.getD 2 0) 47 0) 128 with
      | (s, .error e) => .next (s.graphFault graph e false)
      | (s, .ok bs) =>
        let ws := dwordsOf bs
        if recVer ws == 15 then .next (s.graphError graph cLAUNCH 19)
        else
          match s.freeEntry die with
          | none => .fault (.notEnabled "LAUNCH_NODE_ACTIVATION")
          | some e =>
            let s := { s.activated graph with graphs := (s.activated graph).graphs.upd graph fun x => { x with
              out := x.out + 1, made := x.made + 1 } }
            .next (s.takeRecord die e x.ctx x.prio ws (some (graph, node)) (State.successors dw))

/-- A join node counts down, and at 0 starts again at N and activates its successors (03 R75). DESIGN CHOICE (log 38): a
join node with N = 0, which R74 rules out without naming an error, counts down from 0 to 2^32 − 1. -/
def execJoinActivation (graph node : Nat) (s : State) : Host.Outcome State Fault Refusal :=
  match s.activation graph node with
  | none => .fault (.notEnabled "JOIN_ACTIVATION")
  | some (_, .error s) => .next s
  | some (s, .ok dw) =>
    let x := s.graphs.getD graph { ctx := 0, hdr := 0 }
    if bits (dw.getD 0 0) 2 0 != 1 then .fault (.notEnabled "JOIN_ACTIVATION")
    else
      let p := (bits (dw.getD 3 0) 63 32 + 2 ^ 32 - 1) % 2 ^ 32
      match s.graphWrite x.ctx (x.hdr + 64 * (node + 1) + 28) (leBytes 4 (if p == 0 then bits (dw.getD 3 0) 31 0 else p)) with
      | (s, .error e) => .next (s.graphFault graph e true)
      | (s, .ok _) =>
        let s := s.activated graph
        .next (if p == 0 then s.activate graph (State.successors dw) else s)

/-- A conditional node goes by its condition word (03 R75). -/
def execConditionalActivation (graph node : Nat) (s : State) : Host.Outcome State Fault Refusal :=
  match s.activation graph node with
  | none => .fault (.notEnabled "CONDITIONAL_ACTIVATION")
  | some (_, .error s) => .next s
  | some (s, .ok dw) =>
    let x := s.graphs.getD graph { ctx := 0, hdr := 0 }
    if bits (dw.getD 0 0) 2 0 != 2 then .fault (.notEnabled "CONDITIONAL_ACTIVATION")
    else
      match s.readRaw x.ctx (bits (dw.getD 2 0) 47 0) 8 with
      | (s, .error e) => .next (s.graphFault graph e false)
      | (s, .ok bs) =>
        .next ((s.activated graph).activate graph [(State.successors dw).getD (if leNat bs != 0 then 0 else 1) 0])

/-- A while node counts an iteration and goes by its condition word and its limit (03 R75). -/
def execWhileActivation (graph node : Nat) (s : State) : Host.Outcome State Fault Refusal :=
  match s.activation graph node with
  | none => .fault (.notEnabled "WHILE_ACTIVATION")
  | some (_, .error s) => .next s
  | some (s, .ok dw) =>
    let x := s.graphs.getD graph { ctx := 0, hdr := 0 }
    if bits (dw.getD 0 0) 2 0 != 3 then .fault (.notEnabled "WHILE_ACTIVATION")
    else
      match s.readRaw x.ctx (bits (dw.getD 2 0) 47 0) 8 with
      | (s, .error e) => .next (s.graphFault graph e false)
      | (s, .ok bs) =>
        let n := bits (dw.getD 3 0) 31 0
        let p := (bits (dw.getD 3 0) 63 32 + 1) % 2 ^ 32
        let more := leNat bs != 0 && (n == 0 || p ≤ n)
        match s.graphWrite x.ctx (x.hdr + 64 * (node + 1) + 28) (leBytes 4 (if more then p else 0)) with
        | (s, .error e) => .next (s.graphFault graph e true)
        | (s, .ok _) => .next ((s.activated graph).activate graph [(State.successors dw).getD (if more then 0 else 1) 0])

namespace State

/-- A launch is aborted: its fibres end, no team of it starts any more, and it completes with ERR (13 R287; 12 R265). -/
def abortLaunch (s : State) (key cause detail : Nat) : State :=
  let s := s.failLaunch key cause detail
  let s := s.each (s.launch key).running fun s tid => s.exitFibres (s.liveFibres tid)
  s.dropRequests

/-- The launches that CODEHASH aborts are aborted (13 R287). -/
def doAborts (s : State) : State :=
  let l := s.aborts
  ({ s with aborts := [] }).each l fun s k => s.abortLaunch k cCODEHASH 0

end State

end Sys2Proof.Machine
end

