-- ==== Sys2Proof/Machine/System.lean ====
section
/-! DEFINITION. Control registers with GETC and SETC, supervisor operations, and instruction-cache locks
(02 R49; 04 R86; 05 R112, R113; 09 R200; 10 R237; 12 R256, R258, R261, R264, R265; 13 R289, R290; 20 R408, R409;
20 R421, R422; 23 R456, R457, R468; 24 R477). -/

namespace Sys2Proof.Machine

/-! GETC (20 R408, R409). -/

/-- MXSTAT as a register (10 R237). -/
def mxWord (m : MxStat) : Dword :=
  BitVec.ofNat 64 (b2n m.err + 2 * b2n m.stp + m.ecause % 256 * 2 ^ 8 + m.flg.toNat * 2 ^ 16 + m.bflg.toNat * 2 ^ 21 +
    m.srow % 256 * 2 ^ 24 + m.sblk % 64 * 2 ^ 32 + b2n m.sph * 2 ^ 38)

/-- CPSTAT as a register (09 R200). -/
def cpWord (t : Team) : Dword := BitVec.ofNat 64 (b2n t.cpErr + t.cpCause % 256 * 2 ^ 8 + t.cpDrop % 65536 * 2 ^ 16)

/-- TRAPINFO as a register (12 R258). -/
def trapWord (h : Handler) : Dword := BitVec.ofNat 64 (h.cause % 256 + h.detail % 65536 * 2 ^ 8 + b2n h.skip * 2 ^ 24)

/-- LKSTAT as a register (13 R290). -/
def lkWord (s : State) (core ctx : Nat) : Dword :=
  BitVec.ofNat 64 (b2n (s.ctx ctx).lost + ((s.core core).locked.filter fun x => x.1 == ctx).length * 2 ^ 32)

/-- TRAPINFO or TRAPVA of a fibre; none outside a handler (12 R258). -/
def trapImage (s : State) (f : FibreId) (va : Bool) : Option Dword :=
  (s.fibre f).handler.map fun h => if va then h.va else trapWord h

/-- What GETC returns of the registers that every active fibre shares or ORs (20 R408). -/
def creg (s : State) (iss : Issue) (act : List (Nat × FibreId)) (sel : Nat) : Dword :=
  let t := s.team (s.leadTeam iss.gid)
  let c := s.ctx iss.ctx
  match sel with
  | 0 => t.fpctl
  | 1 => (act.foldl (fun x a => x ||| (s.fibre a.2).fpflags) 0#5).setWidth 64
  | 2 => (act.foldl (fun x a => x ||| (s.fibre a.2).bfflags) 0#3).setWidth 64
  | 3 => if c.issuepol then 1 else 0
  | 4 => c.trapvec
  | 5 => BitVec.ofNat 64 c.faultq
  | 6 => lkWord s iss.core iss.ctx
  | 8 => cpWord t
  | 9 => mxWord t.mx
  | _ => 0

/-- GETC (20 R408, R409). -/
def execGetc (o : XS) (s : State) : Host.Outcome State Fault Refusal :=
  issued (.getc o) s false legal fun iss act =>
    let sel := o.imm.toNat
    let out := fun (x : Dword) => s.finish iss act (.getc o) [(act.headD (0, ⟨0, 0⟩), res1 o.d x)]
    if sel == 0xA || sel == 0xB then
      let xs := act.map fun a => trapImage s a.2 (sel == 0xB)
      if xs.any (·.isNone) then s.raise iss cPRIV 0 0
      else if xs.any (· != xs.headD none) then s.raise iss cUNIF 0 0
      else out ((xs.headD none).getD 0)
    else out (creg s iss act sel)

/-! SETC (23 R456, R457). -/

/-- SETC as an instruction of some lanes: its value, then the next instruction. -/
def setc (i : Instr) (o : XS) (s : State) (illegal : Dword → Bool)
    (f : State → Issue → List (Nat × FibreId) → Dword → State) : Host.Outcome State Fault Refusal :=
  issued i s false (whenActive fun iss => illegal (s.srcG iss o.a)) fun iss act =>
    (f s iss act (s.srcG iss o.a)).advance iss

/-- Every value is legal. -/
def anyValue : Dword → Bool := fun _ => false

/-- SETC FPCTL (05 R112). -/
def execSetcFpctl (o : XS) (s : State) : Host.Outcome State Fault Refusal :=
  setc (.setcFpctl o) o s (fun x => x.toNat % 8 == 0 || 6 ≤ x.toNat % 8) fun s iss _ x =>
    s.modTeam (s.leadTeam iss.gid) fun t => { t with fpctl := x &&& 0xFFF }

/-- SETC FPFLAGS (05 R113). -/
def execSetcFpflags (o : XS) (s : State) : Host.Outcome State Fault Refusal :=
  setc (.setcFpflags o) o s anyValue fun s _ act x =>
    s.each act fun s a => s.modFibre a.2 fun f => { f with fpflags := f.fpflags &&& ~~~(x.setWidth 5) }

/-- SETC BFFLAGS (05 R113, R114). -/
def execSetcBfflags (o : XS) (s : State) : Host.Outcome State Fault Refusal :=
  setc (.setcBfflags o) o s anyValue fun s _ act x =>
    s.each act fun s a => s.modFibre a.2 fun f => { f with bfflags := f.bfflags &&& ~~~(x.setWidth 3) }

/-- SETC ISSUEPOL (04 R86). -/
def execSetcIssuepol (o : XS) (s : State) : Host.Outcome State Fault Refusal :=
  setc (.setcIssuepol o) o s anyValue fun s iss _ x => s.modCtx iss.ctx fun c => { c with issuepol := x.getLsbD 0 }

/-- SETC TRAPVEC: checked only at delivery (12 R256, R260). -/
def execSetcTrapvec (o : XS) (s : State) : Host.Outcome State Fault Refusal :=
  setc (.setcTrapvec o) o s anyValue fun s iss _ x => s.modCtx iss.ctx fun c => { c with trapvec := x }

/-- SETC FAULTQ raises PRIV (12 R261). -/
def execSetcFaultq (o : XS) (s : State) : Host.Outcome State Fault Refusal :=
  issued (.setcFaultq o) s false legal fun iss _ => s.raise iss cPRIV 0 0

/-- SETC LKSTAT (13 R290). -/
def execSetcLkstat (o : XS) (s : State) : Host.Outcome State Fault Refusal :=
  setc (.setcLkstat o) o s anyValue fun s iss _ x =>
    if x.getLsbD 0 then s.modCtx iss.ctx fun c => { c with lost := false } else s

/-- SETC STATCLR (02 R49). -/
def execSetcStatclr (o : XS) (s : State) : Host.Outcome State Fault Refusal :=
  setc (.setcStatclr o) o s anyValue fun s _ act x =>
    s.each act fun s a => s.modFibre a.2 fun f => { f with
      rsl := f.rsl && !x.getLsbD 0, mx := f.mx && !x.getLsbD 1 }

namespace State

/-- A write of CPSTAT (09 R200). -/
def cpWrite (s : State) (tid : Nat) (x : Dword) : State :=
  s.modTeam tid fun t =>
    let t := if x.getLsbD 0 then { t with cpErr := false, cpCause := 0 } else t
    if x.getLsbD 16 then { t with cpDrop := 0 } else t

/-- The stopped matrix operation of a team. -/
def stoppedMat (s : State) (tid : Nat) : Option Nat :=
  (s.mats.find? fun x => x.2.tid == tid && x.2.stopped).map (·.1)

/-- The flags written as 1 are cleared, and ERR while no operation is stopped (10 R237). -/
def mxClear (s : State) (tid : Nat) (x : Dword) : State :=
  s.modTeam tid fun t => { t with mx := { t.mx with
    err := t.mx.err && (t.mx.stp || !x.getLsbD 0)
    flg := t.mx.flg &&& ~~~((x >>> 16).setWidth 5)
    bflg := t.mx.bflg &&& ~~~((x >>> 21).setWidth 3) } }

/-- The stopped operation goes on from its cursor (10 R237). -/
def mxResume (s : State) (tid : Nat) (ignoring : Bool) : State :=
  match s.stoppedMat tid with
  | none => s
  | some id =>
    (s.modMat id fun m => { m with stopped := false, ignoring := ignoring }).modTeam tid fun t =>
      { t with mx := { t.mx with err := false, stp := false } }

/-- The stopped operation is abandoned: its number completes, ERR stays (10 R237). -/
def mxAbandon (s : State) (tid : Nat) : State :=
  match s.stoppedMat tid with
  | none => s
  | some id => (s.matEnd id).modTeam tid fun t => { t with mx := { t.mx with stp := false } }

/-- A write of MXSTAT: the clears, then the action while an operation is stopped (10 R237). -/
def mxWrite (s : State) (tid : Nat) (x : Dword) : State :=
  let stp := (s.team tid).mx.stp
  let s := s.mxClear tid x
  if !stp then s
  else
    match bits x.toNat 4 2 with
    | 1 => s.mxResume tid false
    | 2 => s.mxResume tid true
    | 4 => s.mxAbandon tid
    | _ => s

end State

/-- SETC CPSTAT that may clear ERR and ECAUSE (09 R200; log 6). -/
def execCpstatClearErr (o : XS) (s : State) : Host.Outcome State Fault Refusal :=
  setc (.cpstatClearErr o) o s anyValue fun s iss _ x => s.cpWrite (s.leadTeam iss.gid) x

/-- SETC CPSTAT that clears DROP alone (09 R200; log 6). -/
def execCpstatClearDrop (o : XS) (s : State) : Host.Outcome State Fault Refusal :=
  setc (.cpstatClearDrop o) o s anyValue fun s iss _ x => s.cpWrite (s.leadTeam iss.gid) x

/-- SETC MXSTAT raises ILLEGAL on a nonzero ACT that is no action while an operation is stopped (10 R237; 23 R456). -/
def mxBad (s : State) (x : Dword) : Bool :=
  let act := bits x.toNat 4 2
  match s.issue with
  | some iss => (s.team (s.leadTeam iss.gid)).mx.stp && act != 0 && act != 1 && act != 2 && act != 4
  | none => false

/-- SETC MXSTAT from a register or without an action (10 R237; log 6). -/
def execSetcMxstat (o : XS) (s : State) : Host.Outcome State Fault Refusal :=
  setc (.setcMxstat o) o s (mxBad s) fun s iss _ x => s.mxWrite (s.leadTeam iss.gid) x

/-- SETC MXSTAT with ACT 0b001: resume (10 R237). -/
def execMxstatResume (o : XS) (s : State) : Host.Outcome State Fault Refusal :=
  setc (.mxstatResume o) o s anyValue fun s iss _ x => s.mxWrite (s.leadTeam iss.gid) x

/-- SETC MXSTAT with ACT 0b010: resume, ignoring TRAPIF and trap enables (10 R237). -/
def execMxstatResumeIgnoring (o : XS) (s : State) : Host.Outcome State Fault Refusal :=
  setc (.mxstatResumeIgnoring o) o s anyValue fun s iss _ x => s.mxWrite (s.leadTeam iss.gid) x

/-- SETC MXSTAT with ACT 0b100: abandon (10 R237). -/
def execMxstatAbandon (o : XS) (s : State) : Host.Outcome State Fault Refusal :=
  setc (.mxstatAbandon o) o s anyValue fun s iss _ x => s.mxWrite (s.leadTeam iss.gid) x

/-- SETC TRAPINFO writes SKIP in a handler (12 R258). -/
def execSetcTrapinfo (o : XS) (s : State) : Host.Outcome State Fault Refusal :=
  issued (.setcTrapinfo o) s false legal fun iss act =>
    if act.any fun a => !s.inHandler a.2 then s.raise iss cPRIV 0 0
    else
      let x := s.srcG iss o.a
      let s := s.each act fun s a => s.modFibre a.2 fun f => { f with
        handler := f.handler.map fun h => { h with skip := x.getLsbD 24 } }
      s.advance iss

/-- SETC TRAPVA is ignored in a handler (23 R456). -/
def execSetcTrapva (o : XS) (s : State) : Host.Outcome State Fault Refusal :=
  issued (.setcTrapva o) s false legal fun iss act =>
    if act.any fun a => !s.inHandler a.2 then s.raise iss cPRIV 0 0 else s.advance iss

/-! Supervisor operations (12 R264, R265; 23 R468). -/

namespace State

/-- Fibres still parked under a record are released with a verdict: replay, or ACCESS at the instruction, which each
group that they are in by now takes (12 R265, R274). -/
def settleGroup (s : State) (r : FaultRec) (fail : Bool) : State :=
  let fs := r.fibres.filter fun f => (s.fibre f).status == .faulted r.id
  let s := s.each fs fun s f => s.modFibre f fun x => { x with status := .ready }
  if fail then
    s.each (nub (fs.map fun f => (s.fibre f).gid)) fun s gid =>
      let ms := fs.filter fun f => (s.fibre f).gid == gid
      s.raise { s.issueFor gid ms r.next with wr := r.wr } cACCESS 0 r.va
  else s

/-- The page of the handler's entry whose hash is not checked yet (13 R285, R286). -/
def hrefPage (s : State) (core ctx : Nat) : Option (Nat × Nat) :=
  let href := (s.ctx ctx).trapvec
  if href == 0 then none
  else
    match (s.targetCheck core ctx href true).2 with
    | .hash slot page => some (slot, page)
    | _ => none

/-- The ACCESS of a failed group has to wait: for the handler of other lanes that holds its lanes (12 R259), for an atomic of
the group, for the accesses that its spill follows, or for the page of the handler's entry (12 R255, R257; 13 R286). -/
def failWaits (s : State) (r : FaultRec) : Bool :=
  r.fibres.any fun f =>
    let gid := (s.fibre f).gid
    ((s.fibre f).status == .faulted r.id && !(s.fibre f).heldBy.isEmpty) || s.atomicOpen gid || (s.hrefPage (s.group gid).core r.ctx).isSome ||
      ((s.ctx r.ctx).trapvec != 0 && s.spillWaits (s.group gid).core r.ctx f)

/-- The verdicts kept for a context are carried out, but for those that still have to wait (12 R265, R274; 02 R55). -/
def settleResolved (s : State) (ctx : Nat) : State :=
  let rs := (s.ctx ctx).resolved
  (s.modCtx ctx fun c => { c with resolved := [] }).each rs fun s x =>
    if x.2 && s.failWaits x.1 then
      let pages := x.1.fibres.filterMap fun f => s.hrefPage (s.group (s.fibre f).gid).core ctx
      (s.modCtx ctx fun c => { c with resolved := c.resolved ++ [x] }).each pages fun s p =>
        if s.hashWait.contains (ctx, p) then s else { s with hashWait := s.hashWait ++ [(ctx, p)] }
    else s.settleGroup x.1 x.2

/-- A record of a parked group is resolved: at once, or at the restore where a stop is pending (12 R265; 02 R55). -/
def resolveGroup (s : State) (r : FaultRec) (fail : Bool) : State :=
  let c := s.ctx r.ctx
  let s := s.modCtx r.ctx fun c => { c with resolved := c.resolved ++ [(r, fail)] }
  if c.stop || c.saved then s else s.settleResolved r.ctx

/-- A dispatcher's or walker's read, or a held report, is made again or fails (12 R265). -/
def resolveLaunch (s : State) (r : FaultRec) (fail : Bool) : State :=
  let key := r.subject
  let isGraph := (s.graphs.find key).isSome
  let s := { s.modLaunch key fun l => { l with heldBy := none } with
    graphs := s.graphs.upd key fun g => { g with heldBy := none } }
  if r.src == 5 then
    if fail then s.finishLaunch key else (s.makeReport key).1
  else if isGraph then
    if fail then { s with graphs := s.graphs.upd key fun g => { g with active := true } }.graphError key cACCESS 12
    else s
  else if fail then s.failLaunch key cACCESS 12
  else s.prepareLaunch key

/-- RESOLVE of a record (12 R265). -/
def resolveRecord (s : State) (r : FaultRec) (fail : Bool) : State :=
  let s := s.modCtx r.ctx fun c => { c with records := c.records.del r.id }
  match r.src with
  | 0 => s.resolveGroup r fail
  | 1 => if fail then s.failCmd r.subject cACCESS
    else { s with cmds := s.cmds.upd r.subject fun c => { c with parked := none } }
  | _ => s.resolveLaunch r fail

/-- A launch has a team that firmware ended on a trap: it reports ERR with the first such cause (03 R66). -/
def launchErr (s : State) (key cause detail : Nat) : State :=
  s.modLaunch key fun l => if l.err then l else { l with err := true, cause := cause, detail := detail }

/-- RESUME of a held group (12 R265): 0 retry, 1 skip, 2 end. -/
def resumeRecord (s : State) (r : FaultRec) (how : Nat) : State :=
  let s := s.modCtx r.ctx fun c => { c with records := c.records.del r.id }
  let held := s.teams.map fun t => t.2.fibres.filterMap fun f =>
    if f.2.firm.contains r.id && t.2.ctx == r.ctx then some (⟨t.1, f.1⟩ : FibreId) else none
  let s := s.each held.flatten fun s f => s.modFibre f fun x => { x with firm := x.firm.filter (· != r.id) }
  match how with
  | 0 => s
  | 1 =>
    let after := if r.next == 0 then nextRef r.pc 3 else r.next
    s.each r.fibres fun s f => if (s.fibre f).live then s.modFibre f fun x => { x with pc := after } else s
  | _ =>
    match r.fibres with
    | [] => s
    | f :: l =>
      let first := (sortBy (fun f : FibreId => f.fid) (f :: l)).headD f
      let s := s.launchErr (s.team first.team).launch r.cause 0
      (s.exitFibres (s.liveFibres first.team)).dropRequests

/-- A context exists and is supervised by another (12 R264). -/
def supervises (s : State) (sup c : Nat) : Bool :=
  match s.contexts.find c with
  | some x => !x.ended && (s.ctx sup).supervised.contains c
  | none => false

/-- A page of 64 KiB that a TLB entry translates lies in a range of pages (06 R147). -/
def entryIn (e : TlbEntry) (ctx page n : Nat) : Bool :=
  e.ctx == ctx && if e.big then decide (page < (e.vpn + 1) * 8192) && decide (e.vpn * 8192 < page + n)
    else decide (page ≤ e.vpn) && decide (e.vpn < page + n)

/-- Every cached translation of some pages of a context is dropped (06 R147). -/
def invalidate (s : State) (ctx page n : Nat) : State :=
  let keep := fun (l : List TlbEntry) => l.filter fun e => !entryIn e ctx page n
  { s with
    cores := s.cores.map fun (i, c) => (i, { c with tlb := keep c.tlb })
    stlb := s.stlb.map fun (i, l) => (i, keep l) }

/-- A translation lease covers one of some pages (06 R147; 10 R228). -/
def leasedPage (s : State) (ctx page n : Nat) : Bool :=
  s.mats.any fun x => x.2.ctx == ctx && x.2.lease.any fun p => page ≤ p.1 && p.1 < page + n

/-- A record outstanding under a FAULTID. -/
def recordOf (s : State) (ctx id : Nat) : Option FaultRec := (s.ctx ctx).records.find id

end State

/-- A supervisor operation: PRIV outside a supervisor, the release, the operation, the acquire, and its status in g16.
`op` answers a status and a state, or none while it has to wait (12 R265; 23 R468). -/
def supervise (i : Instr) (s : State) (op : State → Issue → Nat → Nat → Nat → Option (Nat × State)) :
    Host.Outcome State Fault Refusal :=
  issued i s false legal fun iss act =>
    if !(s.ctx iss.ctx).supervisor then s.raise iss cPRIV 0 0
    else
      match s.syncStep iss.core act with
      | (s, false) => s.stall iss
      | (s, true) =>
        let a := fun (n : Nat) => (s.gReg iss.gid n).toNat
        match op s iss (a 16) (a 17) (a 18) with
        | none => s.stall iss
        | some (st, s) => ((s.acquire (act.map (·.2))).gWriteNow iss.gid 16 (BitVec.ofNat 64 st)).advance iss

/-- RESOLVE (12 R265). -/
def execResolve (o : XS) (s : State) : Host.Outcome State Fault Refusal :=
  supervise (.resolve o) s fun s iss c id how =>
    some <|
      if !s.supervises iss.ctx c then (1, s)
      else
        match s.recordOf c id with
        | none => (2, s)
        | some r =>
          if !r.recov || 1 < how then (3, s) else (0, s.resolveRecord r (how == 1))

/-- XLINV (12 R265; 06 R147): it completes when no lease covers a page. -/
def execXlinv (o : XS) (s : State) : Host.Outcome State Fault Refusal :=
  supervise (.xlinv o) s fun s iss c va n =>
    if !s.supervises iss.ctx c then some (1, s)
    else if va % 65536 != 0 || 2 ^ 48 ≤ va || n == 0 || 2 ^ 32 ≤ n then some (3, s)
    else if s.leasedPage c (va / 65536) n then none
    else some (0, s.invalidate c (va / 65536) n)

/-- RESUME (12 R265). -/
def execResume (o : XS) (s : State) : Host.Outcome State Fault Refusal :=
  supervise (.resume o) s fun s iss c id how =>
    some <|
      if !s.supervises iss.ctx c then (1, s)
      else
        match s.recordOf c id with
        | none => (2, s)
        | some r =>
          if !r.held || 2 < how then (3, s) else (0, s.resumeRecord r how)

/-! Instruction-cache locks (13 R289, R290; 20 R421, R422; 24 R477). -/

/-- The set that a locked line takes a way of (20 R421). -/
def lineSet (s : State) (l : Nat × Nat × Nat) : Nat := s.codeSet l.1 l.2.1 l.2.2 % 128

namespace State

/-- A line is locked, or not where the core or its set is full; the value tells (13 R289). -/
def lockLine (s : State) (core : Nat) (l : Nat × Nat × Nat) : State × Bool :=
  let c := s.core core
  if c.locked.contains l then (s, true)
  else if 512 ≤ c.locked.length || 4 ≤ (c.locked.filter fun x => lineSet s x == lineSet s l).length then (s, false)
  else (s.modCore core fun c => { c with locked := c.locked ++ [l] }, true)

/-- The last n words of a fetch line, given by its end, are fetched (13 R286, R289). -/
def fetchWords (s : State) (core ctx stop : Nat) : Nat → State × Except Move Unit
  | 0 => (s, .ok ())
  | n + 1 =>
    match s.codeWord core ctx (BitVec.ofNat 64 (stop - 4 * (n + 1))) with
    | (s, .error m) => (s, .error m)
    | (s, .ok _) => s.fetchWords core ctx stop n

/-- Lines are fetched and locked one by one; the count of those not locked (20 R421). -/
def lockLines (s : State) (iss : Issue) (slot : Nat) : List Nat → Nat → State × Except Move Nat
  | [], n => (s, .ok n)
  | l :: r, n =>
    match s.fetchWords iss.core iss.ctx (slot * 2 ^ 52 + (l + 1) * 128) 32 with
    | (s, .error m) => (s, .error m)
    | (s, .ok _) =>
      match s.lockLine iss.core (iss.ctx, slot, l) with
      | (s, true) => s.lockLines iss slot r n
      | (s, false) => s.lockLines iss slot r (n + 1)

/-- A LOCKI met something part of the way: a recoverable fault parks it and keeps the locks already made (20 R421); a trap,
or a page that waits for its check, leaves none of them (12 R255). -/
def lockFail (s : State) (iss : Issue) (before : List (Nat × Nat × Nat)) (m : Move) : State :=
  match m with
  | .page _ => s.moveFail iss m
  | _ => (s.modCore iss.core fun c => { c with locked := before }).moveFail iss m

end State

/-- LOCKI (20 R421, R422): the checks of 13 R285, without the marks of 04 R99 (log 25). -/
def execLocki (o : XS) (s : State) : Host.Outcome State Fault Refusal :=
  issued (.locki o) s false legal fun iss _ =>
    let r := s.srcG iss o.a
    let n := o.imm.toNat
    match s.refCheck iss.ctx r with
    | some c => s.moveFail iss (.trap c r.toNat)
    | none =>
      let line := refOfs r / 128
      if (s.codeSlot iss.ctx r).npage * 512 < line + n then s.raise iss cCFI 0 r.toNat
      else
        match s.lockLines iss (refSlot r) (stepsFrom line 1 n) 0 with
        | (t, .error m) => t.lockFail iss (s.core iss.core).locked m
        | (s, .ok k) => (s.gWriteNow iss.gid (opNum o.d) (BitVec.ofNat 64 k)).advance iss

/-- UNLOCKI (24 R477). -/
def execUnlocki (o : XS) (s : State) : Host.Outcome State Fault Refusal :=
  issued (.unlocki o) s false legal fun iss _ =>
    let r := s.srcG iss o.a
    let n := o.imm.toNat
    let line := refOfs r / 128
    let s := s.modCore iss.core fun c => { c with locked := c.locked.filter fun x =>
      !(x.1 == iss.ctx && x.2.1 == refSlot r && line ≤ x.2.2 && x.2.2 < line + n) }
    s.advance iss

end Sys2Proof.Machine
end

