-- ==== Sys2Proof/Machine/Context.lean ====
section
/-! DEFINITION. Contexts: their end, the fault queue, code-page checks, and switching out and in (06 R150; 12 R261 to
R274, R494; 13 R281, R282, R286, R287, R290, R291; 14 R303, R306). -/

namespace Sys2Proof.Machine

/-! Frames of the Druiraim transport that the device sends (14 R303). -/

/-- TAG of a frame under a session key, over its header with LEN and its payload (14 R303). -/
def frameTag (key : List Byte) (kind ctxid seq len : Nat) (payload : List Byte) : Nat :=
  let hdr := leBytes 8 (1 + kind * 2 ^ 8 + ctxid * 2 ^ 16 + seq * 2 ^ 32) ++ leBytes 8 len ++ List.replicate 16 0
  leNat ((hmac384 key (hdr ++ payload)).take 16)

namespace State

/-- A frame is sent; without a key its TAG is zero (14 R304). -/
def sendFrame (s : State) (port : Nat) (dest : Sender) (key : Option (List Byte)) (kind ctxid seq : Nat)
    (payload : List Byte) : State :=
  let tag := match key with
    | some k => frameTag k kind ctxid seq payload.length payload
    | none => 0
  s.transmit port (2 ^ 32 ≤ dest.ip) dest.ip (.druiraim dest kind ctxid seq payload tag)

/-- A fault notice goes to the owner's session, the one used last; without one it is dropped (14 R305, R306). Reasons:
1 FAULTQ unusable, 2 loader refusal, 3 context ended by ECC, 4 thermal shutdown (log 23). -/
def notice (s : State) (reason ctx : Nat) : State :=
  match (sortBy (fun x : Nat × Session => x.2.used) (s.dev.sessions.filter fun x => x.2.owner)).getLast? with
  | none => s
  | some (_, e) => s.sendFrame e.port e.sender (some e.skey) 0x20 0 0 (leBytes 2 reason ++ leBytes 2 ctx)

/-- A management reply's payloads, split in fragments of 8,996 bytes (14 R307). -/
def fragments (status : Nat) (results : List Byte) : List (List Byte) :=
  let cs := if results.isEmpty then [[]] else chunks 8996 results.length results
  ((upto cs.length).zip cs).map fun x => leBytes 1 status ++ leBytes 1 x.1 ++ leBytes 1 cs.length ++ [0] ++ x.2

/-- A number is one of the 256 below next (14 R305). -/
def recent (e : Session) (ctxid seq : Nat) : Bool :=
  let d := (e.next.getD ctxid 0 + 2 ^ 32 - seq) % 2 ^ 32
  decide (1 ≤ d) && decide (d ≤ 256)

/-- Replies of a session's frame are sent, and kept where its number is one of the 256 below next (14 R305, R310). -/
def replyAll (s : State) (sid : Nat) (kind ctxid seq : Nat) (ps : List (List Byte)) : State :=
  match s.dev.sessions.find sid with
  | none => s
  | some e =>
    let new := if recent e ctxid seq then ps.map fun p => (ctxid, seq, kind, p) else []
    let s := s.modDev fun d => { d with sessions := d.sessions.put sid { e with kept := e.kept ++ new } }
    s.each ps fun s p => s.sendFrame e.port e.sender (some e.skey) kind ctxid seq p

/-! The end of a context (12 R494). -/

/-- Everything of a context that could still act is gone: its fibres have exited (12 R494). -/
def killContext (s : State) (ctx : Nat) : State :=
  let mine := fun (tid : Nat) => (s.team tid).ctx == ctx
  let rs := s.requests.filter fun x => x.2.iss.ctx == ctx
  let s := s.each rs fun s x => { s with requests := s.requests.del x.1 }.qLeave x.1 x.2
  let s := s.each (nub (rs.map fun x => x.2.pa)) fun s pa => s.qServeAll pa
  let gone := fun (f : Fibre) => { f with
    status := .exited, rstack := [], spilled := 0, streams := [], late := [], handler := none, heldBy := [], firm := [] }
  let ended := fun (t : Team) => { t with
    ended := true, spad := [], tileBytes := [], banks := {}, fibres := t.fibres.mapVals gone }
  let strip := fun (c : Core) => { c with
    bankQueue := c.bankQueue.filter (fun x => !mine x.1)
    locked := c.locked.filter (fun x => x.1 != ctx)
    code := c.code.filter (fun x => x.ctx != ctx)
    drains := c.drains.filter (fun x => x.1 / 64 != ctx) }
  let stale := fun (p : Place) => match p with
    | .drain _ n => n / 64 == ctx
    | .groupG gid _ => (s.group gid).ctx == ctx
    | _ => s.teams.any fun t => t.2.ctx == ctx && p.ofTeam t.1
  { s with
    pending := s.pending.filter fun x => !mine x.2.fib.team
    packets := s.packets.filter fun x => !mine x.2.src.team
    flights := s.flights.filter fun x => (s.launch x.2.launch).ctx != ctx
    creditFlights := s.creditFlights.filter fun x => (s.launch x.2.1).ctx != ctx
    cmds := s.cmds.filter fun x => x.2.ctx != ctx
    mats := s.mats.filter fun x => x.2.ctx != ctx
    hashWait := s.hashWait.filter fun x => x.1 != ctx
    hashHeld := s.hashHeld.filter fun x => x.1 != ctx
    badElse := s.badElse.filter fun x => !stale x
    badReg := s.badReg.filter fun x => !mine x.1.team
    badSpad := s.badSpad.filter fun x => !mine x.1
    groups := s.groups.filter fun x => x.2.ctx != ctx
    cores := s.cores.mapVals strip
    graphs := s.graphs.filter fun x => x.2.ctx != ctx
    qps := s.qps.filter fun x => x.2.ctx != ctx
    teams := s.teams.mapVals fun t => if t.ctx == ctx then ended t else t }.modCtx ctx fun c => { c with
      ended := true, stop := false, saved := false, queues := [], regions := [], breaks := [], saver := none
      records := [], resolved := [] }

/-- AALLOC waiters of every core are looked at. -/
def serveAllBanks (s : State) : State := s.each (s.cores.map (·.1)) fun s c => s.serveBanks c

/-- A context is ended: every launch of it that holds a table entry is to complete with ERR, after its release and the launches
that it spawned, and a report that was held is made again (12 R494; 03 R67). A record that was never taken is waited for by
nobody. A graph's node makes no report (03 R75). -/
def endContext (s : State) (ctx cause detail : Nat) : State :=
  let due := (s.ctx ctx).saver
  let keys := (s.launches.filter fun x => x.2.ctx == ctx).map (·.1)
  let s := s.each keys fun s k =>
    let made := (s.graphs.find k).map (·.made)
    s.modLaunch k fun l => { l with
      phase := max l.phase 1, err := true, cause := cause, detail := detail, unstarted := [], running := []
      children := (s.launches.filter fun x => x.2.parent == k).length, heldBy := none, started := made.getD l.started }
  let s := s.killContext ctx
  let s := match due with
    | some d => s.replyAll d.session 0x11 0 d.seq (fragments 1 [])
    | none => s
  s.serveAllBanks

/-! The fault queue (12 R261 to R263). -/

/-- A fault record's 64 bytes (12 R262). -/
def recordBytes (r : FaultRec) : List Byte :=
  leBytes 8 (r.cause % 256 + r.src % 16 * 2 ^ 8 + b2n r.recov * 2 ^ 12 + b2n r.wr * 2 ^ 13 + b2n r.held * 2 ^ 14 +
      b2n r.dbl * 2 ^ 15 + r.detail % 65536 * 2 ^ 16 + r.core % 256 * 2 ^ 32 + r.team % 2 ^ 24 * 2 ^ 40) ++
    leBytes 8 (r.fid % 2 ^ 32 + r.id % 2 ^ 32 * 2 ^ 32) ++ leBytes 8 r.launchId.toNat ++ leBytes 8 r.pc.toNat ++
    leBytes 8 (r.va % 2 ^ 48) ++ leBytes 8 r.lanes.toNat ++ leBytes 8 r.ctl.toNat ++ leBytes 8 (r.ctx % 65536)

/-- A record awaits RESOLVE or RESUME once it is enqueued (12 R262). -/
def awaits (r : FaultRec) : Bool := r.recov || r.held

/-- FAULTQ is unusable: firmware ends the context and tells the host; an ended one only loses the record (12 R263). -/
def faultqUnusable (s : State) (ctx : Nat) : State :=
  if (s.ctx ctx).ended then s.modCtx ctx fun c => { c with waiting := [] }
  else ((s.modCtx ctx fun c => { c with waiting := [] }).endContext ctx cENDED 2).notice 1 ctx

end State

/-- The oldest waiting fault record is enqueued on FAULTQ, as an ENQ that never parks (12 R263). -/
def execFaultRecordEnqueue (ctx : Nat) (s : State) : Host.Outcome State Fault Refusal :=
  match (s.ctx ctx).waiting with
  | [] => .fault (.notEnabled "FAULT_RECORD_ENQUEUE")
  | r :: l =>
    let q := (s.ctx ctx).faultq
    if q % 64 != 0 then .next (s.faultqUnusable ctx)
    else
      match s.translateRaw ctx q .write true with
      | (s, .ok pa) =>
        match s.qOffer ctx pa 64 (if r.src == 0 || r.src == 1 then r.core / 48 else 0) [State.recordBytes r] with
        | (s, .ok (some _)) =>
          .next (s.modCtx ctx fun c => { c with
            waiting := l, records := if State.awaits r then c.records.put r.id r else c.records })
        | (_, .ok none) => .fault (.notEnabled "FAULT_RECORD_ENQUEUE")
        | (s, .error _) => .next (s.faultqUnusable ctx)
      | (s, _) => .next (s.faultqUnusable ctx)

/-! Code pages (13 R286, R287). -/

namespace State

/-- Every instruction-cache line of a slot of a context is dropped, locked ones included (13 R287). -/
def dropLocks (s : State) (ctx slot : Nat) : State :=
  let hit := fun (x : Nat × Nat × Nat) => x.1 == ctx && x.2.1 == slot
  let any := s.cores.any fun x => x.2.locked.any hit
  let s := { s with cores := s.cores.mapVals fun c => { c with
    code := c.code.filter (fun x => !hit (x.ctx, x.slot, x.line)), locked := c.locked.filter fun x => !hit x } }
  if any then s.modCtx ctx fun c => { c with lost := true } else s

def modSlot (s : State) (ctx slot : Nat) (f : CodeSlot → CodeSlot) : State :=
  s.modCtx ctx fun c => { c with slots := c.slots.upd slot f }

/-- The issue of a group that waits for a check, by the lanes that still stand there (13 R286). -/
def heldNow (s : State) (iss : Issue) : Option Issue :=
  let lanes := iss.lanes.filter fun y =>
    let f := s.fibre y.2
    f.live && f.gid == iss.gid && f.pc == iss.pc && f.status == .ready && f.firm.isEmpty && f.heldBy.isEmpty
  if lanes.isEmpty then none else some { iss with lanes := lanes }

/-- Every group that waits for a page's check takes what came of it (13 R286, R287). -/
def eachHeld (s : State) (ws : List Issue) (f : State → Issue → State) : State :=
  s.each ws fun s iss => match s.heldNow iss with
    | some iss => f s iss
    | none => s

/-- The issues that wait for a page's check. -/
def hashWaiters (s : State) (ctx slot page : Nat) : List Issue :=
  (s.hashHeld.filter fun x => x.1 == ctx && x.2.1 == slot && x.2.2.1 == page).map (·.2.2.2)

/-- A check is over: nobody waits for it any more. -/
def hashOver (s : State) (ctx slot page : Nat) : State :=
  { s with
    hashWait := s.hashWait.filter (· != (ctx, slot, page))
    hashHeld := s.hashHeld.filter fun x => x.1 != ctx || x.2.1 != slot || x.2.2.1 != page }

/-- The checks of a slot are given up, and its lines dropped: what is installed or rebound there is checked afresh (13
R286). -/
def slotRewritten (s : State) (ctx slot : Nat) : State :=
  { s with
    hashWait := s.hashWait.filter fun x => x.1 != ctx || x.2.1 != slot
    hashHeld := s.hashHeld.filter fun x => x.1 != ctx || x.2.1 != slot }.dropLocks ctx slot

end State

/-- A first-fetch check completes: the page is verified, or its slot becomes untrusted and every group that waits takes
CODEHASH (13 R286, R287). An uncorrectable error in the page, or a page that is not mapped any more, is taken by the
waiting groups as a fetch takes it (06 R150; 13 R285); DEDUCED (log 38): with the page's address. -/
def execCodePageHashCheck (ctx slot page : Nat) (s : State) : Host.Outcome State Fault Refusal :=
  if !s.hashWait.contains (ctx, slot, page) then .fault (.notEnabled "CODE_PAGE_HASH_CHECK")
  else
    let c := (s.ctx ctx).slots.getD slot {}
    let va := c.laddr + 65536 * page
    let ws := s.hashWaiters ctx slot page
    match s.translateRaw ctx va .fetch false with
    | (s, .ok pa) =>
      let s := s.hashOver ctx slot page
      if s.eccBad pa 65536 then .next (s.eachHeld ws fun s iss => s.raise iss cECC 0 va)
      else if sha384 (s.homeBytes pa 65536) == c.pageHash.getD page [] then
        .next (s.modSlot ctx slot fun c => { c with vbm := c.vbm ++ [page] })
      else
        .next (((s.modSlot ctx slot fun c => { c with state := 2 }).dropLocks ctx slot).eachHeld ws fun s iss =>
          s.raiseCodeHash iss)
    | (s, .fault true) => .next ((s.hashOver ctx slot page).eachHeld ws fun s iss => s.parkPage iss va false)
    | (s, .ecc) => .next ((s.hashOver ctx slot page).eachHeld ws fun s iss => s.raise iss cECC 0 va)
    | (s, _) => .next ((s.hashOver ctx slot page).eachHeld ws fun s iss => s.raise iss cACCESS 0 va)

/-! Write-backs (06 R135, R150). -/

namespace State

/-- Leaves of a level-3 or level-2 table whose page holds a physical address: the virtual page and its size. -/
def findIn (s : State) (pa tbl level va n : Nat) : List (Nat × Nat) :=
  (upto n).filterMap fun i =>
    let p := (s.home64 (tbl + 8 * i)).toNat
    let size := if level == 2 then 2 ^ 29 else 2 ^ 16
    let at_ := va + i * size
    if bit p 0 && bit p 1 && !bit p 5 then
      match leafTarget p at_ (level == 2) with
      | .ok q => if q / size == pa / size then some (at_, size) else none
      | _ => none
    else none

/-- A virtual address of a context that maps a physical one (06 R144, R145). -/
def mappedAt (s : State) (ctx pa : Nat) : Option Nat :=
  let root := (s.ctx ctx).root
  let tables := fun (tbl n va size : Nat) => (upto n).filterMap fun i =>
    let p := (s.home64 (tbl + 8 * i)).toNat
    if bit p 0 && !bit p 1 then some (bits p 46 16 * 2 ^ 16, va + i * size) else none
  let twos := tables root 64 0 (2 ^ 42)
  let hits := (twos.map fun t => s.findIn pa t.1 2 t.2 8192 ++
    ((tables t.1 8192 t.2 (2 ^ 29)).map fun u => s.findIn pa u.1 3 u.2 8192).flatten).flatten
  hits.head?.map fun h => h.1 + pa % h.2

/-- An uncorrectable error without a consumer: every context that maps the line is reported and ended (06 R150). -/
def endMappers (s : State) (pa : Nat) : State :=
  s.each s.contexts fun s (c, x) =>
    if x.ended then s
    else
      match s.mappedAt c pa with
      | none => s
      | some va =>
        let r : FaultRec :=
          { cause := cECC, src := 3, recov := false, wr := true, held := false, dbl := false, detail := 0, core := 0xFF
            team := 0, fid := 0, id := 0, launchId := 0, pc := 0, va := va, lanes := 0, ctl := 0, ctx := c }
        ((s.addRecord c r).2.endContext c cECC 0).notice 3 c

end State

/-- An owned word is written back and its ownership released (06 R135). An uncorrectable error found in it ends the
contexts that map it (06 R150). -/
def execOwnerWriteBack (core word : Nat) (s : State) : Host.Outcome State Fault Refusal :=
  match (s.core core).l1.find word with
  | none => .fault (.notEnabled "OWNER_WRITE_BACK")
  | some x =>
    if !x.owned || s.ackPending core word then .fault (.notEnabled "OWNER_WRITE_BACK")
    else
      let bad := s.badWord word
      let s := s.writeBack core word
      .next (if bad then s.endMappers (4 * word) else s)

/-! Stopping (12 R268 to R273). -/

namespace State

/-- A context that runs: it exists, is not saved and not ended. -/
def running (s : State) (ctx : Nat) : Bool :=
  match s.contexts.find ctx with
  | some c => !c.saved && !c.ended
  | none => false

/-- A stop request: its AALLOC waiters leave their queues, and what comes after them is served (12 R269; 02 R495). -/
def requestStop (s : State) (ctx : Nat) : State :=
  let s := s.modCtx ctx fun c => { c with stop := true }
  let mine := fun (tid : Nat) => (s.team tid).ctx == ctx
  { s with cores := s.cores.mapVals fun c =>
      { c with bankQueue := c.bankQueue.filter fun x => !mine x.1 } }.serveAllBanks

/-- A fibre that a save can take: Blocked, Faulted, held, or held for firmware (12 R271; 02 R53). -/
def saveable (f : Fibre) : Bool := !f.live || f.status != .ready || !f.firm.isEmpty || !f.heldBy.isEmpty

/-- The context's teams. -/
def teamsOf (s : State) (ctx : Nat) : List (Nat × Team) := s.teams.filter fun x => x.2.ctx == ctx

/-- The cores that hold live fibres of a context: a release of theirs waits for every registration of these (07 R160,
R163). -/
def hostsOf (s : State) (ctx : Nat) : List Nat :=
  nub (((s.teamsOf ctx).map fun t => (s.liveFibres t.1).map s.coreOf).flatten)

/-- Everything has settled: fibres, requests, REORDs, results, stores, engines and channels (12 R271; 07 R163). -/
def settled (s : State) (ctx : Nat) : Bool :=
  let ts := s.teamsOf ctx
  let mine := fun (f : FibreId) => (s.team f.team).ctx == ctx
  ts.all (fun t => t.2.fibres.all fun f => saveable f.2) && !(s.requests.any fun x => x.2.iss.ctx == ctx) &&
    ts.all (fun t => (s.reordScope t.1).isNone) && !(s.pending.any fun x => mine x.2.fib) &&
    !(s.packets.any fun x => mine x.2.src) && !(s.releases.any fun x => x.2.fibres.any mine) &&
    !(s.registrations.any fun x => (s.hostsOf ctx).contains x.2.core || x.2.fibres.any mine) &&
    !(s.flights.any fun x => (s.launch x.2.launch).ctx == ctx) && !(s.hashWait.any fun x => x.1 == ctx) &&
    s.mats.all (fun x => x.2.ctx != ctx || x.2.parts.isEmpty) &&
    s.cmds.all fun x => x.2.ctx != ctx || x.2.targets.all fun t => t.2.tid.isNone || t.2.queue.isEmpty

/-- A fibre as it is saved: its writes have landed, prefetched elements are discarded (09 R211), a refill is made again
(04 R97), and its release and its fences are over (07 R163). -/
def savedFibre (f : Fibre) : Fibre :=
  let fresh := fun (q : Stream) => if q.out then q else { q with ahead := [], bad := none }
  { f.flush (2 ^ 64) with
    gid := 0, spin := false, streams := f.streams.map fresh, refill := none, relWait := none, fenceRel := []
    fenceAcq := none }

/-- The GRANT that a team's fibres read: that of the group of the lowest live one (02 R38). DESIGN CHOICE (log 38): a
gallery REORD may leave a team's fibres in groups of several grants. -/
def grantAtStop (s : State) (tid : Nat) : Nat :=
  match s.liveFibres tid with
  | [] => (s.team tid).grant
  | f :: _ => (s.group (s.fibre f).gid).grant

/-- The context is saved: its groups are gone, its locks are dropped, its slots recorded (12 R271, R272; 13 R290, R291). -/
def saveContext (s : State) (ctx : Nat) : State :=
  let s := s.each ((s.teamsOf ctx).map (·.1)) fun s tid =>
    let grant := s.grantAtStop tid
    s.modTeam tid fun t => { t with
      stopGrant := grant, g := (gFlush t.g t.late 0 fun _ => true).1, late := []
      fibres := t.fibres.mapVals savedFibre }
  let s := { s with
    groups := s.groups.filter fun x => x.2.ctx != ctx
    cores := s.cores.mapVals fun c => { c with
      locked := c.locked.filter (fun x => x.1 != ctx), code := c.code.filter fun x => x.ctx != ctx } }
  (s.modCtx ctx fun c => { c with
    saved := true, lost := true
    recorded := (c.slots.filter fun x => x.2.state != 0).map fun x => (x.1, x.2.hash, x.2.state) }).serveAllBanks

/-- The reply to a SAVE, and the bytes of its area, whose layout the spec does not give: free values (14 R307; log 23). -/
def answerSave (s : State) (ctx : Nat) : State :=
  match (s.ctx ctx).saver with
  | none => s
  | some d =>
    let bs := (upto d.bytes).map (Config.freeByte (2 ^ 65 + s.fresh))
    let s := { s with fresh := s.fresh + 1 }.remoteWrite d.area bs
    (s.modCtx ctx fun c => { c with saver := none }).replyAll d.session 0x11 0 d.seq (fragments 0 (leBytes 8 d.bytes))

end State

/-- The scheduler sends a stop request (12 R269). -/
def execStopRequest (ctx : Nat) (s : State) : Host.Outcome State Fault Refusal :=
  if !s.running ctx || (s.ctx ctx).stop then .fault (.notEnabled "STOP_REQUEST") else .next (s.requestStop ctx)

/-- Stop completion: everything has settled, and the context is saved (12 R271). -/
def execStopCompletion (ctx : Nat) (s : State) : Host.Outcome State Fault Refusal :=
  if !s.running ctx || !(s.ctx ctx).stop || !s.settled ctx then .fault (.notEnabled "STOP_COMPLETION")
  else .next ((s.saveContext ctx).answerSave ctx)

/-! Restoring (12 R274; 03 R71; 02 R38). -/

/-- The core at the same position of the mapped chamber (03 R71). -/
def mapCore (map : List Nat) (core : Nat) : Nat := 4 * map.getD (core / 4) 255 + core % 4

namespace State

/-- The chambers that a saved context uses: of started and of pending teams, and of its drain stores (03 R71; 12 R272). -/
def usedChambers (s : State) (ctx : Nat) : List Nat :=
  let a := ((s.teamsOf ctx).filter fun x => !x.2.ended).map fun x => chamberOfCore x.2.core
  let b := (s.launches.filter fun x => x.2.ctx == ctx).map fun x =>
    x.2.unstarted.map fun n => chamberOfCore (x.2.place.getD n 0)
  let c := (s.cores.filter fun x => x.2.drains.any fun d => d.1 / 64 == ctx).map fun x => chamberOfCore x.1
  sortBy (fun c : Nat => c) (nub (a ++ b.flatten ++ c))

/-- A chamber map gives every used chamber a chamber of its own (14 R307). -/
def mapOk (s : State) (ctx : Nat) (map : List Nat) : Bool :=
  let new := (s.usedChambers ctx).map fun c => map.getD c 255
  new.all (· < 48) && (nub new).length == new.length

/-- A restore after which an interlocked context would hold a WDEP object (13 R281, R282). -/
def modeConflict (s : State) (ctx : Nat) : Bool :=
  let sl := (s.ctx ctx).slots.filter fun x => x.2.state != 0
  sl.any (fun x => x.2.step != 1) && sl.any fun x => x.2.wdep

/-- Every recorded object stands in its slot, at whatever address (13 R291). -/
def hashesOk (s : State) (ctx : Nat) : Bool :=
  (s.ctx ctx).recorded.all fun x =>
    let c := (s.ctx ctx).slots.getD x.1 {}
    c.state != 0 && c.hash == x.2.1

/-- The loader refuses a restore (13 R282, R291). -/
def restoreRefused (s : State) (ctx : Nat) : Bool := !s.hashesOk ctx || s.modeConflict ctx

/-- Every started team of a saved context finds its footprint on its mapped core (12 R274), and its parked copy commands and
matrix operations their places there: DEDUCED (log 34), since an engine holds at most 256 of those and a core at most 32 of
these (09 R190; 10 R213). -/
def restoreFits (s : State) (ctx : Nat) (map : List Nat) : Bool :=
  let ts := (s.teamsOf ctx).filter fun x => !x.2.ended
  (nub (ts.map fun x => mapCore map x.2.core)).all fun core =>
    let new := ts.filter fun x => mapCore map x.2.core == core
    let old := s.residents core
    let all := old ++ new.map (·.2)
    let sum : (Team → Nat) → Nat := fun f => (all.map f).foldl (· + ·) 0
    let limit := (s.core core).widthLimit
    let groups := fun (ctl : Bool) =>
      (s.groups.filter fun x => x.2.core == core && (x.2.slot == 4) == ctl).length +
        ((new.filter fun x => x.2.control == ctl).map fun x =>
          s.groupsWith x.1 (if ctl then 1 else min x.2.req limit)).foldl (· + ·) 0
    let engine := fun (l : List (Nat × Nat)) =>
      (l.filter fun x => x.2 == core && !(s.ctx x.1).saved || x.1 == ctx && mapCore map x.2 == core).length
    let banks := (all.map fun t => t.banks.held).flatten
    let regs := (new.map fun t => recRegs (s.launch t.2.launch).words t.2.member).foldl (· + ·) 0
    decide (s.regsHeld core + regs ≤ 524288) && decide (sum (fun t => t.trows) ≤ 1024) &&
      decide (sum (fun t => t.spadBytes) ≤ 524288) && decide (groups false ≤ 256) && decide (groups true ≤ 8) &&
      decide (engine (s.cmds.map fun x => (x.2.ctx, x.2.core)) ≤ 256) &&
      decide (engine (s.mats.map fun x => (x.2.ctx, x.2.core)) ≤ 32) &&
      (nub banks).length == banks.length

/-- Drain stores move with their chambers (12 R272). -/
def moveDrains (s : State) (ctx : Nat) (map : List Nat) : State :=
  let mine := fun (x : Nat × Drain) => x.1 / 64 == ctx
  let taken := (s.cores.map fun x => (x.2.drains.filter mine).map fun d => (mapCore map x.1, d)).flatten
  let s := { s with cores := s.cores.mapVals fun c => { c with drains := c.drains.filter fun d => !mine d } }
  s.each taken fun s x => s.modCore x.1 fun c => { c with drains := c.drains.put x.2.1 x.2.2 }

/-- A team takes its place on its mapped core, under a new generation tag and a grant of that core (12 R274). It is
re-sliced where that is not the GRANT at the stop (02 R38). What was parked before issue, and a group that was saved as it
waited for its operation's tiles (21 R429), issues again. -/
def replaceTeam (s : State) (tid : Nat) (map : List Nat) : State :=
  let t := s.team tid
  let core := mapCore map t.core
  let s := s.modCore core fun c => { c with nextTag := c.nextTag + 1 }
  let grant := if t.control then 1 else min t.req (s.core core).widthLimit
  let cut := grant != t.stopGrant
  let again := fun (f : Fibre) => { f with
    rsl := f.rsl || (cut && f.live), status := if f.status == .blocked .stopped || f.status == .blocked .matrix then .ready else f.status }
  let s := s.modTeam tid fun t => { t with
    core := core, tag := (s.core core).nextTag, grant := grant, fibres := t.fibres.mapVals again }
  s.formTeam tid false

/-- AALLOC waiters of a restored team join the tail again (17 R350). -/
def rejoin (s : State) (tid : Nat) : State :=
  let ws := (s.liveFibres tid).filterMap fun f => match (s.fibre f).status with
    | .blocked (.banks n) => some (n, (s.fibre f).gid)
    | _ => none
  let gs := nub (ws.map (·.2))
  s.each gs fun s g => s.modCore (s.group g).core fun c => { c with
    bankQueue := c.bankQueue ++ [(tid, ((ws.filter fun x => x.2 == g).map (·.1)).headD 1, g)] }

/-- Commands and operations follow their teams, and commands sample the tags of their targets again (09 R206). -/
def followEngines (s : State) (ctx : Nat) : State :=
  let tgt := fun (x : CTarget) => match x.tid with
    | some t => { x with tag := (s.team t).tag }
    | none => x
  let cmd := fun (c : Cmd) =>
    if c.ctx == ctx then { c with core := (s.team c.tid).core, targets := c.targets.mapVals tgt } else c
  let mat := fun (m : MatOp) => if m.ctx == ctx then { m with core := (s.team m.tid).core } else m
  { s with cmds := s.cmds.mapVals cmd, mats := s.mats.mapVals mat }

/-- A saved context is restored by a chamber map (12 R274; 13 R281, R291). -/
def restoreContext (s : State) (ctx : Nat) (map : List Nat) : State :=
  let used := s.usedChambers ctx
  let part := (upto 48).filter fun c =>
    (bit (s.ctx ctx).partition c && !used.contains c) || used.any fun o => map.getD o 255 == c
  let s := s.modCtx ctx fun c => { c with
    saved := false, stop := false, partition := part.foldl (fun x c => x + 2 ^ c) 0
    ilk := c.slots.any (fun x => x.2.state != 0 && x.2.step != 1)
    slots := (c.slots.map fun (i, x) =>
      let untrusted := (c.recorded.getD i ([], 0)).2 == 2
      (i, { x with vbm := [], state := if untrusted then 2 else x.state }))
    recorded := [] }
  let s := s.moveDrains ctx map
  let move := fun (l : Launch) => if l.ctx == ctx then { l with place := l.place.map (mapCore map) } else l
  let s := { s with launches := s.launches.mapVals move }
  let ts := ((s.teamsOf ctx).filter fun x => !x.2.ended).map (·.1)
  let s := s.each ts fun s t => s.replaceTeam t map
  let s := s.acquire (ts.map s.liveFibres).flatten
  let s := ((s.followEngines ctx).rejoinChannels ctx).each ts fun s t => (s.rejoin t).checkSetw t
  (s.settleResolved ctx).serveAllBanks

end State

/-- Firmware restores a saved context (12 R274). One that the loader refuses is reported to the host and stays saved (13
R282, R291). -/
def execContextRestore (ctx : Nat) (map : List Nat) (s : State) : Host.Outcome State Fault Refusal :=
  if !(s.ctx ctx).saved || !s.mapOk ctx map || !s.restoreFits ctx map then .fault (.notEnabled "CONTEXT_RESTORE")
  else if s.restoreRefused ctx then .next (s.notice 2 ctx)
  else .next (s.restoreContext ctx map)

end Sys2Proof.Machine
end

