-- ==== Sys2Proof/Machine/Crypto.lean ====
section
/-! DEFINITION. The signatures and the key agreement that the spec names by their standards: RSASSA-PSS with SHA-384,
SLH-DSA-SHA2-192s (FIPS 205), ECDH over P-384, and the identity keys (14 R299 to R301, R304, R308; log 13). -/

namespace Sys2Proof.Machine

/-! Numbers and bytes. -/

/-- Power by repeated squaring, for exponents below 2^n: modulus, n, base, exponent. -/
def powMod (m : Nat) : Nat → Nat → Nat → Nat
  | 0, _, _ => 1 % m
  | n + 1, b, e =>
    if e == 0 then 1 % m
    else
      let h := powMod m n (b * b % m) (e / 2)
      if e % 2 == 1 then b * h % m else h

/-- Two byte strings, byte by byte. -/
def xorBytes (a b : List Byte) : List Byte := (a.zip b).map fun x => x.1 ^^^ x.2

/-- MGF1 of n bytes under a hash, in at most k blocks. -/
def mgf1 (hash : List Byte → List Byte) (seed : List Byte) (k n : Nat) : List Byte :=
  (((List.range k).map fun i => hash (seed ++ beBytes 4 i)).flatten).take n

/-- HKDF-SHA-384 of n bytes, at most 255 blocks of 48. -/
def hkdfExpand (prk info : List Byte) (n : Nat) : List Byte :=
  (go prk info 1 [] (n / 48 + 1)).take n
where
  /-- Blocks from the i-th on, after block t. -/
  go (prk info : List Byte) (i : Nat) (t : List Byte) : Nat → List Byte
    | 0 => []
    | k + 1 =>
      let t := hmac384 prk (t ++ info ++ [BitVec.ofNat 8 i])
      t ++ go prk info (i + 1) t k

/-! RSASSA-PSS with SHA-384, a 48-byte salt, RSA-3072 and the exponent 65,537. -/

/-- H and the masked block of an encoded message. -/
def pssHash (m salt : List Byte) : List Byte := sha384 (List.replicate 8 0 ++ sha384 m ++ salt)

/-- The mask of a block of 335 bytes, its first bit cleared. -/
def pssUnmask (h db : List Byte) : List Byte :=
  match xorBytes db (mgf1 sha384 h 7 335) with
  | [] => []
  | x :: r => (x &&& 0x7F) :: r

/-- A signature verifies under a modulus, both 384 bytes. -/
def pssVerify (key m sig : List Byte) : Bool :=
  let n := bigEndian key
  let s := bigEndian sig
  let em := beBytes 384 (powMod n 17 s 65537)
  let h := (em.drop 335).take 48
  let db := pssUnmask h (em.take 335)
  key.length == 384 && sig.length == 384 && decide (2 ^ 3071 ≤ n) && decide (s < n) && em.getLastD 0 == 0xBC &&
    (em.headD 0).toNat < 128 && db.take 287 == List.replicate 286 0 ++ [1] && h == pssHash m (db.drop 287)

/-- The signature of a message by a modulus and its private exponent, with a salt. -/
def pssSign (n d : Nat) (m salt : List Byte) : List Byte :=
  let h := pssHash m salt
  let db := pssUnmask h (List.replicate 286 0 ++ [1] ++ salt)
  beBytes 384 (powMod n 3072 (bigEndian (db ++ h ++ [0xBC])) d)

/-! SHA-512 and SHA-256, by the machinery of SHA-384. -/

/-- SHA-512. -/
def sha512 (m : List Byte) : List Byte :=
  let p := hashPad m
  ((hashBlocks (p.length / 128) p ((hashPrimes.take 8).map (rootFrac 2))).map fun x => beBytes 8 x.toNat).flatten

/-- HMAC-SHA-512 under a key of at most 128 bytes. -/
def hmac512 (key m : List Byte) : List Byte :=
  let k := key ++ List.replicate (128 - key.length) 0
  sha512 ((k.map (· ^^^ 0x5C)) ++ sha512 ((k.map (· ^^^ 0x36)) ++ m))

/-- The message schedule of SHA-256, newest word first. -/
def hashSchedule32 : Nat → List Word → List Word
  | 0, w => w
  | n + 1, w =>
    let x := w.getD 1 0
    let y := w.getD 14 0
    let s1 := (x.rotateRight 17) ^^^ (x.rotateRight 19) ^^^ (x >>> 10)
    let s0 := (y.rotateRight 7) ^^^ (y.rotateRight 18) ^^^ (y >>> 3)
    hashSchedule32 n ((s1 + w.getD 6 0 + s0 + w.getD 15 0) :: w)

/-- One round of SHA-256. -/
def hashRound32 (v : List Word) (kw : Word × Word) : List Word :=
  match v with
  | [a, b, c, d, e, f, g, h] =>
    let s1 := (e.rotateRight 6) ^^^ (e.rotateRight 11) ^^^ (e.rotateRight 25)
    let s0 := (a.rotateRight 2) ^^^ (a.rotateRight 13) ^^^ (a.rotateRight 22)
    let t1 := h + s1 + ((e &&& f) ^^^ (~~~e &&& g)) + kw.1 + kw.2
    let t2 := s0 + ((a &&& b) ^^^ (a &&& c) ^^^ (b &&& c))
    [t1 + t2, a, b, c, d + t1, e, f, g]
  | _ => v

/-- The first 32 fractional bits of a root. -/
def rootFrac32 (k p : Nat) : Word := (rootFrac k p >>> 32).setWidth 32

/-- The 64 round constants of SHA-256. -/
def hashK32 : List Word := (hashPrimes.take 64).map (rootFrac32 3)

/-- One block of 64 bytes. -/
def hashBlock32 (h : List Word) (block : List Byte) : List Word :=
  let w := (List.range 16).map fun i => BitVec.ofNat 32 (bigEndian ((block.drop (4 * i)).take 4))
  let ws := (hashSchedule32 48 w.reverse).reverse
  (h.zip ((hashK32.zip ws).foldl hashRound32 h)).map fun x => x.1 + x.2

/-- The blocks of a padded message, n of them. -/
def hashBlocks32 : Nat → List Byte → List Word → List Word
  | 0, _, h => h
  | n + 1, m, h => hashBlocks32 n (m.drop 64) (hashBlock32 h (m.take 64))

/-- SHA-256. -/
def sha256 (m : List Byte) : List Byte :=
  let p := m ++ [0x80] ++ List.replicate ((119 - m.length % 64) % 64) 0 ++ beBytes 8 (8 * m.length)
  ((hashBlocks32 (p.length / 64) p ((hashPrimes.take 8).map (rootFrac32 2))).map fun x => beBytes 4 x.toNat).flatten

/-! SLH-DSA-SHA2-192s (FIPS 205): n = 24, h = 63, d = 7, h' = 9, a = 14, k = 17, w = 16, len = 51, m = 39. -/

/-- An address: layer, tree, type and its three words. -/
structure SlhAdrs where
  layer : Nat := 0
  tree : Nat := 0
  kind : Nat := 0
  x : Nat := 0
  y : Nat := 0
  z : Nat := 0

/-- An address, compressed to 22 bytes. -/
def SlhAdrs.bytes (a : SlhAdrs) : List Byte :=
  beBytes 1 a.layer ++ beBytes 8 a.tree ++ beBytes 1 a.kind ++ beBytes 4 a.x ++ beBytes 4 a.y ++ beBytes 4 a.z

/-- F and PRF: the public seed, an address, 24 bytes. -/
def slhF (seed : List Byte) (a : SlhAdrs) (m : List Byte) : List Byte :=
  (sha256 (seed ++ List.replicate 40 0 ++ a.bytes ++ m)).take 24

/-- H and T_l. -/
def slhH (seed : List Byte) (a : SlhAdrs) (m : List Byte) : List Byte :=
  (sha512 (seed ++ List.replicate 104 0 ++ a.bytes ++ m)).take 24

/-- The i-th piece of 24 bytes. -/
def slhPiece (l : List Byte) (i : Nat) : List Byte := (l.drop (24 * i)).take 24

/-- The k digits of b bits of a string of `bytes` bytes, most significant first. -/
def slhDigits (x bytes b k : Nat) : List Nat := (List.range k).map fun i => x / 2 ^ (8 * bytes - b * (i + 1)) % 2 ^ b

/-- The 51 digits of a message of 24 bytes and its checksum. -/
def slhWotsDigits (m : List Byte) : List Nat :=
  let ds := slhDigits (bigEndian m) 24 4 48
  ds ++ slhDigits ((ds.map fun d => 15 - d).foldl (· + ·) 0 * 16) 2 4 3

/-- A chain of F, s steps from step i on. -/
def slhChain (seed : List Byte) (a : SlhAdrs) (i : Nat) : Nat → List Byte → List Byte
  | 0, x => x
  | s + 1, x => slhChain seed a (i + 1) s (slhF seed { a with z := i } x)

/-- The one-time public key that a one-time signature and its message give: layer and tree, and the key pair. -/
def slhWotsPk (seed : List Byte) (a : SlhAdrs) (pair : Nat) (sig m : List Byte) : List Byte :=
  let ds := slhWotsDigits m
  let parts := ((List.range 51).zip ds).map fun (i, d) =>
    slhChain seed { a with kind := 0, x := pair, y := i, z := 0 } d (15 - d) (slhPiece sig i)
  slhH seed { a with kind := 1, x := pair, y := 0, z := 0 } parts.flatten

/-- A node climbs along an authentication path: address with kind and first word, the node's height, index and value. -/
def slhClimb (seed : List Byte) (a : SlhAdrs) : Nat → Nat → List (List Byte) → List Byte → List Byte
  | _, _, [], node => node
  | height, idx, p :: r, node =>
    let a' := { a with y := height + 1, z := idx / 2 }
    slhClimb seed a (height + 1) (idx / 2) r (slhH seed a' (if idx % 2 == 0 then node ++ p else p ++ node))

/-- The pieces of a string of k × 24 bytes. -/
def slhPieces (l : List Byte) (k : Nat) : List (List Byte) := (List.range k).map (slhPiece l)

/-- The root of a tree that a signature of 60 pieces gives. -/
def slhXmssRoot (seed : List Byte) (a : SlhAdrs) (idx : Nat) (sig m : List Byte) : List Byte :=
  slhClimb seed { a with kind := 2, x := 0 } 0 idx (slhPieces (sig.drop 1224) 9) (slhWotsPk seed a idx sig m)

/-- The root of the hypertree that a signature gives, by layers left. -/
def slhHtRoot (seed : List Byte) : Nat → Nat → Nat → Nat → List Byte → List Byte → List Byte
  | 0, _, _, _, _, m => m
  | n + 1, layer, tree, leaf, sig, m =>
    slhHtRoot seed n (layer + 1) (tree / 512) (tree % 512) (sig.drop 1440)
      (slhXmssRoot seed { layer := layer, tree := tree } leaf sig m)

/-- The few-time public key that a signature of 17 × 15 pieces gives. -/
def slhForsPk (seed : List Byte) (a : SlhAdrs) (pair : Nat) (sig : List Byte) (ds : List Nat) : List Byte :=
  let f := { a with kind := 3, x := pair }
  let roots := ((List.range 17).zip ds).map fun (i, d) =>
    let part := sig.drop (360 * i)
    let idx := i * 2 ^ 14 + d
    slhClimb seed f 0 idx (slhPieces (part.drop 24) 14) (slhF seed { f with y := 0, z := idx } (slhPiece part 0))
  slhH seed { a with kind := 4, x := pair, y := 0, z := 0 } roots.flatten

/-- The digits, the tree and the leaf that a message signs with. -/
def slhDigest (r seed root m : List Byte) : List Nat × Nat × Nat :=
  let g := mgf1 sha512 (r ++ seed ++ sha512 (r ++ seed ++ root ++ m)) 1 39
  (slhDigits (bigEndian (g.take 30)) 30 14 17, bigEndian ((g.drop 30).take 7) % 2 ^ 54, bigEndian (g.drop 37) % 2 ^ 9)

/-- A message as the pure scheme signs it, without a context string. -/
def slhMessage (m : List Byte) : List Byte := [0, 0] ++ m

/-- A signature of 16,224 bytes verifies under a public key of 48 bytes. -/
def slhVerify (key m sig : List Byte) : Bool :=
  let seed := key.take 24
  let root := key.drop 24
  let (ds, tree, leaf) := slhDigest (sig.take 24) seed root (slhMessage m)
  let pk := slhForsPk seed { tree := tree } leaf (sig.drop 24) ds
  key.length == 48 && sig.length == 16224 && slhHtRoot seed 7 0 tree leaf (sig.drop 6144) pk == root

/-- The one-time key of a chain. -/
def slhWotsKey (sk seed : List Byte) (a : SlhAdrs) (pair i : Nat) : List Byte :=
  slhF seed { a with kind := 5, x := pair, y := i, z := 0 } sk

/-- A one-time signature. -/
def slhWotsSign (sk seed : List Byte) (a : SlhAdrs) (pair : Nat) (m : List Byte) : List Byte :=
  (((List.range 51).zip (slhWotsDigits m)).map fun (i, d) =>
    slhChain seed { a with kind := 0, x := pair, y := i, z := 0 } 0 d (slhWotsKey sk seed a pair i)).flatten

/-- A one-time public key. -/
def slhWotsGen (sk seed : List Byte) (a : SlhAdrs) (pair : Nat) : List Byte :=
  slhH seed { a with kind := 1, x := pair, y := 0, z := 0 } (((List.range 51).map fun i =>
    slhChain seed { a with kind := 0, x := pair, y := i, z := 0 } 0 15 (slhWotsKey sk seed a pair i)).flatten)

/-- A node of a tree of one-time keys, by height and index. -/
def slhXmssNode (sk seed : List Byte) (a : SlhAdrs) : Nat → Nat → List Byte
  | 0, i => slhWotsGen sk seed a i
  | z + 1, i => slhH seed { a with kind := 2, x := 0, y := z + 1, z := i }
      (slhXmssNode sk seed a z (2 * i) ++ slhXmssNode sk seed a z (2 * i + 1))

/-- The index beside one. -/
def slhBeside (i : Nat) : Nat := if i % 2 == 0 then i + 1 else i - 1

/-- A tree's signature of 60 pieces. -/
def slhXmssSign (sk seed : List Byte) (a : SlhAdrs) (idx : Nat) (m : List Byte) : List Byte :=
  slhWotsSign sk seed a idx m ++
    ((List.range 9).map fun j => slhXmssNode sk seed a j (slhBeside (idx / 2 ^ j))).flatten

/-- The hypertree's signature, by layers left. -/
def slhHtSign (sk seed : List Byte) : Nat → Nat → Nat → Nat → List Byte → List Byte
  | 0, _, _, _, _ => []
  | n + 1, layer, tree, leaf, m =>
    let a : SlhAdrs := { layer := layer, tree := tree }
    let sig := slhXmssSign sk seed a leaf m
    sig ++ slhHtSign sk seed n (layer + 1) (tree / 512) (tree % 512) (slhXmssRoot seed a leaf sig m)

/-- A secret of the few-time scheme. -/
def slhForsKey (sk seed : List Byte) (a : SlhAdrs) (pair i : Nat) : List Byte :=
  slhF seed { a with kind := 6, x := pair, y := 0, z := i } sk

/-- A node of a few-time tree, by height and index. -/
def slhForsNode (sk seed : List Byte) (a : SlhAdrs) (pair : Nat) : Nat → Nat → List Byte
  | 0, i => slhF seed { a with kind := 3, x := pair, y := 0, z := i } (slhForsKey sk seed a pair i)
  | z + 1, i => slhH seed { a with kind := 3, x := pair, y := z + 1, z := i }
      (slhForsNode sk seed a pair z (2 * i) ++ slhForsNode sk seed a pair z (2 * i + 1))

/-- A few-time signature. -/
def slhForsSign (sk seed : List Byte) (a : SlhAdrs) (pair : Nat) (ds : List Nat) : List Byte :=
  (((List.range 17).zip ds).map fun (i, d) =>
    slhForsKey sk seed a pair (i * 2 ^ 14 + d) ++ ((List.range 14).map fun j =>
      slhForsNode sk seed a pair j (i * 2 ^ (14 - j) + slhBeside (d / 2 ^ j))).flatten).flatten

/-- The public key of three seeds of 24 bytes: the secret seed, the message key, the public seed. -/
def slhPublic (seeds : List Byte) : List Byte :=
  slhPiece seeds 2 ++ slhXmssNode (slhPiece seeds 0) (slhPiece seeds 2) { layer := 6 } 9 0

/-- The signature of a message by three seeds, with some randomness. -/
def slhSign (seeds m rand : List Byte) : List Byte :=
  let sk := slhPiece seeds 0
  let seed := slhPiece seeds 2
  let r := (hmac512 (slhPiece seeds 1) (rand ++ slhMessage m)).take 24
  let (ds, tree, leaf) := slhDigest r seed ((slhPublic seeds).drop 24) (slhMessage m)
  let fors := slhForsSign sk seed { tree := tree } leaf ds
  r ++ fors ++ slhHtSign sk seed 7 0 tree leaf (slhForsPk seed { tree := tree } leaf fors ds)

/-! ECDH over P-384. -/

/-- The prime, the order, the constant b and the base point of P-384. -/
def p384 : Nat := 2 ^ 384 - 2 ^ 128 - 2 ^ 96 + 2 ^ 32 - 1
def p384Order : Nat :=
  0xFFFFFFFFFFFFFFFFFFFFFFFFFFFFFFFFFFFFFFFFFFFFFFFFC7634D81F4372DDF581A0DB248B0A77AECEC196ACCC52973
def p384B : Nat :=
  0xB3312FA7E23EE7E4988E056BE3F82D19181D9C6EFE8141120314088F5013875AC656398D8A2ED19D2A85C8EDD3EC2AEF
def p384Base : Nat × Nat :=
  (0xAA87CA22BE8B05378EB1C71EF320AD746E1D3B628BA79B9859F741E082542A385502F25DBF55296C3A545E3872760AB7,
    0x3617DE4A96262C6F5D9E98BF9292DC29F8F41DBD289A147CE9DA3113B5F0B8C00A60B1CE1D7E819D7A431D7C90EA0E5F)

/-- The inverse of a nonzero residue. -/
def p384Inv (x : Nat) : Nat := powMod p384 384 (x % p384) (p384 - 2)

/-- A third point from a slope. -/
def p384Third (k x1 y1 x2 : Nat) : Nat × Nat :=
  let x3 := (k * k + 2 * p384 - x1 - x2) % p384
  (x3, (k * (x1 + p384 - x3) + p384 - y1) % p384)

/-- The sum of two points; none is the neutral element. -/
def p384Add (a b : Option (Nat × Nat)) : Option (Nat × Nat) :=
  match a, b with
  | none, q => q
  | p, none => p
  | some (x1, y1), some (x2, y2) =>
    if x1 == x2 then
      if (y1 + y2) % p384 == 0 then none
      else some (p384Third ((3 * x1 * x1 + p384 - 3) * p384Inv (2 * y1) % p384) x1 y1 x1)
    else some (p384Third ((y2 + p384 - y1) * p384Inv (x2 + p384 - x1) % p384) x1 y1 x2)

/-- A multiple of a point, for factors below 2^n. -/
def p384Mul : Nat → Nat → Option (Nat × Nat) → Option (Nat × Nat)
  | 0, _, _ => none
  | n + 1, k, p =>
    if k == 0 then none
    else
      let h := p384Mul n (k / 2) (p384Add p p)
      if k % 2 == 1 then p384Add p h else h

/-- A point in SEC1 form, uncompressed: 97 bytes. -/
def sec1 (p : Option (Nat × Nat)) : List Byte :=
  match p with
  | some (x, y) => [4] ++ beBytes 48 x ++ beBytes 48 y
  | none => []

/-- The point that 97 bytes name; none where they name no point of the curve. -/
def sec1Point (l : List Byte) : Option (Nat × Nat) :=
  let x := bigEndian ((l.drop 1).take 48)
  let y := bigEndian ((l.drop 49).take 48)
  if l.length == 97 && l.headD 0 == 4 && decide (x < p384) && decide (y < p384) &&
      y * y % p384 == (x * x * x + p384 * x - 3 * x + p384B) % p384 then some (x, y)
  else none

/-- A private key from an undefined number: 1 to the order less 1. -/
def p384Secret (n : Nat) : Nat := 1 + n % (p384Order - 1)

/-- The public key of a private one. -/
def p384Public (d : Nat) : List Byte := sec1 (p384Mul 384 d (some p384Base))

/-- The 48-byte x-coordinate that a private key and another's public key agree on. -/
def ecdh384 (d : Nat) (other : List Byte) : Option (List Byte) :=
  match sec1Point other with
  | none => none
  | some p => (p384Mul 384 d (some p)).map fun q => beBytes 48 q.1

/-! The identity keys (14 R301): HKDF-SHA-384 derives the material of both pairs from the device secret. -/

/-- Key material of n bytes for one of the two identity key pairs. -/
def identityMaterial (secret which n : Nat) : List Byte :=
  hkdfExpand (hmac384 Config.identitySalt (beBytes 32 secret)) (Config.identityInfo which) n

/-- The RSA-3072 identity pair: modulus and private exponent. -/
def identityRsa (secret : Nat) : Nat × Nat := Config.rsaKeyGen (identityMaterial secret 0 48)

/-- The seeds of the SLH-DSA identity pair. -/
def identitySlh (secret : Nat) : List Byte := identityMaterial secret 1 72

end Sys2Proof.Machine
end

