-- ==== Sys2Proof/Machine/Bringup.lean ====
section
/-! DEFINITION. Bring-up, power and thermal states, health (14_system_interface R297 to R301, R304, R313, R314). -/

namespace Sys2Proof.Machine

namespace State

/-- The device without power: every state is gone but the history in the external flash (14 R297, R313), and what its
unclonable function yields (R301); what it has sent stays sent. -/
def dark (s : State) : State :=
  { State.reset with agenda := s.agenda, wire := s.wire, dev := { history := s.dev.history, puf := s.dev.puf } }

/-- A stage of bring-up is under way (14 R297, R298). -/
def atStage (s : State) (n : Nat) : Bool := s.dev.power && s.dev.stage == n && s.dev.fail == 0

/-- A stage succeeds, and the next one begins. -/
def stageDone (s : State) : State := s.modDev fun d => { d with stage := d.stage + 1 }

/-- A stage fails: the device stays as it is until its next power-up (14 R298). -/
def stageFails (s : State) (fail : Nat) : State := s.modDev fun d => { d with fail := fail }

/-- THR of the hottest die; of dies equally hot, the highest (14 R298). -/
def hottest (d : Device) : Nat :=
  let top := d.junction.foldl max 0
  ((d.thr.zip d.junction).filter fun x => x.2 == top).foldl (fun m x => max m x.1) 0

/-- MSTAT (14 R298). -/
def mstat (s : State) : Nat :=
  let d := s.dev
  b2n d.ready + d.stage % 8 * 2 + d.fail % 256 * 2 ^ 8 + hottest d % 8 * 2 ^ 16 +
    d.health.die.foldl max 0 % 1024 * 2 ^ 32

end State

/-- Power-good starts stage 1 (14 R297). -/
def execPowerGood (s : State) : Host.Outcome State Fault Refusal :=
  if s.dev.power then .fault (.notEnabled "POWER_GOOD")
  else .next (s.dark.modDev fun d => { d with power := true, stage := 1 })

/-- Loss of supply ends all activity and state (14 R297). -/
def execPowerLoss (s : State) : Host.Outcome State Fault Refusal := .next s.dark

/-- Stage 1 completes: the Ethernet links come up (14 R297, R304). -/
def execSelfCalibration (ok : Bool) (boardTag : Nat) (s : State) : Host.Outcome State Fault Refusal :=
  if !s.atStage 1 then .fault (.notEnabled "SELF_CALIBRATION")
  else if !ok then .next (s.stageFails 1)
  else .next (s.stageDone.modDev fun d => { d with
    boardTag := boardTag % 2 ^ 32, ports := [(0, { up := true }), (1, { up := true })] })

/-- Stage 2 completes: self-test, repair and the unclonable function, which yields the same at every power-up (14 R297,
R301). -/
def execBuiltInSelfTest (ok : Bool) (secret : Nat) (s : State) : Host.Outcome State Fault Refusal :=
  if !s.atStage 2 then .fault (.notEnabled "BUILT_IN_SELF_TEST")
  else if !ok then .next (s.stageFails 2)
  else if s.dev.puf.isSome && s.dev.puf != some (secret % 2 ^ 256) then .fault (.notEnabled "BUILT_IN_SELF_TEST")
  else .next (s.stageDone.modDev fun d => { d with secret := secret % 2 ^ 256, puf := some (secret % 2 ^ 256) })

/-- Stage 3 completes: every location of HBM and of every SRAM holds zero, with a good check code (14 R297). -/
def execMemoryInitialisation (ok : Bool) (s : State) : Host.Outcome State Fault Refusal :=
  if !s.atStage 3 then .fault (.notEnabled "MEMORY_INITIALISATION")
  else if !ok then .next (s.stageFails 3)
  else
    .next { s.stageDone with
      mem := [], l2 := [], l2lines := [], guests := [], badMem := [], badWritten := [], badSpad := [], badReg := []
      badSump := [], badElse := [] }

/-- An RSA key of a known hash signs some bytes (14 R299, R300). -/
def rsaSigned (hash key body sig : List Byte) : Bool := sha384 key == hash && pssVerify key body sig

/-- An SLH-DSA key of a known hash signs some bytes (14 R299, R300). -/
def slhSigned (hash key body sig : List Byte) : Bool := sha384 key == hash && slhVerify key body sig

/-- Stage 4 completes: the RSA signature is checked first, then the other (14 R299). -/
def execFirmwareVerify (img : FwImage) (s : State) : Host.Outcome State Fault Refusal :=
  if !s.atStage 4 then .fault (.notEnabled "FIRMWARE_VERIFY")
  else if !img.readable then .next (s.stageFails 4)
  else if !rsaSigned Config.romRsaHash img.rsaKey img.body img.rsaSig then .next (s.stageFails 5)
  else if !slhSigned Config.romSlhHash img.slhKey img.body img.slhSig then .next (s.stageFails 6)
  else .next (s.stageDone.modDev fun d => { d with
    fwVersion := Config.imageVersion img.body, fwHash := sha384 img.body, ownerKeys := Config.imageOwnerKeys img.body })

/-- A field of a record of doublewords. -/
def dwField (l : List Dword) (dw hi lo : Nat) : Nat := bits (l.getD dw 0).toNat hi lo

/-- A port of the configuration breaks its ranges (14 R300; log 22). -/
def portBad (l : List Dword) (p : Nat) : Bool :=
  let on := bit (dwField l 0 8 7) p
  let mac := dwField l (8 + p) 47 0
  let v4 := dwField l 10 (32 * p + 31) (32 * p)
  let v6 := (l.getD (13 + 2 * p) 0 != 0) || (l.getD (14 + 2 * p) 0 != 0)
  let n4 := dwField l 12 (8 * p + 5) (8 * p)
  let n6 := dwField l 12 (16 + 8 * p + 6) (16 + 8 * p)
  mac == 0 || (on && v4 == 0 && !v6) || bit mac 40 || (v4 != 0 && (n4 < 8 || 30 < n4)) ||
    (v6 && (n6 < 16 || 127 < n6))

/-- A value of the configuration record lies outside its range (14 R300). -/
def cfgBad (l : List Dword) : Bool :=
  let dport := dwField l 0 35 20
  let pcap := dwField l 0 19 9
  let vid := dwField l 7 15 4
  decide (l.length != 18) || decide (96 < dwField l 0 6 0) || dwField l 0 8 7 == 0 || pcap < 600 || 1650 < pcap ||
    dport < 1024 || dport == 4791 || dwField l 0 63 36 != 0 || dwField l 7 63 22 != 0 || dwField l 8 63 48 != 0 ||
    dwField l 9 63 48 != 0 || l.getD 17 0 != 0 || dwField l 12 7 6 != 0 || dwField l 12 15 14 != 0 ||
    dwField l 12 23 23 != 0 || dwField l 12 63 31 != 0 ||
    (if dwField l 7 3 3 == 1 then vid == 0 || 4094 < vid else vid != 0) ||
    dwField l 9 47 0 == dwField l 8 47 0 || portBad l 0 || portBad l 1

/-- Stage 5 completes, and stage 6 sets READY: the configuration is in force (14 R297, R300, R304). -/
def execConfigurationApply (img : CfgImage) (s : State) : Host.Outcome State Fault Refusal :=
  let body := (img.dws.map fun d => leBytes 8 d.toNat).flatten
  if !s.atStage 5 then .fault (.notEnabled "CONFIGURATION_APPLY")
  else if !img.readable then .next (s.stageFails 4)
  else if !rsaSigned (s.dev.ownerKeys.take 48) img.rsaKey body img.rsaSig ||
      !slhSigned (s.dev.ownerKeys.drop 48) img.slhKey body img.slhSig then
    .next (s.stageFails 7)
  else if cfgBad img.dws then .next (s.stageFails 8)
  else .next ({ s.stageDone with spread := dwField img.dws 0 6 0 }.modDev fun d => { d with
    cfg := img.dws, cfgHash := sha384 body, ready := true })

/-! Power and thermal states (14 R314). -/

namespace State

/-- The cap in force: the lower of PCAP and a PCAP operation's (14 R314). -/
def powerCap (s : State) : Nat :=
  let c := s.cfgField 0 19 9
  if s.dev.cap == 0 then c else min c s.dev.cap

/-- The entry points of the states: the state, whether a reading is at or above the point, and whether it has not fallen
5 °C, or power 3 %, below it (14 R314). -/
def entryPoints (cap : Nat) (x : Sense) : List (Nat × Bool × Bool) :=
  let heat := fun (n t v : Nat) => (n, decide (t ≤ v), decide (t < v + 5))
  [(1, decide (cap ≤ x.power), decide (97 * cap < 100 * x.power)), heat 1 95 x.junction, heat 2 100 x.junction,
    heat 3 105 x.junction, heat 3 95 x.hbm, heat 4 110 x.junction]

/-- The entry points that a die has passed and not left, after a reading: a bit each (14 R314). -/
def passedNow (cap : Nat) (x : Sense) (before : Nat) : Nat :=
  let ps := entryPoints cap x
  ((upto ps.length).zip ps).foldl (fun m p => if p.2.2.1 || (bit before p.1 && p.2.2.2) then m + 2 ^ p.1 else m) 0

/-- The state of a die: the highest whose entry point it has passed and not left (14 R314). -/
def thermalState (cap : Nat) (x : Sense) (passed : Nat) : Nat :=
  let ps := entryPoints cap x
  ((upto ps.length).zip ps).foldl (fun m p => if bit passed p.1 then max m p.2.1 else m) 0

/-- Thermal shutdown: every die stops, so that what its slices and cores still had to do is lost, fault records among it;
every context ends without a report, READY is cleared, a notice is sent (14 R314; 12 R494). -/
def shutdown (s : State) : State :=
  let s := s.notice 4 0
  let s := s.each (s.contexts.map (·.1)) fun s c => s.killContext c
  { s with
    launches := [], graphs := [], releases := [], registrations := []
    contexts := s.contexts.mapVals fun c => { c with waiting := [] } }.modDev fun d => { d with ready := false, fail := 9, thr := [4, 4, 4, 4] }

end State

/-- A die's sensors and the package's power are read, and the die's state follows (14 R314). -/
def execThermalStateChange (die : Nat) (sense : Sense) (s : State) : Host.Outcome State Fault Refusal :=
  let cap := s.powerCap
  let passed := State.passedNow cap sense (s.dev.passed.getD die 0)
  let new := State.thermalState cap sense passed
  if !s.dev.ready || 4 ≤ die then .fault (.notEnabled "THERMAL_STATE_CHANGE")
  else if new == 4 then .next s.shutdown
  else .next (s.modDev fun d => { d with
    thr := d.thr.set die new, passed := d.passed.set die passed, junction := d.junction.set die sense.junction })

namespace State

/-- The mean of a list of figures, rounded down (log 23). -/
def meanOf (l : List Nat) : Nat := l.foldl (· + ·) 0 / max 1 l.length

/-- The report that the trailing 30 days of hourly samples give, newest first (14 R313). -/
def healthOf (l : List HealthSample) : HealthReport :=
  let w := l.take 720
  let now := l.headD ⟨[0, 0, 0, 0], 0, 0, 0, 0⟩
  { die := now.die, days := now.days, temp := meanOf (w.map (·.temp)), volt := meanOf (w.map (·.volt))
    active := meanOf (w.map (·.active)), hours := w.length }

end State

/-- The hourly estimate: the hour joins the history, and the report is made of the trailing 30 days (14 R313). -/
def execHealthEstimate (hour : HealthSample) (s : State) : Host.Outcome State Fault Refusal :=
  if !s.dev.ready || hour.die.length != 4 || hour.die.any (1000 < ·) then .fault (.notEnabled "HEALTH_ESTIMATE")
  else .next (s.modDev fun d => { d with
    history := hour :: d.history, health := State.healthOf (hour :: d.history) })

end Sys2Proof.Machine
end

