-- ==== Sys2Proof/Machine/Manage.lean ====
section
/-! DEFINITION. Druiraim sessions and the management operations (14_system_interface R301, R303 to R310, R312). -/

namespace Sys2Proof.Machine

/-! Fields of a request (14 R307). -/

/-- A little-endian field of a payload. -/
def pf (p : List Byte) (at_ n : Nat) : Nat := leNat ((p.drop at_).take n)

/-- A list with exactly n bytes, cut or filled with zeros. -/
def fit (n : Nat) (l : List Byte) : List Byte := l.take n ++ List.replicate (n - l.length) 0

/-- A request has its n bytes, and every byte that no field names is zero (14 R307). Fields: offset and size. -/
def fieldsOk (p : List Byte) (n : Nat) (fields : List (Nat × Nat)) : Bool :=
  decide (n ≤ p.length) && ((upto p.length).zip p).all fun x =>
    x.1 == 0 || x.2 == 0 || fields.any fun f => f.1 ≤ x.1 && x.1 < f.1 + f.2

/-- What an operation answers: status and results; none where the answer comes later. -/
abbrev Answer := Option (Nat × List Byte)

/-- Status 0 without results, refused, and illegal (14 R306). -/
def done0 : Answer := some (0, [])
def refused1 : Answer := some (1, [])
def illegal3 : Answer := some (3, [])

namespace State

/-- A CTXID that names a context (14 R303). -/
def named (s : State) (c : Nat) : Bool :=
  match s.contexts.find c with
  | some x => !x.ended
  | none => false

/-! Attestation (14 R301, R308). -/

/-- The identity public keys: the RSA modulus and the SLH-DSA key (14 R301; log 13). -/
def rsaKey (s : State) : List Byte := beBytes 384 (identityRsa s.dev.secret).1
def slhKey (s : State) : List Byte := slhPublic (identitySlh s.dev.secret)

/-- n undefined bytes (log 13). -/
def freeBytes (s : State) (n : Nat) : List Byte := (upto n).map (Config.freeByte (2 ^ 66 + s.fresh))

/-- The installed slots of a context, each with its object hash (14 R308). -/
def objectList (s : State) (c : Nat) : List Byte :=
  (((s.ctx c).slots.filter fun x => x.2.state == 1).map fun x => leBytes 2 x.1 ++ fit 48 x.2.hash).flatten

/-- The attestation report with its signatures and keys (14 R308). -/
def report (s : State) (nonce : List Byte) (c : Nat) (session : List Byte) : List Byte :=
  let objs := if c == 0 then [] else s.objectList c
  let body := leBytes 4 1 ++ nonce ++ sha384 s.rsaKey ++ sha384 s.slhKey ++ leBytes 1 1 ++ leBytes 3 0 ++
    leBytes 4 s.dev.fwVersion ++ fit 48 s.dev.fwHash ++ fit 48 s.dev.cfgHash ++ leBytes 4 0 ++ leBytes 8 s.mstat ++
    leBytes 2 c ++ leBytes 2 (objs.length / 50) ++ leBytes 4 session.length ++ objs ++ session
  let (n, d) := identityRsa s.dev.secret
  body ++ pssSign n d body (s.freeBytes 48) ++ slhSign (identitySlh s.dev.secret) body ((s.freeBytes 72).drop 48) ++
    s.rsaKey ++ s.slhKey

/-- STATUS (14 R298, R306). -/
def doStatus (s : State) (p : List Byte) : State × Answer :=
  if !fieldsOk p 8 [] then (s, illegal3) else (s, some (0, leBytes 8 s.mstat))

/-- ATTEST (14 R301, R307, R308). -/
def doAttest (s : State) (p : List Byte) : State × Answer :=
  let c := pf p 40 2
  if !fieldsOk p 42 [(8, 34)] || (c != 0 && !s.named c) then (s, illegal3)
  else ({ s with fresh := s.fresh + 1 }, some (0, s.report ((p.drop 8).take 32) c []))

/-! Sessions (14 R304, R305). -/

/-- The hash of the owner's management key (14 R300). -/
def ownerHash (s : State) : List Byte := (stepsFrom 1 1 6).map (fun i => leBytes 8 (s.dev.cfg.getD i 0).toNat) |>.flatten

/-- The session of a sender. -/
def sessionOf (s : State) (x : Sender) : Option (Nat × Session) := s.dev.sessions.find? fun e => e.2.sender == x

/-- Room for a session: of 64, the least recently used one that is not the owner's ends (14 R305). -/
def makeRoom (s : State) : State :=
  if s.dev.sessions.length < 64 then s
  else
    let lru := fun (l : KV Session) => (sortBy (fun x : Nat × Session => x.2.used) l).head?
    match lru (s.dev.sessions.filter fun x => !x.2.owner) with
    | some v => s.modDev fun d => { d with sessions := d.sessions.del v.1 }
    | none =>
      match lru s.dev.sessions with
      | some v => s.modDev fun d => { d with sessions := d.sessions.del v.1 }
      | none => s

/-- ATTACH (14 R304): the key's hash, the signature, the agreement, the report. PRESUMED (log 13): a host key that is no
point of the curve is refused. -/
def doAttach (s : State) (f : Frame) : State × Answer :=
  let p := f.payload
  let hash := sha384 ((p.drop 144).take 384)
  if !fieldsOk p 912 [(8, 97), (112, 800)] then (s, illegal3)
  else if hash != s.ownerHash && !s.dev.peers.any fun x => x.2.1 == hash then (s, refused1)
  else if !pssVerify ((p.drop 144).take 384) (p.take 528) ((p.drop 528).take 384) then (s, refused1)
  else
    let n := s.fresh
    let host := (p.drop 8).take 97
    let mine := p384Secret (Config.ephemeral n)
    match ecdh384 mine host with
    | none => (s, refused1)
    | some x =>
    let dev := p384Public mine
    let nonce := (p.drop 112).take 32
    let skey := hkdf384 nonce x (host ++ dev)
    let answer := s.report nonce 0 (host ++ leBytes 7 0 ++ dev ++ leBytes 7 0)
    let s := { s with fresh := n + 1 }.modDev fun d => { d with sessions := d.sessions.filter fun x => x.2.sender != f.sender }
    let (id, s) := s.makeRoom.newId
    let e : Session := { sender := f.sender, port := f.port, key := hash, owner := hash == s.ownerHash, skey := skey
                         used := s.dev.stamp + 1 }
    (s.modDev fun d => { d with stamp := d.stamp + 1, sessions := d.sessions.put id e }, some (0, answer))

/-- PEER (14 R305, R307). -/
def doPeer (s : State) (p : List Byte) : State × Answer :=
  let i := pf p 56 1
  let n := pf p 58 1
  if !fieldsOk p (if n == 0 then 59 else 64 + 2 * n) [(8, 51), (64, 2 * n)] || 63 < i || 1 < pf p 57 1 || 16 < n then
    (s, illegal3)
  else if pf p 57 1 == 1 then
    let e := ((p.drop 8).take 48, (upto n).map fun k => pf p (64 + 2 * k) 2)
    (s.modDev fun d => { d with peers := d.peers.put i e }, done0)
  else (s.modDev fun d => { d with peers := d.peers.del i }, done0)

/-! Contexts (14 R307). -/

/-- CTXCREATE (14 R307; 01 R10; 12 R264). -/
def doCtxcreate (s : State) (p : List Byte) : State × Answer :=
  let n := pf p 19 1
  let drain := pf p 16 2
  if !fieldsOk p (56 + 2 * n) [(8, 12), (24, 32), (56, 2 * n)] || 2 ^ 48 ≤ pf p 8 8 || drain < 5 || 2000 < drain ||
      1 < pf p 18 1 || 16 < n || 2 ^ 48 ≤ pf p 24 8 || pf p 24 8 % 64 != 0 || 2 ^ 48 ≤ pf p 32 8 ||
      pf p 32 8 % 512 != 0 || 2 ^ 48 ≤ pf p 40 8 || pf p 40 8 % 65536 != 0 || pf p 48 8 < 16 * 2 ^ 20 then (s, illegal3)
  else
    let c := s.contexts.length + 1
    if 65535 < c then (s, refused1)
    else
      let x : Context := { partition := pf p 8 8, supervisor := pf p 18 1 == 1
                           supervised := (upto n).map fun k => pf p (56 + 2 * k) 2
                           root := pf p 32 8, faultq := pf p 24 8, drainUs := drain, fwArea := pf p 40 8
                           fwBytes := pf p 48 8 }
      (s.setCtx c x, some (0, leBytes 2 c))

/-- CTXEND (12 R494). -/
def doCtxend (s : State) (p : List Byte) : State × Answer :=
  if !fieldsOk p 10 [(8, 2)] || !s.named (pf p 8 2) then (s, illegal3)
  else (s.endContext (pf p 8 2) cENDED 1, done0)

/-- BINDQ (03 R56; 14 R307). DESIGN CHOICE (log 38): binding a queue that is in the list changes its priority in place,
also where the list holds 16, and unbinding one that is not in it is done. -/
def doBindq (s : State) (p : List Byte) : State × Answer :=
  let c := pf p 8 2
  let flags := pf p 10 1
  let cb := pf p 16 8
  if !fieldsOk p 24 [(8, 3), (16, 8)] || !s.named c || bits flags 6 3 != 0 || 2 ^ 48 ≤ cb || cb % 64 != 0 then
    (s, illegal3)
  else
    let l := (s.ctx c).queues
    let put := fun (l : List (Nat × Nat)) => s.modCtx c fun x => { x with queues := l }
    if bit flags 7 then (put (l.filter fun q => q.1 != cb), done0)
    else if l.any fun q => q.1 == cb then (put (l.map fun q => if q.1 == cb then (cb, flags % 8) else q), done0)
    else if 16 ≤ l.length then (s, refused1)
    else (put (l ++ [(cb, flags % 8)]), done0)

/-! The loader (13 R280 to R284; 14 R307, R496). -/

/-- A header that breaks 13 R280. -/
def headerBad (h : List Byte) : Bool :=
  let d0 := pf h 0 8
  bits d0 15 0 != 0x4F4B || bits d0 19 16 != 3 || bits d0 63 29 != 0 || pf h 8 8 % 2 ^ 24 == 0 ||
    2 ^ 24 ≤ pf h 8 8 || (h.drop 16).any (· != 0)

/-- Where pages of code are written: every one is translated, ignoring W and X (14 R496). -/
def codePlaces (s : State) (c : Nat) : List Nat → State × Option (List Nat)
  | [] => (s, some [])
  | va :: r =>
    match s.translateRaw c va .read false with
    | (s, .ok pa) =>
      match s.codePlaces c r with
      | (s, some l) => (s, some (pa :: l))
      | (s, none) => (s, none)
    | (s, _) => (s, none)

/-- A refused file: a notice, and status 1 (14 R307). -/
def refuseFile (s : State) (c : Nat) : State × Answer := (s.notice 2 c, refused1)

/-- INSTALL of a file (13 R280 to R282, R284, R286; 14 R307, R496). Where firmware keeps the page hashes and the bitmap is
not stated: free values. -/
def installFile (s : State) (c slot va laddr : Nat) : State × Answer :=
  match s.readRaw c va 64 with
  | (s, .error _) => s.refuseFile c
  | (s, .ok h) =>
    let n := pf h 8 8
    let step := bits (pf h 0 8) 27 20
    let wdep := bit (pf h 0 8) 28
    if headerBad h then s.refuseFile c
    else
      match s.readRaw c (va + 64) (48 * n) with
      | (s, .error _) => s.refuseFile c
      | (s, .ok hs) =>
        match s.readRaw c (va + 64 + 48 * n) (65536 * n) with
        | (s, .error _) => s.refuseFile c
        | (s, .ok code) =>
          match s.codePlaces c (stepsFrom laddr 65536 n) with
          | (s, none) => s.refuseFile c
          | (s, some ps) =>
            let x := s.ctx c
            let others := x.slots.filter fun y => y.1 != slot && y.2.state != 0
            let odd := step != 1
            if (wdep && (x.ilk || odd)) || (odd && others.any fun y => y.2.wdep) then s.refuseFile c
            else
              let s := s.each ((upto n).zip ps) fun s q => s.homeWrite q.2 ((code.drop (65536 * q.1)).take 65536)
              let hash := sha384 (h ++ hs)
              let (at1, s) := s.freeVal
              let (at2, s) := s.freeVal
              let e : CodeSlot := { hash := hash, laddr := laddr, state := 1, wdep := wdep, step := step, npage := n
                                    phash := at1.toNat % 2 ^ 48, vbmAt := at2.toNat % 2 ^ 48
                                    pageHash := (upto n).map fun i => (hs.drop (48 * i)).take 48 }
              ((s.slotRewritten c slot).modCtx c fun x => { x with slots := x.slots.put slot e, ilk := x.ilk || odd },
                some (0, hash))

/-- INSTALL (14 R307). -/
def doInstall (s : State) (p : List Byte) : State × Answer :=
  let c := pf p 8 2
  let slot := pf p 10 2
  let va := pf p 16 8
  let laddr := pf p 24 8
  if !fieldsOk p 32 [(8, 5), (16, 16)] || !s.named c || 4095 < slot || 1 < pf p 12 1 || 2 ^ 48 ≤ va || 2 ^ 48 ≤ laddr ||
      laddr % 65536 != 0 then (s, illegal3)
  else if pf p 12 1 == 1 then
    ((s.slotRewritten c slot).modCtx c fun x => { x with slots := x.slots.del slot }, some (0, List.replicate 48 0))
  else s.installFile c slot va laddr

/-- SAVE (14 R307): the stop request goes out at once, and the reply comes after the save. -/
def doSave (s : State) (sid seq : Nat) (p : List Byte) : State × Answer :=
  let c := pf p 8 2
  let area := pf p 16 8
  let need := Config.saveBytes s.fresh
  if !fieldsOk p 32 [(8, 2), (16, 16)] || !s.named c || 2 ^ 48 ≤ area || area % 65536 != 0 then (s, illegal3)
  else if (s.ctx c).saved || (s.ctx c).saver.isSome || pf p 24 8 < need then (s, refused1)
  else
    let s := { s with fresh := s.fresh + 1 }
    let s := if (s.ctx c).stop then s else s.requestStop c
    (s.modCtx c fun x => { x with saver := some ⟨sid, seq, area, need⟩ }, none)

/-- RESTORE (12 R274; 13 R282, R291; 14 R307). -/
def doRestore (s : State) (p : List Byte) : State × Answer :=
  let c := pf p 8 2
  let area := pf p 16 8
  let map := (upto 48).map fun i => pf p (24 + i) 1
  if !fieldsOk p 72 [(8, 2), (16, 56)] || !s.named c || 2 ^ 48 ≤ area || area % 65536 != 0 then (s, illegal3)
  else if !(s.ctx c).saved then (s, refused1)
  else if !s.mapOk c map then (s, illegal3)
  else if s.restoreRefused c then s.refuseFile c
  else if !s.restoreFits c map then (s, refused1)
  else (s.restoreContext c map, done0)

/-! Remote memory and queue pairs (14 R307, R312). -/

/-- MREG (14 R307). -/
def doMreg (s : State) (p : List Byte) : State × Answer :=
  let c := pf p 8 2
  let flags := pf p 10 1
  if !fieldsOk p 32 [(8, 3), (12, 4), (16, 16)] || !s.named c || bits flags 6 2 != 0 then (s, illegal3)
  else if bit flags 7 then
    if ((s.ctx c).regions.find (pf p 12 4)).isNone then (s, illegal3)
    else (s.modCtx c fun x => { x with regions := x.regions.del (pf p 12 4) }, done0)
  else if pf p 12 4 != 0 || 2 ^ 48 < pf p 16 8 + pf p 24 8 then (s, illegal3)
  else
    let (id, s) := s.newId
    let r : Region := ⟨pf p 16 8, pf p 24 8, bit flags 0, bit flags 1⟩
    (s.modCtx c fun x => { x with regions := x.regions.put (id % 2 ^ 32) r }, some (0, leBytes 4 (id % 2 ^ 32)))

/-- The number of a new queue pair: the lowest that no open pair has (14 R312). PRESUMED (log 22): 0 and 1 are the
transport's own. -/
def freeQpn (s : State) : Nat :=
  ((stepsFrom 2 1 (s.qps.length + 1)).find? fun n => (s.qps.find n).isNone).getD 2

/-- A queue pair is closed: the endpoint entries that name it name no pair any more (14 R312). -/
def closeQp (s : State) (c qpn : Nat) : State :=
  ({ s with qps := s.qps.del qpn } : State).modCtx c fun x => { x with endpoints := x.endpoints.filter fun e => e.2.qpn != qpn }

/-- QPOPEN (14 R307, R312). -/
def doQpopen (s : State) (p : List Byte) : State × Answer :=
  let c := pf p 8 2
  let port := pf p 10 1
  let flags := pf p 11 1
  if !fieldsOk p 39 [(8, 7), (16, 19), (36, 3)] || !s.named c || bits flags 6 1 != 0 then (s, illegal3)
  else if 1 < port then (s, illegal3)
  else if bit flags 7 then
    match s.qps.find (pf p 12 3) with
    | some q => if q.ctx == c then (s.closeQp c (pf p 12 3), done0) else (s, illegal3)
    | none => (s, illegal3)
  else if pf p 12 3 != 0 then (s, illegal3)
  else if 4096 ≤ (s.qps.filter fun x => x.2.port == port).length then (s, refused1)
  else
    let v6 := bit flags 0
    let q : QueuePair := { ctx := c, port := port, v6 := v6, ip := if v6 then pf p 16 16 else pf p 16 4, rqpn := pf p 32 3
                           rpsn := pf p 36 3, rate := 800 }
    let n := s.freeQpn
    ({ s with qps := s.qps.put n q }, some (0, leBytes 3 n ++ [0] ++ leBytes 3 0))

/-- EPSET (14 R312). -/
def doEpset (s : State) (p : List Byte) : State × Answer :=
  let c := pf p 8 2
  let qpn := pf p 12 3
  if !fieldsOk p 40 [(8, 7), (16, 4), (24, 16)] || !s.named c then (s, illegal3)
  else if qpn == 0xFFFFFF then (s.modCtx c fun x => { x with endpoints := x.endpoints.del (pf p 10 2) }, done0)
  else if (s.qps.getD qpn { ctx := 0, port := 0 }).ctx != c then (s, illegal3)
  else
    let e : Endpoint := ⟨qpn, pf p 16 4, pf p 24 8, pf p 32 8⟩
    (s.modCtx c fun x => { x with endpoints := x.endpoints.put (pf p 10 2) e }, done0)

/-! Health, power, breakpoints (14 R307). -/

/-- HEALTH (14 R307, R313). -/
def doHealth (s : State) (p : List Byte) : State × Answer :=
  if !fieldsOk p 8 [] then (s, illegal3)
  else
    let h := s.dev.health
    (s, some (0, (h.die.map fun d => leBytes 2 d).flatten ++ leBytes 2 (h.die.foldl max 0) ++ leBytes 2 0 ++
      leBytes 4 h.days ++ leBytes 2 h.temp ++ leBytes 2 h.volt ++ leBytes 2 h.active ++ leBytes 2 h.hours))

/-- PCAP (14 R307, R314). -/
def doPcap (s : State) (p : List Byte) : State × Answer :=
  let w := pf p 8 2
  if !fieldsOk p 10 [(8, 2)] || (w != 0 && (w < 600 || s.cfgField 0 19 9 < w)) then (s, illegal3)
  else (s.modDev fun d => { d with cap := w }, done0)

/-- BREAK (14 R307). -/
def doBreak (s : State) (p : List Byte) : State × Answer :=
  let c := pf p 8 2
  let i := pf p 10 1
  if !fieldsOk p 24 [(8, 4), (16, 8)] || !s.named c || 7 < i || 1 < pf p 11 1 then (s, illegal3)
  else if pf p 11 1 == 1 then
    (s.modCtx c fun x => { x with breaks := x.breaks.put i (BitVec.ofNat 64 (pf p 16 8)) }, done0)
  else (s.modCtx c fun x => { x with breaks := x.breaks.del i }, done0)

/-! Remote enqueue (08 R182; 14 R309). -/

/-- A remote-enqueue payload that breaks 14 R309. -/
def enqueueMalformed (f : Frame) : Bool :=
  let p := f.payload
  let esz := pf p 8 2
  let m := pf p 10 2
  m == 0 || 256 < m || esz % 4 != 0 || esz < 4 || 256 < esz || 8192 < m * esz || pf p 12 4 != 0 ||
    f.len != 16 + m * esz || p.length != 16 + m * esz

/-- The record of a recoverable slot fault of a frame (12 R261, R262). -/
def frameRecord (f : Frame) (va : Nat) : FaultRec :=
  { cause := cPAGE, src := 4, recov := false, wr := true, held := false, dbl := false, detail := 0, core := 0xFF, team := 0
    fid := 0, id := 0, launchId := 0, pc := 0, va := va % 2 ^ 48, lanes := 0, ctl := BitVec.ofNat 64 f.seq
    ctx := f.ctxid }

/-- A frame's elements are enqueued, all or none: the status, and the first index (08 R182). A record of a recoverable
fault names the first slot that failed, by its own address (12 R262). -/
def enqueueFrame (s : State) (f : Frame) : State × Nat × Nat :=
  let p := f.payload
  let cb := pf p 0 8
  let esz := pf p 8 2
  if enqueueMalformed f then (s, 5, 0)
  else if cb % 64 != 0 || 2 ^ 48 ≤ cb then (s, 4, 0)
  else
    match s.translateRaw f.ctxid cb .write true with
    | (s, .ok pa) =>
      match s.qOffer f.ctxid pa esz (2 * f.port) (chunks esz (pf p 10 2) (p.drop 16)) with
      | (s, .ok (some i)) => (s, 0, i)
      | (s, .ok none) => (s, 1, 0)
      | (s, .error .corrupt) => (s, 2, 0)
      | (s, .error .size) => (s, 3, 0)
      | (s, .error (.page va)) =>
        let ring := qBase (s.qRead pa).1
        ((s.addRecord f.ctxid (frameRecord f (ring + (va - ring) / esz * esz))).2, 4, 0)
      | (s, .error _) => (s, 4, 0)
    | (s, _) => (s, 4, 0)

/-- The payload of an enqueue reply (14 R309; log 23). -/
def enqueueReply (seq status first : Nat) : List Byte :=
  leBytes 4 seq ++ leBytes 1 status ++ (if status == 0 then leBytes 8 first else [])

/-- A block of the frame's queue waits for an acknowledgement (06 R135). -/
def enqueueWaits (s : State) (f : Frame) : Bool :=
  match (s.translateRaw f.ctxid (pf f.payload 0 8) .write true).2 with
  | .ok pa => !enqueueMalformed f && pf f.payload 0 8 % 64 == 0 && s.qBusy pa
  | _ => false

/-! Receiving (14 R303 to R305, R310). -/

/-- The operation that a management request names; 0 for another frame. -/
def opOf (f : Frame) : Nat := if f.kind == 0x10 then pf f.payload 0 1 else 0

/-- The contexts that a session of a peer key may reach (14 R305). -/
def reach (s : State) (e : Session) (c : Nat) : Bool :=
  e.owner || s.dev.peers.any fun x => x.2.1 == e.key && x.2.2.contains c

/-- A management operation is performed for a session, or without one (14 R305 to R307). -/
def perform (s : State) (sid : Nat) (owner : Bool) (f : Frame) : State × Answer :=
  let p := f.payload
  let op := opOf f
  if f.ctxid != 0 then (s, illegal3)
  else if op == 1 then s.doStatus p
  else if op == 2 then s.doAttest p
  else if op == 3 then s.doAttach f
  else if !owner then (s, refused1)
  else
    match op with
    | 0x04 => s.doPeer p
    | 0x10 => s.doCtxcreate p
    | 0x11 => s.doCtxend p
    | 0x12 => s.doBindq p
    | 0x13 => s.doInstall p
    | 0x14 => s.doSave sid f.seq p
    | 0x15 => s.doRestore p
    | 0x16 => s.doMreg p
    | 0x17 => s.doQpopen p
    | 0x18 => s.doEpset p
    | 0x20 => s.doHealth p
    | 0x21 => s.doPcap p
    | 0x30 => s.doBreak p
    | _ => (s, illegal3)

def modSession (s : State) (sid : Nat) (f : Session → Session) : State :=
  s.modDev fun d => { d with sessions := d.sessions.upd sid f }

/-- The next number of a CTXID moves on, and the replies of the 256 numbers below it stay kept (14 R305). -/
def stepNext (s : State) (sid c : Nat) : State :=
  s.modSession sid fun e =>
    let e := { e with next := e.next.put c ((e.next.getD c 0 + 1) % 2 ^ 32) }
    { e with kept := e.kept.filter fun k => k.1 != c || recent e c k.2.1 }

/-- A frame whose turn it is is executed and answered (14 R305, R309, R310). An ATTACH is answered under the session that
it came in. -/
def execute (s : State) (sid : Nat) (f : Frame) : State :=
  match s.dev.sessions.find sid with
  | none => s
  | some e =>
    if f.kind == 1 then
      match s.enqueueFrame f with
      | (s, 1, _) => s.sendFrame e.port e.sender (some e.skey) 2 f.ctxid f.seq (enqueueReply f.seq 1 0)
      | (s, st, i) => (s.stepNext sid f.ctxid).replyAll sid 2 f.ctxid f.seq [enqueueReply f.seq st i]
    else
      let s := s.stepNext sid f.ctxid
      match s.perform sid e.owner f with
      | (s, none) => s
      | (s, some (st, r)) =>
        if (s.dev.sessions.find sid).isSome then s.replyAll sid 0x11 f.ctxid f.seq (fragments st r)
        else s.each (fragments st r) fun s p => s.sendFrame e.port e.sender (some e.skey) 0x11 f.ctxid f.seq p

/-- A frame without a session is answered with TAG zero (14 R304). -/
def executeBare (s : State) (f : Frame) : State :=
  match s.perform 0 false f with
  | (s, none) => s
  | (s, some (st, r)) => s.each (fragments st r) fun s p => s.sendFrame f.port f.sender none 0x11 0 f.seq p

/-- A frame of a session that passed its checks: executed, held, dropped, or its reply sent again (14 R305). -/
def number (s : State) (sid : Nat) (e : Session) (f : Frame) : State :=
  let d := (f.seq + 2 ^ 32 - e.next.getD f.ctxid 0) % 2 ^ 32
  if d == 0 && !(f.kind == 1 && s.enqueueWaits f) then s.execute sid f
  else if d < 256 then
    if e.held.any fun h => h.ctxid == f.ctxid && h.seq == f.seq then s
    else s.modSession sid fun e => { e with held := e.held ++ [f] }
  else if d < 2 ^ 31 then s
  else
    let again := e.kept.filter fun k => k.1 == f.ctxid && k.2.1 == f.seq
    s.each again fun s k => s.sendFrame e.port e.sender (some e.skey) k.2.2.1 f.ctxid f.seq k.2.2.2

/-- The frame is addressed to the port: its tag, its address, its UDP port (14 R300, R302, R303). DESIGN CHOICE (log 22):
before the configuration gives DPORT, every UDP port is. -/
def addressed (s : State) (f : Frame) : Bool :=
  let v6 := decide (2 ^ 32 ≤ f.sender.ip)
  s.portLive f.port && s.vlanOk f.vid && s.ownIp f.port v6 f.dst &&
    (!s.configured || f.dport == s.cfgField 0 35 20) && frameFits f.vid v6 (8 + 32 + f.payload.length)

/-- The frame is one that the device takes up at all: the port, the version, the lengths, and READY (14 R303, R304). The
length of a remote-enqueue frame is judged with its payload, after its TAG (R309). -/
def frameOk (s : State) (f : Frame) : Bool :=
  s.addressed f && f.ver == 1 && f.rsv == 0 &&
    (f.kind == 1 || (f.kind == 0x10 && decide (f.len ≤ 9000) && f.payload.length == f.len)) && (s.dev.ready || opOf f == 1)

/-- A frame arrives (14 R303 to R305). -/
def receive (s : State) (f : Frame) : State :=
  if !s.frameOk f then s
  else
    match s.sessionOf f.sender with
    | none => if f.ctxid == 0 && (opOf f == 1 || opOf f == 2 || opOf f == 3) then s.executeBare f else s
    | some (sid, e) =>
      if f.tag != frameTag e.skey f.kind f.ctxid f.seq f.len f.payload || (f.ctxid != 0 && !s.named f.ctxid) then s
      else if f.kind == 1 && (f.ctxid == 0 || !s.reach e f.ctxid) then s
      else
        let s := s.modDev fun d => { d with
          stamp := d.stamp + 1, sessions := d.sessions.upd sid fun e => { e with used := d.stamp + 1 } }
        s.number sid e f

end State

/-- A management request of one operation arrives (14 R306). -/
def manage (op : Nat) (name : String) (f : Frame) (s : State) : Host.Outcome State Fault Refusal :=
  if !s.dev.power || f.kind != 0x10 || State.opOf f != op then .fault (.notEnabled name) else .next (s.receive f)

/-- STATUS (14 R298, R306). -/
def execStatus (f : Frame) (s : State) : Host.Outcome State Fault Refusal := manage 0x01 "STATUS" f s
/-- ATTEST (14 R301, R308). -/
def execAttest (f : Frame) (s : State) : Host.Outcome State Fault Refusal := manage 0x02 "ATTEST" f s
/-- ATTACH (14 R304). -/
def execAttach (f : Frame) (s : State) : Host.Outcome State Fault Refusal := manage 0x03 "ATTACH" f s
/-- PEER (14 R305). -/
def execPeer (f : Frame) (s : State) : Host.Outcome State Fault Refusal := manage 0x04 "PEER" f s
/-- CTXCREATE (14 R307). -/
def execCtxcreate (f : Frame) (s : State) : Host.Outcome State Fault Refusal := manage 0x10 "CTXCREATE" f s
/-- CTXEND (12 R494). -/
def execCtxend (f : Frame) (s : State) : Host.Outcome State Fault Refusal := manage 0x11 "CTXEND" f s
/-- BINDQ (03 R56). -/
def execBindq (f : Frame) (s : State) : Host.Outcome State Fault Refusal := manage 0x12 "BINDQ" f s
/-- INSTALL (14 R307). -/
def execInstall (f : Frame) (s : State) : Host.Outcome State Fault Refusal := manage 0x13 "INSTALL" f s
/-- SAVE (14 R307). -/
def execSave (f : Frame) (s : State) : Host.Outcome State Fault Refusal := manage 0x14 "SAVE" f s
/-- RESTORE (12 R274). -/
def execRestore (f : Frame) (s : State) : Host.Outcome State Fault Refusal := manage 0x15 "RESTORE" f s
/-- MREG (14 R307). -/
def execMreg (f : Frame) (s : State) : Host.Outcome State Fault Refusal := manage 0x16 "MREG" f s
/-- QPOPEN (14 R312). -/
def execQpopen (f : Frame) (s : State) : Host.Outcome State Fault Refusal := manage 0x17 "QPOPEN" f s
/-- EPSET (14 R312). -/
def execEpset (f : Frame) (s : State) : Host.Outcome State Fault Refusal := manage 0x18 "EPSET" f s
/-- HEALTH (14 R313). -/
def execHealth (f : Frame) (s : State) : Host.Outcome State Fault Refusal := manage 0x20 "HEALTH" f s
/-- PCAP (14 R314). -/
def execPcap (f : Frame) (s : State) : Host.Outcome State Fault Refusal := manage 0x21 "PCAP" f s
/-- BREAK (14 R307). -/
def execBrk (f : Frame) (s : State) : Host.Outcome State Fault Refusal := manage 0x30 "BREAK" f s

/-- A remote-enqueue frame arrives (08 R182; 14 R309, R310). -/
def execRemoteEnqueue (f : Frame) (s : State) : Host.Outcome State Fault Refusal :=
  if !s.dev.power || f.kind != 1 then .fault (.notEnabled "REMOTE_ENQUEUE") else .next (s.receive f)

/-- A held frame is executed once its number is next (14 R305). -/
def execHeldFrameExecute (session ctx : Nat) (s : State) : Host.Outcome State Fault Refusal :=
  match s.dev.sessions.find session with
  | none => .fault (.notEnabled "HELD_FRAME_EXECUTE")
  | some e =>
    match e.held.find? fun f => f.ctxid == ctx && f.seq == e.next.getD ctx 0 with
    | none => .fault (.notEnabled "HELD_FRAME_EXECUTE")
    | some f =>
      if f.kind == 1 && s.enqueueWaits f then .fault (.notEnabled "HELD_FRAME_EXECUTE")
      else
        let s := s.modSession session fun e => { e with held := e.held.filter (· != f) }
        .next (if s.frameOk f && (ctx == 0 || s.named ctx) then s.execute session f else s)

end Sys2Proof.Machine
end

