-- ==== Sys2Proof/Machine/Network.lean ====
section
/-! DEFINITION. What arrives at the Ethernet ports beside Druiraim frames: neighbours, echo, pauses, RoCE v2
(14_system_interface R302, R311, R312, R496; log 22). -/

namespace Sys2Proof.Machine

namespace State

/-- A frame that a port takes in: the port is in use, the VLAN tag is right, the frame fits (14 R300, R302). -/
def heard (s : State) (p : NetPkt) : Bool :=
  s.portLive p.port && s.vlanOk p.vid && frameFits p.vid p.v6 (8 + p.data.length)

/-- The pause of a priority's frame in clocks of core 0: quanta of 512 bit times at 800 Gb/s (14 R302; log 22). -/
def pauseClocks (quanta : Nat) : Nat := (quanta * 512 + 999) / 1000

/-- A resolution that is waited for is recorded, and what waits for it goes (14 R302). -/
def learn (s : State) (n : Nat) (v6 : Bool) (ip mac : Nat) : State :=
  if !(s.port n).out.any fun o => o.hop == some (v6, ip) then s
  else
    (s.modPort n fun p => if v6 then { p with hops6 := p.hops6.put ip mac } else { p with hops4 := p.hops4.put ip mac }).pump n

/-- The pages of a run of virtual bytes, each with the bytes of the run that lie in it (06 R144). -/
def pieces : Nat → Nat → Nat → List (Nat × Nat)
  | 0, _, _ => []
  | fuel + 1, va, n =>
    if n == 0 then []
    else
      let k := min n (65536 - va % 65536)
      (va, k) :: pieces fuel (va + k) (n - k)

/-- A run of remote bytes is translated as a whole; none where a page refuses it (14 R496). -/
def remotePlaces (s : State) (c : Nat) (write : Bool) : List (Nat × Nat) → State × Option (List (Nat × Nat))
  | [] => (s, some [])
  | (va, n) :: r =>
    match s.translateRaw c va (if write then .write else .read) write with
    | (s, .ok pa) =>
      match s.remotePlaces c write r with
      | (s, some l) => (s, some ((pa, n) :: l))
      | (s, none) => (s, none)
    | (s, _) => (s, none)

/-- A registered region serves an access (14 R307, R311, R496). -/
def served (s : State) (r : RdmaReq) (write : Bool) (n : Nat) : Bool :=
  match s.qps.find r.qpn with
  | none => false
  | some q =>
    match (s.ctx q.ctx).regions.find r.rkey with
    | none => false
    | some m => (if write then m.wr else m.rd) && decide (m.va ≤ r.va) && decide (r.va + n ≤ m.va + m.bytes)

/-- A packet marked ECN CE is answered with a congestion notification, at most one per queue pair per 50 µs (14 R311). -/
def markCe (s : State) (r : RdmaReq) : State :=
  let q := s.qps.getD r.qpn { ctx := 0, port := 0 }
  let due := match q.notified with
    | none => true
    | some t => decide (t + 40000 ≤ s.clockOf 0)
  if !r.ce || !due then s
  else
    let now := s.clockOf 0
    { s with qps := s.qps.upd r.qpn fun q => { q with notified := some now } }.sendQp r.qpn (.congestion q.rqpn)

/-- An open queue pair whose port is in use. -/
def reaches (s : State) (qpn : Nat) : Bool :=
  match s.qps.find qpn with
  | some q => s.portLive q.port
  | none => false

/-- A request reaches its queue pair: port, VLAN tag, addresses (14 R300, R302, R312). -/
def requestHeard (s : State) (r : RdmaReq) : Bool :=
  match s.qps.find r.qpn with
  | none => false
  | some q => s.portLive q.port && q.port == r.port && s.vlanOk r.vid && r.src == q.ip && s.ownIp q.port q.v6 r.dst

/-- How far a request's PSN is behind the expected one: 0 its turn; less than 2^23 a repeat; else a gap (14 R311; log
22). -/
def psnBehind (s : State) (r : RdmaReq) : Nat :=
  ((s.qps.getD r.qpn { ctx := 0, port := 0 }).rpsn + 2 ^ 24 - r.psn) % 2 ^ 24

/-- The PSNs of a request are used up. -/
def psnDone (s : State) (r : RdmaReq) (n : Nat) : State :=
  { s with qps := s.qps.upd r.qpn fun q => { q with rpsn := (q.rpsn + packetsOf n) % 2 ^ 24 } }

/-- A request is taken up in its queue pair's order: at its turn it is performed, a repeat is dealt with by `again` (a WRITE
or SEND is only acknowledged again), and one after a gap is told which PSN is expected (14 R311; log 22). -/
def inSequence (s : State) (r : RdmaReq) (act again : State → State) : State :=
  let q := s.qps.getD r.qpn { ctx := 0, port := 0 }
  let s := s.markCe r
  let d := s.psnBehind r
  if d == 0 then act s else if d < 2 ^ 23 then again s else s.sendQp r.qpn (.sequenceError q.rqpn q.rpsn)

/-- Remote data goes to memory, piece by piece. -/
def putPieces (s : State) (bs : List Byte) : List (Nat × Nat) → State
  | [] => s
  | (pa, n) :: r => (s.remoteWrite pa (bs.take n)).putPieces (bs.drop n) r

/-- A WRITE or SEND is acknowledged with the PSN of its last packet (14 R311). -/
def ackOf (s : State) (r : RdmaReq) : State :=
  s.sendQp r.qpn (.ack (s.qps.getD r.qpn { ctx := 0, port := 0 }).rqpn ((r.psn + packetsOf r.data.length - 1) % 2 ^ 24))

/-- An RDMA WRITE (06 R140; 14 R311, R496). -/
def doRdmaWrite (s : State) (r : RdmaReq) : State :=
  let q := s.qps.getD r.qpn { ctx := 0, port := 0 }
  let n := r.data.length
  if !s.served r true n then s.sendQp r.qpn (.accessError q.rqpn r.psn)
  else
    match s.remotePlaces q.ctx true (pieces (n / 65536 + 2) r.va n) with
    | (s, none) => s.sendQp r.qpn (.accessError q.rqpn r.psn)
    | (s, some l) => ((s.putPieces r.data l).psnDone r n).ackOf r

/-- An RDMA READ (06 R140; 14 R311, R496). -/
def doRdmaRead (s : State) (r : RdmaReq) (first : Bool) : State :=
  let q := s.qps.getD r.qpn { ctx := 0, port := 0 }
  if !s.served r false r.len then s.sendQp r.qpn (.accessError q.rqpn r.psn)
  else
    match s.remotePlaces q.ctx false (pieces (r.len / 65536 + 2) r.va r.len) with
    | (s, none) => s.sendQp r.qpn (.accessError q.rqpn r.psn)
    | (s, some l) =>
      (if first then s.psnDone r r.len else s).sendQp r.qpn
        (.readReply q.rqpn r.psn ((l.map fun x => s.remoteRead x.1 x.2).flatten))

/-- A SEND: the transport acknowledges it, and no rule takes its data anywhere (14 R311; log 22). -/
def doRoceSend (s : State) (r : RdmaReq) : State :=
  (s.psnDone r r.data.length).ackOf r

/-- A rate halved, down to 1 Gb/s (14 R311). -/
def halved (q : QueuePair) : QueuePair :=
  if q.rate ≤ 2 * q.rateDen then { q with rate := 1, rateDen := 1 } else { q with rateDen := 2 * q.rateDen }

/-- A rate raised by 25 Gb/s, up to line rate (14 R311). -/
def raised (q : QueuePair) : QueuePair :=
  if 800 * q.rateDen ≤ q.rate + 25 * q.rateDen then { q with rate := 800, rateDen := 1 }
  else { q with rate := q.rate + 25 * q.rateDen }

end State

/-- An ARP request for an own address is answered (14 R302). -/
def execArpRequest (p : NetPkt) (s : State) : Host.Outcome State Fault Refusal :=
  if !s.dev.power then .fault (.notEnabled "ARP_REQUEST")
  else if !s.heard p || !s.configured || !s.ownIp p.port false p.dst then .next s
  else .next (s.sendOut p.port { hop := none, mac := some p.mac, pkt := .answer false p.dst (s.portMac p.port) p.src })

/-- A neighbour solicitation for an own address is answered (14 R302, R304). -/
def execNeighbourSolicitation (p : NetPkt) (s : State) : Host.Outcome State Fault Refusal :=
  if !s.dev.power then .fault (.notEnabled "NEIGHBOUR_SOLICITATION")
  else if !s.heard p || !s.ownIp p.port true p.dst then .next s
  else .next (s.sendOut p.port
    { hop := none, mac := some p.mac, ip := some (true, p.src), pkt := .answer true p.dst (s.portMac p.port) p.src })

/-- An ICMP or ICMPv6 echo request to an own address is answered (14 R302). -/
def execIcmpEchoRequest (p : NetPkt) (s : State) : Host.Outcome State Fault Refusal :=
  if !s.dev.power then .fault (.notEnabled "ICMP_ECHO_REQUEST")
  else if !s.heard p || !s.configured || !s.ownIp p.port p.v6 p.dst then .next s
  else .next (s.transmit p.port p.v6 p.src (.echo p.v6 p.src p.data))

/-- A router advertisement names the port's router (14 R302). -/
def execRouterAdvertisement (p : NetPkt) (s : State) : Host.Outcome State Fault Refusal :=
  if !s.dev.power then .fault (.notEnabled "ROUTER_ADVERTISEMENT")
  else if !s.heard p || s.portIp6 p.port == 0 then .next s
  else .next (s.modPort p.port fun q => { q with router := some p.src })

/-- A pause frame for PFCP stops what the port sends, or lets it go on; others are ignored (14 R302). -/
def execPfcPauseFrame (p : NetPkt) (s : State) : Host.Outcome State Fault Refusal :=
  if !s.dev.power then .fault (.notEnabled "PFC_PAUSE_FRAME")
  else if !s.portLive p.port || !s.configured || p.prio != s.cfgField 7 2 0 then .next s
  else
    let until_ := s.clockOf 0 + State.pauseClocks p.quanta
    .next ((s.modPort p.port fun q => { q with paused := until_ }).pump p.port)

/-- An ARP reply resolves the next hop that it names (14 R302). -/
def execArpReply (p : NetPkt) (s : State) : Host.Outcome State Fault Refusal :=
  if !s.dev.power then .fault (.notEnabled "ARP_REPLY")
  else if !s.heard p then .next s
  else .next (s.learn p.port false p.src p.mac)

/-- A neighbour advertisement resolves the next hop that it names (14 R302). -/
def execNeighbourAdvertisement (p : NetPkt) (s : State) : Host.Outcome State Fault Refusal :=
  if !s.dev.power then .fault (.notEnabled "NEIGHBOUR_ADVERTISEMENT")
  else if !s.heard p then .next s
  else .next (s.learn p.port true p.src p.mac)

/-- A link comes back: the port is up, and what waits goes (14 R302). -/
def execLinkTraining (n : Nat) (s : State) : Host.Outcome State Fault Refusal :=
  if !s.dev.power || (s.dev.ports.find n).isNone then .fault (.notEnabled "LINK_TRAINING")
  else .next ((s.modPort n fun q => { q with up := true }).pump n)

/-- An RDMA WRITE arrives (14 R496). One on no open queue pair is dropped. -/
def execRdmaWrite (r : RdmaReq) (s : State) : Host.Outcome State Fault Refusal :=
  if !s.dev.power then .fault (.notEnabled "RDMA_WRITE")
  else if !s.requestHeard r then .next s
  else .next (s.inSequence r (·.doRdmaWrite r) (·.ackOf r))

/-- An RDMA READ arrives (14 R496). -/
def execRdmaRead (r : RdmaReq) (s : State) : Host.Outcome State Fault Refusal :=
  if !s.dev.power then .fault (.notEnabled "RDMA_READ")
  else if !s.requestHeard r then .next s
  else .next (s.inSequence r (·.doRdmaRead r true) (·.doRdmaRead r false))

/-- A SEND arrives (14 R311). -/
def execRoceSend (r : RdmaReq) (s : State) : Host.Outcome State Fault Refusal :=
  if !s.dev.power then .fault (.notEnabled "ROCE_SEND")
  else if !s.requestHeard r then .next s
  else .next (s.inSequence r (·.doRoceSend r) (·.ackOf r))

/-- A congestion notification halves the queue pair's rate, down to 1 Gb/s (14 R311). -/
def execCongestionNotification (qpn : Nat) (s : State) : Host.Outcome State Fault Refusal :=
  if !s.dev.power then .fault (.notEnabled "CONGESTION_NOTIFICATION")
  else if !s.reaches qpn then .next s
  else .next { s with qps := s.qps.upd qpn State.halved }

/-- 100 µs without a notification: the rate rises by 25 Gb/s, up to line rate (14 R311). -/
def execRateRecovery (qpn : Nat) (s : State) : Host.Outcome State Fault Refusal :=
  if (s.qps.find qpn).isNone then .fault (.notEnabled "RATE_RECOVERY")
  else .next { s with qps := s.qps.upd qpn State.raised }

end Sys2Proof.Machine
end

