-- ==== Sys2Proof/Machine/Spin.lean ====
section
/-! DEFINITION. Progress: the ageing rule (02 R50) and the spin detector (02 R51). -/

namespace Sys2Proof.Machine

namespace State

/-- A clock beyond every late write. -/
def farClock : Nat := 2 ^ 64

/-- A register as it will read once every write to it that is under way at a fixed latency has landed. -/
def regLanded (s : State) (f : FibreId) (gid : Nat) (r : Reg) : Dword :=
  match r with
  | .v n => ((s.fibre f).vAt farClock n).setWidth 64
  | .k n => if (s.fibre f).kAt farClock n then 1 else 0
  | .g n =>
    let t := s.team (s.leadTeam gid)
    let g := s.group gid
    if n < 16 then gRead t.g t.late 0 n (fun _ => true) else gRead g.g g.late 16 n (fun _ => true)
  | .ret => 0

/-- A result's destinations hold different values in two states. -/
def destsDiffer (s t : State) (p : Pending) : Bool :=
  p.dests.any fun d => s.regLanded p.fib p.gid d.1 != t.regLanded p.fib p.gid d.1

/-- The fibre's registers, every late write landed. -/
def fileLanded (s : State) (f : FibreId) : List Word × BitVec 8 :=
  let x := (s.fibre f).flush farClock
  (x.v, x.k)

/-- The g registers that a group sees, every late write landed. -/
def gLanded (s : State) (gid : Nat) : List Dword × List Dword :=
  let t := s.team (s.leadTeam gid)
  let g := s.group gid
  ((gFlush t.g t.late 0 fun _ => true).1, (gFlush g.g g.late 16 fun _ => true).1)

/-- An instruction from state s to state t wrote a register with a different value (02 R51): its results that are written
later without a load are known as well. -/
def wroteNew (s t : State) (iss : Issue) : Bool :=
  iss.lanes.any (fun x => s.fileLanded x.2 != t.fileLanded x.2) || s.gLanded iss.gid != t.gLanded iss.gid ||
    (t.pending.any fun x => s.nextId ≤ x.1 && x.2.load.isNone &&
      x.2.dests.any fun d => match d.1 with
        | .v _ => t.regLanded x.2.fib x.2.gid d.1 != d.2 % 2 ^ 32
        | .k _ => t.regLanded x.2.fib x.2.gid d.1 != d.2 % 2
        | .g _ => t.regLanded x.2.fib x.2.gid d.1 != d.2
        | .ret => false)

/-- The instructions with a memory-side effect (02 R51; 23 R462; 22 R442). -/
def sideEffect (i : Instr) : Bool :=
  match i with
  | .st _ | .stX _ | .sts _ | .stsX _ | .stx _ | .enq _ | .enqTry _ | .spawn _ | .qinit _ | .chsend _ | .copy _ | .gather _ | .scatter _
  | .mcast _ | .tcopy _ => true
  | _ =>
    match i.enc with
    | some (.xm m _) => 0x10 ≤ m.toNat
    | _ => false

/-- The counter updates whose loads are all judged are made, in branch order, up to the one that reaches 16: the subset is
then due to be demoted, its counter is 0 again, and later updates follow the demotion (02 R51). -/
def spinUpdate (r : Spin) : Spin :=
  if r.due then r
  else
    let out := go r.branches r.count
    { r with count := out.1, due := out.2.1, branches := out.2.2 }
where
  /-- The updates from the oldest on. -/
  go : List (Bool × List Nat) → Nat → Nat × Bool × List (Bool × List Nat)
    | [], n => (n, false, [])
    | (dirty, loads) :: b, n =>
      if !loads.isEmpty then (n, false, (dirty, loads) :: b)
      else if !dirty && 15 ≤ n then (0, true, b)
      else go b (if dirty then 1 else n + 1)

/-- A load is judged: it changed its destination, or did not. -/
def spinJudge (changed : Bool) (id : Nat) (r : Spin) : Spin :=
  let one := fun (b : Bool × List Nat) => if b.2.contains id then (b.1 || changed, b.2.filter (· != id)) else b
  let now := one (r.dirty, r.loads)
  spinUpdate { r with dirty := now.1, loads := now.2, branches := r.branches.map one }

/-- The loads that were written between two states are judged (02 R51). -/
def judgeLoads (s t : State) : State :=
  let ids := (s.pending.filter fun x => (t.pending.find x.1).isNone).map fun x => (x.1, x.2.gid, s.destsDiffer t x.2)
  t.each ids fun t x =>
    if (t.group x.2.1).spins.isEmpty then t
    else t.modGroup x.2.1 fun g => { g with spins := g.spins.map (spinJudge x.2.2 x.1) }

/-- A group has gone on from a wait for a reply, for its tiles or for banks, whose instruction then wrote its registers (08
R176; 21 R429; 17 R350). -/
def replied (s t : State) (gid : Nat) : Bool :=
  (s.group gid).members.any fun f =>
    let was := (s.fibre f).status
    was != (t.fibre f).status && match was with
      | .blocked (.request _) | .blocked .matrix | .blocked (.banks _) => true
      | _ => false

/-- The registers that a reply or an acceptance wrote count in the interval of the subset (02 R51). -/
def judgeReplies (s t : State) : State :=
  t.each (t.groups.filter fun x => !x.2.spins.isEmpty && s.replied t x.1) fun t x =>
    let changed := s.gLanded x.1 != t.gLanded x.1
    t.modGroup x.1 fun g => { g with spins := g.spins.map fun r =>
      { r with dirty := r.dirty || changed || r.lanes.any fun f => s.fileLanded f != t.fileLanded f } }

/-- The lanes of a counter are still a PC subset (02 R51). -/
def spinStands (s : State) (gid : Nat) (r : Spin) : Bool :=
  match r.lanes with
  | [] => false
  | f :: _ => ((s.freeLanes gid).filter fun x => (s.fibre x.2).pc == (s.fibre f).pc).map (·.2) == r.lanes

/-- SPIN of some fibres (02 R48). -/
def markSpin (s : State) (fs : List FibreId) (b : Bool) : State :=
  s.each fs fun s f => if (s.fibre f).spin == b then s else s.modFibre f fun x => { x with spin := b }

/-- Subsets that merged, split or were regrouped lose their counters and their demotion (02 R51). -/
def dropSpins (s : State) (gid : Nat) : State :=
  let g := s.group gid
  let gone := g.spins.filter fun r => !s.spinStands gid r
  if gone.isEmpty then s
  else
    let s := s.each gone fun s r => s.markSpin r.lanes false
    s.modGroup gid fun g => { g with spins := g.spins.filter fun r => s.spinStands gid r }

/-- In every group, the subsets that a step has merged, split or regrouped lose their counters and their demotion: a reply
or a wake moves lanes to another reference without an issue of theirs (02 R51). -/
def dropAllSpins (s : State) : State :=
  s.each ((s.groups.filter fun x => !x.2.spins.isEmpty).map (·.1)) dropSpins

/-- Every lane of a subset has taken a backward branch: none of them trapped or parked on it (02 R51). -/
def tookBack (s t : State) (iss : Issue) (i : Instr) (act : List (Nat × FibreId)) : Bool :=
  !act.isEmpty && act.length == iss.lanes.length && s.branchesBack iss i && iss.lanes.all fun x =>
    let f := s.fibre x.2
    let f' := t.fibre x.2
    some f'.pc == s.branchTarget iss i && f'.status == .ready && f'.firm == f.firm && f'.handler == f.handler

/-- A subset has issued an instruction, from state s to state t: its counter's interval (02 R51). -/
def spinIssued (s t : State) (iss : Issue) (i : Instr) (act : List (Nat × FibreId)) : State :=
  if (t.groups.find iss.gid).isNone then t
  else
    let ls := iss.lanes.map (·.2)
    let old := (t.group iss.gid).spins
    let r := (old.find? fun r => r.lanes == ls).getD { lanes := ls }
    let loads := (t.pending.filter fun x => s.nextId ≤ x.1 && x.2.load.isSome).map (·.1)
    let r := { r with
      dirty := r.dirty || (!act.isEmpty && sideEffect i) || s.wroteNew t iss, loads := r.loads ++ loads }
    let r := if s.tookBack t iss i act then
        spinUpdate { r with dirty := false, loads := [], branches := r.branches ++ [(r.dirty, r.loads)] }
      else r
    let (gone, rest) := (old.filter fun q => q.lanes != ls).partition fun q => q.lanes.any fun f => ls.contains f
    let t := t.each gone fun t q => t.markSpin q.lanes false
    (t.modGroup iss.gid fun g => { g with spins := rest ++ [r] }).dropSpins iss.gid

/-- The counters of a group whose lanes stand at a reference. -/
def spinAt (s : State) (gid : Nat) (pc : Dword) (p : Spin → Bool) : Option Spin :=
  (s.group gid).spins.find? fun r => p r && r.lanes.any fun f => (s.fibre f).pc == pc

/-- A counter of a group is replaced. -/
def putSpin (s : State) (gid : Nat) (r : Spin) : State :=
  s.modGroup gid fun g => { g with spins := g.spins.map fun q => if q.lanes == r.lanes then r else q }

/-- A counter has reached 16. -/
def spinDue (r : Spin) : Bool := r.due

/-- A demotion is over at a clock. -/
def spinOver (clock : Nat) (r : Spin) : Bool :=
  match r.demotedUntil with
  | some t => t ≤ clock
  | none => false

/-- A subset is demoted for 256 clocks (02 R51). -/
def demote (s : State) (gid : Nat) (r : Spin) : State :=
  let until_ := s.clockOf (s.group gid).core + 256
  (s.putSpin gid (spinUpdate { r with due := false, demotedUntil := some until_ })).markSpin r.lanes true

/-- A demotion ends. -/
def undemote (s : State) (gid : Nat) (r : Spin) : State :=
  (s.putSpin gid { r with demotedUntil := none }).markSpin r.lanes false

/-- Every demotion of a group that is due begins or ends. -/
def dueSpins (s : State) (gid : Nat) : State :=
  let rs := (s.group gid).spins
  let clock := s.clockOf (s.group gid).core
  let s := s.each (rs.filter (spinOver clock)) fun s r => s.undemote gid r
  s.each (((s.group gid).spins).filter spinDue) fun s r => s.demote gid r

end State

/-- A group that was ready and unissued for 128 cycles is lifted (02 R50). -/
def execAgeingLift (gid : Nat) (s : State) : Host.Outcome State Fault Refusal :=
  match s.groups.find gid with
  | none => .fault (.notEnabled "AGEING_LIFT")
  | some g =>
    if g.lifted || g.waited < 128 then .fault (.notEnabled "AGEING_LIFT")
    else .next (s.setGroup gid { g with lifted := true })

/-- A subset whose counter has reached 16 is demoted (02 R51). -/
def execSpinDemotion (gid : Nat) (pc : Dword) (s : State) : Host.Outcome State Fault Refusal :=
  match s.spinAt gid pc State.spinDue with
  | some r => .next (s.demote gid r)
  | none => .fault (.notEnabled "SPIN_DEMOTION")

/-- A demotion expires (02 R51). -/
def execSpinDemotionEnd (gid : Nat) (pc : Dword) (s : State) : Host.Outcome State Fault Refusal :=
  match s.spinAt gid pc (State.spinOver (s.clockOf (s.group gid).core)) with
  | some r => .next (s.undemote gid r)
  | none => .fault (.notEnabled "SPIN_DEMOTION_END")

end Sys2Proof.Machine
end

