-- ==== Sys2Proof/Machine/Dispatch.lean ====
section
/-! DEFINITION. One arm for each constructor of `Instr`: a direct call of its meaning. -/

namespace Sys2Proof.Machine

def exec (i : Instr) (s : State) : Host.Outcome State Fault Refusal :=
  match i with
  | .nop o => Sys2Proof.Machine.execNop o s
  | .nopX o => Sys2Proof.Machine.execNopX o s
  | .yield o => Sys2Proof.Machine.execYield o s
  | .yieldX o => Sys2Proof.Machine.execYieldX o s
  | .exit o => Sys2Proof.Machine.execExit o s
  | .exitX o => Sys2Proof.Machine.execExitX o s
  | .ret o => Sys2Proof.Machine.execRet o s
  | .retX o => Sys2Proof.Machine.execRetX o s
  | .bra o => Sys2Proof.Machine.execBra o s
  | .braX o => Sys2Proof.Machine.execBraX o s
  | .bru o => Sys2Proof.Machine.execBru o s
  | .bruX o => Sys2Proof.Machine.execBruX o s
  | .call o => Sys2Proof.Machine.execCall o s
  | .callX o => Sys2Proof.Machine.execCallX o s
  | .callr o => Sys2Proof.Machine.execCallr o s
  | .add o => Sys2Proof.Machine.execAdd o s
  | .addX o => Sys2Proof.Machine.execAddX o s
  | .sub o => Sys2Proof.Machine.execSub o s
  | .subX o => Sys2Proof.Machine.execSubX o s
  | .mul o => Sys2Proof.Machine.execMul o s
  | .mulX o => Sys2Proof.Machine.execMulX o s
  | .mulh o => Sys2Proof.Machine.execMulh o s
  | .mulhX o => Sys2Proof.Machine.execMulhX o s
  | .mad o => Sys2Proof.Machine.execMad o s
  | .madX o => Sys2Proof.Machine.execMadX o s
  | .and o => Sys2Proof.Machine.execAnd o s
  | .andX o => Sys2Proof.Machine.execAndX o s
  | .or o => Sys2Proof.Machine.execOr o s
  | .orX o => Sys2Proof.Machine.execOrX o s
  | .xor o => Sys2Proof.Machine.execXor o s
  | .xorX o => Sys2Proof.Machine.execXorX o s
  | .andn o => Sys2Proof.Machine.execAndn o s
  | .andnX o => Sys2Proof.Machine.execAndnX o s
  | .min o => Sys2Proof.Machine.execMin o s
  | .minX o => Sys2Proof.Machine.execMinX o s
  | .max o => Sys2Proof.Machine.execMax o s
  | .maxX o => Sys2Proof.Machine.execMaxX o s
  | .shl o => Sys2Proof.Machine.execShl o s
  | .shlX o => Sys2Proof.Machine.execShlX o s
  | .shr o => Sys2Proof.Machine.execShr o s
  | .shrX o => Sys2Proof.Machine.execShrX o s
  | .rol o => Sys2Proof.Machine.execRol o s
  | .rolX o => Sys2Proof.Machine.execRolX o s
  | .mov o => Sys2Proof.Machine.execMov o s
  | .movX o => Sys2Proof.Machine.execMovX o s
  | .li o => Sys2Proof.Machine.execLi o s
  | .liX o => Sys2Proof.Machine.execLiX o s
  | .cmp o => Sys2Proof.Machine.execCmp o s
  | .cmpX o => Sys2Proof.Machine.execCmpX o s
  | .fadd o => Sys2Proof.Machine.execFadd o s
  | .faddX o => Sys2Proof.Machine.execFaddX o s
  | .fsub o => Sys2Proof.Machine.execFsub o s
  | .fsubX o => Sys2Proof.Machine.execFsubX o s
  | .fmul o => Sys2Proof.Machine.execFmul o s
  | .fmulX o => Sys2Proof.Machine.execFmulX o s
  | .fmin o => Sys2Proof.Machine.execFmin o s
  | .fminX o => Sys2Proof.Machine.execFminX o s
  | .fmax o => Sys2Proof.Machine.execFmax o s
  | .fmaxX o => Sys2Proof.Machine.execFmaxX o s
  | .fma o => Sys2Proof.Machine.execFma o s
  | .fmaX o => Sys2Proof.Machine.execFmaX o s
  | .fdiv o => Sys2Proof.Machine.execFdiv o s
  | .fsqrt o => Sys2Proof.Machine.execFsqrt o s
  | .fsqrtX o => Sys2Proof.Machine.execFsqrtX o s
  | .hadd2 o => Sys2Proof.Machine.execHadd2 o s
  | .hadd2X o => Sys2Proof.Machine.execHadd2X o s
  | .hmul2 o => Sys2Proof.Machine.execHmul2 o s
  | .hmul2X o => Sys2Proof.Machine.execHmul2X o s
  | .hfma2 o => Sys2Proof.Machine.execHfma2 o s
  | .hfma2X o => Sys2Proof.Machine.execHfma2X o s
  | .fcmp o => Sys2Proof.Machine.execFcmp o s
  | .fcmpX o => Sys2Proof.Machine.execFcmpX o s
  | .fclass o => Sys2Proof.Machine.execFclass o s
  | .fcvt o => Sys2Proof.Machine.execFcvt o s
  | .frnd o => Sys2Proof.Machine.execFrnd o s
  | .frcp o => Sys2Proof.Machine.execFrcp o s
  | .frcpX o => Sys2Proof.Machine.execFrcpX o s
  | .frsq o => Sys2Proof.Machine.execFrsq o s
  | .frsqX o => Sys2Proof.Machine.execFrsqX o s
  | .fexp2 o => Sys2Proof.Machine.execFexp2 o s
  | .fexp2X o => Sys2Proof.Machine.execFexp2X o s
  | .flog2 o => Sys2Proof.Machine.execFlog2 o s
  | .flog2X o => Sys2Proof.Machine.execFlog2X o s
  | .fsin o => Sys2Proof.Machine.execFsin o s
  | .fcos o => Sys2Proof.Machine.execFcos o s
  | .abs o => Sys2Proof.Machine.execAbs o s
  | .absX o => Sys2Proof.Machine.execAbsX o s
  | .neg o => Sys2Proof.Machine.execNeg o s
  | .negX o => Sys2Proof.Machine.execNegX o s
  | .clz o => Sys2Proof.Machine.execClz o s
  | .clzX o => Sys2Proof.Machine.execClzX o s
  | .popc o => Sys2Proof.Machine.execPopc o s
  | .popcX o => Sys2Proof.Machine.execPopcX o s
  | .brev o => Sys2Proof.Machine.execBrev o s
  | .brevX o => Sys2Proof.Machine.execBrevX o s
  | .div o => Sys2Proof.Machine.execDiv o s
  | .rem o => Sys2Proof.Machine.execRem o s
  | .bfx o => Sys2Proof.Machine.execBfx o s
  | .bfi o => Sys2Proof.Machine.execBfi o s
  | .sel o => Sys2Proof.Machine.execSel o s
  | .plop o => Sys2Proof.Machine.execPlop o s
  | .movs o => Sys2Proof.Machine.execMovs o s
  | .bcvt o => Sys2Proof.Machine.execBcvt o s
  | .bdot o => Sys2Proof.Machine.execBdot o s
  | .shflIdx o => Sys2Proof.Machine.execShflIdx o s
  | .shflUp o => Sys2Proof.Machine.execShflUp o s
  | .shflDown o => Sys2Proof.Machine.execShflDown o s
  | .shflXor o => Sys2Proof.Machine.execShflXor o s
  | .voteMask o => Sys2Proof.Machine.execVoteMask o s
  | .voteCount o => Sys2Proof.Machine.execVoteCount o s
  | .voteQuorum o => Sys2Proof.Machine.execVoteQuorum o s
  | .voteSplit o => Sys2Proof.Machine.execVoteSplit o s
  | .gred o => Sys2Proof.Machine.execGred o s
  | .gscan o => Sys2Proof.Machine.execGscan o s
  | .matchAny o => Sys2Proof.Machine.execMatchAny o s
  | .matchAll o => Sys2Proof.Machine.execMatchAll o s
  | .rebal o => Sys2Proof.Machine.execRebal o s
  | .topk o => Sys2Proof.Machine.execTopk o s
  | .ld o => Sys2Proof.Machine.execLd o s
  | .ldX o => Sys2Proof.Machine.execLdX o s
  | .st o => Sys2Proof.Machine.execSt o s
  | .stX o => Sys2Proof.Machine.execStX o s
  | .lds o => Sys2Proof.Machine.execLds o s
  | .ldsX o => Sys2Proof.Machine.execLdsX o s
  | .sts o => Sys2Proof.Machine.execSts o s
  | .stsX o => Sys2Proof.Machine.execStsX o s
  | .ldx o => Sys2Proof.Machine.execLdx o s
  | .stx o => Sys2Proof.Machine.execStx o s
  | .lea o => Sys2Proof.Machine.execLea o s
  | .pref o => Sys2Proof.Machine.execPref o s
  | .cacheWb o => Sys2Proof.Machine.execCacheWb o s
  | .cacheInv o => Sys2Proof.Machine.execCacheInv o s
  | .cacheClel o => Sys2Proof.Machine.execCacheClel o s
  | .fenceAcq o => Sys2Proof.Machine.execFenceAcq o s
  | .fenceRel o => Sys2Proof.Machine.execFenceRel o s
  | .fenceAr o => Sys2Proof.Machine.execFenceAr o s
  | .atomAdd o => Sys2Proof.Machine.execAtomAdd o s
  | .atomAnd o => Sys2Proof.Machine.execAtomAnd o s
  | .atomOr o => Sys2Proof.Machine.execAtomOr o s
  | .atomXor o => Sys2Proof.Machine.execAtomXor o s
  | .atomMin o => Sys2Proof.Machine.execAtomMin o s
  | .atomMax o => Sys2Proof.Machine.execAtomMax o s
  | .atomUmin o => Sys2Proof.Machine.execAtomUmin o s
  | .atomUmax o => Sys2Proof.Machine.execAtomUmax o s
  | .atomExch o => Sys2Proof.Machine.execAtomExch o s
  | .atomCas o => Sys2Proof.Machine.execAtomCas o s
  | .atomFadd o => Sys2Proof.Machine.execAtomFadd o s
  | .atomsAdd o => Sys2Proof.Machine.execAtomsAdd o s
  | .atomsAnd o => Sys2Proof.Machine.execAtomsAnd o s
  | .atomsOr o => Sys2Proof.Machine.execAtomsOr o s
  | .atomsXor o => Sys2Proof.Machine.execAtomsXor o s
  | .atomsMin o => Sys2Proof.Machine.execAtomsMin o s
  | .atomsMax o => Sys2Proof.Machine.execAtomsMax o s
  | .atomsUmin o => Sys2Proof.Machine.execAtomsUmin o s
  | .atomsUmax o => Sys2Proof.Machine.execAtomsUmax o s
  | .atomsExch o => Sys2Proof.Machine.execAtomsExch o s
  | .atomsCas o => Sys2Proof.Machine.execAtomsCas o s
  | .atomsFadd o => Sys2Proof.Machine.execAtomsFadd o s
  | .tdef o => Sys2Proof.Machine.execTdef o s
  | .tcopy o => Sys2Proof.Machine.execTcopy o s
  | .tfree o => Sys2Proof.Machine.execTfree o s
  | .tstat o => Sys2Proof.Machine.execTstat o s
  | .unfset o => Sys2Proof.Machine.execUnfset o s
  | .mloop o => Sys2Proof.Machine.execMloop o s
  | .mma o => Sys2Proof.Machine.execMma o s
  | .dload o => Sys2Proof.Machine.execDload o s
  | .aalloc o => Sys2Proof.Machine.execAalloc o s
  | .afree o => Sys2Proof.Machine.execAfree o s
  | .copy o => Sys2Proof.Machine.execCopy o s
  | .gather o => Sys2Proof.Machine.execGather o s
  | .scatter o => Sys2Proof.Machine.execScatter o s
  | .mcast o => Sys2Proof.Machine.execMcast o s
  | .cseal o => Sys2Proof.Machine.execCseal o s
  | .cwait o => Sys2Proof.Machine.execCwait o s
  | .enq o => Sys2Proof.Machine.execEnq o s
  | .enqTry o => Sys2Proof.Machine.execEnqTry o s
  | .deq o => Sys2Proof.Machine.execDeq o s
  | .deqTry o => Sys2Proof.Machine.execDeqTry o s
  | .qinit o => Sys2Proof.Machine.execQinit o s
  | .qstat o => Sys2Proof.Machine.execQstat o s
  | .chsend o => Sys2Proof.Machine.execChsend o s
  | .chrecv o => Sys2Proof.Machine.execChrecv o s
  | .spawn o => Sys2Proof.Machine.execSpawn o s
  | .abinit o => Sys2Proof.Machine.execAbinit o s
  | .abwait o => Sys2Proof.Machine.execAbwait o s
  | .sdef o => Sys2Proof.Machine.execSdef o s
  | .sstop o => Sys2Proof.Machine.execSstop o s
  | .tlread o => Sys2Proof.Machine.execTlread o s
  | .tlwait o => Sys2Proof.Machine.execTlwait o s
  | .bar o => Sys2Proof.Machine.execBar o s
  | .gbar o => Sys2Proof.Machine.execGbar o s
  | .gbarEnter o => Sys2Proof.Machine.execGbarEnter o s
  | .gbarLeave o => Sys2Proof.Machine.execGbarLeave o s
  | .wait o => Sys2Proof.Machine.execWait o s
  | .getc o => Sys2Proof.Machine.execGetc o s
  | .setcFpctl o => Sys2Proof.Machine.execSetcFpctl o s
  | .setcFpflags o => Sys2Proof.Machine.execSetcFpflags o s
  | .setcBfflags o => Sys2Proof.Machine.execSetcBfflags o s
  | .setcIssuepol o => Sys2Proof.Machine.execSetcIssuepol o s
  | .setcTrapvec o => Sys2Proof.Machine.execSetcTrapvec o s
  | .setcFaultq o => Sys2Proof.Machine.execSetcFaultq o s
  | .setcLkstat o => Sys2Proof.Machine.execSetcLkstat o s
  | .setcStatclr o => Sys2Proof.Machine.execSetcStatclr o s
  | .cpstatClearErr o => Sys2Proof.Machine.execCpstatClearErr o s
  | .cpstatClearDrop o => Sys2Proof.Machine.execCpstatClearDrop o s
  | .setcMxstat o => Sys2Proof.Machine.execSetcMxstat o s
  | .mxstatResume o => Sys2Proof.Machine.execMxstatResume o s
  | .mxstatResumeIgnoring o => Sys2Proof.Machine.execMxstatResumeIgnoring o s
  | .mxstatAbandon o => Sys2Proof.Machine.execMxstatAbandon o s
  | .setcTrapinfo o => Sys2Proof.Machine.execSetcTrapinfo o s
  | .setcTrapva o => Sys2Proof.Machine.execSetcTrapva o s
  | .setw o => Sys2Proof.Machine.execSetw o s
  | .reord o => Sys2Proof.Machine.execReord o s
  | .svc o => Sys2Proof.Machine.execSvc o s
  | .resolve o => Sys2Proof.Machine.execResolve o s
  | .xlinv o => Sys2Proof.Machine.execXlinv o s
  | .resume o => Sys2Proof.Machine.execResume o s
  | .trap o => Sys2Proof.Machine.execTrap o s
  | .locki o => Sys2Proof.Machine.execLocki o s
  | .unlocki o => Sys2Proof.Machine.execUnlocki o s
  | .ageingLift gid => Sys2Proof.Machine.execAgeingLift gid s
  | .spinDemotion gid pc => Sys2Proof.Machine.execSpinDemotion gid pc s
  | .spinDemotionEnd gid pc => Sys2Proof.Machine.execSpinDemotionEnd gid pc s
  | .resultWriteback id => Sys2Proof.Machine.execResultWriteback id s
  | .ownershipRegistration id => Sys2Proof.Machine.execOwnershipRegistration id s
  | .registrationAck id => Sys2Proof.Machine.execRegistrationAck id s
  | .ownerWriteBack core word => Sys2Proof.Machine.execOwnerWriteBack core word s
  | .ownerReadForward id => Sys2Proof.Machine.execOwnerReadForward id s
  | .ownershipWithdrawal word => Sys2Proof.Machine.execOwnershipWithdrawal word s
  | .readCombineReply line => Sys2Proof.Machine.execReadCombineReply line s
  | .pageWalk core ctx va kind => Sys2Proof.Machine.execPageWalk core ctx va kind s
  | .faultRecordEnqueue ctx => Sys2Proof.Machine.execFaultRecordEnqueue ctx s
  | .codePageHashCheck ctx slot page => Sys2Proof.Machine.execCodePageHashCheck ctx slot page s
  | .enqAtHome id => Sys2Proof.Machine.execEnqAtHome id s
  | .deqAtHome id => Sys2Proof.Machine.execDeqAtHome id s
  | .elementPublication id => Sys2Proof.Machine.execElementPublication id s
  | .waiterEviction id => Sys2Proof.Machine.execWaiterEviction id s
  | .queueReply id => Sys2Proof.Machine.execQueueReply id s
  | .channelLanding id => Sys2Proof.Machine.execChannelLanding id s
  | .channelCreditReturn id => Sys2Proof.Machine.execChannelCreditReturn id s
  | .stxLanding id => Sys2Proof.Machine.execStxLanding id s
  | .copyLanding id target => Sys2Proof.Machine.execCopyLanding id target s
  | .barrierArrival id target => Sys2Proof.Machine.execBarrierArrival id target s
  | .copyCompletion id => Sys2Proof.Machine.execCopyCompletion id s
  | .copyFault id => Sys2Proof.Machine.execCopyFault id s
  | .copyErrorState id ecc => Sys2Proof.Machine.execCopyErrorState id ecc s
  | .streamPrefetch fib stream => Sys2Proof.Machine.execStreamPrefetch fib stream s
  | .matrixAccept gid => Sys2Proof.Machine.execMatrixAccept gid s
  | .kStep id => Sys2Proof.Machine.execKStep id s
  | .drainBlockCommit id => Sys2Proof.Machine.execDrainBlockCommit id s
  | .matrixCompletion id => Sys2Proof.Machine.execMatrixCompletion id s
  | .matrixStop id ecc => Sys2Proof.Machine.execMatrixStop id ecc s
  | .reordDeal tid => Sys2Proof.Machine.execReordDeal tid s
  | .dispatchTake die => Sys2Proof.Machine.execDispatchTake die s
  | .teamStart tid => Sys2Proof.Machine.execTeamStart tid s
  | .teamCompletion tid => Sys2Proof.Machine.execTeamCompletion tid s
  | .launchCompletion launch => Sys2Proof.Machine.execLaunchCompletion launch s
  | .completionReport launch => Sys2Proof.Machine.execCompletionReport launch s
  | .graphStart graph => Sys2Proof.Machine.execGraphStart graph s
  | .launchNodeActivation graph node => Sys2Proof.Machine.execLaunchNodeActivation graph node s
  | .joinActivation graph node => Sys2Proof.Machine.execJoinActivation graph node s
  | .conditionalActivation graph node => Sys2Proof.Machine.execConditionalActivation graph node s
  | .whileActivation graph node => Sys2Proof.Machine.execWhileActivation graph node s
  | .stopRequest ctx => Sys2Proof.Machine.execStopRequest ctx s
  | .stopCompletion ctx => Sys2Proof.Machine.execStopCompletion ctx s
  | .contextRestore ctx map => Sys2Proof.Machine.execContextRestore ctx map s
  | .powerGood => Sys2Proof.Machine.execPowerGood s
  | .selfCalibration ok boardTag => Sys2Proof.Machine.execSelfCalibration ok boardTag s
  | .builtInSelfTest ok secret => Sys2Proof.Machine.execBuiltInSelfTest ok secret s
  | .memoryInitialisation ok => Sys2Proof.Machine.execMemoryInitialisation ok s
  | .firmwareVerify img => Sys2Proof.Machine.execFirmwareVerify img s
  | .configurationApply img => Sys2Proof.Machine.execConfigurationApply img s
  | .thermalStateChange die sense => Sys2Proof.Machine.execThermalStateChange die sense s
  | .healthEstimate report => Sys2Proof.Machine.execHealthEstimate report s
  | .arpRequest pkt => Sys2Proof.Machine.execArpRequest pkt s
  | .neighbourSolicitation pkt => Sys2Proof.Machine.execNeighbourSolicitation pkt s
  | .icmpEchoRequest pkt => Sys2Proof.Machine.execIcmpEchoRequest pkt s
  | .routerAdvertisement pkt => Sys2Proof.Machine.execRouterAdvertisement pkt s
  | .pfcPauseFrame pkt => Sys2Proof.Machine.execPfcPauseFrame pkt s
  | .status f => Sys2Proof.Machine.execStatus f s
  | .attest f => Sys2Proof.Machine.execAttest f s
  | .attach f => Sys2Proof.Machine.execAttach f s
  | .peer f => Sys2Proof.Machine.execPeer f s
  | .ctxcreate f => Sys2Proof.Machine.execCtxcreate f s
  | .ctxend f => Sys2Proof.Machine.execCtxend f s
  | .bindq f => Sys2Proof.Machine.execBindq f s
  | .install f => Sys2Proof.Machine.execInstall f s
  | .save f => Sys2Proof.Machine.execSave f s
  | .restore f => Sys2Proof.Machine.execRestore f s
  | .mreg f => Sys2Proof.Machine.execMreg f s
  | .qpopen f => Sys2Proof.Machine.execQpopen f s
  | .epset f => Sys2Proof.Machine.execEpset f s
  | .health f => Sys2Proof.Machine.execHealth f s
  | .pcap f => Sys2Proof.Machine.execPcap f s
  | .brk f => Sys2Proof.Machine.execBrk f s
  | .remoteEnqueue f => Sys2Proof.Machine.execRemoteEnqueue f s
  | .heldFrameExecute session ctx => Sys2Proof.Machine.execHeldFrameExecute session ctx s
  | .rdmaWrite r => Sys2Proof.Machine.execRdmaWrite r s
  | .rdmaRead r => Sys2Proof.Machine.execRdmaRead r s
  | .roceSend r => Sys2Proof.Machine.execRoceSend r s
  | .congestionNotification qpn => Sys2Proof.Machine.execCongestionNotification qpn s
  | .rateRecovery qpn => Sys2Proof.Machine.execRateRecovery qpn s
  | .unassignedEncoding => Sys2Proof.Machine.execUnassignedEncoding s
  | .powerLoss => Sys2Proof.Machine.execPowerLoss s
  | .linkTraining port => Sys2Proof.Machine.execLinkTraining port s
  | .arpReply pkt => Sys2Proof.Machine.execArpReply pkt s
  | .neighbourAdvertisement pkt => Sys2Proof.Machine.execNeighbourAdvertisement pkt s

end Sys2Proof.Machine
end

