-- ==== Sys2Proof/Machine/Schedule.lean ====
section
/-! DEFINITION. What moves next: waking, the per-lane PC vote, the choice of a group, the issue of an instruction
(04_issue_and_divergence R79 to R92; 02 R50 to R55; 12 R267, R270), the clocks, and the order of the hardware's own steps
where the agenda names none (log 1). -/

namespace Sys2Proof.Machine

namespace State

/-! Waking (02 R54, R495). -/

/-- The fibres that a wait was for, as far as they stand in a fibre's group. -/
def waitFor (s : State) (f : FibreId) (act : List FibreId) : List FibreId :=
  act.filter fun g => (s.fibre g).gid == (s.fibre f).gid && (s.fibre g).live

/-- A wake condition that is looked at, not served by what completes it. An engine's error wakes its waiters as it arises
(09 R199, R204). -/
def wakeMet (s : State) (f : FibreId) (w : Wake) : Bool :=
  let x := s.fibre f
  let lead := s.leadTeam x.gid
  let l := (s.team f.team).launch
  match w with
  | .counters l st c t act => (s.waitFor f act).all fun g => countersMet (s.fibre g) l st c t
  | .abwait ofs p => phasePassed (barrierOf (s.barrierAt lead ofs)).phn p
  | .gphase n => ticketPassed (s.phaseOf f) n
  | .timeline tid mat n => n ≤ timeline (s.team tid) mat
  | .batches n act => (s.waitFor f act).all fun g => (s.unfinished g).length ≤ n
  | .seal act => (s.waitFor f act).all fun g => (s.unfinished g).length ≤ 15
  | .credits c _ =>
    let ch := s.channel l c
    s.completed l ch.cons || (s.started l ch.cons && s.chanMet ch.sendq f ch.credits)
  | .slots c _ =>
    let ch := s.channel l c
    s.completed l ch.prod || s.chanMet ch.recvq f ch.landed
  | .member m => s.memberOf f m != .unstarted
  | .tile n => tileFree (s.tile lead n)
  | _ => false

/-- The fibres whose wake condition holds. -/
def toWake (s : State) : List FibreId :=
  (s.teams.map fun t =>
    if (s.ctx t.2.ctx).saved then []
    else (t.2.fibres.filter fun x => match x.2.status with
      | .blocked w => s.wakeMet ⟨t.1, x.1⟩ w
      | _ => false).map fun x => (⟨t.1, x.1⟩ : FibreId)).flatten

/-- Every wake condition that holds wakes its fibre. -/
def wakeAll (s : State) : State := s.each s.toWake fun s f => s.wake f

end State

/-! The vote (04 R81). -/

/-- A PC subset of a group: its lanes that vote (02 R51). -/
structure Subset where
  pc : Dword
  lanes : List (Nat × FibreId)
  deriving DecidableEq, Repr

/-- What a subset does when it gets a port. -/
inductive Choice where
  /-- it issues an instruction of n words -/
  | run (i : Instr) (len : Nat)
  /-- it stands at no instruction (15 R336) -/
  | illegal (len : Nat)
  /-- its instruction cannot be had -/
  | fail (m : Move)
  /-- it stands at a breakpoint (14 R307) -/
  | debug
  /-- it waits for lanes that wait for it (12 R267) -/
  | deadlock
  /-- it parks for a stop request (12 R270) -/
  | stop
  deriving DecidableEq, Repr

/-- How a subset stands. -/
inductive Standing where
  | stalled
  | can (c : Choice)
  /-- it waits for lanes that its member mask names (12 R266) -/
  | waits (lanes : List (Nat × FibreId))
  deriving DecidableEq, Repr

namespace State

/-- The PC subsets of a group in the order of 04 R81: the deepest first, then the lowest PC. DEDUCED (log 34): lanes that a
wake has brought back to the instruction at which they waited, and that keep its operands, finish their wait apart from lanes
that have newly come to it, whose operands may be others (24 R469, R474). -/
def subsets (s : State) (gid : Nat) : List Subset :=
  let vs := s.voters gid
  let key := fun (x : Nat × FibreId) => ((s.fibre x.2).pc, (s.fibre x.2).again)
  let keys := (vs.map key).foldl (fun (l : List (Dword × Option (List Dword))) k => if l.contains k then l else l ++ [k]) []
  let subs := keys.map fun k => (⟨k.1, vs.filter fun x => key x == k⟩ : Subset)
  let depth := fun (q : Subset) => (q.lanes.map fun x => (s.fibre x.2).depth).foldl max 0
  let top := (subs.map depth).foldl max 0
  sortBy (fun q => top - depth q) (sortBy (fun q => q.pc.toNat) subs)

/-- The issue of a subset's instruction of n words. -/
def issueOf (s : State) (gid : Nat) (q : Subset) (n : Nat) : Issue :=
  let g := s.group gid
  { gid := gid, core := g.core, ctx := g.ctx, pc := q.pc, next := nextRef q.pc n, lanes := q.lanes
    atEnd := s.endsObject g.ctx q.pc n }

/-- A register of a fibre has a pending bit; in interlocked mode every late write has one (04 R90, R91). -/
def regPending (s : State) (gid : Nat) (f : FibreId) (r : Reg) : Bool :=
  let g := s.group gid
  (s.pending.any fun x => x.2.fib == f && x.2.dests.any fun d => d.1 == r) ||
    ((s.ctx g.ctx).ilk && latePending (s.fibre f).late r (Late.readyBy (s.clockOf g.core)))

/-- A g register has a pending bit in one of some fibres of a group, or, in interlocked mode, a write of the group that has
not completed (04 R90, R91). Results of other groups hold nothing up: their old value is read (02 R41). -/
def gPending (s : State) (gid : Nat) (fs : List FibreId) (n : Nat) : Bool :=
  let g := s.group gid
  (s.pending.any fun x => (x.2.dests.any fun d => d.1 == .g n) && x.2.bits.any fs.contains) ||
    ((s.ctx g.ctx).ilk &&
      latePending (if n < 16 then (s.team (s.leadTeam gid)).late.filter fun l => l.gid == gid else g.late) (.g n) s.lateDone)

/-- A RET waits for the reference that an earlier refill of its lanes loads (04 R90, R97). -/
def retWaits (s : State) (iss : Issue) (i : Instr) : Bool :=
  match i with
  | .ret _ | .retX _ => (s.active iss (guardOf i)).any fun x => s.regPending iss.gid x.2 .ret
  | _ => false

/-- No dependence stalls an instruction: the guard first, then the registers of the active lanes (04 R90). -/
def depsClear (s : State) (iss : Issue) (i : Instr) : Bool :=
  let gd := guardOf i
  let u := usesOf i
  let ks := (u.kr ++ u.kw).filter (· != 0)
  if gd.1 != 0 && iss.lanes.any fun x => s.regPending iss.gid x.2 (.k gd.1) then false
  else if s.retWaits iss i then false
  else
    let act := s.active iss gd
    act.isEmpty ||
      (!((u.gr ++ u.gw).any fun n => s.gPending iss.gid (act.map (·.2)) n) &&
        act.all fun x => !((u.vr ++ u.vw).any fun n => s.regPending iss.gid x.2 (.v n)) &&
          !(ks.any fun n => s.regPending iss.gid x.2 (.k n)))

/-- The lanes that a member-mask instruction still waits for; none where it does not wait (12 R266), as one that is ILLEGAL
(15 R336). -/
def maskWait (s : State) (iss : Issue) (i : Instr) : List (Nat × FibreId) :=
  match maskOperand i with
  | none => []
  | some o =>
    let mask := s.srcG iss o
    let n := s.namedLanes iss.gid mask
    let act := s.active iss (guardOf i)
    if s.beyondWindow iss (usesOf i) || s.badStream act (usesOf i) || iss.atEnd || act.any fun x => !n.contains x.1 then []
    else s.awaited iss.gid mask iss.lanes

/-- What a group finds at a reference. At its launch's ENTRY the line's header is read first: a team whose ENTRY could not be
read when it was dispatched starts there unchecked (13 R285; 04 R99; log 26). -/
def fetchAt (s : State) (gid : Nat) (r : Dword) : State × Fetched :=
  let g := s.group gid
  let idx := refOfs r % 128 / 4
  if r != recEntry (s.launch (s.team (s.leadTeam gid)).launch).words || (s.refCheck g.ctx r).isSome then s.fetch g.core g.ctx r
  else
    match s.codeWord g.core g.ctx (r - BitVec.ofNat 64 (4 * idx)) with
    | (s, .error m) => (s, .fail m)
    | (s, .ok h) =>
      if idx != 0 && h.getLsbD idx && h.getLsbD 0 then s.fetch g.core g.ctx r else (s, .fail (.trap cCFI r.toNat))

/-- A group already waits at a reference for a page's check (13 R286). -/
def waitsHash (s : State) (gid : Nat) (r : Dword) (slot page : Nat) : Bool :=
  s.hashWait.contains ((s.group gid).ctx, slot, page) && s.hashHeld.any fun x =>
    x.1 == (s.group gid).ctx && x.2.1 == slot && x.2.2.1 == page && x.2.2.2.gid == gid && x.2.2.2.pc == r

/-- An instruction at which a group stops while a stop request is pending, beside the member-mask waits (12 R270;
09 R205; 21 R429). -/
def stopPoint (s : State) (iss : Issue) (i : Instr) : Bool :=
  let act := s.active iss (guardOf i)
  match i with
  | .call _ | .callX _ | .callr _ | .ret _ | .retX _ | .yield _ | .yieldX _ => true
  | .copy _ | .gather _ | .scatter _ | .mcast _ | .tcopy _ | .mloop _ | .mma _ => !act.isEmpty
  | .bra _ | .braX _ => !act.isEmpty && s.branchesBack iss i
  | .bru _ | .bruX _ => act.length == iss.lanes.length && s.branchesBack iss i
  | _ => false

/-- How a subset stands at its clock (02 R53; 04 R81, R90). -/
def standing (s : State) (gid : Nat) (q : Subset) : Standing :=
  let g := s.group gid
  let c := s.ctx g.ctx
  if q.lanes.any fun x => s.clockOf g.core < (s.fibre x.2).notBefore then .stalled
  else if c.breaks.any fun b => b.2 == q.pc then .can .debug
  else
    match (s.fetchAt gid q.pc).2 with
    | .fail (.hash slot page) => if s.waitsHash gid q.pc slot page then .stalled else .can (.fail (.hash slot page))
    | .fail m => .can (.fail m)
    | .illegal n => .can (.illegal n)
    | .instr i n =>
      let iss := s.issueOf gid q n
      if !s.depsClear iss i then .stalled
      else
        match s.maskWait iss i with
        | [] => .can (if c.stop && s.stopPoint iss i then .stop else .run i n)
        | l => .waits l

/-- A subset is demoted (02 R51). -/
def demoted (s : State) (gid : Nat) (q : Subset) : Bool :=
  let g := s.group gid
  g.spins.any fun r => r.lanes == q.lanes.map (·.2) && match r.demotedUntil with
    | some t => s.clockOf g.core < t
    | none => false

/-- The subsets of a group that are eligible, in order, each with what it does (04 R81; 12 R267, R270). -/
def eligible (s : State) (gid : Nat) : List (Subset × Choice) :=
  let st := (s.subsets gid).map fun q => (q, s.standing gid q)
  let waiters := st.filterMap fun x => match x.2 with
    | .waits l => some (x.1, l)
    | _ => none
  let locked := waiters.find? fun w => w.2.all fun y =>
    waiters.any fun v => v.1.pc != w.1.pc && v.1.lanes.contains y
  let stop := (s.ctx (s.group gid).ctx).stop
  let l := st.filterMap fun x => match x.2 with
    | .stalled => none
    | .can c => some (x.1, c)
    | .waits _ =>
      if stop then some (x.1, .stop)
      else
        match locked with
        | some w => if w.1 == x.1 then some (x.1, .deadlock) else none
        | none => none
  let free := l.filter fun x => !s.demoted gid x.1
  if free.isEmpty then l else free

/-- The lanes of the subset that may issue on the second port (04 R82). -/
def secondOf (l : List (Subset × Choice)) : List FibreId :=
  match l with
  | (_, .run i _) :: (q, .run j _) :: _ =>
    let u := unitOf j
    if u != unitOf i && (u == .alu || u == .fma || u == .sfu || u == .lsu || u == .branch) then q.lanes.map (·.2) else []
  | _ => []

/-! The choice of a group (04 R85 to R88; 02 R50). -/

/-- The clocks that an instruction of a group holds its slot (04 R80). DESIGN CHOICE (log 35): the upper 32 lanes of a
width-64 group act in the first of its two clocks, with the lower ones. -/
def issueClocks (g : Group) : Nat := if g.grant == 64 then 2 else 1

/-- A slot's main port is free at its core's clock (04 R80). -/
def portFree (s : State) (core slot : Nat) : Bool :=
  match (s.core core).ports.find slot with
  | none => true
  | some p => p.clock + p.hold ≤ s.clockOf core

/-- The priority class of a group: the role of its live member with the lowest FID (02 R32). -/
def classOf (s : State) (gid : Nat) : Nat := (s.fibre (lowest (s.liveLanes gid))).role

/-- A group may issue at its core's clock: its hint has run out and no request of it is open (04 R87; 08 R176). -/
def mayIssue (s : State) (x : Nat × Group) : Bool :=
  x.2.nextIssue ≤ s.clockOf x.2.core && (s.requestOf x.1).isNone && !(s.ctx x.2.ctx).ended

/-- The groups of a slot that have an eligible subset, in age order (04 R85). -/
def readyGroups (s : State) (core slot : Nat) : List (Nat × Group) :=
  sortBy (fun x => x.2.age) (s.groups.filter fun x =>
    x.2.core == core && x.2.slot == slot && s.mayIssue x && !(s.eligible x.1).isEmpty)

/-- Lifted, or due to be (02 R50). -/
def isLifted (g : Group) : Bool := g.lifted || 128 ≤ g.waited

/-- The slot's choice among its ready groups (04 R85, R88; 25 R482). DESIGN CHOICE (log 30): of several lifted groups that have
waited equally long the oldest goes first. -/
def chooseGroup (s : State) (core slot : Nat) : Option (Nat × Group) :=
  let l := s.readyGroups core slot
  let lifted := l.filter fun x => isLifted x.2
  let longest := (lifted.map fun x => x.2.waited).foldl max 0
  if !lifted.isEmpty then lifted.find? fun x => x.2.waited == longest
  else
    let best := ((upto 4).find? fun k => l.any fun x => s.classOf x.1 == k).getD 0
    let cls := l.filter fun x => s.classOf x.1 == best
    match cls with
    | [] => none
    | x :: _ =>
      if (s.ctx x.2.ctx).issuepol then
        match ((s.core core).lastClass.find (4 * slot + best)).bind s.groups.find with
        | none => some x
        | some g => some ((cls.find? fun y => g.age < y.2.age).getD x)
      else
        let last := (s.core core).lastSlot.find slot
        match cls.find? fun y => some y.1 == last with
        | none => some x
        | some y => if y.2.yielded then some ((cls.find? fun z => z.1 != y.1).getD y) else some y

/-! The issue (04 R80, R87, R88). -/

/-- An instruction left its subset where it was, to be chosen again (02 R53). -/
def leftStalled (s : State) (iss : Issue) : Bool :=
  !iss.lanes.isEmpty && iss.lanes.all fun x =>
    let f := s.fibre x.2
    f.pc == iss.pc && f.status == .ready && f.firm.isEmpty && s.clockOf iss.core < f.notBefore

/-- An instruction is executed for an issue; what it is counted for by the spin detector (02 R51). -/
def execFor (s : State) (iss : Issue) (i : Instr) : State :=
  match exec i { s with issue := some iss } with
  | .next t =>
    let t := { t with issue := none }
    if t.leftStalled iss then t else s.spinIssued t iss i (s.active iss (guardOf i))
  | .fault _ => s
  | .refused _ => s

/-- The length of what stands at a reference, a word where it cannot be had. -/
def lengthOf (x : Fetched) : Nat :=
  match x with
  | .instr _ n | .illegal n => n
  | .fail _ => 1

/-- A subset does what it got its port for; the hint of the instruction it issued (04 R87). -/
def perform1 (s : State) (gid : Nat) (q : Subset) (c : Choice) : State × Hint :=
  let (s, x) := s.fetchAt gid q.pc
  let len := lengthOf x
  match c with
  | .run i n => (s.execFor (s.issueOf gid q n) i, hintOfInstr i)
  | .illegal n => (s.execFor (s.issueOf gid q n) .unassignedEncoding, ⟨0, false⟩)
  | .fail m => (s.moveFail (s.issueOf gid q 1) m, ⟨0, false⟩)
  | .debug => (s.raise (s.issueOf gid q len) cDEBUG 0 0, ⟨0, false⟩)
  | .deadlock => (s.raise (s.issueOf gid q len) cMASKDL 0 0, ⟨0, false⟩)
  | .stop => (s.parkStop (s.issueOf gid q len) q.lanes, ⟨0, false⟩)

/-- The group's next issue and its yield after an instruction (04 R87, R88). -/
def applyHint (s : State) (gid : Nat) (h : Hint) (yields : Bool) : State :=
  match s.groups.find gid with
  | none => s
  | some g =>
    let t := s.clockOf g.core + issueClocks g + h.stall.toNat
    s.setGroup gid { g with nextIssue := max g.nextIssue t, yielded := g.yielded || h.yield || yields }

/-- YIELD always yields (04 R88). -/
def alwaysYields (c : Choice) : Bool :=
  match c with
  | .run (.yield _) _ | .run (.yieldX _) _ => true
  | _ => false

/-- The slot has chosen a group of a class, and it has issued (04 R85, R88; 02 R50). -/
def chosen (s : State) (core slot gid k : Nat) : State :=
  let s := { s with groups := s.groups.map fun ((i, g) : Nat × Group) =>
    (i, if g.core != core || g.slot != slot then g
        else if i == gid then { g with yielded := false, waited := 0, lifted := false }
        else { g with yielded := false }) }
  s.modCore core fun c => { c with
    lastSlot := c.lastSlot.put slot gid, lastClass := c.lastClass.put (4 * slot + k) gid }

/-- The first eligible subset of the chosen group issues on the main port (04 R81). A subset that an engine or an order
holds up has not issued: it leaves the port free, and its slot has chosen nothing. -/
def issueMain (s : State) (core slot gid : Nat) : State :=
  match s.eligible gid with
  | [] => s
  | (q, c) :: l =>
    let iss := s.issueOf gid q 1
    let out := s.perform1 gid q c
    if out.1.leftStalled iss then out.1
    else
      let g := s.group gid
      let t := out.1.chosen core slot gid (s.classOf gid)
      let t := t.modCore core fun x => { x with
        ports := x.ports.put slot ⟨x.clock, gid, secondOf ((q, c) :: l), issueClocks g⟩ }
      t.applyHint gid out.2 (alwaysYields c)

/-- A slot of a core issues on its main port. -/
def issueSlot (s : State) (core slot : Nat) : State :=
  let s := s.wakeAll
  let s := s.each ((s.groups.filter fun x => x.2.core == core && !x.2.spins.isEmpty).map (·.1)) fun s g => s.dueSpins g
  if !s.portFree core slot then s
  else
    match s.chooseGroup core slot with
    | none => s
    | some x => s.issueMain core slot x.1

/-- The second port issues beside the main port, in the same clock (04 R82, R83). DESIGN CHOICE (log 30): of the two, the
main port's effects on shared state always come first; the spec orders them as accesses of two fibres, and no agenda gives
the other order. -/
def issueSecond (s : State) (core slot : Nat) : State :=
  match (s.core core).ports.find slot with
  | none => s
  | some p =>
    let done := s.modCore core fun x => { x with ports := x.ports.put slot { p with second := [] } }
    if p.second.isEmpty || p.clock != s.clockOf core then s
    else
      match (s.subsets p.gid).find? fun q => p.second.all fun f => q.lanes.any fun x => x.2 == f with
      | none => done
      | some q =>
        let q := { q with lanes := q.lanes.filter fun x => p.second.contains x.2 }
        match s.standing p.gid q with
        | .can (.run i n) =>
          let out := done.perform1 p.gid q (.run i n)
          if out.1.leftStalled (s.issueOf p.gid q n) then out.1
          else out.1.applyHint p.gid out.2 (alwaysYields (.run i n))
        | _ => done

/-! Clocks (02 R47, R50). -/

/-- One clock of a core: the groups that were ready and did not issue have waited (02 R50), and what is written to g0 to
g15 has landed where its clock has come (02 R41). In thermal state 4 the clock
of a die is stopped (14 R314). -/
def tick1 (s : State) (core : Nat) : State :=
  if 4 ≤ s.dev.thr.getD (core / 48) 0 then s
  else
    let now := s.clockOf core
    let issued := fun (x : Nat × Group) => match (s.core core).ports.find x.2.slot with
      | some p => p.gid == x.1 && p.clock == now
      | none => false
    let ready := (s.groups.filter fun x => x.2.core == core && s.mayIssue x && !issued x && !(s.eligible x.1).isEmpty).map (·.1)
    let s := s.modCore core fun c => { c with clock := c.clock + 1 }
    let s := { s with teams := s.teams.mapVals fun t =>
      if t.late.isEmpty then t
      else
        let (g, late) := gFlush t.g t.late 0 s.lateDone
        { t with g := g, late := late } }
    { s with groups := s.groups.map fun x =>
        if x.2.core != core then x else (x.1, { x.2 with waited := if ready.contains x.1 then x.2.waited + 1 else 0 }) }

/-- A core's clock runs on. -/
def tickCore (s : State) (core : Nat) : Nat → State
  | 0 => s
  | n + 1 => (s.tick1 core).tickCore core n

/-- Every core with groups, and core 0, runs on by a clock. -/
def tickAll (s : State) : State := s.each (nub (0 :: s.groups.map fun x => x.2.core)) fun s c => s.tick1 c

/-! The hardware's own steps, in a fixed order (log 1). -/

/-- The steps of the hardware that may be enabled. -/
def candidates (s : State) : List (State → Host.Outcome State Fault Refusal) :=
  (s.groups.map fun x => [execAgeingLift x.1] ++
      (x.2.spins.map fun r =>
        let pc := (s.fibre (r.lanes.headD ⟨0, 0⟩)).pc
        [execSpinDemotionEnd x.1 pc, execSpinDemotion x.1 pc]).flatten ++ [execMatrixAccept x.1]).flatten ++
    (s.hashWait.map fun x => execCodePageHashCheck x.1 x.2.1 x.2.2) ++
    (s.registrations.map fun x => [execOwnershipRegistration x.1, execRegistrationAck x.1]).flatten ++
    s.withdrawals.map execOwnershipWithdrawal ++
    (s.pending.map fun x => [execOwnerReadForward x.1] ++ (match x.2.load with
        | some (.global pa _ _, _, _) => [execReadCombineReply (pa / 64)]
        | _ => []) ++ [execResultWriteback x.1]).flatten ++
    (s.packets.map fun x => execStxLanding x.1) ++ (s.flights.map fun x => execChannelLanding x.1) ++
    (s.creditFlights.map fun x => execChannelCreditReturn x.1) ++
    (s.reservations.map fun x => execElementPublication x.1) ++
    (s.requests.map fun x => [execEnqAtHome x.1, execDeqAtHome x.1, execWaiterEviction x.1, execQueueReply x.1]).flatten ++
    (s.cmds.map fun x => [execCopyFault x.1, execCopyErrorState x.1 false, execCopyErrorState x.1 true] ++
      (x.2.targets.map fun t => execBarrierArrival x.1 t.1) ++
      ((if x.2.kind == 2 then upto x.2.entries.length else 0 :: x.2.targets.map (·.1)).map fun n =>
        execCopyLanding x.1 n) ++ [execCopyCompletion x.1]).flatten ++
    (s.mats.map fun x => [execMatrixStop x.1 true, execMatrixStop x.1 false, execKStep x.1, execDrainBlockCommit x.1,
      execMatrixCompletion x.1]).flatten ++
    (s.teams.map fun t => [execReordDeal t.1, execTeamCompletion t.1] ++ (t.2.fibres.map fun f =>
      ((upto f.2.streams.length).map fun i => execStreamPrefetch ⟨t.1, f.1⟩ i)).flatten).flatten ++
    (s.launches.map fun x => (x.2.unstarted.map fun n => execTeamStart (teamKey x.1 n)) ++
      [execLaunchCompletion x.1, execCompletionReport x.1]).flatten ++
    (s.graphs.map fun x => [execGraphStart x.1] ++ (match x.2.acts with
        | [] => []
        | n :: _ => [execLaunchNodeActivation x.1 n, execJoinActivation x.1 n, execConditionalActivation x.1 n,
            execWhileActivation x.1 n])).flatten ++
    (s.contexts.map fun x => [execFaultRecordEnqueue x.1, execStopCompletion x.1]).flatten ++
    (if s.dev.ready then (upto 4).map execDispatchTake else [])

/-- The teams at whose arrival barriers some fibre waits (17 R353). -/
def barrierTeams (s : State) : List Nat :=
  (s.teams.filter fun t => !t.2.ended && !(s.waitersOf t.1 fun w => match w with
    | .abwait _ _ => true
    | _ => false).isEmpty).map (·.1)

/-- Words found bad as they were written back end the contexts that map them (06 R150). -/
def endWritten (s : State) : State :=
  let ws := s.badWritten
  ({ s with badWritten := [] }).each ws fun s w => s.endMappers (4 * w)

/-- The verdicts of every running context that could not be carried out yet (12 R265). -/
def settleVerdicts (s : State) : State :=
  s.each (s.contexts.filter fun x => !x.2.resolved.isEmpty && !x.2.stop && !x.2.saved) fun s x => s.settleResolved x.1

/-- AALLOC waiters that stand behind one whose fibres have ended are served (17 R350). -/
def serveWaiters (s : State) : State :=
  s.each ((s.cores.filter fun x => x.2.bankQueue.any fun y => !s.bankWaits y).map (·.1)) fun s c => s.serveBanks c

/-- The teams all of whose fibres wait at SETW are looked at again where groups have come or gone (log 34). -/
def serveSetw (s : State) : State :=
  s.each ((s.teams.filter fun t => !t.2.ended && !(s.ctx t.2.ctx).saved && !(s.setwArrivals t.1).isEmpty).map (·.1)) checkSetw

/-- What follows a step at once: releases get through, the slices send out what has to leave, barrier updates are noted,
loads and replies written are judged, subsets that are none any more lose their counters, waits for room are served,
verdicts and aborts are carried out, ports send what they may. -/
def settleStep (s t : State) : State :=
  let t := if t.releases.isEmpty then t else t.performReleases
  let t := t.l2Trim
  let t := if t.badWritten.isEmpty then t else t.endWritten
  let t := t.each t.barrierTeams fun t n => s.barrierNoted t n
  let t := (s.judgeReplies (s.judgeLoads t)).dropAllSpins
  let t := t.serveWaiters
  let t := if s.groups.map (·.1) == t.groups.map (·.1) then t else t.serveSetw
  let t := t.settleVerdicts
  let t := if t.aborts.isEmpty then t else t.doAborts
  let t := t.each ((t.qps.filter fun x => !x.2.unsent.isEmpty).map (·.1)) fun t n => t.sendUnsent n
  t.each (upto 2) fun t n => if (t.port n).out.isEmpty then t else t.pump n

/-- The first of some steps that is enabled and changes the machine. -/
def firstEnabled (s : State) : List (State → Host.Outcome State Fault Refusal) → Option State
  | [] => none
  | f :: r =>
    match f s with
    | .next t => if t == s then s.firstEnabled r else some t
    | _ => s.firstEnabled r

/-- The first held frame whose turn has come (14 R305). -/
def firstHeld (s : State) : List (Nat × Nat) → Option State
  | [] => none
  | (session, ctx) :: r =>
    match execHeldFrameExecute session ctx s with
    | .next t => some t
    | _ => s.firstHeld r

/-- The sessions and contexts of held frames. -/
def heldFrames (s : State) : List (Nat × Nat) :=
  (s.dev.sessions.map fun x => x.2.held.map fun f => (x.1, f.ctxid)).flatten

/-- The slots that a group stands on. -/
def slotsInUse (s : State) : List (Nat × Nat) :=
  s.groups.foldl (fun (l : List (Nat × Nat)) x =>
    if l.contains (x.2.core, x.2.slot) then l else l ++ [(x.2.core, x.2.slot)]) []

/-- The first slot that issues. -/
def firstIssue (s : State) : List (Nat × Nat) → Option State
  | [] => none
  | (c, k) :: r =>
    let t := s.issueSecond c k
    if t != s then some t
    else
      let t := s.issueSlot c k
      if t == s then s.firstIssue r else some t

/-- The machine's own move, where the agenda is empty (log 1): an enabled step of the hardware, else an issue, else a
clock. -/
def ownMove (s : State) : State :=
  match s.firstEnabled s.candidates with
  | some t => t
  | none =>
    match s.firstHeld s.heldFrames with
    | some t => t
    | none => (s.firstIssue s.slotsInUse).getD s.tickAll

/-- Firmware sets a core's width limit, to 16, 32 or 64; a SETW.exact that waits for it may complete (02 R33, R36). -/
def setWidth (s : State) (core limit : Nat) : State :=
  if limit != 16 && limit != 32 && limit != 64 then s
  else
    let s := s.modCore core fun c => { c with widthLimit := limit }
    s.each ((s.teams.filter fun t => t.2.core == core && !t.2.ended && !(s.ctx t.2.ctx).saved).map (·.1)) fun s t =>
      s.checkSetw t

/-- An uncorrectable error arises somewhere. Of memory, scratchpads, the tile store and the accumulators it takes the whole
64-bit granule (06 R150; log 9). -/
def damage (s : State) (p : Place) : State :=
  match p with
  | .mem w => { s with badMem := s.badMem ++ stepsFrom (w / 2 * 2) 1 2 }
  | .spad t o => { s with badSpad := s.badSpad ++ (stepsFrom (o / 8 * 8) 1 8).map (t, ·) }
  | .tile t b => { s with badElse := s.badElse ++ (stepsFrom (b / 8 * 8) 1 8).map (.tile t) }
  | .acc t c => { s with badElse := s.badElse ++ (stepsFrom (c / 2 * 2) 1 2).map (.acc t) }
  | .v f n => { s with badReg := s.badReg ++ [(f, n)] }
  | .sump c => { s with badSump := s.badSump ++ [c] }
  | .k _ 0 => s  -- k0 has no storage (02 R23)
  | _ => { s with badElse := s.badElse ++ [p] }

/-- One directive. A step that cannot take place is passed over. -/
def direct (s : State) (d : Directive) : State :=
  match d with
  | .ev i =>
    match exec i { s with issue := none } with
    | .next t => t
    | .fault _ => s
    | .refused _ => s
  | .issue c k => s.issueSlot c k
  | .second c k => s.issueSecond c k
  | .tick c n => s.tickCore c n
  | .width c n => s.setWidth c n
  | .damage p => s.damage p

/-- What the machine does next. -/
def move (s : State) : State :=
  match s.agenda with
  | [] => s.settleStep s.ownMove
  | d :: r =>
    let s := { s with agenda := r }
    s.settleStep (s.direct d)

end State

end Sys2Proof.Machine
end

