-- ==== Sys2Proof/Machine/Program.lean ====
section
/-! DEFINITION. The layout of a machine whose next step fetches and issues given words: what `State.withFetchWord` of
Machine/Step.lean puts into a state (log 12). -/

namespace Sys2Proof.Machine

/-- The five words of an instruction, numbered as spec/opcode_table.json numbers its bits; above `nbits` they are 0. -/
def tableWords (nbits w : Nat) : List Word := (upto 5).map fun i => BitVec.ofNat 32 (w % 2 ^ nbits / 2 ^ (32 * i))

/-- The bytes of a fetch line whose word 1 is a function entry and holds the first of some words (15 R315; 04 R99). -/
def lineBytes (ws : List Word) : List Byte := ((3 :: ws).map fun w => leBytes 4 w.toNat).flatten

/-- A code object of one page at 64 KiB, installed, whose page hash is verified (13 R284, R286). -/
def loadedSlot : CodeSlot := { laddr := 65536, state := 1, step := 1, npage := 1, vbm := [0] }

/-- The translation of that page to the frame of the same address: V, LEAF, X and A (06 R145). -/
def loadedPage : TlbEntry := ⟨1, 1, false, 0x1004B⟩

/-- A launch of one team of one fibre (03 R59). -/
def loadedLaunch : Launch :=
  { ctx := 1, words := [BitVec.ofNat 64 (0x10 + 2 ^ 24)], place := [0], phase := 1, running := [teamKey 0 0], started := 1 }

/-- Its fibre, at word 1 of slot 0 (02 R27; 03 R61). -/
def loadedFibre : Fibre := { role := 3, gid := 1, pc := 4, v := List.replicate 256 0 }

/-- Its team (02 R27). -/
def loadedTeam : Team :=
  { ctx := 1, nfib := 1, fibres := [(0, loadedFibre)], g := List.replicate 16 0, grant := 32
    tiles := List.replicate 32 {}, views := List.replicate 4 none }

/-- Its group, on slot 0 of core 0 (02 R34; 04 R79). -/
def loadedGroup : Group := { ctx := 1, members := [⟨teamKey 0 0, 0⟩], g := List.replicate 48 0, grant := 32 }

namespace State

/-- The machine loaded with words at the reference that its one fibre stands at, and slot 0 of core 0 to issue next. -/
def loaded (s : State) (ws : List Word) : State :=
  { s with
    agenda := [.issue 0 0], issue := none, nextId := max s.nextId 2
    mem := Memory.writes s.mem 65536 (lineBytes ws), l2 := [], owners := [], spread := 0, pending := [], requests := []
    badMem := [], badSpad := [], badReg := [], badElse := [], badWritten := [], hashWait := [], hashHeld := []
    releases := [], guests := [], l2lines := [], registrations := [], aborts := []
    cores := [(0, { tlb := [loadedPage] })], contexts := [(1, { slots := [(0, loadedSlot)] })]
    launches := [(0, loadedLaunch)], teams := [(teamKey 0 0, loadedTeam)], groups := [(1, loadedGroup)]
    dev := { s.dev with power := true, stage := 6, ready := true } }

end State

end Sys2Proof.Machine
end

