-- ==== Sys2Proof/Machine/Step.lean ====
section
/-! DEFINITION. One step of the machine, and where it fetches its next instruction. -/

namespace Sys2Proof.Machine

/-- One step: what the agenda names next, or the machine's own move (log 1). -/
def step (s : State) : Host.Outcome State Fault Refusal := .next s.move

/-- A state whose next step fetches and issues the instruction whose bits are w (log 12). -/
def State.withFetchWord (s : State) (nbits w : Nat) : State := s.loaded (tableWords nbits w)

end Sys2Proof.Machine
end

