-- ==== Sys2Proof/Safety.lean ====
section
/-! DEFINITION. What the statements are made of: the invariant of the machine, when an instruction executes normally,
how a register reads at a clock, and what two states share. -/

namespace Sys2Proof.Machine

/-- The invariant that every step keeps: HBM is in canonical form (log 32). -/
def Inv (s : State) : Prop := Memory.wf s.mem = true

/-- The second invariant that every step keeps: the lists of pending results, launches, teams with their fibres, groups,
commands, matrix operations, requests, queues, owners, L2 bytes, cores with their L1 and contexts with their records, endpoints
and breakpoints are in rising keys, a pending result's number is one that has been given out, and g registers come in lists
of their number (02 R41). -/
structure State.Listed (s : State) : Prop where
  pending : KV.sorted s.pending = true
  ids : ∀ x ∈ s.pending, x.1 < s.nextId
  launches : KV.sorted s.launches = true
  params : ∀ x ∈ s.launches, x.2.params.length = 16
  teams : KV.sorted s.teams = true
  fibres : ∀ x ∈ s.teams, KV.sorted x.2.fibres = true ∧ x.2.g.length = 16
  groups : KV.sorted s.groups = true
  files : ∀ x ∈ s.groups, x.2.g.length = 48
  cmds : KV.sorted s.cmds = true
  mats : KV.sorted s.mats = true
  requests : KV.sorted s.requests = true
  queues : KV.sorted s.queues = true
  owners : KV.sorted s.owners = true
  l2 : KV.sorted s.l2 = true
  cores : KV.sorted s.cores = true
  l1 : ∀ x ∈ s.cores, KV.sorted x.2.l1 = true
  contexts : KV.sorted s.contexts = true
  tables : ∀ x ∈ s.contexts, KV.sorted x.2.records = true ∧ KV.sorted x.2.endpoints = true ∧ KV.sorted x.2.breaks = true

/-- The instruction is issued, some lanes' guards are true, and no check that stands before every meaning stops it: the
window, the streams, UNIF, the object's end and ECC of the guards and the sources (04 R100; 06 R150). `act` are the
guarded lanes. -/
structure State.Clear (s : State) (i : Instr) (iss : Issue) (act : List (Nat × FibreId)) : Prop where
  issue : s.issue = some iss
  guarded : act = s.active iss (guardOf i)
  some' : act ≠ []
  inside : iss.atEnd = false
  window : s.beyondWindow iss (usesOf i) = false
  streams : s.badStream act (usesOf i) = false
  uniform : s.unifBad iss act (usesOf i) = false
  guards : s.badGuard iss (guardOf i) = false
  pops : s.popState act (usesOf i) = none
  sources : s.badSource iss act (usesOf i) = false

/-- The same for an instruction that decides itself where its lanes go: the guard may be false in every lane. -/
structure State.Reached (s : State) (i : Instr) (iss : Issue) (act : List (Nat × FibreId)) : Prop where
  issue : s.issue = some iss
  guarded : act = s.active iss (guardOf i)
  inside : iss.atEnd = false
  window : s.beyondWindow iss (usesOf i) = false
  streams : s.badStream act (usesOf i) = false
  uniform : s.unifBad iss act (usesOf i) = false
  guards : s.badGuard iss (guardOf i) = false
  pops : s.popState act (usesOf i) = none
  sources : s.badSource iss act (usesOf i) = false

/-- A register of a fibre reads as a value at a clock. -/
def Fibre.reads (f : Fibre) (clock : Nat) (r : Reg) (x : Dword) : Prop :=
  match r with
  | .v n => f.vAt clock n = x.setWidth 32
  | .k n => f.kAt clock n = x.getLsbD 0
  | .g _ | .ret => True

/-- A g register of a group as it reads d clocks on, each core's clock moving by d (02 R41, R42; 04 R89). -/
def State.gAt (s : State) (gid n d : Nat) : Dword :=
  let done := fun (l : Late) => l.readyBy (s.clockOf l.core + d)
  if n < 16 then gRead (s.team (s.leadTeam gid)).g (s.team (s.leadTeam gid)).late 0 n done
  else gRead (s.group gid).g (s.group gid).late 16 n done

/-- A register that a fibre has: v below its window, k1 to k7 (02 R40, R43). -/
def Fibre.has (f : Fibre) (r : Reg) : Prop :=
  match r with
  | .v n => n < f.window
  | .k n => 1 ≤ n ∧ n < 8
  | .g _ | .ret => False

/-- Only fibres of teams may differ. -/
def SameButFibres (s t : State) : Prop :=
  { t with teams := s.teams } = s ∧ ∀ n, { t.team n with fibres := (s.team n).fibres } = s.team n

/-- Only fibres may differ, and the registers that hold an uncorrectable error are no more than before (06 R150). -/
def SameButRegisters (s t : State) : Prop :=
  { t with teams := s.teams, badReg := s.badReg, badElse := s.badElse } = s ∧
    (∀ x ∈ t.badReg, x ∈ s.badReg) ∧ (∀ x ∈ t.badElse, x ∈ s.badElse) ∧
    ∀ n, { t.team n with fibres := (s.team n).fibres } = s.team n

/-- Only fibres and what is on its way to registers may differ. -/
def SameButResults (s t : State) : Prop :=
  { t with teams := s.teams, pending := s.pending, nextId := s.nextId } = s ∧
    ∀ n, { t.team n with fibres := (s.team n).fibres } = s.team n

/-- A fibre but for what issuing an instruction without a destination may change. -/
def Fibre.moved (old new : Fibre) : Prop :=
  { new with pc := old.pc, again := old.again, refill := old.refill, relWait := old.relWait } = old

/-- The whole subset stands at the next instruction. -/
def WentOn (iss : Issue) (t : State) : Prop := ∀ x ∈ iss.lanes, (t.fibre x.2).pc = iss.next

/-- A result is on its way to a fibre's registers (04 R90). -/
def Arriving (t : State) (f : FibreId) (dests : List (Reg × Dword)) : Prop :=
  ∃ id p, t.pending.find id = some p ∧ p.fib = f ∧ p.dests = dests ∧ p.load = none

/-- A destination register holds a value once it has arrived: after the four clocks of a fixed-latency unit (04 R89), g
registers in the group's copy. A write to k0 is discarded (02 R43). -/
def Landed (t : State) (iss : Issue) (f : FibreId) (d : Reg × Dword) : Prop :=
  match d.1 with
  | .g n => t.gAt iss.gid n 4 = d.2
  | .k 0 => True
  | r => (t.fibre f).reads (t.clockOf iss.core + 4) r d.2

/-- What it takes for a trap of a subset to be delivered to the handler, `s1` being the machine once earlier writes are
settled and HREF is checked: HREF a function entry, no trapping fibre in a handler, room on the stacks, no releasing atomic
of the group open (12 R255, R257; 07 R160). -/
structure Deliverable (s s1 : State) (iss : Issue) : Prop where
  handler : (s.ctx iss.ctx).trapvec ≠ 0
  lanes : iss.lanes ≠ []
  apart : (iss.lanes.map (·.2)).Nodup
  free : ∀ x ∈ iss.lanes, (s.fibre x.2).handler = none ∧ (s.fibre x.2).rstack.length < 4
  performed : s.atomicOpen iss.gid = false
  checked : (s.settle iss.gid).targetCheck iss.core iss.ctx (s.ctx iss.ctx).trapvec true = (s1, .ok)

/-- The subset has entered the handler with a cause (12 R257, R258): every lane has pushed the reference of the
instruction, has its depth as the handler base, CAUSE, DETAIL, SKIP = 0 and VA, and stands at HREF. -/
def Entered (s t : State) (iss : Issue) (cause detail : Nat) (va : Dword) : Prop :=
  ∀ x ∈ iss.lanes, (t.fibre x.2).pc = (s.ctx iss.ctx).trapvec ∧ (t.fibre x.2).rstack = iss.pc :: (s.fibre x.2).rstack ∧
    (t.fibre x.2).handler = some ⟨(t.fibre x.2).depth, cause, detail, false, va⟩

/-- The instruction completes from a machine `u`, made of `s`, with a result and flags for each lane: `finish` of them is its
next state, and where no enable of FPCTL is set, or no enabled flag is raised (05 R108, R112), the subset goes on, each
lane's flags are ORed in (05 R113), and each lane's destinations take their values, four clocks later or as a pending
result (04 R89, R90). -/
def CompletesFrom (u : State) (i : Instr) (s : State) (iss : Issue) (act : List (Nat × FibreId))
    (rs : List ((Nat × FibreId) × LaneRes)) : Prop :=
  exec i s = .next (u.finish iss act i rs) ∧
    (bits (s.fpctl iss) 11 4 = 0 ∨ s.enabled iss rs = 0 → (iss.lanes.map (·.2)).Nodup →
      (∀ p ∈ s.pending, p.1 < s.nextId) →
      ∃ t, exec i s = .next t ∧ WentOn iss t ∧ ∀ x ∈ rs,
        (t.fibre x.1.2).fpflags = (s.fibre x.1.2).fpflags ||| x.2.fl ∧
        (t.fibre x.1.2).bfflags = (s.fibre x.1.2).bfflags ||| x.2.bf ∧
        ((unitOf i = .alu ∨ unitOf i = .fma) → ∀ d ∈ x.2.dests, Landed t iss x.1.2 d) ∧
        (unitOf i ≠ .alu → unitOf i ≠ .fma → x.2.dests ≠ [] → Arriving t x.1.2 x.2.dests))

/-- The instruction completes with a result and flags for each lane, and nothing else. -/
def Completes (i : Instr) (s : State) (iss : Issue) (act : List (Nat × FibreId))
    (rs : List ((Nat × FibreId) × LaneRes)) : Prop := CompletesFrom s i s iss act rs

/-- A value of an instruction's mode: unsigned or two's complement (17 R348). -/
def numOf {n : Nat} (u : Bool) (x : BitVec n) : Int := if u then x.toNat else x.toInt

/-- An exact integer in n bits: modulo 2^n, or clamped with .sat to the mode's range (05 R101). -/
def inBits (n : Nat) (sat u : Bool) (r : Int) : BitVec n :=
  if sat then
    if u then BitVec.ofInt n (max 0 (min r (2 ^ n - 1)))
    else BitVec.ofInt n (max (-(2 ^ (n - 1))) (min r (2 ^ (n - 1) - 1)))
  else BitVec.ofInt n r

/-- The core's own view of a byte of global memory: its L1 where the word is valid, else the home (06 R133, R136). -/
def State.seen (s : State) (core pa : Nat) : Byte := (s.l1Bytes core pa 1).headD 0

/-- What stands at a code reference of a context, without changing the machine. -/
def State.instrAt (s : State) (core ctx : Nat) (r : Dword) : Option (Instr × Nat) :=
  match (s.fetch core ctx r).2 with
  | .instr i n => some (i, n)
  | _ => none

end Sys2Proof.Machine
end

