-- ==== Sys2Proof/Certificates/Slice0/Obligations.lean ====
section
/-! DEFINITION. The statements about the model, each from the numbered rules of spec/ that its docstring names. -/

open Sys2Proof Sys2Proof.Machine

/-! Registers and how results reach them. -/

/-- The k registers (02 R43): k0 reads true at every clock, and a write to it by either kind of unit leaves every k and v
register of the fibre as it reads; a write to one of k1 to k7 makes it read the value's bit 0 at every clock and leaves
every other register as it reads. -/
def Obligations.PredicateRegisters : Prop :=
  ∀ (f : Fibre) (c : Nat) (x : Dword),
    f.kAt c 0 = true ∧ f.land (.k 0) x = f ∧
      (∀ n < 8, (f.writeNow (.k 0) x).kAt c n = f.kAt c n) ∧ (∀ n, (f.writeNow (.k 0) x).vAt c n = f.vAt c n) ∧
      ∀ n, 1 ≤ n → n < 8 → (f.writeNow (.k n) x).kAt c n = x.getLsbD 0 ∧
        (∀ m < 8, m ≠ n → (f.writeNow (.k n) x).kAt c m = f.kAt c m) ∧
        ∀ m, (f.writeNow (.k n) x).vAt c m = f.vAt c m

/-- A fixed-latency result is readable four clocks after the issue and not before (04 R89). `finish` of an ALU or FMA
instruction whose flags raise no trap: each destination of each lane reads the result at clock + 4; at every clock from the
issue to clock + 3 every register of every fibre, the destinations too, reads as it would have without the instruction, and
so does a register that is no destination at every later clock; flags are ORed in; a fibre with no result, one whose guard
is false too, changes in its pc alone and in what an issue takes with it; the whole subset goes to the next instruction; the
streams that the instruction reads are popped (09 R208); nothing else of the machine changes, but that an error in a
destination goes with the write (06 R150). -/
def Claims.FixedLatencyFibreResult : Prop :=
  ∀ (s : State) (iss : Issue) (act : List (Nat × FibreId)) (i : Instr) (rs : List ((Nat × FibreId) × LaneRes)),
    (unitOf i = .alu ∨ unitOf i = .fma) → s.enabled iss rs = 0 →
    (rs.map fun x => x.1.2).Nodup → (∀ x ∈ rs, x.1 ∈ iss.lanes) →
    (∀ x ∈ rs, (x.2.dests.map (·.1)).Nodup ∧ ∀ d ∈ x.2.dests, (s.fibre x.1.2).has d.1) →
    let t := s.finish iss act i rs
    let u := s.popStreams act (usesOf i)
    let clock := s.clockOf iss.core
    (∀ x ∈ rs, ∀ d ∈ x.2.dests, (t.fibre x.1.2).reads (clock + 4) d.1 d.2) ∧
      (∀ f c, clock ≤ c → c < clock + 4 →
        (∀ n < (s.fibre f).window, (t.fibre f).vAt c n = (s.fibre f).vAt c n) ∧
        ∀ n < 8, (t.fibre f).kAt c n = (s.fibre f).kAt c n) ∧
      (∀ x ∈ rs, ∀ c, clock ≤ c →
        (∀ n < (s.fibre x.1.2).window, .v n ∉ x.2.dests.map (·.1) →
          (t.fibre x.1.2).vAt c n = (s.fibre x.1.2).vAt c n) ∧
        ∀ n < 8, .k n ∉ x.2.dests.map (·.1) → (t.fibre x.1.2).kAt c n = (s.fibre x.1.2).kAt c n) ∧
      (∀ x ∈ rs, (t.fibre x.1.2).fpflags = (s.fibre x.1.2).fpflags ||| x.2.fl ∧
        (t.fibre x.1.2).bfflags = (s.fibre x.1.2).bfflags ||| x.2.bf) ∧
      WentOn iss t ∧
      (∀ f, (∀ x ∈ rs, x.1.2 ≠ f) → Fibre.moved (u.fibre f) (t.fibre f)) ∧
      (∀ f, f ∉ iss.lanes.map (·.2) → t.fibre f = u.fibre f) ∧
      (∀ f, { t.fibre f with
        pc := (u.fibre f).pc, again := (u.fibre f).again, refill := (u.fibre f).refill, relWait := (u.fibre f).relWait
        v := (u.fibre f).v, k := (u.fibre f).k, late := (u.fibre f).late, fpflags := (u.fibre f).fpflags
        bfflags := (u.fibre f).bfflags } = u.fibre f) ∧
      SameButRegisters s t

/-- What a pop of streams does (09 R208): each active lane's cursor of each stream that the instruction names moves on by one,
whichever number of its operands names it, and the element that was next is gone; nothing else of the machine changes. -/
def Claims.StreamPops : Prop :=
  ∀ (s : State) (act : List (Nat × FibreId)) (u : Uses), (act.map (·.2)).Nodup →
    (u.qr = [] → s.popStreams act u = s) ∧
    SameButFibres s (s.popStreams act u) ∧
    (∀ f, { (s.popStreams act u).fibre f with streams := (s.fibre f).streams } = s.fibre f) ∧
    (∀ f, f ∉ act.map (·.2) → (s.popStreams act u).fibre f = s.fibre f) ∧
    ∀ x ∈ act, ∀ n : Nat, ((s.popStreams act u).fibre x.2).streams[n]? = ((s.fibre x.2).streams[n]?).map fun q =>
      if n ∈ u.qr then { q with ahead := q.ahead.tail, cursor := q.cursor + 1 } else q

/-- A g result of a fixed-latency unit (02 R41, R42; 04 R89): g0 to g15 go to the copy of the lead fibre's team and g16
to g63 to the group's own; the register reads the result four clocks on; at the issue and at each of the three clocks after
it every g register of the group reads as it would have without the instruction, and every other one at each later clock
too; only the pc and kept operands of the lanes move, and the streams that the instruction reads. -/
def Claims.FixedLatencyGroupResult : Prop :=
  ∀ (s : State) (iss : Issue) (act : List (Nat × FibreId)) (i : Instr) (x : Nat × FibreId) (n : Nat) (val : Dword),
    (unitOf i = .alu ∨ unitOf i = .fma) → n < 64 →
    (s.group iss.gid).core = iss.core → (s.group iss.gid).g.length = 48 →
    (s.team (s.leadTeam iss.gid)).g.length = 16 →
    let t := s.finish iss act i [(x, { dests := [(.g n, val)] })]
    t.gAt iss.gid n 4 = val ∧
      (∀ m < 64, ∀ d < 4, t.gAt iss.gid m d = s.gAt iss.gid m d) ∧
      (∀ m < 64, m ≠ n → ∀ d, t.gAt iss.gid m d = s.gAt iss.gid m d) ∧
      WentOn iss t ∧ (∀ f, Fibre.moved ((s.popStreams act (usesOf i)).fibre f) (t.fibre f)) ∧
      { t with teams := s.teams, groups := s.groups, badElse := s.badElse } = s ∧ (∀ x ∈ t.badElse, x ∈ s.badElse) ∧
      (∀ g, g ≠ iss.gid → t.group g = s.group g)

/-- Fixed-latency results, of fibres and of groups: readable four clocks after the issue and not before; and the pops of the
streams that an instruction reads. -/
def Obligations.FixedLatencyResult : Prop :=
  Claims.FixedLatencyFibreResult ∧ Claims.StreamPops ∧ Claims.FixedLatencyGroupResult

/-- A variable-latency result sets pending bits and is written later (04 R90): `finish` of an instruction of another unit
whose flags raise no trap lists, for each lane with destinations, one pending result with exactly them, and no others; no
register changes; the flags of the lanes with results are ORed in, and a fibre without one changes in its pc alone and in what
an issue takes with it; the subset goes to the next instruction; the streams that the instruction reads are popped (09
R208); nothing else of the machine changes. -/
def Obligations.VariableLatencyResult : Prop :=
  ∀ (s : State) (iss : Issue) (act : List (Nat × FibreId)) (i : Instr) (rs : List ((Nat × FibreId) × LaneRes)),
    unitOf i ≠ .alu → unitOf i ≠ .fma → s.enabled iss rs = 0 →
    (∀ x ∈ s.pending, x.1 < s.nextId) → (∀ x ∈ rs, x.1 ∈ iss.lanes) →
    let t := s.finish iss act i rs
    let u := s.popStreams act (usesOf i)
    (∀ x ∈ rs, x.2.dests ≠ [] → Arriving t x.1.2 x.2.dests) ∧
      (∀ id p, s.pending.find id = some p → t.pending.find id = some p) ∧
      (∀ id p, t.pending.find id = some p → s.pending.find id = some p ∨
        ∃ x ∈ rs, p.fib = x.1.2 ∧ p.dests = x.2.dests ∧ p.dests ≠ [] ∧ p.load = none ∧ p.count = []) ∧
      t.pending.length = s.pending.length + (rs.filter fun x => !x.2.dests.isEmpty).length ∧
      ((rs.map fun x => x.1.2).Nodup → ∀ x ∈ rs, (t.fibre x.1.2).fpflags = (s.fibre x.1.2).fpflags ||| x.2.fl ∧
        (t.fibre x.1.2).bfflags = (s.fibre x.1.2).bfflags ||| x.2.bf) ∧
      WentOn iss t ∧
      (∀ f, (∀ x ∈ rs, x.1.2 ≠ f) → Fibre.moved (u.fibre f) (t.fibre f)) ∧
      (∀ f, f ∉ iss.lanes.map (·.2) → t.fibre f = u.fibre f) ∧
      (∀ f, { t.fibre f with
        pc := (u.fibre f).pc, again := (u.fibre f).again, refill := (u.fibre f).refill, relWait := (u.fibre f).relWait
        fpflags := (u.fibre f).fpflags, bfflags := (u.fibre f).bfflags } = u.fibre f) ∧
      SameButResults s t

/-- RESULT_WRITEBACK of a pending result whose value is there (04 R90, R93; 02 R41, R42): it takes place; the v and k
destinations of its fibre hold the values from then on, at every clock, and a g destination, where the team or group that
the instruction was issued for is still there, its value: g0 to g15 in that team's copy, g16 to g63 in the group's. They
hold no error, but where the bytes that were loaded had one (06 R150; log 9). Every other register reads as before; the
result is listed no more; each fibre that counted it has one fewer in LDC, and nothing else of the machine changes. -/
def Obligations.ResultWriteback : Prop :=
  ∀ (s : State) (id : Nat) (p : Sys2Proof.Machine.Pending),
    s.pending.find id = some p → KV.sorted s.pending = true → p.load = none → (p.dests.map (·.1)).Nodup →
    (∀ d ∈ p.dests, (s.fibre p.fib).has d.1 ∨ ∃ n < 64, d.1 = .g n) → p.count.Nodup →
    ∃ t, exec (.resultWriteback id) s = .next t ∧
      (∀ d ∈ p.dests, ∀ c, (t.fibre p.fib).reads c d.1 d.2) ∧
      (∀ n x, (.g n, x) ∈ p.dests →
        (n < 16 → (s.teams.find p.tid).isSome = true → (s.team p.tid).g.length = 16 →
          gRead (t.team p.tid).g (t.team p.tid).late 0 n s.lateDone = x) ∧
        (16 ≤ n → (s.groups.find p.gid).isSome = true → (s.group p.gid).g.length = 48 → t.gReg p.gid n = x)) ∧
      t.pending.find id = none ∧
      (∀ r, r ∉ p.dests.map (·.1) → ∀ c, (∀ n, r = .v n → (t.fibre p.fib).vAt c n = (s.fibre p.fib).vAt c n) ∧
        (∀ n, r = .k n → (t.fibre p.fib).kAt c n = (s.fibre p.fib).kAt c n) ∧
        ∀ n gid, r = .g n → n < 64 → t.gReg gid n = s.gReg gid n) ∧
      (∀ f ∈ p.count, (t.fibre f).ldc = (s.fibre f).ldc - 1) ∧
      (∀ f, f ∉ p.count → (t.fibre f).ldc = (s.fibre f).ldc) ∧
      (∀ f, f ≠ p.fib → { t.fibre f with ldc := (s.fibre f).ldc } = s.fibre f) ∧
      { t.fibre p.fib with v := (s.fibre p.fib).v, k := (s.fibre p.fib).k, late := (s.fibre p.fib).late
                           ldc := (s.fibre p.fib).ldc } = s.fibre p.fib ∧
      (∀ n, { t.team n with fibres := (s.team n).fibres, g := (s.team n).g, late := (s.team n).late } = s.team n) ∧
      (∀ n, { t.group n with g := (s.group n).g, late := (s.group n).late } = s.group n) ∧
      { t with teams := s.teams, groups := s.groups, pending := s.pending, badReg := s.badReg, badElse := s.badElse } = s ∧
      (p.bad = false →
        (∀ x ∈ t.badReg, x ∈ s.badReg ∧ ∀ n, x.1 = p.fib → x.2 = n → Reg.v n ∉ p.dests.map (·.1)) ∧
        ∀ x ∈ t.badElse, x ∈ s.badElse) ∧
      (p.bad = true → ∀ n, Reg.v n ∈ p.dests.map (·.1) → (p.fib, n) ∈ t.badReg)

/-! Integer arithmetic. -/

/-- ADD, SUB, MUL, MULH, MAD, AND, OR, XOR, ANDN, MIN and MAX in base form (05 R101; 17 R354, R356, R357; 21 R424; 23
R467; 24 R480): the result of each guarded lane over its 32-bit operands, modulo 2^32; MULH gives bits [63:32] of the
signed product, MAD adds vD, MIN and MAX are signed. -/
def Claims.IntegerBaseForms : Prop :=
  ∀ p ∈ ([(.add, fun a b _ => a + b), (.sub, fun a b _ => a - b), (.mul, fun a b _ => a * b),
      (.mulh, fun a b _ => ((a.signExtend 64 * b.signExtend 64) >>> 32).setWidth 32),
      (.mad, fun a b d => a * b + d), (.and, fun a b _ => a &&& b), (.or, fun a b _ => a ||| b),
      (.xor, fun a b _ => a ^^^ b), (.andn, fun a b _ => a &&& ~~~b),
      (.min, fun a b _ => if a.sle b then a else b), (.max, fun a b _ => if a.sle b then b else a)] :
      List ((BR → Instr) × (Word → Word → Word → Word))),
    ∀ (o : BR) (s : State) (iss : Issue) (act : List (Nat × FibreId)), s.Clear (p.1 o) iss act →
      Completes (p.1 o) s iss act ((State.byFid act).map fun x =>
        (x, res1 (brD o)
          ((p.2 (s.src iss x.2 (brA o)) (s.src iss x.2 (brB o)) (s.src iss x.2 (brD o))).setWidth 64)))

/-- SHL, SHR and ROL with their 6-bit count, and ABS, NEG, CLZ, POPC, BREV and MOV, in base form (05 R102; 17 R352, R371;
18 R380; 21 R424, R432; 22 R437, R449; 23 R460): a shift by 32 or more gives 0, a rotation takes its count modulo 32, ABS
of the most negative number is itself, CLZ counts the zeros above the highest one. -/
def Claims.ShiftAndUnaryBaseForms : Prop :=
  (∀ p ∈ ([(.shl, fun a n => a <<< n), (.shr, fun a n => a >>> n), (.rol, fun a n => a.rotateLeft n)] :
      List ((BI → Instr) × (Word → Nat → Word))),
    ∀ (o : BI) (s : State) (iss : Issue) (act : List (Nat × FibreId)), s.Clear (p.1 o) iss act →
      Completes (p.1 o) s iss act ((State.byFid act).map fun x =>
        (x, res1 (biD o) ((p.2 (s.src iss x.2 (biA o)) o.b.toNat).setWidth 64)))) ∧
  (∀ p ∈ ([(.abs, fun a => if a.msb then -a else a), (.neg, fun a => -a),
      (.clz, fun a => BitVec.ofNat 32 ((List.range 32).reverse.takeWhile fun i => !a.getLsbD i).length),
      (.popc, fun a => BitVec.ofNat 32 ((List.range 32).filter fun i => a.getLsbD i).length),
      (.brev, fun a => a.reverse), (.mov, fun a => a)] : List ((BU → Instr) × (Word → Word))),
    ∀ (o : BU) (s : State) (iss : Issue) (act : List (Nat × FibreId)), s.Clear (p.1 o) iss act →
      Completes (p.1 o) s iss act ((State.byFid act).map fun x =>
        (x, res1 (buD o) ((p.2 (s.src iss x.2 (buA o))).setWidth 64)))) ∧
  (∀ (o : BL) (s : State) (iss : Issue) (act : List (Nat × FibreId)), s.Clear (.li o) iss act →
    Completes (.li o) s iss act ((State.byFid act).map fun x =>
      (x, res1 (.v (o.d.setWidth 8)) (((match o.imm with
        | .short n => n.signExtend 32
        | .lit n => n.setWidth 32) : Word).setWidth 64))))

/-- The integer and bit-field instructions in base form. -/
def Obligations.IntegerInBaseForms : Prop := Claims.IntegerBaseForms ∧ Claims.ShiftAndUnaryBaseForms

/-- The integer and bit-field instructions in extended form as functions of their operands at a width: 32 bits per fibre,
or 64 bits once with a g destination (05 R101, R102; 17 R348, R368, R369; 18 R387; 22 R445; 23 R460). -/
def extendedInteger : List ((XR → Instr) × (XR → (n : Nat) → BitVec n → BitVec n → BitVec n → BitVec n)) :=
  [(.addX, fun o n a b _ => inBits n o.sat o.u (numOf o.u a + numOf o.u b)),
    (.subX, fun o n a b _ => inBits n o.sat o.u (numOf o.u a - numOf o.u b)),
    (.mulX, fun o n a b _ => inBits n o.sat o.u (numOf o.u a * numOf o.u b)),
    (.mulhX, fun o n a b _ => BitVec.ofInt n (numOf o.u a * numOf o.u b / 2 ^ n)),
    (.madX, fun o n a b c => inBits n o.sat o.u (numOf o.u a * numOf o.u b + numOf o.u c)),
    (.andX, fun _ _ a b _ => a &&& b), (.orX, fun _ _ a b _ => a ||| b), (.xorX, fun _ _ a b _ => a ^^^ b),
    (.andnX, fun _ _ a b _ => a &&& ~~~b),
    (.minX, fun o _ a b _ => if numOf o.u a ≤ numOf o.u b then a else b),
    (.maxX, fun o _ a b _ => if numOf o.u a ≤ numOf o.u b then b else a),
    (.shlX, fun _ _ a b _ => a <<< (b.toNat % 256)),
    (.shrX, fun o _ a b _ => if o.var = 1 then a.sshiftRight (b.toNat % 256) else a >>> (b.toNat % 256)),
    (.rolX, fun _ _ a b _ => a.rotateLeft (b.toNat % 256)),
    (.absX, fun o n a _ _ => inBits n o.sat false a.toInt.natAbs),
    (.negX, fun o n a _ _ => inBits n o.sat false (-a.toInt)),
    (.clzX, fun _ n a _ _ => BitVec.ofNat n ((List.range n).reverse.takeWhile fun i => !a.getLsbD i).length),
    (.popcX, fun _ n a _ _ => BitVec.ofNat n ((List.range n).filter fun i => a.getLsbD i).length),
    (.brevX, fun _ _ a _ _ => a.reverse), (.liX, fun _ _ a _ _ => a),
    (.div, fun o n a b _ => if b = 0 then BitVec.allOnes n else if o.u then a / b else a.sdiv b),
    (.rem, fun o _ a b _ => if b = 0 then a else if o.u then a % b else a.srem b),
    (.bfx, fun o n a _ c =>
      let w := min (c.toNat / 256 % 256) n
      if o.u then (a >>> (c.toNat % 256)) &&& BitVec.ofNat n (2 ^ w - 1)
      else ((a.sshiftRight (c.toNat % 256)).setWidth w).signExtend n),
    (.bfi, fun _ n a b c =>
      let m := BitVec.ofNat n (2 ^ (c.toNat / 256 % 256) - 1) <<< (c.toNat % 256)
      (b &&& ~~~m) ||| ((a <<< (c.toNat % 256)) &&& m))]

/-- The integer and bit-field instructions in extended form with a v destination: each guarded lane over 32-bit operands;
a signed operand is two's complement, .sat clamps to the mode's range, and the corners of DIV, REM, BFX, BFI and the
shifts are those of their entries. -/
def Claims.IntegerExtendedForms : Prop :=
  ∀ p ∈ extendedInteger, ∀ (o : XR) (n : BitVec 8) (s : State) (iss : Issue) (act : List (Nat × FibreId)),
    o.d = .v n → s.Clear (p.1 o) iss act →
      Completes (p.1 o) s iss act ((State.byFid act).map fun x =>
        (x, res1 o.d ((p.2 o 32 (s.src iss x.2 o.a) (s.src iss x.2 o.b) (s.src iss x.2 o.c)).setWidth 64)))

/-- The same with a g destination (17 R347, R348; 15 R324): performed once, over 64-bit operands. -/
def Claims.IntegerGroupForms : Prop :=
  ∀ p ∈ extendedInteger, ∀ (o : XR) (n : BitVec 8) (s : State) (iss : Issue) (act : List (Nat × FibreId)),
    o.d = .g n → s.Clear (p.1 o) iss act →
      Completes (p.1 o) s iss act [(act.headD (0, ⟨0, 0⟩), res1 o.d (p.2 o 64 (s.srcG iss o.a) (s.srcG iss o.b) (s.srcG iss o.c)))]

/-- The integer and bit-field instructions in extended form, with a v destination and with a g destination. -/
def Obligations.IntegerExtendedAndGroupForms : Prop := Claims.IntegerExtendedForms ∧ Claims.IntegerGroupForms

/-- CMP in both forms (15 R320; 18 R381): the predicate of each guarded lane is the condition over its operands, signed,
or unsigned in an extended form with the U bit. -/
def Claims.Compare : Prop :=
  let holds := fun (cc : BitVec 3) (lt : Bool) (eq : Bool) => match cc.toNat with
    | 0 => eq
    | 1 => !eq
    | 2 => lt
    | 3 => lt || eq
    | 4 => !lt && !eq
    | _ => !lt
  (∀ (o : BC) (s : State) (iss : Issue) (act : List (Nat × FibreId)), s.Clear (.cmp o) iss act →
    Completes (.cmp o) s iss act ((State.byFid act).map fun x =>
      let a := s.src iss x.2 (.v (o.a.setWidth 8))
      let b := s.src iss x.2 (bopO o.b)
      (x, { dests := [(.k o.kd.toNat, if holds o.cc (a.slt b) (a == b) then 1 else 0)] }))) ∧
  ∀ (o : XR) (n : BitVec 8) (s : State) (iss : Issue) (act : List (Nat × FibreId)), o.d = .k n →
    s.Clear (.cmpX o) iss act →
    Completes (.cmpX o) s iss act ((State.byFid act).map fun x =>
      let a := s.src iss x.2 o.a
      let b := s.src iss x.2 o.b
      (x, { dests := [(.k n.toNat, if holds o.cc (if o.u then a.ult b else a.slt b) (a == b) then 1 else 0)] }))

/-- SEL, PLOP and the extended MOV (21 R432; 22 R435; 23 R455): SEL takes A where C is true or nonzero, PLOP looks its
three truth values up in the 8-bit table FB:FA, MOV of a v register into g needs one value in every guarded lane and
raises UNIF (cause 0x03) where they differ. -/
def Claims.MovesAndSelection : Prop :=
  ∀ (o : XR) (s : State) (iss : Issue) (act : List (Nat × FibreId)),
    (s.Clear (.sel o) iss act →
      Completes (.sel o) s iss act ((State.byFid act).map fun x =>
        (x, res1 o.d ((if s.src iss x.2 o.c = 0 then s.src iss x.2 o.b else s.src iss x.2 o.a).setWidth 64)))) ∧
    (s.Clear (.plop o) iss act →
      let bitOf := fun (f : FibreId) (a : Opnd) => if s.src iss f a = 0 then 0 else 1
      Completes (.plop o) s iss act ((State.byFid act).map fun x =>
        (x, res1 o.d (if (o.fb ++ o.fa).getLsbD (4 * bitOf x.2 o.a + 2 * bitOf x.2 o.b + bitOf x.2 o.c) then 1 else 0)))) ∧
    (s.Clear (.movX o) iss act →
      (∀ n, o.d = .v n → Completes (.movX o) s iss act ((State.byFid act).map fun x =>
        (x, res1 o.d ((s.src iss x.2 o.a).setWidth 64)))) ∧
      ∀ n, o.d = .g n →
        (∀ m, o.a ≠ .v m → Completes (.movX o) s iss act [(act.headD (0, ⟨0, 0⟩), res1 o.d (s.srcG iss o.a))]) ∧
        ∀ m val, o.a = .v m →
          ((∀ x ∈ act, s.src iss x.2 o.a = val) →
            Completes (.movX o) s iss act [(act.headD (0, ⟨0, 0⟩), res1 o.d (val.setWidth 64))]) ∧
          ((∃ x ∈ act, ∃ y ∈ act, s.src iss x.2 o.a ≠ s.src iss y.2 o.a) →
            exec (.movX o) s = .next (s.raise iss 0x03 0 0)))

/-- CMP, SEL, PLOP and the extended MOV. -/
def Obligations.CompareAndSelect : Prop := Claims.Compare ∧ Claims.MovesAndSelection

/-- MOVS (02 R45, R46, R48; 21 R433): each special register, at the lane; a v destination takes each guarded lane's own
32-bit value, a g destination one value that all of them share, else UNIF (cause 0x03). -/
def Obligations.SpecialRegisters : Prop :=
  ∀ (o : XR) (sel : BitVec 8) (s : State) (iss : Issue) (act : List (Nat × FibreId)),
    o.a = .imm sel → sel.toNat ≤ 13 → s.Clear (.movs o) iss act →
    ∃ val : Nat × FibreId → Dword,
      (∀ n, o.d = .v n → sel ≠ 9 → sel ≠ 11 → sel ≠ 13 →
        Completes (.movs o) s iss act (act.map fun x => (x, res1 o.d (val x)))) ∧
      (∀ n c, o.d = .g n → (∀ x ∈ act, val x = c) →
        Completes (.movs o) s iss act [(act.headD (0, ⟨0, 0⟩), res1 o.d c)]) ∧
      (∀ n, o.d = .g n → (∃ x ∈ act, ∃ y ∈ act, val x ≠ val y) →
        exec (.movs o) s = .next (s.raise iss 0x03 0 0)) ∧
      ∀ x ∈ act, let f := s.fibre x.2
        let t := s.team x.2.team
        (sel = 0 → val x = BitVec.ofNat 64 x.2.fid) ∧ (sel = 1 → val x = BitVec.ofNat 64 t.num) ∧
        (sel = 2 → val x = BitVec.ofNat 64 (t.gallery * 4 + t.member)) ∧ (sel = 3 → val x = BitVec.ofNat 64 x.1) ∧
        (sel = 4 → val x = BitVec.ofNat 64 (s.group iss.gid).grant) ∧ (sel = 5 → val x = BitVec.ofNat 64 iss.core) ∧
        (sel = 6 → val x = BitVec.ofNat 64 (iss.core / 4)) ∧ (sel = 7 → val x = BitVec.ofNat 64 t.nfib) ∧
        (sel = 8 → val x = BitVec.ofNat 64 f.role) ∧ (sel = 9 → val x = BitVec.ofNat 64 (s.clockOf iss.core)) ∧
        (sel = 10 → ((val x).getLsbD 0 = f.rsl ∧ (val x).getLsbD 1 = f.mx ∧ (val x).getLsbD 2 = t.control ∧
          (val x).getLsbD 3 = (s.ctx iss.ctx).ilk ∧ (val x).getLsbD 4 = (s.ctx iss.ctx).stop ∧
          (val x).getLsbD 5 = f.spin ∧ (val x).toNat < 64)) ∧
        (sel = 11 → val x = f.stack) ∧ (sel = 12 → val x = BitVec.ofNat 64 (s.depthOf t.launch)) ∧
        (sel = 13 → val x = s.launchIdOf t.launch)

/-! Floating point. -/

/-- FADD, FSUB, FMUL, FMIN, FMAX, FMA, FDIV, FSQRT and FRND in both forms (05 R103, R104, R106, R113; 19 R394, R395,
R400): each guarded lane over binary32 operands; the rounding mode is FPCTL.RM of the lead fibre's team in base forms and
where the field is 0, else the field; each lane's flags are ORed into its FPFLAGS, and where none of them is enabled the
results are written. -/
def Claims.FloatingPoint : Prop :=
  let result := fun (op : Float.Env → Nat → Nat → Nat → Float.Res) (s : State) (iss : Issue) (rnd : Nat)
      (act : List (Nat × FibreId)) (d a b c : Opnd) =>
    (State.byFid act).map fun x =>
      let mode := Float.modeOf (if rnd = 0 then bits (s.team (s.leadTeam iss.gid)).fpctl.toNat 2 0 else rnd)
      let r := op ⟨Float.f32, mode, false⟩ (s.src iss x.2 a).toNat (s.src iss x.2 b).toNat (s.src iss x.2 c).toNat
      (x, ({ dests := [(regOf d, BitVec.ofNat 64 r.1)], fl := r.2 } : LaneRes))
  (∀ p ∈ ([(.fadd, fun v a b _ => Float.fadd v a b), (.fsub, fun v a b _ => Float.fsub v a b),
      (.fmul, fun v a b _ => Float.fmul v a b), (.fmin, fun v a b _ => Float.minmax v false a b),
      (.fmax, fun v a b _ => Float.minmax v true a b), (.fma, fun v a b d => Float.fma v a b d)] :
      List ((BR → Instr) × (Float.Env → Nat → Nat → Nat → Float.Res))),
    ∀ (o : BR) (s : State) (iss : Issue) (act : List (Nat × FibreId)), s.Clear (p.1 o) iss act →
      Completes (p.1 o) s iss act (result p.2 s iss 0 act (brD o) (brA o) (brB o) (brD o))) ∧
  (∀ p ∈ ([(.faddX, fun v a b _ => Float.fadd v a b), (.fsubX, fun v a b _ => Float.fsub v a b),
      (.fmulX, fun v a b _ => Float.fmul v a b), (.fminX, fun v a b _ => Float.minmax v false a b),
      (.fmaxX, fun v a b _ => Float.minmax v true a b), (.fmaX, fun v a b c => Float.fma v a b c),
      (.fdiv, fun v a b _ => Float.fdiv v a b), (.fsqrtX, fun v a _ _ => Float.fsqrt v a),
      (.frnd, fun v a _ _ => Float.frnd v.mode a)] : List ((XR → Instr) × (Float.Env → Nat → Nat → Nat → Float.Res))),
    ∀ (o : XR) (s : State) (iss : Issue) (act : List (Nat × FibreId)), s.Clear (p.1 o) iss act →
      Completes (p.1 o) s iss act (result p.2 s iss o.rnd.toNat act o.d o.a o.b o.c)) ∧
  ∀ (o : BU) (s : State) (iss : Issue) (act : List (Nat × FibreId)), s.Clear (.fsqrt o) iss act →
    Completes (.fsqrt o) s iss act (result (fun v a _ _ => Float.fsqrt v a) s iss 0 act (buD o) (buA o) .none .none)

/-- The six approximations in both forms (05 R111; 19 R401): the instruction runs on every operand, with the result and the
flags of its function at the mode for each guarded lane. -/
def Claims.Approximations : Prop :=
  (∀ p ∈ ([(.frcp, .rcp), (.frsq, .rsq), (.fexp2, .exp2), (.flog2, .log2)] : List ((BU → Instr) × Float.Sfu)),
    ∀ (o : BU) (s : State) (iss : Issue) (act : List (Nat × FibreId)),
      s.Clear (p.1 o) iss act → Completes (p.1 o) s iss act ((State.byFid act).map fun x =>
        let r := Float.sfu p.2 (Float.modeOf (bits (s.team (s.leadTeam iss.gid)).fpctl.toNat 2 0)) (s.src iss x.2 (buA o)).toNat
        (x, { dests := [(regOf (buD o), BitVec.ofNat 64 r.1)], fl := r.2 }))) ∧
  ∀ p ∈ ([(.frcpX, .rcp), (.frsqX, .rsq), (.fexp2X, .exp2), (.flog2X, .log2), (.fsin, .sin), (.fcos, .cos)] :
      List ((XR → Instr) × Float.Sfu)),
    ∀ (o : XR) (s : State) (iss : Issue) (act : List (Nat × FibreId)),
      s.Clear (p.1 o) iss act → Completes (p.1 o) s iss act ((State.byFid act).map fun x =>
        let r := Float.sfu p.2 (s.modeFor iss o.rnd.toNat) (s.src iss x.2 o.a).toNat
        (x, { dests := [(regOf o.d, BitVec.ofNat 64 r.1)], fl := r.2 }))

/-- A finite number as a rational. -/
def numberOf (n : Bool) (m : Nat) (e : Int) : ℚ := (if n then -1 else 1) * (m : ℚ) * (2 : ℚ) ^ e

/-- The special operands and the exact cases of the approximations, in every mode and without NX (19 R401): NaN and NV for a
signalling one, zeros, infinities, negative operands of FRSQ and FLOG2, ±2^k with a normal reciprocal, 2^(2k) of FRSQ, 2^k of
FLOG2 and the integral operands of FEXP2 whose result is representable. -/
def Claims.ExactApproximations : Prop :=
  ∀ mode : Float.Mode,
    let sign := fun n : Bool => if n = true then 2 ^ 31 else 0
    let inf := 0x7F800000
    let one := 0x3F800000
    let nan := 0x7FC00000
    (∀ op x s, Float.unpack Float.f32 x = .nan s → Float.sfu op mode x = (nan, if s = true then 1 else 0)) ∧
    (∀ n, Float.sfu .rcp mode (sign n) = (sign n + inf, 2) ∧ Float.sfu .rcp mode (sign n + inf) = (sign n, 0) ∧
      Float.sfu .rsq mode (sign n) = (sign n + inf, 2) ∧ Float.sfu .log2 mode (sign n) = (2 ^ 31 + inf, 2) ∧
      Float.sfu .exp2 mode (sign n) = (one, 0) ∧ Float.sfu .sin mode (sign n) = (sign n, 0) ∧
      Float.sfu .cos mode (sign n) = (one, 0) ∧ Float.sfu .sin mode (sign n + inf) = (nan, 1) ∧
      Float.sfu .cos mode (sign n + inf) = (nan, 1)) ∧
    Float.sfu .rsq mode inf = (0, 0) ∧ Float.sfu .exp2 mode (2 ^ 31 + inf) = (0, 0) ∧
    Float.sfu .exp2 mode inf = (inf, 0) ∧ Float.sfu .log2 mode inf = (inf, 0) ∧
    (∀ x, 2 ^ 31 < x → x ≤ 2 ^ 31 + inf → Float.sfu .rsq mode x = (nan, 1) ∧ Float.sfu .log2 mode x = (nan, 1)) ∧
    (∀ (x : Nat) (n : Bool) (j : Nat) (e : Int), Float.unpack Float.f32 x = .fin n (2 ^ j) e →
      let k : Int := j + e
      (-127 ≤ k → k ≤ 126 → Float.sfu .rcp mode x = (sign n + (127 - k).toNat * 2 ^ 23, 0)) ∧
      (n = false → k % 2 = 0 → Float.sfu .rsq mode x = ((127 - k / 2).toNat * 2 ^ 23, 0)) ∧
      (n = false → (Float.sfu .log2 mode x).2 = 0 ∧ ∃ n' m' e',
        Float.unpack Float.f32 (Float.sfu .log2 mode x).1 = .fin n' m' e' ∧ numberOf n' m' e' = k)) ∧
    ∀ (x : Nat) (n : Bool) (m : Nat) (e k : Int), Float.unpack Float.f32 x = .fin n m e → numberOf n m e = k →
      (-126 ≤ k → k ≤ 127 → Float.sfu .exp2 mode x = ((k + 127).toNat * 2 ^ 23, 0)) ∧
      (-149 ≤ k → k < -126 → Float.sfu .exp2 mode x = (2 ^ (k + 149).toNat, 0))

/-- The other finite operands of the approximations (19 R401): NX is set; OF with it, and the overflow value of the mode,
where the exact value exceeds the largest finite one; UF with it where that is below 2^−126. Else the result is one that the
bound of R401 and the side of the mode allow for every value of the model's enclosure of the exact one, whose bits are
free, or that enclosure rounded (the model's choice, log 7). -/
def Claims.InexactApproximations : Prop :=
  (∀ (op : Float.Sfu) (mode : Float.Mode) (x : Nat) (n : Bool) (m : Nat) (e : Int),
    Float.unpack Float.f32 x = .fin n m e → m ≠ 0 → ((op = .rsq ∨ op = .log2) → n = false) →
    let pow := fun p : Int → Prop => ∃ j : Nat, m = 2 ^ j ∧ p (j + e)
    let exact := match op with
      | .rcp => pow fun k => -127 ≤ k ∧ k ≤ 126
      | .rsq => pow fun k => k % 2 = 0
      | .exp2 => ∃ k : Int, numberOf n m e = k ∧ -149 ≤ k ∧ k ≤ 127
      | .log2 => pow fun _ => True
      | .sin | .cos => False
    let v := numberOf n m e
    let big := match op with
      | .rcp => (2 ^ 24 - 1) * 2 ^ 104 < |v⁻¹|
      | .exp2 => 128 ≤ v
      | _ => False
    let tiny := match op with
      | .rcp => |v⁻¹| < (2 : ℚ) ^ (-126 : Int)
      | .exp2 => v < -126
      | .sin => |v| ≤ (2 : ℚ) ^ (-126 : Int)
      | _ => False
    let r := Float.sfu op mode x
    let c := Float.evalSfu op n m e
    ¬exact →
      (big → r = (Float.overflowBits Float.f32 mode (op == .rcp && n), 20)) ∧
      (¬big → (tiny → r.2 = 24) ∧ (¬tiny → r.2 = 16) ∧
        (Float.sfuAllowed op mode c.1 c.2.1 c.2.2 (.fin n m e) r.1 = true ∨ r.1 = Float.sfuRounded mode c.1 c.2.1 c.2.2))) ∧
  ∀ (op : Float.Sfu) (mode : Float.Mode) (lo hi q : Int) (a : Float.FVal) (r : Nat) (n : Bool) (m : Nat) (e : Int),
    Float.unpack Float.f32 r = .fin n m e → lo ≤ hi →
    let u := Float.sfuBound op (Float.inner lo hi) q a
    let directed := mode = .rz ∨ mode = .rdn ∨ mode = .rup
    Float.sfuAllowed op mode lo hi q a r = true ↔ ∀ y : ℚ, (lo : ℚ) * 2 ^ q ≤ y → y ≤ (hi : ℚ) * 2 ^ q →
      (¬directed → |numberOf n m e - y| ≤ (u.1 : ℚ) * 2 ^ u.2) ∧
      (directed → |numberOf n m e - y| ≤ 2 * (u.1 : ℚ) * 2 ^ u.2) ∧
      (mode = .rdn ∨ (mode = .rz ∧ 0 ≤ lo) → numberOf n m e ≤ y) ∧
      (mode = .rup ∨ (mode = .rz ∧ lo < 0) → y ≤ numberOf n m e)

/-- The floating-point instructions on FP32, exact or approximate. -/
def Obligations.FloatingPointArithmetic : Prop :=
  Claims.FloatingPoint ∧ Claims.Approximations ∧ Claims.ExactApproximations ∧ Claims.InexactApproximations

/-- FCMP, FCLASS and FCVT (19 R396 to R399): FCMP's predicate is false for a NaN operand but with .ne, and a signalling
NaN raises NV; FCLASS writes its class of the operand's encoding; FCVT converts each operand, both halves of a pair. -/
def Claims.FloatCompareAndConvert : Prop :=
  (∀ (o : BC) (s : State) (iss : Issue) (act : List (Nat × FibreId)), s.Clear (.fcmp o) iss act →
    Completes (.fcmp o) s iss act ((State.byFid act).map fun x =>
      let r := Float.fcmp o.cc.toNat (s.src iss x.2 (.v (o.a.setWidth 8))).toNat (s.src iss x.2 (bopO o.b)).toNat
      (x, { dests := [(.k o.kd.toNat, if r.1 then 1 else 0)], fl := r.2 }))) ∧
  (∀ (o : XR) (n : BitVec 8) (s : State) (iss : Issue) (act : List (Nat × FibreId)), o.d = .k n →
    s.Clear (.fcmpX o) iss act →
    Completes (.fcmpX o) s iss act ((State.byFid act).map fun x =>
      let r := Float.fcmp o.cc.toNat (s.src iss x.2 o.a).toNat (s.src iss x.2 o.b).toNat
      (x, { dests := [(.k n.toNat, if r.1 then 1 else 0)], fl := r.2 }))) ∧
  (∀ cc x y, ((Float.unpack Float.f32 x).isNan || (Float.unpack Float.f32 y).isNan) = true →
    (Float.fcmp cc x y).1 = decide (cc = 1)) ∧
  (∀ cc x y, (Float.fcmp cc x y).2 =
    if (Float.unpack Float.f32 x).isSnan || (Float.unpack Float.f32 y).isSnan then Float.fNV else 0) ∧
  (∀ (o : XR) (s : State) (iss : Issue) (act : List (Nat × FibreId)), s.Clear (.fclass o) iss act →
    Completes (.fclass o) s iss act ((State.byFid act).map fun x =>
      let f := Float.fmtOf o.fa.toNat
      (x, res1 o.d (BitVec.ofNat 64 (Float.fclass f ((s.src iss x.2 o.a).toNat % 2 ^ f.width)))))) ∧
  ∀ (o : XR) (s : State) (iss : Issue) (act : List (Nat × FibreId)), s.Clear (.fcvt o) iss act →
    Completes (.fcvt o) s iss act ((State.byFid act).map fun x =>
      (x, fcvtRes o.fa.toNat o.fb.toNat (s.modeFor iss o.rnd.toNat) o.sat (s.ftzh iss) (o.var == 1) o.d
        (s.src iss x.2 o.a).toNat (s.src iss x.2 o.b).toNat))

/-- HADD2, HMUL2 and HFMA2 in both forms (05 R105, R110; 20 R414): each half is computed and rounded on its own, binary16
in base form and the FA format in extended form, with FTZH; the flags of the halves are ORed. -/
def Claims.PackedHalves : Prop :=
  let result := fun (op : Float.Env → Nat → Nat → Nat → Float.Res) (s : State) (iss : Issue) (fmt : Float.Fmt)
      (rnd : Nat) (act : List (Nat × FibreId)) (d a b c : Opnd) =>
    (State.byFid act).map fun x =>
      let v : Float.Env := ⟨fmt, s.modeFor iss rnd, s.ftzh iss⟩
      let half := fun (k : Nat) (w : Word) => w.toNat / 65536 ^ k % 65536
      let r := fun (k : Nat) => op v (half k (s.src iss x.2 a)) (half k (s.src iss x.2 b)) (half k (s.src iss x.2 c))
      (x, ({ dests := [(regOf d, BitVec.ofNat 64 ((r 0).1 + 65536 * (r 1).1))], fl := (r 0).2 ||| (r 1).2 } : LaneRes))
  (∀ p ∈ ([(.hadd2, fun v a b _ => Float.fadd v a b), (.hmul2, fun v a b _ => Float.fmul v a b),
      (.hfma2, fun v a b d => Float.fma v a b d)] : List ((BR → Instr) × (Float.Env → Nat → Nat → Nat → Float.Res))),
    ∀ (o : BR) (s : State) (iss : Issue) (act : List (Nat × FibreId)), s.Clear (p.1 o) iss act →
      Completes (p.1 o) s iss act (result p.2 s iss Float.f16 0 act (brD o) (brA o) (brB o) (brD o))) ∧
  ∀ p ∈ ([(.hadd2X, fun v a b _ => Float.fadd v a b), (.hmul2X, fun v a b _ => Float.fmul v a b),
      (.hfma2X, fun v a b c => Float.fma v a b c)] : List ((XR → Instr) × (Float.Env → Nat → Nat → Nat → Float.Res))),
    ∀ (o : XR) (s : State) (iss : Issue) (act : List (Nat × FibreId)), s.Clear (p.1 o) iss act →
      Completes (p.1 o) s iss act (result p.2 s iss (Float.fmtOf o.fa.toNat) o.rnd.toNat act o.d o.a o.b o.c)

/-- Floating-point comparison, classification and conversion, and the packed halves. -/
def Obligations.FloatConversions : Prop := Claims.FloatCompareAndConvert ∧ Claims.PackedHalves

/-- BCVT and BDOT (05 R119 to R122; 17 R364, R366): BCVT encodes where FB names binary32 and decodes otherwise, each lane
by the lane map; BDOT of 1 to 4096 blocks, whose vectors lie inside the scratchpads and hold no ECC error, with no earlier
access of the fibres there under way (07 R168), writes the dot product of each guarded lane's vectors with its flags. -/
def Obligations.BlockFormats : Prop :=
  (∀ (o : XR) (s : State) (iss : Issue) (act : List (Nat × FibreId)), s.Clear (.bcvt o) iss act →
    Completes (.bcvt o) s iss act (act.map fun x =>
      (x, if o.fb = 1 then bcvtEncodeLane s iss act o (Block.mantBits o.fa.toNat) x
        else bcvtDecodeLane s iss act o (Block.mantBits o.fb.toNat) x))) ∧
  ∀ (o : XR) (s : State) (iss : Issue) (act : List (Nat × FibreId)), s.Clear (.bdot o) iss act →
    let n := ((s.srcG iss o.c).setWidth 32).toNat
    1 ≤ n → n ≤ 4096 → s.badSpad = [] → s.accessOpen (act.map (·.2)) false = true →
    (∀ x ∈ act, homeOpen s [x.2.team] [x.2] = true) →
    (∀ x ∈ act, (s.src iss x.2 o.a).toNat + n * (1 + Block.mantBits o.fa.toNat) ≤ (s.team x.2.team).ownBytes ∧
      (s.src iss x.2 o.b).toNat + n * (1 + Block.mantBits o.fb.toNat) ≤ (s.team x.2.team).ownBytes) →
    Completes (.bdot o) s iss act ((State.byFid act).map fun x =>
      let r := Block.bdot (o.var == 1) (s.modeFor iss o.rnd.toNat)
        (spadBlocks s x.2.team (s.src iss x.2 o.a).toNat (Block.mantBits o.fa.toNat) n)
        (spadBlocks s x.2.team (s.src iss x.2 o.b).toNat (Block.mantBits o.fb.toNat) n)
      (x, { dests := [(regOf o.d, BitVec.ofNat 64 r.1)], fl := r.2 }))

/-- The ARITH trap (05 R108; 12 R258): where a raised flag's enable in FPCTL is 1 in any lane, the flags are set, no
result is written, and the group traps with cause 0x0B and the flags concerned in DETAIL. A fibre that is no lane with a
result, one whose guard is false too, keeps its flags and everything else. -/
def Obligations.ArithmeticTrap : Prop :=
  ∀ (s : State) (iss : Issue) (act : List (Nat × FibreId)) (i : Instr) (rs : List ((Nat × FibreId) × LaneRes)),
    (rs.map fun x => x.1.2).Nodup →
    let fl := rs.foldl (fun m x => m ||| x.2.fl) 0#5 &&& BitVec.ofNat 5 (bits (s.fpctl iss) 8 4)
    let bf := rs.foldl (fun m x => m ||| x.2.bf) 0#3 &&& BitVec.ofNat 3 (bits (s.fpctl iss) 11 9)
    (fl ≠ 0 ∨ bf ≠ 0) →
    ∃ u, s.finish iss act i rs = u.raise iss 0x0B (bf ++ fl).toNat 0 ∧ SameButFibres s u ∧
      (∀ f, { u.fibre f with fpflags := (s.fibre f).fpflags, bfflags := (s.fibre f).bfflags } = s.fibre f) ∧
      (∀ f, (∀ x ∈ rs, x.1.2 ≠ f) → u.fibre f = s.fibre f) ∧
      ∀ x ∈ rs, (u.fibre x.1.2).fpflags = (s.fibre x.1.2).fpflags ||| x.2.fl ∧
        (u.fibre x.1.2).bfflags = (s.fibre x.1.2).bfflags ||| x.2.bf

/-! Control. -/

/-- What stands before every meaning (04 R100; 02 R40, R42; 13 R285; 17 R347), for the instructions of the ALU, FMA and
special-function units: a v register at or beyond a lane's window raises ILLEGAL (0x01); else a g write under a guard
that differs, or in a diverged group, raises UNIF (0x03); else the last word of the object raises CFI (0x06) with the
reference after it; else an error in a lane's guard raises ECC (0x0A); else, with every guard false, the instruction only
passes. That reading a stream that is undefined, stopped or an output is ILLEGAL, and stands in ILLEGAL's place of the
order, is the model's reading (log 17, for 09 R210). BDOT is left out: its ILLEGAL of a block count outside 1 to 4096 comes
among these. -/
def Obligations.OrderOfCauses : Prop :=
  ∀ (i : Instr) (s : State) (iss : Issue), s.issue = some iss →
    (unitOf i = .alu ∨ unitOf i = .fma ∨ unitOf i = .sfu) → (∀ o, i ≠ .bdot o) →
    let act := s.active iss (guardOf i)
    let bad := s.beyondWindow iss (usesOf i) || s.badStream act (usesOf i)
    (bad = true → exec i s = .next (s.raise iss 0x01 0 0)) ∧
      (bad = false → s.unifBad iss act (usesOf i) = true → exec i s = .next (s.raise iss 0x03 0 0)) ∧
      (bad = false → s.unifBad iss act (usesOf i) = false → iss.atEnd = true →
        exec i s = .next (s.raise iss 0x06 0 iss.next.toNat)) ∧
      (bad = false → s.unifBad iss act (usesOf i) = false → iss.atEnd = false → s.badGuard iss (guardOf i) = true →
        exec i s = .next (s.raise iss 0x0A 0 0)) ∧
      (bad = false → iss.atEnd = false → s.badGuard iss (guardOf i) = false → act = [] →
        exec i s = .next (s.advance iss))

/-- NOP and YIELD in both forms (21 R434; 24 R480): the subset goes to the next instruction and nothing else changes. -/
def Claims.NopAndYield : Prop :=
  (∀ c ∈ ([.nop, .yield] : List (BZ → Instr)), ∀ (o : BZ) (s : State) (iss : Issue) (act : List (Nat × FibreId)),
    s.Clear (c o) iss act → ∃ t, exec (c o) s = .next t ∧ WentOn iss t ∧ SameButFibres s t ∧
      (∀ f, Fibre.moved (s.fibre f) (t.fibre f)) ∧ ∀ f, f ∉ iss.lanes.map (·.2) → t.fibre f = s.fibre f) ∧
  ∀ c ∈ ([.nopX, .yieldX] : List (XC → Instr)), ∀ (o : XC) (s : State) (iss : Issue) (act : List (Nat × FibreId)),
    s.Clear (c o) iss act → ∃ t, exec (c o) s = .next t ∧ WentOn iss t ∧ SameButFibres s t ∧
      (∀ f, Fibre.moved (s.fibre f) (t.fibre f)) ∧ ∀ f, f ∉ iss.lanes.map (·.2) → t.fibre f = s.fibre f

/-- BRA and BRU in both forms (04 R94; 15 R320, R329; 17 R370, R372): with a target that passes the checks of 04 R99, the
guarded lanes go to the target and the others to the next instruction; BRU's guard may not differ among the lanes. The
target of a relative form is the reference of the branch plus four bytes per word of its offset, within the slot. -/
def Claims.Branches : Prop :=
  (∀ (o : BB) (iss : Issue), bbTarget iss o = relTarget iss.pc (o.ofs.toInt)) ∧
  (∀ (pc : Dword) (n : Int), 0 ≤ (refOfs pc : Int) + 4 * n → (refOfs pc : Int) + 4 * n < 2 ^ 52 →
    (relTarget pc n).2 = true ∧ refSlot (relTarget pc n).1 = refSlot pc ∧
      (refOfs (relTarget pc n).1 : Int) = refOfs pc + 4 * n) ∧
  ∀ (c : Instr) (tgt : State → Issue → Dword × Bool) (u : Bool),
    ((∃ o, c = .bra o ∧ tgt = (fun _ iss => bbTarget iss o) ∧ u = false) ∨
      (∃ o, c = .bru o ∧ tgt = (fun _ iss => bbTarget iss o) ∧ u = true) ∨
      (∃ o, c = .braX o ∧ tgt = (fun s iss => s.xcTarget iss o) ∧ u = false) ∨
      ∃ o, c = .bruX o ∧ tgt = (fun s iss => s.xcTarget iss o) ∧ u = true) →
    ∀ (s : State) (iss : Issue) (act : List (Nat × FibreId)) (s1 : State), s.Reached c iss act → act ≠ [] →
      (u = true → act.length = iss.lanes.length) → (iss.lanes.map (·.2)).Nodup → (tgt s iss).2 = true →
      s.targetCheck iss.core iss.ctx (tgt s iss).1 false = (s1, .ok) →
      ∃ t, exec c s = .next t ∧ (∀ x ∈ act, (t.fibre x.2).pc = (tgt s iss).1) ∧
        (∀ x ∈ iss.lanes, x ∉ act → (t.fibre x.2).pc = iss.next) ∧
        SameButFibres s1 t ∧ ∀ f, Fibre.moved (s1.fibre f) (t.fibre f)

/-- NOP, YIELD, BRA and BRU. -/
def Obligations.NopYieldAndBranches : Prop := Claims.NopAndYield ∧ Claims.Branches

/-- CALL and CALLR (04 R97, R99; 18 R375, R377): with targets that are function entries and room on every stack, each
guarded lane pushes the reference after the call and goes to its target, the others go on. -/
def Claims.Calls : Prop :=
  (∀ (c : Instr) (tgt : State → Issue → Dword × Bool),
    ((∃ o, c = .call o ∧ tgt = fun _ iss => bbTarget iss o) ∨ ∃ o, c = .callX o ∧ tgt = fun s iss => s.xcTarget iss o) →
    ∀ (s s1 : State) (iss : Issue) (act : List (Nat × FibreId)), s.Reached c iss act → act ≠ [] →
      (iss.lanes.map (·.2)).Nodup → (tgt s iss).2 = true →
      s.targetCheck iss.core iss.ctx (tgt s iss).1 true = (s1, .ok) →
      (∀ x ∈ act, (s1.fibre x.2).rstack.length < 4) →
      ∃ t, exec c s = .next t ∧ (∀ x ∈ act, (t.fibre x.2).pc = (tgt s iss).1 ∧
          (t.fibre x.2).rstack = iss.next :: (s1.fibre x.2).rstack) ∧
        (∀ x ∈ iss.lanes, x ∉ act → (t.fibre x.2).pc = iss.next ∧ (t.fibre x.2).rstack = (s1.fibre x.2).rstack) ∧
        SameButFibres s1 t) ∧
  ∀ (o : XC) (n : BitVec 8) (s s1 : State) (iss : Issue) (act : List (Nat × FibreId)), o.tgt = .reg n →
    s.Reached (.callr o) iss act → act ≠ [] → (iss.lanes.map (·.2)).Nodup →
    s.checkEach iss true ((State.byFid act).map fun x => (x.2, pairOf s iss x.2 n.toNat)) = (s1, .ok) →
    (∀ x ∈ act, (s1.fibre x.2).rstack.length < 4) →
    ∃ t, exec (.callr o) s = .next t ∧ (∀ x ∈ act, (t.fibre x.2).pc = pairOf s iss x.2 n.toNat ∧
        (t.fibre x.2).rstack = iss.next :: (s1.fibre x.2).rstack) ∧
      (∀ x ∈ iss.lanes, x ∉ act → (t.fibre x.2).pc = iss.next ∧ (t.fibre x.2).rstack = (s1.fibre x.2).rstack) ∧
      SameButFibres s1 t

/-- A fifth return reference (04 R97): with four on chip and room below the stack pointer, a push whose slot translates
stores the oldest reference there as an ordinary access, moves STACK down by eight and keeps the newest four on chip. -/
def Claims.ReturnStackSpill : Prop :=
  ∀ (s s1 : State) (core ctx pa : Nat) (f : FibreId) (ref : Dword), (s.fibre f).rstack.length = 4 →
    (s.accessDone core [f]).translate core ctx ((s.fibre f).stack - 8).toNat .write true = (s1, .ok pa) →
    let t := s.push core ctx f ref
    (t.fibre f).stack = (s.fibre f).stack - 8 ∧ (t.fibre f).spilled = (s.fibre f).spilled + 1 ∧
      (t.fibre f).rstack = ref :: (s.fibre f).rstack.dropLast ∧
      t = (s1.l1Store core f pa (leBytes 8 ((s.fibre f).rstack.getLastD 0).toNat) false false false).modFibre f fun x =>
        { x with stack := x.stack - 8, spilled := x.spilled + 1, rstack := ref :: x.rstack.dropLast }

/-- CALL and CALLR, and where the return stack goes when it is full. -/
def Obligations.CallsAndReturnStack : Prop := Claims.Calls ∧ Claims.ReturnStackSpill

/-- RET in both forms (04 R97; 22 R448): a guarded lane outside its handler base whose newest reference is on chip, or has
been loaded by its refill, pops it and goes there, once the reference passes the check of 04 R99; a pop of a loaded one moves
STACK up by eight; the others go on. -/
def Claims.Returns : Prop :=
  ∀ (c : Instr), ((∃ o, c = .ret o) ∨ ∃ o, c = .retX o) →
    ∀ (s s1 : State) (iss : Issue) (act : List (Nat × FibreId)), s.Reached c iss act → act ≠ [] →
      (iss.lanes.map (·.2)).Nodup → (∀ x ∈ act, (s.fibre x.2).handler = none) →
      (∀ x ∈ act, (s.fibre x.2).rstack ≠ [] ∨ (s.fibre x.2).refill ≠ none) →
      let ref := fun (f : FibreId) => (s.fibre f).rstack.headD ((s.fibre f).refill.getD 0)
      s.checkEach iss false ((State.byFid act).map fun x => (x.2, ref x.2)) = (s1, .ok) →
      ∃ t, exec c s = .next t ∧ (∀ x ∈ act, (t.fibre x.2).pc = ref x.2 ∧
          (t.fibre x.2).rstack = (s.fibre x.2).rstack.tail ∧ (t.fibre x.2).refill = none ∧
          ((s.fibre x.2).rstack ≠ [] → (t.fibre x.2).stack = (s.fibre x.2).stack) ∧
          ((s.fibre x.2).rstack = [] → (t.fibre x.2).stack = (s.fibre x.2).stack + 8 ∧
            (t.fibre x.2).spilled = (s.fibre x.2).spilled - 1)) ∧
        (∀ x ∈ iss.lanes, x ∉ act → (t.fibre x.2).pc = iss.next ∧ (t.fibre x.2).rstack = (s.fibre x.2).rstack) ∧
        SameButFibres s1 t

/-- EXIT in both forms (02 R29; 17 R362; 19 R393): it completes; the guarded lanes' fibres, and no others, are live no
more, with return stack, streams and open batch gone; the lanes whose guard is false stand at the next instruction. While
no fibre of their teams waits at SETW, nothing stays pending for the registers of the ended fibres; a fibre that waits at no
barrier keeps everything but the handler lanes that hold it; where every fibre left in a team waits at BAR, they are all
ready after it; and beyond teams, groups, pending results, L1 copies and gallery phases nothing changes. -/
def Obligations.Exits : Prop :=
  ∀ (c : Instr), ((∃ o, c = .exit o) ∨ ∃ o, c = .exitX o) →
    ∀ (s : State) (iss : Issue) (act : List (Nat × FibreId)), s.Reached c iss act → (iss.lanes.map (·.2)).Nodup →
      (∀ x ∈ iss.lanes, (s.fibre x.2).status = .ready) →
      let ended := act.map (·.2)
      ∃ t, exec c s = .next t ∧ (∀ f, (t.fibre f).live = true ↔ (s.fibre f).live = true ∧ f ∉ ended) ∧
        (∀ f ∈ ended, (t.fibre f).rstack = [] ∧ (t.fibre f).streams = [] ∧ (t.fibre f).openBatch = []) ∧
        (∀ x ∈ iss.lanes, x ∉ act → (t.fibre x.2).pc = iss.next) ∧
        ((∀ f ∈ ended, s.setwArrivals f.team = []) →
          (∀ p ∈ t.pending, ∀ f ∈ ended, f ∉ p.2.count ∧ (p.2.fib = f → ∀ d ∈ p.2.dests, ∃ n, d.1 = .g n)) ∧
          (∀ g, g ∉ iss.lanes.map (·.2) → (∀ n, (s.fibre g).status ≠ .blocked (.bar n)) →
            (∀ p n, (s.fibre g).status ≠ .blocked (.gbar p n)) →
            { t.fibre g with heldBy := (s.fibre g).heldBy } = s.fibre g ∧ ∀ h, h ∉ ended → h ∈ (s.fibre g).heldBy →
              h ∈ (t.fibre g).heldBy) ∧
          (∀ f ∈ ended, KV.sorted s.teams = true → KV.sorted (s.team f.team).fibres = true →
            (s.ctx (s.team f.team).ctx).stop = false →
            (∀ g ∈ s.liveFibres f.team, g ∉ ended → ∃ n, (s.fibre g).status = .blocked (.bar n)) →
            ∀ g ∈ s.liveFibres f.team, ∀ n, (s.fibre g).status = .blocked (.bar n) →
              (t.fibre g).status = .ready ∧ (t.fibre g).pc = n) ∧
          { t with teams := s.teams, groups := s.groups, pending := s.pending, cores := s.cores, launches := s.launches } = s)

/-! Exceptions. -/

/-- Where TRAP, SVC below 0x80 and a word that is no instruction trap (12 R254, R258; 15 R336; 23 R468; 24 R476): with a
true guard in some lane, TRAP raises cause 0x16 with its 16-bit immediate for the whole issuing subset, and with none it
does nothing; it belongs to the System unit; SVC raises cause 0x15 with its number; an unassigned encoding raises ILLEGAL,
cause 0x01, whatever the guards. Where the trap can be delivered, each completes as the subset enters the handler. -/
def Obligations.SoftwareTraps : Prop :=
  (∀ (o : XS) (s : State) (iss : Issue) (act : List (Nat × FibreId)), s.Clear (.trap o) iss act →
    exec (.trap o) s = .next (s.raise iss 0x16 (o.imm.toNat % 2 ^ 16) 0) ∧
      ∀ s1, Deliverable s s1 iss → ∃ t, exec (.trap o) s = .next t ∧ Entered s t iss 0x16 (o.imm.toNat % 2 ^ 16) 0) ∧
  (∀ (o : XS) (s : State) (iss : Issue), s.Reached (.trap o) iss [] → exec (.trap o) s = .next (s.advance iss)) ∧
  (∀ o : XS, unitOf (.trap o) = .system) ∧
  (∀ (o : XS) (s : State) (iss : Issue) (act : List (Nat × FibreId)), s.Clear (.svc o) iss act →
    exec (.svc o) s = .next (s.raise iss 0x15 (o.imm.toNat % 2 ^ 7) 0) ∧
      ∀ s1, Deliverable s s1 iss → ∃ t, exec (.svc o) s = .next t ∧ Entered s t iss 0x15 (o.imm.toNat % 2 ^ 7) 0) ∧
  ∀ (s : State) (iss : Issue), s.issue = some iss → exec .unassignedEncoding s = .next (s.raise iss 0x01 0 0) ∧
    ∀ s1, Deliverable s s1 iss → ∃ t, exec .unassignedEncoding s = .next t ∧ Entered s t iss 0x01 0 0

/-- Delivery to the handler (12 R255, R257, R258): where it can take place, a cause that goes to handlers makes every lane of
the trapping subset push the reference of the instruction, record its depth as the handler base, take CAUSE, DETAIL,
SKIP = 0 and VA, and move to HREF; every other live lane of the group is held by these lanes. -/
def Obligations.HandlerEntry : Prop :=
  ∀ (s s1 : State) (iss : Issue) (cause detail va : Nat), toHandler cause = true → Deliverable s s1 iss →
    let t := s.raise iss cause detail va
    Entered s t iss cause detail (BitVec.ofNat 64 va) ∧
      ∀ x ∈ s1.liveLanes iss.gid, x.2 ∉ iss.lanes.map (·.2) → iss.lanes.map (·.2) <:+ (t.fibre x.2).heldBy

/-- Held for firmware (12 R260, R262): with HREF zero a trap makes one fault record, with the cause and DETAIL, the PC
and the lanes of the subset, RECOV 0 and HELD 1, under a FAULTID that no outstanding record bears, and each live lane of the group and
each live fibre of the lanes' teams is held under it, beside earlier records that hold it; no other fibre is; no PC
changes. Which fibres are held with the trapping lanes is the model's reading (log 35). -/
def Claims.HeldForFirmware : Prop :=
  ∀ (s : State) (iss : Issue) (cause detail va : Nat), (s.ctx iss.ctx).trapvec = 0 → s.atomicOpen iss.gid = false →
    let t := s.raise iss cause detail va
    let id := s.faultId iss.ctx
    (∃ r, (t.ctx iss.ctx).waiting = (s.ctx iss.ctx).waiting ++ [r] ∧ r.cause = cause ∧ r.detail = detail ∧
      r.id = id ∧ r.pc = iss.pc ∧ r.held = true ∧ r.recov = false ∧ r.wr = iss.wr ∧ r.fibres = iss.lanes.map (·.2) ∧
      r.va = va % 2 ^ 48 ∧ (r.dbl = true ↔ ∃ x ∈ iss.lanes, (s.fibre x.2).handler.isSome = true)) ∧
      (∀ f, (f ∈ (s.liveLanes iss.gid).map (·.2) ∨ ∃ x ∈ iss.lanes, f ∈ s.liveFibres x.2.team) →
        (t.fibre f).firm = if (s.fibre f).firm.contains id then (s.fibre f).firm else (s.fibre f).firm ++ [id]) ∧
      (∀ f, f ∉ (s.liveLanes iss.gid).map (·.2) → (∀ x ∈ iss.lanes, f ∉ s.liveFibres x.2.team) →
        (t.fibre f).firm = (s.fibre f).firm) ∧
      ∀ f, (t.fibre f).pc = (s.fibre f).pc

/-- A recoverable page fault (06 R149; 12 R254, R262): the lanes of the subset park as Faulted at the instruction under a
record with cause PAGE (0x08), RECOV 1 and HELD 0. -/
def Claims.PageFaultParks : Prop :=
  ∀ (s : State) (iss : Issue) (va : Nat) (wr : Bool),
    let t := s.parkPage iss va wr
    let id := s.faultId iss.ctx
    (∃ r, (t.ctx iss.ctx).waiting = (s.ctx iss.ctx).waiting ++ [r] ∧ r.cause = 0x08 ∧ r.recov = true ∧
      r.held = false ∧ r.wr = wr ∧ r.va = va % 2 ^ 48 ∧ r.pc = iss.pc ∧ r.id = id) ∧
      (∀ x ∈ iss.lanes, (t.fibre x.2).status = .faulted id) ∧ ∀ f, (t.fibre f).pc = (s.fibre f).pc

/-- FAULTIDs (12 R262): the next one has 32 bits and is that of no record that waits for FAULTQ, is outstanding or whose
resolution is still to be carried out, as long as there are fewer than 2^32 of those. -/
def Claims.FaultIds : Prop :=
  ∀ (s : State) (ctx : Nat), let c := s.ctx ctx
    c.waiting.length + c.records.length + c.resolved.length < 2 ^ 32 →
    s.faultId ctx < 2 ^ 32 ∧ (∀ r ∈ c.waiting, r.id ≠ s.faultId ctx) ∧ (∀ x ∈ c.records, x.1 ≠ s.faultId ctx) ∧
      ∀ x ∈ c.resolved, x.1.id ≠ s.faultId ctx

/-- Traps that firmware serves, recoverable page faults, and the numbers of their records. -/
def Obligations.FirmwareTraps : Prop := Claims.HeldForFirmware ∧ Claims.PageFaultParks ∧ Claims.FaultIds

/-- The trap return (12 R259): a RET of one handler lane at its handler base, SKIP 0, whose reference still names
installed code, pops the entry, goes back to the trapping instruction and leaves the handler; no lane of the context is
held by it any more. -/
def Claims.TrapReturn : Prop :=
  ∀ (c : Instr), ((∃ o, c = .ret o) ∨ ∃ o, c = .retX o) →
    ∀ (s : State) (iss : Issue) (x : Nat × FibreId) (h : Handler) (ref : Dword) (rest : List Dword),
      s.Reached c iss [x] → iss.lanes = [x] → (s.fibre x.2).handler = some h → h.skip = false →
      h.base = (s.fibre x.2).depth → (s.fibre x.2).rstack = ref :: rest → s.refCheck iss.ctx ref = none →
      ∃ t, exec c s = .next t ∧ (t.fibre x.2).pc = ref ∧ (t.fibre x.2).rstack = rest ∧
        (t.fibre x.2).handler = none ∧
        (∀ f, (s.teams.find f.team).isSome = true → KV.sorted s.teams = true →
          (s.team f.team).ctx = (s.team x.2.team).ctx → ((s.team f.team).fibres.find f.fid).isSome = true →
          x.2 ∉ (t.fibre f).heldBy) ∧
        ∀ f, f ≠ x.2 → (t.fibre f).pc = (s.fibre f).pc

/-- The refill of RET (04 R90, R97, R98; 06 R150; 22 R448): RET of one lane with nothing on chip and its starting STACK raises
STACK (0x0C) with the address in TRAPVA; where STACK has moved and its slot translates, an error there raises ECC (0x0A), and
else the eight bytes are loaded as a pending result of the lane, which stays at the instruction and is Stalled, with return
stack and STACK as they were; the writeback of what was loaded gives the lane the reference that RET then goes to. -/
def Claims.ReturnRefill : Prop :=
  (∀ (c : Instr), ((∃ o, c = .ret o) ∨ ∃ o, c = .retX o) →
    ∀ (s : State) (iss : Issue) (x : Nat × FibreId), s.Reached c iss [x] → iss.lanes = [x] → (s.fibre x.2).rstack = [] →
      (s.fibre x.2).handler = none → (s.fibre x.2).refill = none →
      let va := (s.fibre x.2).stack.toNat
      ((s.fibre x.2).stack = (s.fibre x.2).stackTop → exec c s = .next (s.raise iss 0x0C 0 va)) ∧
      ∀ s1 pa, (s.fibre x.2).stack ≠ (s.fibre x.2).stackTop →
        s.translate iss.core iss.ctx va .read false = (s1, .ok pa) →
        (s1.eccBad pa 8 = true → exec c s = .next (s1.raise iss 0x0A 0 va)) ∧
        (s1.eccBad pa 8 = false → (s1.fibre x.2).fenceAcq = none → s1.loadPending x.2 pa 8 = false →
          (∀ p ∈ s1.pending, p.2.fib ≠ x.2 ∧ p.1 < s1.nextId) →
          ∃ t id p, exec c s = .next t ∧ t.pending.find id = some p ∧ p.fib = x.2 ∧ p.dests = [(.ret, 0)] ∧ p.count = [] ∧
            p.load = some (.global pa true false, 8, false) ∧
            { t.fibre x.2 with notBefore := (s1.fibre x.2).notBefore } = s1.fibre x.2 ∧
            { t with teams := s1.teams, pending := s1.pending, nextId := s1.nextId } = s1)) ∧
  ∀ (s : State) (id : Nat) (p : Sys2Proof.Machine.Pending) (ref : Dword), s.pending.find id = some p → p.load = none →
    p.dests = [(.ret, ref)] → p.count = [] → ∃ t, exec (.resultWriteback id) s = .next t ∧
      (t.fibre p.fib).refill = some ref ∧ ∀ f, f ≠ p.fib → t.fibre f = s.fibre f

/-- RET from a call, on chip or refilled, and from a trap handler. -/
def Obligations.ReturnsFromCallsAndTraps : Prop := Claims.Returns ∧ Claims.ReturnRefill ∧ Claims.TrapReturn

/-! Across lanes. -/

/-- A member-mask instruction reached by all it waits for (12 R266): no lane that its mask names is awaited, and every
guarded lane is named. -/
def Gathered (s : State) (iss : Issue) (act : List (Nat × FibreId)) (mask : Dword) : Prop :=
  s.awaited iss.gid mask iss.lanes = [] ∧ s.droppedLane iss.gid mask = false ∧
    ∀ x ∈ act, mask.getLsbD x.1 = true ∧ x.1 < min (s.group iss.gid).grant 64

/-- The four SHFL forms (23 R459): each guarded lane takes A of the lane that its index names, idx modulo GRANT, up and
down by distance within the group, xor modulo GRANT; its own A where that lane is not among the gathered ones, whose A
holds no error. -/
def Claims.Shuffles : Prop :=
  ∀ p ∈ ([(.shflIdx, fun g _ i => i % g), (.shflUp, fun _ l i => if i ≤ l then l - i else l),
      (.shflDown, fun g l i => if l + i < g then l + i else l), (.shflXor, fun g l i => (l ^^^ i) % g)] :
      List ((XR → Instr) × (Nat → Nat → Nat → Nat))),
    ∀ (o : XR) (s : State) (iss : Issue) (act : List (Nat × FibreId)), s.Reached (p.1 o) iss act →
      Gathered s iss act (s.srcG iss o.c) → (∀ y ∈ iss.lanes, s.badLane iss (srcUse o.a 1) y.2 = false) →
      ∃ from_ : Nat × FibreId → FibreId,
        Completes (p.1 o) s iss act (act.map fun x =>
          (x, res1 o.d ((s.src iss (from_ x) o.a).setWidth 64))) ∧
        ∀ x ∈ act, let l := p.2 (s.group iss.gid).grant x.1 (s.src iss x.2 o.b).toNat
          (∀ y ∈ iss.lanes, (∀ z ∈ iss.lanes, z.1 = y.1 → z = y) → y.1 = l → y.1 < min (s.group iss.gid).grant 64 →
            (s.srcG iss o.c).getLsbD y.1 = true → from_ x = y.2) ∧
          ((∀ y ∈ iss.lanes, y.1 = l → ¬(y.1 < min (s.group iss.gid).grant 64 ∧ (s.srcG iss o.c).getLsbD y.1 = true)) →
            from_ x = x.2)

/-- The VOTE forms with a v or g destination and their predicates, and MATCH (21 R425; 24 R478): over the guarded lanes,
MASK gives the lanes whose A is true, COUNT their number, QUORUM whether it reaches the threshold (all of them where that
is 0), SPLIT whether there are both; MATCH.any gives each lane the mask of the lanes with its value. -/
def Claims.VotesAndMatches : Prop :=
  let mask := fun (ls : List (Nat × FibreId)) => ls.foldl (fun (m : Dword) x => m ||| (1#64 <<< x.1)) 0
  ∀ (o : XR) (s : State) (iss : Issue) (act : List (Nat × FibreId)), act ≠ [] → act.Nodup →
    let yes := act.filter fun x => decide (s.src iss x.2 o.a ≠ 0)
    let thr := (s.srcG iss o.c).toNat % 2 ^ 32
    (∀ n, o.d = .g n → s.Reached (.voteMask o) iss act → Gathered s iss act (s.srcG iss o.b) →
      ∃ rs, Completes (.voteMask o) s iss act rs ∧
        (rs.map fun x => x.2.dests).flatten = [(.g n.toNat, mask yes)]) ∧
    (∀ n, o.d = .v n → s.Reached (.voteMask o) iss act → Gathered s iss act (s.srcG iss o.b) →
      Completes (.voteMask o) s iss act (act.map fun x =>
        (x, { dests := [(.v n.toNat, ((mask yes).setWidth 32).setWidth 64), (.v (n.toNat + 1), mask yes >>> 32)] }))) ∧
    (∀ n, o.d = .v n → s.Reached (.voteCount o) iss act → Gathered s iss act (s.srcG iss o.b) →
      Completes (.voteCount o) s iss act (act.map fun x =>
        (x, { dests := [(.v n.toNat, BitVec.ofNat 64 yes.length)] }))) ∧
    (∀ n, o.d = .g n → s.Reached (.voteCount o) iss act → Gathered s iss act (s.srcG iss o.b) →
      ∃ rs, Completes (.voteCount o) s iss act rs ∧
        (rs.map fun x => x.2.dests).flatten = [(.g n.toNat, BitVec.ofNat 64 yes.length)]) ∧
    (∀ n, o.d = .k n → s.Reached (.voteQuorum o) iss act → Gathered s iss act (s.srcG iss o.b) →
      Completes (.voteQuorum o) s iss act (act.map fun x =>
        (x, { dests := [(.k n.toNat, if (if thr = 0 then yes.length = act.length else thr ≤ yes.length) then 1 else 0)] }))) ∧
    (∀ n, o.d = .k n → s.Reached (.voteSplit o) iss act → Gathered s iss act (s.srcG iss o.b) →
      Completes (.voteSplit o) s iss act (act.map fun x =>
        (x, { dests := [(.k n.toNat, if 0 < yes.length ∧ yes.length < act.length then 1 else 0)] }))) ∧
    (∀ n, o.d = .v n → s.Reached (.matchAny o) iss act → Gathered s iss act (s.srcG iss o.b) →
      Completes (.matchAny o) s iss act (act.map fun x =>
        let m := mask (act.filter fun y => s.src iss y.2 o.a == s.src iss x.2 o.a)
        (x, { dests := [(.v n.toNat, (m.setWidth 32).setWidth 64), (.v (n.toNat + 1), m >>> 32)] }))) ∧
    ∀ n, o.d = .v n → (o.c = .none ∨ ∃ k, o.c = .k k) → s.Reached (.matchAll o) iss act →
      Gathered s iss act (s.srcG iss o.b) →
      let same := act.all fun x => act.all fun y => s.src iss x.2 o.a == s.src iss y.2 o.a
      let m := if same then mask act else 0
      Completes (.matchAll o) s iss act (act.map fun x =>
        (x, { dests := [(.v n.toNat, (m.setWidth 32).setWidth 64), (.v (n.toNat + 1), m >>> 32)] ++
          (match o.c with
            | .k k => [(.k k.toNat, if same then 1 else 0)]
            | _ => []) }))

/-- SHFL, VOTE and MATCH. -/
def Obligations.ShufflesAndVotes : Prop := Claims.Shuffles ∧ Claims.VotesAndMatches

/-- One step of a reduction over two values and the flags so far (20 R410, R411, R413): .add, .and, .or, .xor, .min and .max
of 32-bit integers, signed or with .u unsigned, or .fadd, .fmin and .fmax of binary32, whose flags are ORed in. -/
def reduceStep (mode : Float.Mode) (flt u : Bool) (op : Nat) (p q : Nat × BitVec 5) : Nat × BitVec 5 :=
  let e : Float.Env := ⟨Float.f32, mode, false⟩
  let le := if u then p.1 % 2 ^ 32 ≤ q.1 % 2 ^ 32 else (BitVec.ofNat 32 p.1).sle (BitVec.ofNat 32 q.1) = true
  let r : Nat × BitVec 5 :=
    if flt then
      if op = 0 then Float.fadd e p.1 q.1 else if op = 4 then Float.minmax e false p.1 q.1 else Float.minmax e true p.1 q.1
    else
      (if op = 0 then (p.1 + q.1) % 2 ^ 32 else if op = 1 then p.1 &&& q.1 else if op = 2 then p.1 ||| q.1
        else if op = 3 then p.1 ^^^ q.1 else if op = 4 then (if le then p.1 % 2 ^ 32 else q.1 % 2 ^ 32)
        else (if le then q.1 % 2 ^ 32 else p.1 % 2 ^ 32), 0)
  (r.1, p.2 ||| q.2 ||| r.2)

/-- Combine of 20 R411: a missing value gives way to the other. -/
def combineStep (f : Nat × BitVec 5 → Nat × BitVec 5 → Nat × BitVec 5) (p q : Option (Nat × BitVec 5)) :
    Option (Nat × BitVec 5) :=
  match p, q with
  | some a, some b => some (f a b)
  | some a, none => some a
  | none, q => q

/-- The tree of 20 R411: the value at a lane after the rounds of widths 1, 2, 4 up to below 2^n. -/
def treeValue (f : Nat × BitVec 5 → Nat × BitVec 5 → Nat × BitVec 5) (x : Nat → Option (Nat × BitVec 5)) :
    Nat → Nat → Option (Nat × BitVec 5)
  | 0, l => x l
  | n + 1, l => combineStep f (treeValue f x n l) (treeValue f x n (l + 2 ^ n))

/-- A fold from the left over the values of some lanes, or another value where there are none. -/
def foldLanes (f : Nat × BitVec 5 → Nat × BitVec 5 → Nat × BitVec 5) (none' : Nat × BitVec 5) :
    List (Nat × BitVec 5) → Nat × BitVec 5
  | [] => none'
  | a :: r => r.foldl f a

/-- GRED and GSCAN (20 R410 to R413). GRED's result is the tree of R411 over the guarded lanes at their LANEs, or with .seq
the fold from the left in rising FID; every guarded lane takes it, or the g register once, and all of them its flags.
GSCAN gives each guarded lane the fold in rising LANE of the guarded lanes at or below its own, with .excl strictly below
it, or the identity of R412 where there is none; the flags of all folds go to every lane. -/
def Claims.Reductions : Prop :=
  ∀ (o : XR) (n : BitVec 8) (s : State) (iss : Issue) (act : List (Nat × FibreId)), act ≠ [] → act.Nodup →
    (∀ x ∈ act, x.1 < 64) → (act.map (·.1)).Nodup → Gathered s iss act (s.srcG iss o.b) →
    let op := o.var.toNat % 8
    let flt := o.fa == 1
    let mode := Float.modeOf (if o.rnd.toNat = 0 then bits (s.team (s.leadTeam iss.gid)).fpctl.toNat 2 0 else o.rnd.toNat)
    let step := reduceStep mode flt o.u op
    let value := fun (x : Nat × FibreId) => ((s.src iss x.2 o.a).toNat, (0 : BitVec 5))
    let red := if o.var.getLsbD 3 then foldLanes step (0, 0) ((State.byFid act).map value)
      else (treeValue step (fun l => (act.find? fun x => decide (x.1 = l)).map value) 6 0).getD (0, 0)
    let identity : Nat :=
      if op = 1 then 0xFFFFFFFF
      else if op = 4 then (if flt then 0x7F800000 else if o.u then 0xFFFFFFFF else 0x7FFFFFFF)
      else if op = 5 then (if flt then 0xFF800000 else if o.u then 0 else 0x80000000)
      else if op = 0 ∧ flt = true then 0x80000000 else 0
    let scan := fun (x : Nat × FibreId) => foldLanes step (identity, 0)
      (((sortBy (fun y : Nat × FibreId => y.1) act).filter fun y =>
        decide (y.1 < x.1) || (!o.var.getLsbD 3 && decide (y.1 = x.1))).map value)
    op ≤ 5 →
    (o.d = .g n → s.Reached (.gred o) iss act → ∃ rs, Completes (.gred o) s iss act rs ∧
      rs.map (·.1) = act ∧ (∀ x ∈ rs, x.2.fl = red.2) ∧
      (rs.map fun x => x.2.dests).flatten = [(.g n.toNat, BitVec.ofNat 64 red.1)]) ∧
    (o.d = .v n → s.Reached (.gred o) iss act →
      Completes (.gred o) s iss act (act.map fun x =>
        (x, { dests := [(.v n.toNat, BitVec.ofNat 64 red.1)], fl := red.2 }))) ∧
    (o.d = .v n → s.Reached (.gscan o) iss act →
      Completes (.gscan o) s iss act (act.map fun x =>
        (x, { dests := [(.v n.toNat, BitVec.ofNat 64 (scan x).1)]
              fl := act.foldl (fun fl y => fl ||| (scan y).2) 0 })))

/-- REBAL and TOPK (11 R250, R251; 22 R444; 24 R475): REBAL gives the g pair the total T of the lengths and the next
base; the guarded lane of rank i in rising FID takes, where x = b + i is below T, the row j whose range P[j] ≤ x < P[j + 1]
holds it (P the sums of the lengths before a row), the offset x − P[j] and true, and else all ones, 0 and false. TOPK, on K
aligned entries inside the scratchpad that hold no ECC error, with no earlier access of the fibres there under way (07
R168), writes the new list and gives the count of its entries. -/
def Claims.RebalAndTopk : Prop :=
  (∀ (o : XR) (n g : BitVec 8) (s : State) (iss : Issue) (act : List (Nat × FibreId)), o.d = .v n → o.c = .g g →
    s.Clear (.rebal o) iss act →
    let lens := (State.byFid act).map fun x => (s.src iss x.2 o.a).toNat
    let before := fun (j : Nat) => (lens.take j).foldl (· + ·) 0
    let t := before lens.length
    let b := (s.srcG iss o.b).toNat
    ∃ rs, CompletesFrom (s.addPending iss ((State.byFid act).headD (0, ⟨0, 0⟩)).2
        [(.g g.toNat, BitVec.ofNat 64 t), (.g (g.toNat + 1), BitVec.ofNat 64 (min (b + act.length) t))] [] none)
        (.rebal o) s iss act rs ∧
      rs.map (·.1) = State.byFid act ∧
      ∀ (i : Nat) (x : (Nat × FibreId) × LaneRes), rs[i]? = some x → x.2.fl = 0 ∧ ∃ row off k,
        x.2.dests = [(.v n.toNat, row), (.v (n.toNat + 1), off), (.k o.cc.toNat, k)] ∧
        (b + i < t → ∃ j < lens.length, before j ≤ b + i ∧ b + i < before (j + 1) ∧ row = BitVec.ofNat 64 (j % 2 ^ 32) ∧
          off = BitVec.ofNat 64 ((b + i - before j) % 2 ^ 32) ∧ k = 1) ∧
        (t ≤ b + i → row = 0xFFFFFFFF ∧ off = 0 ∧ k = 0)) ∧
  ∀ (o : XR) (s : State) (iss : Issue) (act : List (Nat × FibreId)), s.Clear (.topk o) iss act →
    let tid := s.leadTeam iss.gid
    let ofs := (s.srcG iss o.c).toNat
    let k := (o.fb ++ o.fa).toNat + 1
    ofs % 8 = 0 → ofs + 8 * k ≤ (s.team tid).ownBytes → s.badSpad = [] → recordOpen s act tid = true →
    s.accessOpen (act.map (·.2)) true = true →
    let old := (upto k).map fun e => (leNat (s.spadBytes tid (ofs + 8 * e) 4), leNat (s.spadBytes tid (ofs + 8 * e + 4) 4))
    let l := topkList k (if o.var.getLsbD 0 then [] else old)
      ((State.byFid act).map fun x => ((s.src iss x.2 o.a).toNat, (s.src iss x.2 o.b).toNat))
    CompletesFrom (s.spadWrite tid ofs
        ((l ++ List.replicate (k - l.length) (0x7F800000, 0xFFFFFFFF)).map fun (e : Nat × Nat) =>
          leBytes 4 e.1 ++ leBytes 4 e.2).flatten)
      (.topk o) s iss act [(act.headD (0, ⟨0, 0⟩), res1 o.d (BitVec.ofNat 64 l.length))]

/-- GRED, GSCAN, REBAL and TOPK. -/
def Obligations.ReductionsAndRebal : Prop := Claims.Reductions ∧ Claims.RebalAndTopk

/-! Memory. -/

/-- A fibre's access waits for nothing: no fence holds it, and its counters have room (04 R93; 19 R402). -/
def Ungated (s : State) (act : List (Nat × FibreId)) : Prop :=
  ∀ x ∈ act, (s.fibre x.2).fenceAcq = none ∧ (s.fibre x.2).fenceRel = [] ∧ (s.fibre x.2).ldc < 63 ∧ (s.fibre x.2).stc < 63

/-- LD in both forms (06 R136, R137, R139; 07 R161; 20 R415, R416): with every address aligned, translated and free of errors,
no unanswered load of the same words, for an acquire no release of the fibres open before it and, for .na, .sys and acquire
forms, no open registration of the line, the load completes: each performing lane has one more pending result for its
destination registers, which LDC counts in it, or in every active fibre of a group-scope form; the subset goes on, and HBM
changes only where .sys writes the sectors back. The result of a .na or .sys load is to be read at the home. An acquire has
its value at once, from beyond L1 or with .sys from HBM, and the core keeps only the words it owns. A default or streaming
load of one lane has its value at once where L1 holds the words, and else is to fill L1. -/
def Claims.GlobalLoads : Prop :=
  ∀ (c : Instr) (o : XM), ((∃ b, c = .ld b ∧ o = bmgOf b) ∨ c = .ldX o) →
    ∀ (s s1 : State) (iss : Issue) (act : List (Nat × FibreId)) (ps : List (FibreId × Nat)),
      s.Clear c iss act → Ungated s act →
      s.globalCheck iss .read false (sizeBytes o) (consumes (sizeBytes o)) (s.badLane iss (usesOf c))
        ((State.performers o act).map fun f => (f, s.globalEA iss f o)) = (s1, .ok ps) →
      (∀ x ∈ ps, s1.loadPending x.1 x.2 (sizeBytes o) = false) →
      (o.ord ≠ 0 → s.acquireOpen (State.performers o act) = true) →
      ((2 ≤ o.pol.toNat ∨ o.ord ≠ 0) → s1.lineGate ps = false) → (∀ x ∈ s1.pending, x.1 < s1.nextId) →
      let n := sizeBytes o
      ∃ t, exec c s = .next t ∧ WentOn iss t ∧
        (∀ x ∈ ps, ∃ id p, t.pending.find id = some p ∧ p.fib = x.1 ∧ p.count = counted o act x.1 ∧
          p.dests.map (·.1) = (dataRegs o).map (·.1) ∧
          (2 ≤ o.pol.toNat → o.ord = 0 → p.load = some (.global x.2 false (o.pol == 3), n, o.sx)) ∧
          (o.pol.toNat < 2 → o.ord = 0 → p.load ≠ none → p.load = some (.global x.2 true false, n, o.sx)) ∧
          (o.ord ≠ 0 → p.load = none)) ∧
        (∀ f pa, ps = [(f, pa)] → pa / 64 = (pa + n - 1) / 64 →
          (o.pol.toNat < 2 → o.ord = 0 → s1.l1Valid iss.core pa n = true →
            Arriving t f (valuesOf o (s1.l1Bytes iss.core pa n))) ∧
          (o.pol.toNat < 2 → o.ord = 0 → s1.l1Valid iss.core pa n = false →
            ∃ id p, t.pending.find id = some p ∧ p.fib = f ∧ p.load = some (.global pa true false, n, o.sx)) ∧
          (o.pol ≠ 3 → o.ord ≠ 0 →
            Arriving t f (valuesOf o ((upto n).map fun i => s1.readByte iss.core (pa + i)))) ∧
          (o.pol = 3 → o.ord ≠ 0 → Arriving t f (valuesOf o (s1.sysRead pa n).1))) ∧
        (o.ord ≠ 0 → ∀ w x, (t.core iss.core).l1.find w = some x → x.owned = true) ∧
        (o.pol ≠ 3 → t.mem = s1.mem)

/-- The atomics on global memory (17 R358). -/
def globalAtomics : List (XM → Instr) :=
  [.atomAdd, .atomAnd, .atomOr, .atomXor, .atomMin, .atomMax, .atomUmin, .atomUmax, .atomExch, .atomCas, .atomFadd]

/-- The atomics in a scratchpad (17 R361). -/
def spadAtomics : List (XM → Instr) :=
  [.atomsAdd, .atomsAnd, .atomsOr, .atomsXor, .atomsMin, .atomsMax, .atomsUmin, .atomsUmax, .atomsExch, .atomsCas, .atomsFadd]

/-- Which fault a lane of LD, ST or ATOM gives (06 R128, R130, R148, R149, R150): over all performing lanes, in rising FID
within each cause, first ALIGN (0x07) for an address that is not a multiple of the size; then ACCESS (0x09) for one at or beyond
2^48; then what translation gives, in FID order: PAGE parks the lanes at the address, an unrecoverable fault raises ACCESS; then
ECC (0x0A) for bytes that the lane consumes. TRAPVA is that lane's address. No lane performs its access. -/
def Claims.GlobalFaults : Prop :=
  ∀ (c : Instr) (o : XM) (wr : Bool) (used : Nat),
    ((((∃ b, c = .ld b ∧ o = bmgOf b) ∨ c = .ldX o) ∧ wr = false ∧ used = sizeBytes o) ∨
      (((∃ b, c = .st b ∧ o = bmgOf b) ∨ (c = .stX o ∧ ∀ n, o.base ≠ .q n)) ∧ wr = true ∧ used = partBytes (sizeBytes o)) ∨
      (c ∈ globalAtomics.map (· o) ∧ wr = true ∧ used = sizeBytes o)) →
    ∀ (s : State) (iss : Issue) (act : List (Nat × FibreId)), s.Clear c iss act → Ungated s act →
      ((wr = false ∧ o.ord ≠ 0) ∨ o.ord.toNat % 2 = 1 → s.acquireOpen (State.performers o act) = true) →
      let iss' := { iss with wr := wr }
      let kind := if wr then WalkKind.write else .read
      let fs := State.performers o act
      let ea := fun (f : FibreId) => s.globalEA iss f o
      let lanes := fun (l : List FibreId) => l.map fun f => (f, ea f)
      let odd := fun (f : FibreId) => ea f % sizeBytes o ≠ 0
      let high := fun (f : FibreId) => 2 ^ 48 ≤ ea f
      ∀ (before after : List FibreId) (f : FibreId), fs = before ++ f :: after →
        (odd f → (∀ g ∈ before, ¬odd g) → exec c s = .next (s.raise iss' 0x07 0 (ea f))) ∧
        ((∀ g ∈ fs, ¬odd g) → high f → (∀ g ∈ before, ¬high g) → exec c s = .next (s.raise iss' 0x09 0 (ea f))) ∧
        ((∀ g ∈ fs, ¬odd g ∧ ¬high g) →
          (∀ s1 s2 ps, s.translateAll iss kind wr (lanes before) = (s1, .ok ps) →
            (s1.translate iss.core iss.ctx (ea f) kind wr = (s2, .fault true) → exec c s = .next (s2.parkPage iss (ea f) wr)) ∧
            (s1.translate iss.core iss.ctx (ea f) kind wr = (s2, .fault false) →
              exec c s = .next (s2.raise iss' 0x09 0 (ea f)))) ∧
          ∀ s1 ps, s.translateAll iss kind wr (lanes fs) = (s1, .ok ps) →
            let bad := fun (g : FibreId) => ∃ x, (g, x) ∈ ps ∧ ∀ pa, x = some pa → s1.eccBad pa used = true
            fs.Nodup → bad f → (∀ g ∈ before, ¬bad g) → exec c s = .next (s1.raise iss' 0x0A 0 (ea f)))

/-- The value of a register of a load from the number that its n bytes are, the lowest address least significant (15 R326; 20
R415): a g register takes all of it and a v register 32 bits, sign-extended with .sx; of 8 or 16 bytes the i-th v register
takes the i-th word. -/
def loadedValue (n : Nat) (sx : Bool) (x i : Nat) (r : Reg) : Dword :=
  match r with
  | .g _ | .ret => if sx then BitVec.ofInt 64 (sext (8 * n) x) else BitVec.ofNat 64 x
  | .v _ | .k _ =>
    if n < 4 then if sx then (BitVec.ofInt 32 (sext (8 * n) x)).setWidth 64 else BitVec.ofNat 64 (x % 2 ^ 32)
    else BitVec.ofNat 64 (x / 2 ^ (32 * i) % 2 ^ 32)

/-- The answer of a load of global memory (06 R135, R136, R139, R140; 20 R415): each destination, a v register or several, or a
g register, takes its part of the bytes read. Beyond L1 they are those at the home, or in a guest copy of the core's sector
where nobody owns the word; a load that fills L1 takes the core's own bytes of the words it owns and else the same; a .sys
load takes HBM's after the write-back. -/
def Claims.LoadAnswer : Prop :=
  ∀ (s : State) (id pa n : Nat) (p : Sys2Proof.Machine.Pending) (l1 sys sx : Bool),
    s.pending.find id = some p → p.load = some (.global pa l1 sys, n, sx) → 1 ≤ n → pa / 16 = (pa + n - 1) / 16 →
    let beyond := fun (a : Nat) => match s.owners.find (a / 4), s.guestOf p.core (a / 64) with
      | none, some g => g.data.getD (a % 64) 0
      | _, _ => s.homeByte a
    let filled := fun (a : Nat) => match (s.core p.core).l1.find (a / 4) with
      | some w => if w.owned then byteOf w.data (a % 4) else beyond a
      | none => beyond a
    let bytes := if sys then (s.sysRead pa n).1 else (upto n).map fun i => if l1 then filled (pa + i) else beyond (pa + i)
    ∃ q, (s.answer id).pending.find id = some q ∧ q.load = none ∧ q.fib = p.fib ∧ q.count = p.count ∧
      q.dests.length = p.dests.length ∧
      ∀ i r x, p.dests[i]? = some (r, x) → q.dests[i]? = some (r, loadedValue n sx (leNat bytes) i r)

/-- Loads from global memory, their answers, and the faults of loads, stores and atomics. -/
def Obligations.GlobalLoadsAndAnswers : Prop := Claims.GlobalLoads ∧ Claims.LoadAnswer ∧ Claims.GlobalFaults

/-- ST in both forms, without the stream form (06 R134, R137; 07 R158, R160; 23 R464): with every address aligned,
translated and free of errors and no unanswered load of the same words, a default or streaming store is performed in L1 at
once; a store with release, .na or .sys is performed once nothing that its release waits for is open, no registration of
the line is open and no other core owns a word; the data is each performing lane's, in FID order, and the subset goes on. One
that has to wait, a release for earlier accesses or any of these for a registration of the line or for another core to give up
a word, is left behind with its data, its fibres' STC counting it, and the subset goes on all the same. -/
def Obligations.GlobalStores : Prop :=
  ∀ (c : Instr) (o : XM), ((∃ b, c = .st b ∧ o = bmgOf b) ∨ (c = .stX o ∧ ∀ n, o.base ≠ .q n)) →
    ∀ (s s1 : State) (iss : Issue) (act : List (Nat × FibreId)) (ps : List (FibreId × Nat)),
      s.Clear c iss act → Ungated s act →
      s.globalCheck iss .write true (sizeBytes o) (consumes (if sizeBytes o < 4 then sizeBytes o else 0))
        (s.badLane iss (usesOf c)) ((State.performers o act).map fun f => (f, s.globalEA iss f o)) = (s1, .ok ps) →
      (∀ x ∈ ps, s1.loadPending x.1 x.2 (sizeBytes o) = false) → ps ≠ [] →
      let data := ps.map fun x => (x.1, x.2, leBytes (sizeBytes o) (s1.dataFrom iss x.1 o (State.dataNum o)))
      let fs := act.map (·.2)
      let waits := s1.releaseWaits iss.core fs
      let level := if o.pol = 3 then 3 else 2
      (o.pol.toNat < 2 → o.ord ≠ 2 →
        exec c s = .next ((storeAll s1 iss o.pol.toNat o.res.toNat data).advance iss)) ∧
      ((2 ≤ o.pol.toNat ∨ o.ord = 2) → (o.ord = 2 → s1.anyOpen waits = false) → s1.lineGate ps = false →
        ∀ s2, s1.ownGate iss ps (sizeBytes o) false = (s2, true) →
        exec c s = .next ((storeAll s2 iss level o.res.toNat data).advance iss)) ∧
      ((2 ≤ o.pol.toNat ∨ o.ord = 2) → fs.Nodup → ∀ u ws,
        (o.ord = 2 ∧ s1.anyOpen waits = true ∧ u = s1 ∧ ws = waits) ∨
          ((o.ord = 2 → s1.anyOpen waits = false) ∧ ws = [] ∧ (s1.lineGate ps = true ∧ u = s1 ∨
            s1.lineGate ps = false ∧ s1.ownGate iss ps (sizeBytes o) false = (u, false))) →
        ∃ t, exec c s = .next t ∧ WentOn iss t ∧
          t.releases.find u.nextId = some ⟨iss.core, fs, fs, ws, .store level o.res.toNat data⟩ ∧
          (∀ f ∈ fs, (t.fibre f).stc = (u.fibre f).stc + 1) ∧
          { t with teams := u.teams, releases := u.releases, nextId := u.nextId } = u)

/-- Where the bytes of a store go (06 R134, R137, R140): lane after lane, a default or streaming store is made in the core's
L1, a .na or released one at the home with its residence hint, and a .sys one through to HBM, where the bytes then stand. -/
def Claims.StoreLevels : Prop :=
  (∀ (s : State) (iss : Issue) (pol res : Nat) (f : FibreId) (pa : Nat) (bs : List Byte) (l : List (FibreId × Nat × List Byte)),
    storeAll s iss pol res [] = s ∧
      storeAll s iss pol res ((f, pa, bs) :: l) =
        storeAll (if pol = 3 then s.sysWrite pa bs else if pol = 2 then (s.l2Hint pa res).homeWrite pa bs
          else s.l1Store iss.core f pa bs (decide (pol = 1)) (decide (res = 1)) (decide (res = 2))) iss pol res l) ∧
  ∀ (s : State) (pa : Nat) (bs : List Byte), Inv s → KV.sorted s.l2 = true → s.owners = [] →
    (∀ i, (h : i < bs.length) → Memory.read (s.sysWrite pa bs).mem (pa + i) = bs[i] ∧
      (s.sysWrite pa bs).homeByte (pa + i) = bs[i]) ∧
    ∀ a, (a < pa ∨ pa + bs.length ≤ a) → (s.sysWrite pa bs).homeByte a = s.homeByte a

/-- Where a store at the home or in HBM goes (06 R132, R135, R140): a write of bytes at a physical address is what a read
at the home returns there, and every byte outside them reads at the home as before, in a machine where no core owns a
word. -/
def Claims.HomeWriteFrame : Prop :=
  ∀ (s : State) (pa : Nat) (bs : List Byte), s.owners = [] →
    (∀ i, (h : i < bs.length) → (s.homeWrite pa bs).homeByte (pa + i) = bs[i]) ∧
      (∀ a, (a < pa ∨ pa + bs.length ≤ a) → (s.homeWrite pa bs).homeByte a = s.homeByte a) ∧
      (s.homeWrite pa bs).mem = s.mem

/-- Where a default store goes (06 R133, R134): with the line held and the words of the store all valid, or all wholly
written, the core sees the stored bytes at the address and every other byte as before, and HBM is as before; the home does not
see the bytes yet. That a core which the home knows as the owner of one word of a 64-bit granule alone writes that word back
before a store of the whole granule is the model's reading (log 34); without that, L2 and the owners are as before. -/
def Claims.LocalStoreFrame : Prop :=
  ∀ (s : State) (core pa : Nat) (fib : FibreId) (bs : List Byte) (line : L1Line),
    1 ≤ bs.length → pa / 64 = (pa + bs.length - 1) / 64 → (s.core core).lines.find (pa / 64) = some line →
    (s.l1Valid core pa bs.length = true ∨
      ∀ w ∈ State.wordsOf pa bs.length, pa ≤ 4 * w ∧ 4 * w + 4 ≤ pa + bs.length) →
    let t := s.l1Store core fib pa bs false false false
    (∀ i, (h : i < bs.length) → t.seen core (pa + i) = bs[i]) ∧
      (∀ a, (a < pa ∨ pa + bs.length ≤ a) → t.seen core a = s.seen core a) ∧
      t.mem = s.mem ∧ (s.halfOwned core pa bs.length = [] → t.l2 = s.l2 ∧ t.owners = s.owners)

/-- What a store changes and what it leaves, at the home and in L1. -/
def Obligations.StoreFrames : Prop := Claims.StoreLevels ∧ Claims.HomeWriteFrame ∧ Claims.LocalStoreFrame

/-- Which fault a lane of LDS, STS or ATOMS gives (06 R128 to R130, R150): over all performing lanes, in rising FID within each
cause, first ALIGN (0x07) for an offset that is not a multiple of the size, then ACCESS (0x09) for one below 0 or whose last
byte lies at or beyond the team's allocation, then, but for STS, ECC (0x0A) for bytes that the lane consumes. TRAPVA is that
lane's offset. No lane performs its access. -/
def Claims.ScratchpadFaults : Prop :=
  ∀ (c : Instr) (o : XM) (wr reads : Bool),
    ((((∃ b, c = .lds b ∧ o = bmsOf b) ∨ c = .ldsX o) ∧ wr = false ∧ reads = true) ∨
      (((∃ b, c = .sts b ∧ o = bmsOf b) ∨ c = .stsX o) ∧ wr = true ∧ reads = false) ∨
      (c ∈ spadAtomics.map (· o) ∧ wr = true ∧ reads = true)) →
    ∀ (s : State) (iss : Issue) (act : List (Nat × FibreId)), s.Clear c iss act → Ungated s act →
      (c ∈ spadAtomics.map (· o) → o.ord.toNat % 2 = 1 → s.acquireOpen (State.performers o act) = true) →
      let iss' := if wr then { iss with wr := true } else iss
      let fs := State.performers o act
      let at' := fun (f : FibreId) => s.effective iss f o false
      let va := fun (f : FibreId) => (at' f % (2 ^ 64 : Nat)).toNat
      let odd := fun (f : FibreId) => at' f % (sizeBytes o : Int) ≠ 0
      let out := fun (f : FibreId) => at' f < 0 ∨ ((s.team (s.spadTeam iss o f)).ownBytes : Int) < at' f + sizeBytes o
      let bad := fun (f : FibreId) => s.spadBad (s.spadTeam iss o f) (at' f).toNat (sizeBytes o) = true
      ∀ (before after : List FibreId) (f : FibreId), fs = before ++ f :: after →
        (odd f → (∀ g ∈ before, ¬odd g) → exec c s = .next (s.raise iss' 0x07 0 (va f))) ∧
        ((∀ g ∈ fs, ¬odd g) → out f → (∀ g ∈ before, ¬out g) → exec c s = .next (s.raise iss' 0x09 0 (va f))) ∧
        ((∀ g ∈ fs, ¬odd g ∧ ¬out g) → reads = true → (wr = false → spadOpen s iss o fs = true) → bad f →
          (∀ g ∈ before, ¬bad g) →
          exec c s = .next (s.raise iss' 0x0A 0 (va f)))

/-- LDS and STS in both forms (06 R127, R129; 20 R417; 23 R465): with aligned offsets inside the scratchpad and no earlier
access of the fibres to it on its way, a load lists the bytes at each offset as the pending result, and a store of one lane
puts the data register's low bytes at its offset, every other scratchpad byte and all of HBM staying as they were. -/
def Claims.ScratchpadAccesses : Prop :=
  (∀ (c : Instr) (o : XM), ((∃ b, c = .lds b ∧ o = bmsOf b) ∨ c = .ldsX o) →
    ∀ (s : State) (iss : Issue) (act : List (Nat × FibreId)), s.Clear c iss act → Ungated s act →
      s.spadCheck (sizeBytes o) (sizeBytes o) (s.badLane iss (usesOf c)) (spadItems s iss o (State.performers o act)) = none →
      spadOpen s iss o (State.performers o act) = true → (∀ x ∈ s.pending, x.1 < s.nextId) →
      ∃ t, exec c s = .next t ∧ WentOn iss t ∧
        (∀ f ∈ State.performers o act, Arriving t f (valuesOf o
          (s.spadBytes (s.spadTeam iss o f) (s.effective iss f o false).toNat (sizeBytes o)))) ∧
        { t with teams := s.teams, pending := s.pending, nextId := s.nextId } = s) ∧
  ∀ (c : Instr) (o : XM), ((∃ b, c = .sts b ∧ o = bmsOf b) ∨ c = .stsX o) →
    ∀ (s : State) (iss : Issue) (act : List (Nat × FibreId)) (f : FibreId), s.Clear c iss act → Ungated s act →
      s.spadCheck (sizeBytes o) 0 (s.badLane iss (usesOf c)) (spadItems s iss o (State.performers o act)) = none →
      spadOpen s iss o (State.performers o act) = true → State.performers o act = [f] →
      let tid := s.spadTeam iss o f
      let ofs := (s.effective iss f o false).toNat
      ∃ t, exec c s = .next t ∧ WentOn iss t ∧
        (∀ i < sizeBytes o, t.spadByte tid (ofs + i) =
          BitVec.ofNat 8 (s.dataFrom iss f o (State.dataNum o) / 256 ^ i)) ∧
        (∀ n a, (n ≠ tid ∨ a < ofs ∨ ofs + sizeBytes o ≤ a) → t.spadByte n a = s.spadByte n a) ∧
        { t with teams := s.teams, badSpad := s.badSpad } = s ∧ ∀ x ∈ t.badSpad, x ∈ s.badSpad

/-- LDS and STS, and the faults of LDS, STS and ATOMS. -/
def Obligations.ScratchpadAccesses : Prop := Claims.ScratchpadAccesses ∧ Claims.ScratchpadFaults

/-- Which fault a lane of LDX or STX gives (03 R70; 06 R128 to R130, R150): over all performing lanes, in rising FID within
each cause, first ALIGN (0x07), then ACCESS (0x09) for a member beyond the gallery, one that has ended, or a last byte beyond
the target's allocation, then a member that has not started parks the lanes, then, for LDX, ECC (0x0A) for bytes that the lane
consumes. TRAPVA is that lane's offset. No lane performs its access. -/
def Claims.GalleryFaults : Prop :=
  ∀ (c : Instr) (o : XM) (wr : Bool), (c = .ldx o ∧ wr = false) ∨ (c = .stx o ∧ wr = true) →
    ∀ (s : State) (iss : Issue) (act : List (Nat × FibreId)), s.Clear c iss act → Ungated s act →
      let iss' := if wr then { iss with wr := true } else iss
      let fs := State.performers o act
      let at' := fun (f : FibreId) => s.effective iss f o false
      let va := fun (f : FibreId) => (at' f % (2 ^ 64 : Nat)).toNat
      let mem := fun (f : FibreId) => s.memberOf f (s.memberIdx iss f o)
      let home := fun (f : FibreId) => State.memberTeam f (mem f)
      let odd := fun (f : FibreId) => at' f % (sizeBytes o : Int) ≠ 0
      let out := fun (f : FibreId) => mem f = .none ∨ mem f = .ended ∨
        (mem f ≠ .unstarted ∧ (at' f < 0 ∨ ((s.team (home f)).ownBytes : Int) < at' f + sizeBytes o))
      let bad := fun (f : FibreId) => s.spadBad (home f) (at' f).toNat (sizeBytes o) = true
      ∀ (before after : List FibreId) (f : FibreId), fs = before ++ f :: after →
        (odd f → (∀ g ∈ before, ¬odd g) → exec c s = .next (s.raise iss' 0x07 0 (va f))) ∧
        ((∀ g ∈ fs, ¬odd g) → out f → (∀ g ∈ before, ¬out g) → exec c s = .next (s.raise iss' 0x09 0 (va f))) ∧
        ((∀ g ∈ fs, ¬odd g ∧ ¬out g) → mem f = .unstarted → (∀ g ∈ before, mem g ≠ .unstarted) →
          exec c s = .next (s.park iss iss.lanes (.member (s.memberIdx iss f o)) none)) ∧
        ((∀ g ∈ fs, ¬odd g ∧ ¬out g ∧ mem g ≠ .unstarted) → wr = false → galleryBefore s iss o true fs = [] → bad f →
          (∀ g ∈ before, ¬bad g) → exec c s = .next (s.raise iss' 0x0A 0 (va f)))

/-- LDX and STX (06 R129, R142; 20 R418; 23 R466): with aligned offsets inside the scratchpads of started members, LDX
lists one pending result for each performing lane; STX of one lane to another member sends one packet with the data, the
target's tag and the offset, which STC counts in the lane's fibre, or in every active fibre of a group-scope form (04 R93). No
earlier access of the fibres to these scratchpads that it has to follow is under way (07 R168). -/
def Claims.GalleryAccesses : Prop :=
  (∀ (o : XM) (s : State) (iss : Issue) (act : List (Nat × FibreId)), s.Clear (.ldx o) iss act → Ungated s act →
    let fs := State.performers o act
    s.galleryCheck iss o (sizeBytes o) (s.badLane iss (usesOf (.ldx o))) fs = none → (∀ x ∈ s.pending, x.1 < s.nextId) →
    galleryBefore s iss o true fs = [] → KV.sorted s.teams = true →
    ∃ t, exec (.ldx o) s = .next t ∧ WentOn iss t ∧
      (∀ f ∈ State.performers o act, ∃ id p, t.pending.find id = some p ∧ p.fib = f ∧
        p.dests.map (·.1) = (dataRegs o).map (·.1) ∧
        ∀ tid, s.memberOf f (s.memberIdx iss f o) = .other tid →
          p.load = some (.gallery tid (s.effective iss f o false).toNat, sizeBytes o, o.sx)) ∧
      { t with teams := s.teams, pending := s.pending, nextId := s.nextId } = s) ∧
  ∀ (o : XM) (s : State) (iss : Issue) (act : List (Nat × FibreId)) (f : FibreId) (tid : Nat),
    s.Clear (.stx o) iss act → Ungated s act → (act.map (·.2)).Nodup →
    s.galleryCheck iss o 0 (s.badLane iss (usesOf (.stx o))) (State.performers o act) = none →
    State.performers o act = [f] → s.memberOf f (s.memberIdx iss f o) = .other tid → tid ≠ f.team →
    galleryBefore s iss o false [f] = [] →
    ∃ t p, exec (.stx o) s = .next t ∧ WentOn iss t ∧ t.packets.find s.nextId = some p ∧ p.src = f ∧ p.target = tid ∧
      p.tag = (s.team tid).tag ∧ p.offset = (s.effective iss f o false).toNat ∧
      p.data = leBytes (sizeBytes o) (s.dataFrom iss f o (State.dataNum o)) ∧
      p.count = counted o act f ∧ (∀ g ∈ counted o act f, (t.fibre g).stc = (s.fibre g).stc + 1) ∧
      { t with teams := s.teams, packets := s.packets, nextId := s.nextId } = s ∧
      ∀ n a, t.spadByte n a = s.spadByte n a

/-- STX_LANDING (06 R142; 07 R169; 09 R196; 12 R275, R276): a packet with nothing of its stream before it lands, its bytes
at their offset of the target's scratchpad and no other byte changed, or with a stale tag is dropped and counted in the
sender's DROP; the STC of each fibre that counted it counts down either way. -/
def Claims.PacketLanding : Prop :=
  ∀ (s : State) (id : Nat) (p : Packet), s.packets.find id = some p → p.count.Nodup →
    s.streamBefore p.srcCore (s.team p.target).core id = [] →
    ∃ t, exec (.stxLanding id) s = .next t ∧ (∀ f ∈ p.count, (t.fibre f).stc = (s.fibre f).stc - 1) ∧
      ((s.team p.target).tag = p.tag → (s.team p.target).ended = false →
        (∀ i, (h : i < p.data.length) → t.spadByte p.target (p.offset + i) = p.data[i]) ∧
        ∀ n a, (n ≠ p.target ∨ a < p.offset ∨ p.offset + p.data.length ≤ a) → t.spadByte n a = s.spadByte n a) ∧
      (((s.team p.target).tag ≠ p.tag ∨ (s.team p.target).ended = true) →
        (t.team p.src.team).cpDrop = min ((s.team p.src.team).cpDrop + 1) 65535 ∧
        ∀ n a, t.spadByte n a = s.spadByte n a)

/-- LDX, STX, their faults, and the landing of a packet. -/
def Obligations.GalleryAccessesAndPackets : Prop := Claims.GalleryAccesses ∧ Claims.GalleryFaults ∧ Claims.PacketLanding

/-- LEA, PREF and the CACHE forms (18 R373; 20 R419; 22 R438): LEA writes the effective address, as a v pair low word
first; PREF of translatable addresses and CACHE of lines without outstanding acknowledgements or errors complete, and none
of them changes HBM. CACHE.wb and CACHE.inv give every word of the lines that the core owned back to the home, which then
returns the core's bytes; CACHE.wb keeps the core's copy, unowned, and CACHE.inv drops every word of the lines. -/
def Claims.AddressesAndCacheControl : Prop :=
  (∀ (o : XM) (n : BitVec 8) (s : State) (iss : Issue) (act : List (Nat × FibreId)), o.d = .v n →
    s.Clear (.lea o) iss act →
    Completes (.lea o) s iss act (act.map fun x =>
      (x, { dests := [(.v n.toNat, BitVec.ofNat 64 (s.globalEA iss x.2 o % 2 ^ 32)),
        (.v (n.toNat + 1), BitVec.ofNat 64 (s.globalEA iss x.2 o) >>> 32)] }))) ∧
  (∀ (o : XM) (n : BitVec 8) (ea : Nat) (s : State) (iss : Issue) (act : List (Nat × FibreId)), o.d = .g n →
    s.Clear (.lea o) iss act → (∀ x ∈ act, s.globalEA iss x.2 o = ea) →
    Completes (.lea o) s iss act [(act.headD (0, ⟨0, 0⟩), { dests := [(.g n.toNat, BitVec.ofNat 64 ea)] })]) ∧
  (∀ (o : XM) (s s1 : State) (iss : Issue) (act : List (Nat × FibreId)) (ls : List Nat), s.Clear (.pref o) iss act →
    prefCheck s iss ((State.byFid act).map fun x => s.globalEA iss x.2 o) = (s1, .ok ls) →
    ∃ t, exec (.pref o) s = .next t ∧ WentOn iss t ∧ t.mem = s1.mem) ∧
  ∀ (c : XM → Instr) (back : Bool),
    (c, back) ∈ ([(.cacheWb, true), (.cacheInv, true), (.cacheClel, false)] : List ((XM → Instr) × Bool)) →
    ∀ (o : XM) (s s1 : State) (iss : Issue) (act : List (Nat × FibreId)) (ls : List Nat), s.Clear (c o) iss act →
      cacheLines s iss (c o) o back act = (s1, .ok ls) → s1.badMem = [] → s1.registrations = [] →
      ∃ t, exec (c o) s = .next t ∧ WentOn iss t ∧ t.mem = s1.mem ∧
        (back = true → KV.sorted (s1.core iss.core).l1 = true → KV.sorted s1.owners = true →
          ∀ w x, w / 16 ∈ ls → (s1.core iss.core).l1.find w = some x → x.owned = true →
            t.owners.find w = none ∧ (∀ i < 4, t.homeByte (4 * w + i) = byteOf x.data i) ∧
            (c = .cacheWb → (t.core iss.core).l1.find w = some ⟨x.data, false⟩)) ∧
        (c = .cacheInv → KV.sorted (s1.core iss.core).l1 = true → ∀ l ∈ ls, ∀ w, w / 16 = l →
          (t.core iss.core).l1.find w = none) ∧
        (c = .cacheClel → ∀ l ∈ ls, (∀ x, (t.core iss.core).lines.find l = some x → x.el = false) ∧
          ∀ x, t.l2lines.find l = some x → x.el = false)

/-- The three fences (07 R156, R160, R161; 19 R402) complete at once; FENCE.rel and FENCE.ar keep what the guarded fibre's
release waits for as what its later stores wait for; FENCE.acq keeps its unanswered loads and its earlier releases, those of
FENCE.rel, of ST.rel and atomics and its CHSENDs, and FENCE.ar its release and its CHSENDs, as what its later accesses wait
for. -/
def Claims.Fences : Prop :=
  ∀ (o : XM) (s : State) (iss : Issue) (act : List (Nat × FibreId)), (act.map (·.2)).Nodup →
    (s.Clear (.fenceAcq o) iss act → ∃ t, exec (.fenceAcq o) s = .next t ∧
      WentOn iss t ∧ SameButFibres s t ∧
      ∀ x ∈ act, (t.fibre x.2).fenceAcq = some ((s.fibre x.2).fenceAcq.getD [] ++ (s.loadsOf x.2 ++
          ((s.fibre x.2).fenceRel ++ (s.releases.filter fun y => y.2.fibres.contains x.2).map (·.1) ++
            (s.flights.filter fun y => y.2.src == x.2).map (·.1)))) ∧
        (t.fibre x.2).fenceRel = (s.fibre x.2).fenceRel) ∧
    (s.Clear (.fenceRel o) iss act → ∃ t, exec (.fenceRel o) s = .next t ∧ WentOn iss t ∧ SameButFibres s t ∧
      ∀ x ∈ act, (t.fibre x.2).fenceRel = s.releaseSet iss.core x.2 ∧
        (t.fibre x.2).fenceAcq = (s.fibre x.2).fenceAcq) ∧
    (s.Clear (.fenceAr o) iss act → ∃ t, exec (.fenceAr o) s = .next t ∧ WentOn iss t ∧ SameButFibres s t ∧
      ∀ x ∈ act, (t.fibre x.2).fenceRel = s.releaseSet iss.core x.2 ∧
        (t.fibre x.2).fenceAcq = some ((s.fibre x.2).fenceAcq.getD [] ++ s.releaseSet iss.core x.2 ++
          (s.flights.filter fun y => y.2.src == x.2).map (·.1)))

/-- LEA, PREF, CACHE and FENCE. -/
def Obligations.CacheControlAndFences : Prop := Claims.AddressesAndCacheControl ∧ Claims.Fences

/-- The new value of each atomic operation on n bits from the old value, the operand and the compare value (17 R358; 15
R333): sum, bitwise, signed and unsigned minimum and maximum, exchange, compare and exchange. -/
def atomicFunctions : List (Nat × ((n : Nat) → BitVec n → BitVec n → BitVec n → BitVec n)) :=
  [(0, fun _ m x _ => m + x), (1, fun _ m x _ => m &&& x), (2, fun _ m x _ => m ||| x), (3, fun _ m x _ => m ^^^ x),
    (4, fun _ m x _ => if m.sle x then m else x), (5, fun _ m x _ => if m.sle x then x else m),
    (6, fun _ m x _ => if m ≤ x then m else x), (7, fun _ m x _ => if m ≤ x then x else m), (8, fun _ _ x _ => x),
    (9, fun _ m x c => if m = c then x else m)]

/-- What an access's ordering asks for is there: nothing that its release waits for is open (07 R160), and, for an acquire,
no earlier release of the fibre (07 R156). -/
def Ordered (s : State) (iss : Issue) (act : List (Nat × FibreId)) (o : XM) : Prop :=
  (2 ≤ o.ord.toNat → s.anyOpen (s.releaseWaits iss.core (act.map (·.2))) = false) ∧
    (o.ord.toNat % 2 = 1 → s.acquireOpen (State.performers o act) = true)

/-- Atomics in the scratchpad (17 R358, R361): each of the eleven, by one lane, with an aligned offset inside the
scratchpad and its ordering met, writes the operation's value of the old contents there, lists the old contents as the pending
result, and changes no other scratchpad byte and nothing of HBM. -/
def Claims.ScratchpadAtomics : Prop :=
  ∀ p ∈ ([(.atomsAdd, 0), (.atomsAnd, 1), (.atomsOr, 2), (.atomsXor, 3), (.atomsMin, 4), (.atomsMax, 5), (.atomsUmin, 6),
      (.atomsUmax, 7), (.atomsExch, 8), (.atomsCas, 9), (.atomsFadd, 10)] : List ((XM → Instr) × Nat)),
    ∀ (o : XM) (s : State) (iss : Issue) (act : List (Nat × FibreId)) (f : FibreId), s.Clear (p.1 o) iss act →
      Ungated s act → Ordered s iss act o → State.performers o act = [f] → (∀ x ∈ s.pending, x.1 < s.nextId) →
      spadOpen s iss o [f] = true →
      s.spadCheck (sizeBytes o) (sizeBytes o) (s.badLane iss (usesOf (p.1 o))) (spadItems s iss o [f]) = none →
      let tid := s.spadTeam iss o f
      let ofs := (s.effective iss f o false).toNat
      let n := sizeBytes o
      let old := leNat (s.spadBytes tid ofs n)
      let x := s.dataFrom iss f o (State.dataNum o)
      let c := s.dataFrom iss f o o.c.toNat
      ∃ t new, exec (p.1 o) s = .next t ∧ WentOn iss t ∧ t.spadBytes tid ofs n = leBytes n new ∧
        (∀ q ∈ atomicFunctions, q.1 = p.2 → BitVec.ofNat (8 * n) new =
          q.2 (8 * n) (BitVec.ofNat (8 * n) old) (BitVec.ofNat (8 * n) x) (BitVec.ofNat (8 * n) c)) ∧
        (p.2 = 10 → new = (Float.fadd ⟨Float.f32, .rne, false⟩ (old % 2 ^ 32) (x % 2 ^ (8 * n) % 2 ^ 32)).1 % 2 ^ 32) ∧
        Arriving t f (State.loadVals (dataRegs o) n false (leBytes n old)) ∧
        (∀ m a, (m ≠ tid ∨ a < ofs ∨ ofs + n ≤ a) → t.spadByte m a = s.spadByte m a) ∧ t.mem = s.mem

/-- Atomics on global memory (06 R143; 17 R358, R359): each of the eleven, by one lane, with its ordering met, at a checked
address in a machine without owned words, open registrations, releases or pending loads: the home holds the operation's
value of the old contents, the old contents are the pending result, and no other byte at the homes changes; with .sys HBM
holds the value too, and else HBM is as before. -/
def Claims.GlobalAtomics : Prop :=
  ∀ p ∈ ([(.atomAdd, 0), (.atomAnd, 1), (.atomOr, 2), (.atomXor, 3), (.atomMin, 4), (.atomMax, 5), (.atomUmin, 6),
      (.atomUmax, 7), (.atomExch, 8), (.atomCas, 9), (.atomFadd, 10)] : List ((XM → Instr) × Nat)),
    ∀ (o : XM) (s s1 : State) (iss : Issue) (act : List (Nat × FibreId)) (f : FibreId) (pa : Nat),
      s.Clear (p.1 o) iss act → Ungated s act → Ordered s iss act o → State.performers o act = [f] →
      s.globalCheck iss .write true (sizeBytes o) (consumes (sizeBytes o)) (s.badLane iss (usesOf (p.1 o)))
        [(f, s.globalEA iss f o)] = (s1, .ok [(f, pa)]) →
      (o.pol = 3 → Inv s1 ∧ KV.sorted s1.l2 = true) → s1.pending = [] → s1.registrations = [] → s1.releases = [] →
        s1.owners = [] → (∀ n, (s1.core n).l1 = []) →
      let n := sizeBytes o
      let old := leNat (s1.homeBytes pa n)
      let x := s1.dataFrom iss f o (State.dataNum o)
      let c := s1.dataFrom iss f o o.c.toNat
      ∃ t new, exec (p.1 o) s = .next t ∧ WentOn iss t ∧ t.homeBytes pa n = leBytes n new ∧
        (∀ q ∈ atomicFunctions, q.1 = p.2 → BitVec.ofNat (8 * n) new =
          q.2 (8 * n) (BitVec.ofNat (8 * n) old) (BitVec.ofNat (8 * n) x) (BitVec.ofNat (8 * n) c)) ∧
        (p.2 = 10 → new = (Float.fadd ⟨Float.f32, .rne, false⟩ (old % 2 ^ 32) (x % 2 ^ (8 * n) % 2 ^ 32)).1 % 2 ^ 32) ∧
        Arriving t f (State.loadVals (dataRegs o) n false (leBytes n old)) ∧
        (∀ a, (a < pa ∨ pa + n ≤ a) → t.homeByte a = s1.homeByte a) ∧ (o.pol ≠ 3 → t.mem = s1.mem) ∧
        (o.pol = 3 → ∀ i < n, Memory.read t.mem (pa + i) = BitVec.ofNat 8 (new / 256 ^ i))

/-- ATOMS and ATOM. -/
def Obligations.Atomics : Prop := Claims.ScratchpadAtomics ∧ Claims.GlobalAtomics

/-- SDEF, SSTOP, STREAM_PREFETCH and the store to a stream (09 R207 to R210; 23 R453, R454): SDEF of a legal definition
whose starts are aligned, with no earlier access of the fibres to the record under way (07 R168) and every element popped to
an output stream there written, defines the slot of each
guarded lane at its base and offset, to be read once the fibre's earlier stores are registered, its releases are performed
and what its FENCE.acq waits for has returned (07 R155, R167); SSTOP, once every popped element is written,
leaves it undefined; a prefetch that translates appends
the element's value, sign-extended where the stream says so, as a read of the core beyond its L1 returns it; a store to an
output stream moves the cursor on by one, and the element's bytes, the data register's low ones, stand at the home of the
address that R207 gives the element. That a definition's doublewords beyond its dimensions are not looked at is the model's
choice (log 17). -/
def Obligations.Streams : Prop :=
  (∀ (o : XE) (s : State) (iss : Issue) (act : List (Nat × FibreId)) (q : Stream), s.Clear (.sdef o) iss act →
    (act.map (·.2)).Nodup → o.n6.toNat < 4 →
    let tid := (State.lowest act).team
    let ofs := (s.srcG iss o.c).toNat
    recordOpen s act tid = true → descBad s tid ofs 64 = none → streamOf (spadDwords s tid ofs 8) = some q →
    (∀ x ∈ act, ((s.srcG iss o.a).toNat + (s.src iss x.2 o.b).toNat) % q.esz = 0 ∧ (s.fibre x.2).streams.length ≤ 4) →
    poppedOpen s (act.map (·.2)) o.n6.toNat = [] →
    ∃ t, exec (.sdef o) s = .next t ∧ WentOn iss t ∧ SameButFibres s t ∧
      ∀ x ∈ act, (t.fibre x.2).streams[o.n6.toNat]? =
        some { q with start := ((s.srcG iss o.a).toNat + (s.src iss x.2 o.b).toNat : Nat)
                      waits := (s.registrations.filter fun r => r.2.fibres.contains x.2).map (·.1) ++
                        (s.releases.filter fun r => r.2.fibres.contains x.2).map (·.1) ++
                        (s.fibre x.2).fenceAcq.getD [] }) ∧
  (∀ (o : XE) (s : State) (iss : Issue) (act : List (Nat × FibreId)), s.Clear (.sstop o) iss act →
    (act.map (·.2)).Nodup → poppedOpen s (act.map (·.2)) o.n6.toNat = [] →
    ∃ t, exec (.sstop o) s = .next t ∧ WentOn iss t ∧ SameButFibres s t ∧
      ∀ x ∈ act, ((t.fibre x.2).streams.getD o.n6.toNat {}).defined = false) ∧
  (∀ (f : FibreId) (n : Nat) (s s1 : State) (pa : Nat) (q : Stream), (s.fibre f).live = true →
    (s.ctx (s.team f.team).ctx).saved = false → (s.fibre f).streams[n]? = some q → q.defined = true → q.out = false →
    q.bad = none → s.anyOpen q.waits = false → q.ahead.length < 8 → q.cursor + q.ahead.length < State.streamLength q →
    s.translate (s.coreOf f) (s.team f.team).ctx (streamAddr q (q.cursor + q.ahead.length)) .read false = (s1, .ok pa) →
    s1.eccBad pa q.esz = false →
    let x := leNat ((upto q.esz).map fun i => s1.readByte (s.coreOf f) (pa + i))
    ∃ t, exec (.streamPrefetch f n) s = .next t ∧
      (t.fibre f).streams[n]? = some { q with
        ahead := q.ahead ++ [if q.sx then BitVec.ofInt 32 (sext (8 * q.esz) x) else BitVec.ofNat 32 x] }) ∧
  ∀ (o : XM) (n : BitVec 8) (s s1 : State) (iss : Issue) (act : List (Nat × FibreId)) (ps : List (FibreId × Nat)),
    o.base = .q n → s.Clear (.stX o) iss act → Ungated s act → (act.map (·.2)).Nodup →
    (∀ x ∈ act, ∃ q, (s.fibre x.2).streams[n.toNat]? = some q ∧ q.defined = true ∧ q.out = true ∧
      q.cursor < State.streamLength q) →
    let q := fun (f : FibreId) => (s.fibre f).streams.getD n.toNat {}
    s.globalCheck iss .write true 1 (fun s f pa => s.eccBad pa (partBytes (q f).esz)) (s.badLane iss (usesOf (.stX o)))
      (((State.byFid act).map (·.2)).map fun f => (f, streamAddr (q f) (q f).cursor)) = (s1, .ok ps) →
    s1.pending = [] → s1.registrations = [] → s1.releases = [] → s1.owners = [] → (∀ n, (s1.core n).l1 = []) →
    poppedOpen s1 (act.map (·.2)) n.toNat = [] →
    ∃ t, exec (.stX o) s = .next t ∧ WentOn iss t ∧ t.mem = s1.mem ∧
      (∀ x ∈ act, ((t.fibre x.2).streams.getD n.toNat {}).cursor = (q x.2).cursor + 1) ∧
      ∀ x pa, act = [x] → ps = [(x.2, pa)] →
        (∀ i < (q x.2).esz, t.homeByte (pa + i) = BitVec.ofNat 8 (s1.dataFrom iss x.2 o (State.dataNum o) / 256 ^ i)) ∧
        ∀ a, (a < pa ∨ pa + (q x.2).esz ≤ a) → t.homeByte a = s1.homeByte a

/-! Barriers and waits. -/

/-- The fibres' releases wait for nothing (07 R160). -/
def Performed (s : State) (core : Nat) (act : List (Nat × FibreId)) : Prop :=
  ∀ x ∈ act, (s.fibre x.2).relWait = none ∧ s.releaseSet core x.2 = []

/-- The same where the instruction acquires too: no earlier release of the fibres is open (07 R156). -/
def Released (s : State) (core : Nat) (act : List (Nat × FibreId)) : Prop :=
  Performed s core act ∧ s.acquireOpen (act.map (·.2)) = true

/-- BAR of one guarded lane (12 R273; 17 R362): while another live fibre of the team has not arrived the fibre parks at
the instruction; when every other live fibre waits at the team barrier it completes: the phase counts up and every fibre
that waited is ready at the instruction after its BAR. -/
def Claims.TeamBarrier : Prop :=
  ∀ (o : XS) (s : State) (iss : Issue) (x : Nat × FibreId), s.Clear (.bar o) iss [x] → iss.lanes = [x] →
    Released s iss.core [x] → (s.fibre x.2).status = .ready → x.2 ∈ s.liveFibres x.2.team → KV.sorted s.teams = true →
    KV.sorted (s.team x.2.team).fibres = true → (s.ctx (s.team x.2.team).ctx).stop = false →
    ((∃ f ∈ s.liveFibres x.2.team, f ≠ x.2 ∧ ∀ n, (s.fibre f).status ≠ .blocked (.bar n)) →
      ∃ t, exec (.bar o) s = .next t ∧ (t.fibre x.2).status = .blocked (.bar iss.next) ∧
        (t.fibre x.2).pc = (s.fibre x.2).pc ∧ (t.team x.2.team).barPhase = (s.team x.2.team).barPhase) ∧
    ((∀ f ∈ s.liveFibres x.2.team, f ≠ x.2 → ∃ n, (s.fibre f).status = .blocked (.bar n)) →
      ∃ t, exec (.bar o) s = .next t ∧ (t.fibre x.2).status = .ready ∧ (t.fibre x.2).pc = iss.next ∧
        (t.team x.2.team).barPhase = (s.team x.2.team).barPhase + 1 ∧
        ∀ f ∈ s.liveFibres x.2.team, f ≠ x.2 → ∀ n, (s.fibre f).status = .blocked (.bar n) →
          (t.fibre f).status = .ready ∧ (t.fibre f).pc = n)

/-- The gallery barrier (20 R406, R407): GBAR of one lane that others are still expected with parks it in the current
phase and counts it as arrived; GBAR of the last one expected completes the phase, which counts up, and it and the fibres
that wait in it go on; GBAR.enter counts it as arrived, gives it the phase number and lets it go on; GBAR.leave
with a ticket whose phase has completed goes on. -/
def Claims.GalleryBarrier : Prop :=
  ∀ (o : XS) (s : State) (iss : Issue) (x : Nat × FibreId), iss.lanes = [x] → Released s iss.core [x] →
    let g := s.homeGallery x.2
    let arrived := (s.galleryArrived g.1 g.2).length
    let more := arrived + 1 < s.galleryExpected g.1 g.2
    (s.fibre x.2).live = true → (s.launches.find g.1).isSome = true → s.hasArrived x.2 = false →
    (∀ p ∈ s.pending, p.1 < s.nextId) → KV.sorted s.teams = true →
    (s.teams.find (s.leadTeam iss.gid)).isSome = true →
    (s.Clear (.gbar o) iss [x] → arrived + 1 = s.galleryExpected g.1 g.2 → (s.ctx (s.team x.2.team).ctx).stop = false →
      ∃ t, exec (.gbar o) s = .next t ∧ (t.fibre x.2).status = .ready ∧ (t.fibre x.2).pc = iss.next ∧
        t.phaseOf x.2 = (s.phaseOf x.2 + 1) % 2 ^ 32 ∧ t.hasArrived x.2 = false ∧
        ∀ f ∈ s.galleryArrived g.1 g.2, ∀ r, (s.fibre f).status = .blocked (.gbar (s.phaseOf x.2) r) →
          (s.ctx (s.team f.team).ctx).stop = false → (t.fibre f).status = .ready ∧ (t.fibre f).pc = r) ∧
    (s.Clear (.gbar o) iss [x] → more → ∃ t, exec (.gbar o) s = .next t ∧
      (t.fibre x.2).status = .blocked (.gbar (s.phaseOf x.2) iss.next) ∧ t.hasArrived x.2 = true ∧
      t.phaseOf x.2 = s.phaseOf x.2) ∧
    (s.Clear (.gbarEnter o) iss [x] → more → ∃ t, exec (.gbarEnter o) s = .next t ∧ (t.fibre x.2).pc = iss.next ∧
      t.hasArrived x.2 = true ∧ Arriving t x.2 [(regOf o.d, BitVec.ofNat 64 (s.phaseOf x.2))]) ∧
    (s.Clear (.gbarLeave o) iss [x] →
      1 ≤ (s.phaseOf x.2 + 2 ^ 32 - (s.src iss x.2 o.a).toNat) % 2 ^ 32 →
      (s.phaseOf x.2 + 2 ^ 32 - (s.src iss x.2 o.a).toNat) % 2 ^ 32 ≤ 2 ^ 31 →
      ∃ t, exec (.gbarLeave o) s = .next t ∧ (t.fibre x.2).pc = iss.next)

/-- SETW of a lone fibre (02 R36; 23 R458): a team whose one live fibre requests 16, 32 or 64 without .exact is regrouped
at the smaller of the request and the core's width limit where the core has room for the group (01 R11); the fibre goes on in
a group of that GRANT. -/
def Claims.SetWidth : Prop :=
  ∀ (o : XS) (s : State) (iss : Issue) (x : Nat × FibreId) (d : BitVec 8), s.Clear (.setw o) iss [x] →
    iss.lanes = [x] → Released s iss.core [x] → o.d = .g d → 16 ≤ d.toNat → d.toNat < 64 →
    (o.imm.toNat = 16 ∨ o.imm.toNat = 32 ∨ o.imm.toNat = 64) → s.liveFibres x.2.team = [x.2] →
    KV.sorted s.teams = true → KV.sorted (s.team x.2.team).fibres = true → (s.team x.2.team).control = false →
    (s.team x.2.team).core = iss.core → 1 ≤ (s.core iss.core).widthLimit → (s.fibre x.2).role < 4 → (s.fibre x.2).gid ≠ 0 →
      (s.fibre x.2).gid < s.nextId →
    (s.ctx (s.team x.2.team).ctx).stop = false → KV.sorted s.groups = true →
    (s.groups.filter fun g => g.2.core == iss.core).length < 256 →
    let grant := min o.imm.toNat (s.core iss.core).widthLimit
    ∃ t, exec (.setw o) s = .next t ∧ (t.fibre x.2).status = .ready ∧ (t.fibre x.2).pc = iss.next ∧
      (t.team x.2.team).req = o.imm.toNat ∧ (t.team x.2.team).grant = grant ∧
      (t.group (t.fibre x.2).gid).grant = grant ∧ (t.group (t.fibre x.2).gid).members = [x.2] ∧
      t.gReg (t.fibre x.2).gid d.toNat = BitVec.ofNat 64 grant

/-- BAR, the three GBAR forms and SETW. -/
def Obligations.BarriersAndWidth : Prop := Claims.TeamBarrier ∧ Claims.GalleryBarrier ∧ Claims.SetWidth

/-- ABINIT, ABWAIT and WAIT (04 R93; 09 R202 to R204; 17 R351, R353; 24 R479): ABINIT writes EXP and MAGIC into the sixteen
bytes and zero elsewhere, with no earlier access of the fibres to them under way (07 R168); ABWAIT on an initialised barrier
without FL goes on where its phase has passed and parks where it has not; WAIT goes on where every guarded lane's counters
are at or below the limits, and parks with them otherwise. -/
def Obligations.ArrivalBarriersAndWait : Prop :=
  (∀ (o : XE) (s : State) (iss : Issue) (act : List (Nat × FibreId)), s.Clear (.abinit o) iss act →
    let tid := s.leadTeam iss.gid
    let ofs := (s.srcG iss o.a).toNat
    let e := (s.srcG iss o.b).toNat
    1 ≤ e → e ≤ 4095 → recordOpen s act tid = true → s.accessOpen (act.map (·.2)) true = true →
    s.barrierBad tid ofs = none →
    ∃ t, exec (.abinit o) s = .next t ∧ WentOn iss t ∧
      t.spadBytes tid ofs 16 = leBytes 8 (e * 2 ^ 44) ++ leBytes 8 (0x4142 * 2 ^ 44) ∧
      (∀ n a, (n ≠ tid ∨ a < ofs ∨ ofs + 16 ≤ a) → t.spadByte n a = s.spadByte n a) ∧
      { t with teams := s.teams, badSpad := s.badSpad } = s ∧ ∀ x ∈ t.badSpad, x ∈ s.badSpad) ∧
  (∀ (o : XS) (s : State) (iss : Issue) (act : List (Nat × FibreId)), s.Clear (.abwait o) iss act →
    (∀ x ∈ act, (s.fibre x.2).again = none) →
    let tid := s.leadTeam iss.gid
    let ofs := (s.srcG iss o.a).toNat
    let b := barrierOf (s.barrierAt tid ofs)
    let p := o.imm.toNat % 128
    recordOpen s act tid = true → s.barrierBad tid ofs = none → s.barrierEcc tid ofs = false →
    s.acquireOpen (act.map (·.2)) = true →
    b.magic = 0x4142 → b.fl = false →
    let passed := 1 ≤ (b.phn + 128 - p) % 128 ∧ (b.phn + 128 - p) % 128 ≤ 64
    (passed → ∃ t, exec (.abwait o) s = .next t ∧ WentOn iss t ∧ t.mem = s.mem) ∧
    (¬passed → ∃ t, exec (.abwait o) s = .next t ∧
      ∀ x ∈ iss.lanes, (t.fibre x.2).status = .blocked (.abwait ofs p) ∧ (t.fibre x.2).pc = (s.fibre x.2).pc)) ∧
  ∀ (o : XS) (s : State) (iss : Issue) (act : List (Nat × FibreId)) (t3 : BitVec 8), o.a = .imm t3 →
    s.Clear (.wait o) iss act →
    let ok := fun (f : Fibre) => f.ldc ≤ o.imm.toNat % 64 ∧ f.stc ≤ o.imm.toNat / 64 % 64 ∧
      f.cpc ≤ o.imm.toNat / 4096 % 64 ∧ f.tlc ≤ t3.toNat
    ((∀ x ∈ act, ok (s.fibre x.2)) → exec (.wait o) s = .next (s.advance iss)) ∧
    ((∃ x ∈ act, ¬ok (s.fibre x.2)) → (iss.lanes.map (·.2)).Nodup → ∃ t, exec (.wait o) s = .next t ∧
      ∀ x ∈ act, (t.fibre x.2).pc = (s.fibre x.2).pc ∧ (t.fibre x.2).status = .blocked (.counters (o.imm.toNat % 64)
        (o.imm.toNat / 64 % 64) (o.imm.toNat / 4096 % 64) t3.toNat (act.map (·.2))))

/-! Queues and channels. -/

/-- ENQ, ENQ.try, DEQ, DEQ.try and SPAWN (08 R176, R178; 18 R386; 19 R391; 23 R461): once the release is done, the control
block passes its checks, no registration of its line is open and, for a dequeue, no earlier access of its words, no earlier
release and nothing that a FENCE.acq waits for is open (07 R156, R159, R161), one request goes to the home slice with the
kind, the element size, the ranked fibres, the data and the destinations, and the whole subset waits for its reply. That the
control block is translated as a write is the model's reading (log 36). -/
def Claims.QueueRequests : Prop :=
  let sends := fun (c : Instr) (s : State) (iss : Issue) (r : Request) =>
    ∃ t id, exec c s = .next t ∧ t.requests.find id = some r ∧
      ∀ x ∈ iss.lanes, (t.fibre x.2).status = .blocked (.request id) ∧ (t.fibre x.2).pc = (s.fibre x.2).pc
  ∀ (o : XE) (s s1 s2 : State) (iss : Issue) (act : List (Nat × FibreId)) (pa : Nat),
    let cb := (s.srcG iss o.a).toNat
    (∀ x ∈ iss.lanes, (s.fibre x.2).again = none) →
    (∀ p ∈ ([(.enq, false), (.enqTry, true)] : List ((XE → Instr) × Bool)), s.Clear (p.1 o) iss act →
      s.releaseStep iss.core act = (s1, true) → s1.cbCheck iss cb .write true = (s2, .ok pa) →
      s2.lineGate (act.map fun x => (x.2, pa)) = false →
      sends (p.1 o) s iss { kind := 0, iss := iss, ranks := State.byLane act, cb := cb, pa := pa, esz := 4 * (o.n6.toNat + 1)
                            trying := p.2
                            data := (State.byLane act).map fun f => vBytes s2 iss f (opNum o.d) (o.n6.toNat + 1)
                            vreg := 0, greg := opNum o.b, kreg := opNum o.c }) ∧
    (∀ p ∈ ([(.deq, false), (.deqTry, true)] : List ((XE → Instr) × Bool)), s.Reached (p.1 o) iss act →
      (p.2 = true → act = [] → s.diverged iss.gid = false) → s.cbCheck iss cb .write true = (s2, .ok pa) →
      s2.blockGate (act.map (·.2)) pa = false → s2.acquireOpen (act.map (·.2)) = true →
      sends (p.1 o) s iss { kind := 1, iss := iss, ranks := State.byLane act, cb := cb, pa := pa, esz := 4 * (o.n6.toNat + 1)
                            trying := p.2, data := [], vreg := opNum o.d, greg := opNum o.b, kreg := opNum o.c }) ∧
    (s.Clear (.spawn o) iss act →
      let tid := s.leadTeam iss.gid
      let ofs := (s.srcG iss o.b).toNat
      ofs % 16 = 0 → cb % 64 = 0 → ofs + 128 ≤ (s.team tid).ownBytes → s.depthOf (s.team tid).launch < 8 →
      s.cbCheck iss cb .write true = (s1, .ok pa) → s1.releaseStep iss.core act = (s2, true) →
      (∀ i < 128, (tid, ofs + i) ∉ s2.badSpad) →
      s2.lineGate (act.map fun x => (x.2, pa)) = false →
      sends (.spawn o) s iss { kind := 2, iss := iss, ranks := (State.byLane act).take 1, cb := cb, pa := pa, esz := 128
                               trying := false, data := [spawnRecord s2 tid ofs], recOfs := ofs, vreg := 0
                               greg := opNum o.d, kreg := 0 })

/-- QINIT and QSTAT (08 R170, R183; 22 R441 to R443): QINIT over bytes that are no control block in use writes an empty
block with its element size, capacity, base and CHECK and gives CHECK; QSTAT gives the eight doublewords at the home. -/
def Claims.QueueControl : Prop :=
  (∀ (o : XE) (s s1 s2 : State) (iss : Issue) (act : List (Nat × FibreId)) (pa : Nat), s.Clear (.qinit o) iss act →
    qinitBad s iss o = false → s.cbCheck iss (s.srcG iss o.a).toNat .write true = (s1, .ok pa) →
    s1.releaseStep iss.core act = (s2, true) → s2.lineGate (act.map fun x => (x.2, pa)) = false →
      (s2.qOwn iss.core pa).owners = [] →
    s2.qBusy pa = false → s2.eccBad pa 64 = false → s2.qhold = [] → (s2.group iss.gid).g.length = 48 →
    (s2.team (s2.leadTeam iss.gid)).g.length = 16 → opNum o.d < 64 → qOk ((s2.qOwn iss.core pa).qRead pa).1 = false →
    let base := (s2.srcG iss o.b).toNat
    let lcap := (s2.srcG iss o.c).toNat % 256
    ∃ t, exec (.qinit o) s = .next t ∧ WentOn iss t ∧
      t.gReg iss.gid (opNum o.d) = BitVec.ofNat 64 (qCheckWord (qNew base (o.n6.toNat + 1) lcap)) ∧
      (t.qRead pa).1 = qNew base (o.n6.toNat + 1) lcap ∧ qOk (t.qRead pa).1 = true ∧
      qHeadIdx (t.qRead pa).1 = 0 ∧ qRtail (t.qRead pa).1 = 0 ∧ qPtail (t.qRead pa).1 = 0 ∧
      qFree (t.qRead pa).1 = 2 ^ lcap ∧
      (∀ a, (a < pa ∨ pa + 64 ≤ a) → t.homeByte a = s2.homeByte a) ∧ t.mem = s2.mem) ∧
  ∀ (o : XE) (n : BitVec 8) (s s1 : State) (iss : Issue) (act : List (Nat × FibreId)) (pa : Nat), o.d = .g n →
    n.toNat + 7 < 64 → (s1.group iss.gid).g.length = 48 → (s1.team (s1.leadTeam iss.gid)).g.length = 16 →
    s.Clear (.qstat o) iss act → s.cbCheck iss (s.srcG iss o.a).toNat .read false = (s1, .ok pa) →
    s1.eccBad pa 64 = false → s1.blockGate (act.map (·.2)) pa = false → s1.qHeld pa = false →
    (∀ w c x, s1.owners.find w = some c → (s1.core c).l1.find w = some x → x.owned = true) →
    ∃ t, exec (.qstat o) s = .next t ∧ WentOn iss t ∧ (∀ i < 8, t.gReg iss.gid (n.toNat + i) = s1.home64 (pa + 8 * i)) ∧
      { t with teams := s1.teams, groups := s1.groups, cores := s1.cores, badElse := s1.badElse } = s1 ∧
      (∀ x ∈ t.badElse, x ∈ s1.badElse) ∧
      ∀ c, { t.core c with l1 := (s1.core c).l1 } = s1.core c

/-- ENQ, DEQ, QINIT and QSTAT. -/
def Obligations.QueueInstructions : Prop := Claims.QueueRequests ∧ Claims.QueueControl

/-- A request that its home slice can take up: it is on its way, no QINIT and no acknowledgement holds its block, and the
block, once the issuing core's own words of it are written back (06 R492), is free of errors, sound, of the request's
element size and owned by nobody (08 R171 to R173). -/
structure AtHome (s s0 : State) (id : Nat) (r : Request) (b : QBlock) : Prop where
  listed : s.requests.find id = some r
  fresh : r.state = 0
  held : s.qHeld r.pa = false
  busy : s.qBusy r.pa = false
  own : s0 = s.qOwn r.iss.core r.pa
  owners : s0.owners = []
  ecc : s0.eccBad r.pa 64 = false
  block : (s0.qRead r.pa).1 = b
  sound : qOk b = true
  size : r.esz = qEszw b * 4

/-- A block whose counts have moved: RTAIL and HEAD as told, PTAIL and the fields of DW0 below the flags as before, MD
set where the request comes from another die (08 R170, R173, R175). -/
def Moved (t : State) (r : Request) (b : QBlock) (rtail head : Nat) : Prop :=
  let n := (t.qRead r.pa).1
  qRtail n = rtail ∧ qHeadIdx n = head ∧ qPtail n = qPtail b ∧ qEszw n = qEszw b ∧ qLcap n = qLcap b ∧
    (homeDie r.pa ≠ State.requestDie r → bit (n.getD 0 0) 34 = true)

/-- Requests at the home slice (08 R173, R175, R178; 23 R461): an enqueue, or a child's launch, that fits with no enqueue
waiter there reserves its slots in rank order, RTAIL moving by the count, and a trying one as many as fit; a dequeue that
finds its elements with no dequeue waiter there takes them, HEAD moving by the count, and a trying one as many as there are;
without room or elements a request that does not try parks as the last waiter, and a trying one, or a dequeue of no lane,
has its reply. -/
def Claims.RequestsAtHome : Prop :=
  (∀ (s s0 s1 : State) (id n : Nat) (r : Request) (b : QBlock) (ps : List (Nat × Nat)), AtHome s s0 id r b → r.kind ≠ 1 →
    (r.trying = false → n = r.data.length ∧ n ≤ qFree b ∧ qWpe b = false) →
    (r.trying = true → n = if qWpe b then 0 else min r.data.length (qFree b)) → 0 < n → qRtail b + n < 2 ^ 64 →
    s0.qSlots r.iss.ctx b (qRtail b) n true = (s1, .ok ps) → s1.owners = [] →
    ∃ t, exec (.enqAtHome id) s = .next t ∧ Moved t r b (qRtail b + n) (qHeadIdx b) ∧
      ∃ res, t.reservations.find s1.nextId = some res ∧ res.first = qRtail b ∧ res.count = n ∧
        res.writes = State.cutAlong ps (r.data.take n).flatten ∧ res.request = some id ∧ res.done = false) ∧
  (∀ (s s0 s1 : State) (id n : Nat) (r : Request) (b : QBlock) (ps : List (Nat × Nat)), AtHome s s0 id r b → r.kind = 1 →
    (r.trying = false → n = r.ranks.length ∧ n ≤ qPtail b - qHeadIdx b ∧ qWpd b = false) →
    (r.trying = true → n = if qWpd b then 0 else min r.ranks.length (qPtail b - qHeadIdx b)) → 0 < n →
    s0.qSlots r.iss.ctx b (qHeadIdx b) n false = (s1, .ok ps) → s1.owners = [] → slotsGated s1 r ps = false →
    s1.queues.find r.pa = none →
    ∃ t, exec (.deqAtHome id) s = .next t ∧ Moved t r b (qRtail b) (qHeadIdx b + n) ∧
      qFree (t.qRead r.pa).1 = qFree b + n ∧ (KV.sorted s.requests = true → ∃ x, t.requests.find id = some x ∧
        x.state = 3 ∧ x.moved = n ∧ x.got = s1.qElements ps r.esz)) ∧
  (∀ (s s0 s1 : State) (id : Nat) (r : Request) (b : QBlock) (ps : List (Nat × Nat)), AtHome s s0 id r b → r.kind ≠ 1 →
    r.trying = false → r.data.length ≤ qCap b → (qWpe b = true ∨ qFree b < r.data.length) →
    s0.qSlots r.iss.ctx b (qRtail b) r.data.length true = (s1, .ok ps) →
    ∃ t w, exec (.enqAtHome id) s = .next t ∧ t.queues.find r.pa = some w ∧
      w.enq = (s1.queues.getD r.pa {}).enq ++ [id] ∧ w.deq = (s1.queues.getD r.pa {}).deq) ∧
  (∀ (s s0 s1 : State) (id : Nat) (r : Request) (b : QBlock) (ps : List (Nat × Nat)), AtHome s s0 id r b → r.kind = 1 →
    r.trying = false → r.ranks ≠ [] → r.ranks.length ≤ qCap b →
    (qWpd b = true ∨ qPtail b - qHeadIdx b < r.ranks.length) →
    s0.qReach r.iss.ctx b (qHeadIdx b) r.ranks.length = (s1, .ok ps) → ranksOpen s1 r = false →
    ∃ t w, exec (.deqAtHome id) s = .next t ∧ t.queues.find r.pa = some w ∧
      w.deq = (s1.queues.getD r.pa {}).deq ++ [id] ∧ w.enq = (s1.queues.getD r.pa {}).enq) ∧
  (∀ (s s0 s1 : State) (id : Nat) (r : Request) (b : QBlock) (ps : List (Nat × Nat)), AtHome s s0 id r b →
    KV.sorted s.requests = true →
    (r.kind ≠ 1 → r.trying = true → (qWpe b = true ∨ qFree b = 0) → s0.qSlots r.iss.ctx b (qRtail b) 0 true = (s1, .ok ps) →
      ∃ t x, exec (.enqAtHome id) s = .next t ∧ t.requests.find id = some x ∧ x.state = 3 ∧ x.moved = 0) ∧
    (r.kind = 1 → (r.trying = true ∧ (qWpd b = true ∨ qPtail b = qHeadIdx b) ∨ r.ranks = []) →
      s0.qSlots r.iss.ctx b (qHeadIdx b) 0 false = (s1, .ok ps) →
      slotsGated s1 r ps = false →
      ∃ t x, exec (.deqAtHome id) s = .next t ∧ t.requests.find id = some x ∧ x.state = 3 ∧ x.moved = 0))

/-- Publication and eviction (08 R174, R181): the elements of a reservation that stands at PTAIL are written, PTAIL passes
them, and its request has its reply; a waiter asked to leave for a stop is off its list, and its fibres wait stopped with
the control block's address kept. -/
def Claims.PublicationAndEviction : Prop :=
  (∀ (s : State) (id a : Nat) (r : Reservation) (bs : List Byte), s.reservations = [(id, r)] → r.done = false →
    s.qBusy r.pa = false → s.owners = [] → s.registrations = [] → (∀ n, (s.core n).l1 = []) → s.queues = [] →
    r.writes = [(a, bs)] → (a + bs.length ≤ r.pa ∨ r.pa + 64 ≤ a) → r.first = qPtail (s.qRead r.pa).1 →
    r.first + r.count < 2 ^ 64 →
    ∃ t, exec (.elementPublication id) s = .next t ∧ qPtail (t.qRead r.pa).1 = r.first + r.count ∧
      (∀ i, (h : i < bs.length) → t.homeByte (a + i) = bs[i]) ∧ t.reservations = [] ∧
      ∀ q x, r.request = some q → s.requests.find q = some x → t.requests.find q = some { x with state := 3 }) ∧
  ∀ (s : State) (id : Nat) (r : Request), s.requests.find id = some r → (s.ctx r.iss.ctx).stop = true → r.state = 1 →
    s.qBusy r.pa = false → KV.sorted s.requests = true → KV.sorted s.queues = true →
    (∀ i, i ∈ (s.queues.getD r.pa {}).enq ++ (s.queues.getD r.pa {}).deq → i = id) →
    ∃ t, exec (.waiterEviction id) s = .next t ∧ t.requests.find id = none ∧
      ∀ x ∈ r.iss.lanes, (t.fibre x.2).status = .blocked .stopped ∧
        (t.fibre x.2).again = some [BitVec.ofNat 64 r.cb, BitVec.ofNat 64 r.recOfs]

/-- The reply completes ENQ, DEQ, their trying forms and SPAWN (08 R176, R178; 18 R386; 19 R391; 23 R461): the subset is
ready at the instruction after; a dequeue's elements are in its ranked fibres' registers; a trying form's count is in its g
register and its predicate true in the ranks that moved an element; SPAWN's index is in its g register. -/
def Claims.QueueReplies : Prop :=
  ∀ (s : State) (id : Nat) (r : Request), s.requests.find id = some r → r.state = 3 → KV.sorted s.requests = true →
    (∀ x ∈ r.iss.lanes, (s.ctx (s.team x.2.team).ctx).stop = false) →
    ∃ t, exec (.queueReply id) s = .next t ∧ t.requests.find id = none ∧ WentOn r.iss t ∧
      (∀ x ∈ r.iss.lanes, (t.fibre x.2).status = .ready) ∧
      (∀ f bs, r.kind = 1 → r.ranks = [f] → r.got = [bs] →
        ∀ i < bs.length / 4, r.vreg + i < (s.fibre f).window → ∀ c,
          (t.fibre f).vAt c (r.vreg + i) = wordOf ((bs.drop (4 * i)).take 4)) ∧
      (∀ f, r.trying = true → r.ranks = [f] → 1 ≤ r.kreg → r.kreg < 8 → (∃ x, (s.team f.team).fibres.find f.fid = some x) →
        ∀ c, (t.fibre f).kAt c r.kreg = decide (0 < r.moved)) ∧
      ((r.trying = true ∨ r.kind = 2) → r.greg < 64 → (s.group r.iss.gid).g.length = 48 →
        (s.team (s.leadTeam r.iss.gid)).g.length = 16 → t.gReg r.iss.gid r.greg = BitVec.ofNat 64 r.moved)

/-- The home slice's steps, and the replies that complete the queue instructions. -/
def Obligations.HomeSlice : Prop :=
  Claims.RequestsAtHome ∧ Claims.PublicationAndEviction ∧ Claims.QueueReplies

/-- CHSEND, CHRECV, CHANNEL_LANDING and CHANNEL_CREDIT_RETURN (08 R184 to R187; 18 R378, R379): a send with credits and
nobody before it puts each rank's slot in flight, in rank order, each with what its release waits for (07 R160), and takes
the credits, and without them it parks in the channel's queue; a receive of enough landed slots lists each rank's words as
pending, sends the credits back and goes on, and without them it parks; a landing writes the slot's bytes and counts it;
returned credits are added. -/
def Obligations.Channels : Prop :=
  (∀ (o : XE) (s : State) (iss : Issue) (act : List (Nat × FibreId)), s.Clear (.chsend o) iss act →
    (act.map (·.2)).Nodup → (∃ x ∈ iss.lanes, (s.fibre x.2).live = true) →
    let cid := opNum o.b
    let rs := State.byLane act
    let l := (s.team (rs.headD ⟨0, 0⟩).team).launch
    let c := s.channel l cid
    chanBad s act cid (4 * (o.n6.toNat + 1)) true = false → countFull s act (·.stc) = false → c.sendq = [] →
    c.next < c.slots →
    (rs.length ≤ c.credits → s.started l c.cons = true →
      ∃ t, exec (.chsend o) s = .next t ∧ WentOn iss t ∧
        (∀ i, (h : i < rs.length) → t.flights.find (s.nextId + i) =
          some ⟨l, cid, (c.next + i) % c.slots, vBytes s iss rs[i] (opNum o.a) (o.n6.toNat + 1), rs[i],
            s.releaseWaits iss.core rs⟩) ∧
        (t.channel l cid).credits = c.credits - rs.length ∧ (t.channel l cid).next = (c.next + rs.length) % c.slots ∧
        (t.channel l cid).sendq = [] ∧ ∀ x ∈ act, (t.fibre x.2).stc = (s.fibre x.2).stc + 1) ∧
    (c.credits < rs.length → ∃ t, exec (.chsend o) s = .next t ∧
      (t.channel l cid).sendq = [⟨rs, iss.lanes.map (·.2)⟩] ∧
      ∀ x ∈ iss.lanes, (t.fibre x.2).status = .blocked (.credits cid rs.length) ∧ (t.fibre x.2).pc = (s.fibre x.2).pc)) ∧
  (∀ (o : XE) (s : State) (iss : Issue) (act : List (Nat × FibreId)), s.Clear (.chrecv o) iss act →
    (∃ x ∈ iss.lanes, (s.fibre x.2).live = true) → (∀ p ∈ s.pending, p.1 < s.nextId) →
    let cid := opNum o.b
    let rs := State.byLane act
    let home := (rs.headD ⟨0, 0⟩).team
    let l := (s.team home).launch
    let c := s.channel l cid
    let slot := fun (i : Nat) => s.channelBase l cid + (c.rnext + i) % c.slots * c.size
    chanBad s act cid (4 * (o.n6.toNat + 1)) false = false → c.recvq = [] →
    (rs.length ≤ c.landed → s.acquireOpen rs = true → (∀ i < rs.length, s.spadBad home (slot i) c.size = false) →
      ∃ t, exec (.chrecv o) s = .next t ∧ WentOn iss t ∧
        (∀ i, (h : i < rs.length) → ∃ id p, t.pending.find id = some p ∧ p.fib = rs[i] ∧
          p.dests = ((upto (c.size / 4)).map fun k =>
            (Reg.v (opNum o.d + k), (wordOf (s.spadBytes home (slot i + 4 * k) 4)).setWidth 64))) ∧
        (∃ id, t.creditFlights.find id = some (l, cid, rs.length)) ∧
        (t.channel l cid).landed = c.landed - rs.length ∧ (t.channel l cid).rnext = (c.rnext + rs.length) % c.slots) ∧
    (c.landed < rs.length → s.completed l c.prod = false → ∃ t, exec (.chrecv o) s = .next t ∧
      (t.channel l cid).recvq = [⟨rs, iss.lanes.map (·.2)⟩] ∧
      ∀ x ∈ iss.lanes, (t.fibre x.2).status = .blocked (.slots cid rs.length) ∧ (t.fibre x.2).pc = (s.fibre x.2).pc)) ∧
  (∀ (s : State) (id : Nat) (fl : Flight) (tid : Nat), s.flights.find id = some fl →
    (∀ x ∈ s.flights, x.1 < id → ¬(x.2.launch = fl.launch ∧ x.2.cid = fl.cid)) →
    s.teamOf fl.launch (s.channel fl.launch fl.cid).cons = some tid → (s.team tid).ended = false → KV.sorted s.teams = true →
    (s.teams.find fl.src.team).isSome = true → ((s.launch fl.launch).channels.find fl.cid).isSome = true →
      (s.launches.find fl.launch).isSome = true →
    let c := s.channel fl.launch fl.cid
    let ofs := s.channelBase fl.launch fl.cid + fl.slot * c.size
    ∃ t, exec (.channelLanding id) s = .next t ∧ (t.channel fl.launch fl.cid).landed = c.landed + 1 ∧
      (∀ i, (h : i < fl.data.length) → t.spadByte tid (ofs + i) = fl.data[i]) ∧
      (∀ n a, (n ≠ tid ∨ a < ofs ∨ ofs + fl.data.length ≤ a) → t.spadByte n a = s.spadByte n a) ∧ t.mem = s.mem) ∧
  ∀ (s : State) (id l cid n : Nat), s.creditFlights.find id = some (l, cid, n) → (s.launches.find l).isSome = true →
    ((s.launch l).channels.find cid).isSome = true →
    ∃ t, exec (.channelCreditReturn id) s = .next t ∧ (t.channel l cid).credits = (s.channel l cid).credits + n

/-! The copy engine. -/

/-- The five posts (07 R160, R164, R165; 09 R190 to R193, R197; 18 R382, R383; 20 R403; 21 R426; 23 R450; 24 R471): with no stop
pending, the descriptor or row shape legal and no earlier access of it under way (07 R168), the addresses passing their checks,
no engine error, room in the counters and in the engine and, for TCOPY, the tile it waited for not become Empty, the command
is accepted under the team's next number, which a g destination takes: it is listed with its source, destination, shape,
rows, barrier, bytes, targets and what its release waits for, the number moves on, each guarded fibre counts it and its open
batch ends with it, TCOPY's tile is Filling, and the subset goes on. -/
def Obligations.CopyPosts : Prop :=
  ∀ (s : State) (iss : Issue) (act : List (Nat × FibreId)),
    let tid := s.leadTeam iss.gid
    let own := (s.team tid).ownBytes
    let me := (s.team tid).member
    let num := (s.team tid).copyNext
    let post : Nat → Nat → Nat → Cmd := fun kind pol res =>
      { kind := kind, tid := tid, ctx := iss.ctx, core := (s.team tid).core, num := num
        issuers := (State.byFid act).map (·.2), mode := 0, pol := pol, res := res, srcG := false, dst := 0, tile := 0
        sbase := 0, dbase := 0, shape := [], entries := [], bar := none, actual := 0
        waits := s.releaseWaits iss.core (act.map (·.2)) }
    let accepted := fun (c : Instr) (d : Opnd) (want : Cmd) (members : List Nat) (also : State → Prop) =>
      ∃ t id cmd, exec c s = .next t ∧ WentOn iss t ∧ t.cmds.find id = some cmd ∧ { cmd with targets := [] } = want ∧
        cmd.targets.map (fun x => x.2.member) = members ∧ (t.team tid).copyNext = num + 1 ∧ also t ∧
        (∀ n, d = .g n → n.toNat < 64 → (s.group iss.gid).g.length = 48 → (s.team tid).g.length = 16 →
          t.gReg iss.gid n.toNat = BitVec.ofNat 64 num) ∧
        ∀ x ∈ act, (t.fibre x.2).openBatch = (s.fibre x.2).openBatch.put tid num ∧
          (want.kind ≠ 4 → (t.fibre x.2).cpc = (s.fibre x.2).cpc + 1) ∧
          (want.kind = 4 → (t.fibre x.2).tlc = (s.fibre x.2).tlc + 1)
    let bar := fun (abe : Bool) (b : Nat) => abe = true → b % 16 = 0 ∧ b + 16 ≤ own
    let none' : State → Prop := fun _ => True
    (act.map (·.2)).Nodup → (s.ctx iss.ctx).stop = false → (s.team tid).cpErr = false →
    (∀ x ∈ act, (s.fibre x.2).cpc < 63 ∧ (s.fibre x.2).tlc < 63) →
    (s.cmds.filter fun x => x.2.core == (s.team tid).core && !(s.ctx x.2.ctx).saved).length < 256 →
    (∀ (o : XE) (t : Tensor), s.Clear (.copy o) iss act → (o.d = .none ∨ ∃ n, o.d = .g n) →
      let src := (s.srcG iss o.a).toNat
      let dst := (s.srcG iss o.b).toNat
      let ofs := (s.srcG iss o.c).toNat % 2 ^ 32
      let ab := (s.srcG iss o.c).toNat / 2 ^ 32
      let fromOwn := o.dirm.getLsbD 1
      let toOwn := o.dirm.getLsbD 0
      bar o.abe ab → recordOpen s act tid = true →
      descBad s tid ofs 128 = none → tensorOf (spadDwords s tid ofs 16) = some t →
      src % t.esz = 0 → dst % t.esz = 0 → (fromOwn = true → spanBad (t.span true src) own = none) →
      (toOwn = true → spanBad (t.span false dst) own = none) →
      accepted (.copy o) o.d { post 0 o.pol.toNat o.res.toNat with
        srcG := !fromOwn, dst := if toOwn then 0 else 1, sbase := src, dbase := dst, shape := spadDwords s tid ofs 16
        bar := if o.abe then some ab else none, actual := t.actual } (if toOwn then [me] else []) none') ∧
    (∀ (o : XE) (t : Tensor), s.Clear (.mcast o) iss act → (o.d = .none ∨ ∃ n, o.d = .g n) →
      let src := (s.srcG iss o.a).toNat
      let dst := (s.srcG iss o.b).toNat
      let ofs := (s.srcG iss o.c).toNat % 2 ^ 32
      let ab := (s.srcG iss o.c).toNat / 2 ^ 32
      bar o.abe ab → recordOpen s act tid = true →
      descBad s tid ofs 128 = none → tensorOf (spadDwords s tid ofs 16) = some t →
      src % t.esz = 0 → dst % t.esz = 0 →
      (o.dirm.getLsbD 1 = true → spanBad (t.span true src) own = none) → spanBad (t.span false dst) own = none →
      (∀ i < 4, o.mask.getLsbD i = true → i < recGsize (s.launch (s.team tid).launch).words) →
      accepted (.mcast o) o.d { post 3 o.pol.toNat o.res.toNat with
        srcG := !o.dirm.getLsbD 1, sbase := src, dbase := dst, shape := spadDwords s tid ofs 16
        bar := if o.abe then some ab else none, actual := t.actual }
        ((upto 4).filter fun i => o.mask.getLsbD i) none') ∧
    (∀ p ∈ ([(.gather, 1), (.scatter, 2)] : List ((XE → Instr) × Nat)), ∀ (o : XE) (rb nrow srs drs : Nat),
      s.Clear (p.1 o) iss act → (o.d = .none ∨ ∃ n, o.d = .g n) → bar o.abe (s.srcG iss o.c).toNat →
      rowShape (s.gReg iss.gid o.n6.toNat) (s.gReg iss.gid (o.n6.toNat + 1)) = some (rb, nrow, srs, drs) →
      let src := (s.gReg iss.gid (opNum o.a)).toNat
      let dst := (s.gReg iss.gid (opNum o.a + 1)).toNat
      let i := fun (x : Nat × FibreId) => ((s.fibre x.2).vAt (s.clockOf iss.core) (opNum o.b)).toNat
      let j := fun (x : Nat × FibreId) => ((s.fibre x.2).vAt (s.clockOf iss.core) (opNum o.b + 1)).toNat
      let fromOwn := o.dirm.getLsbD 1
      let toOwn := o.dirm.getLsbD 0
      src % 4 = 0 → dst % 4 = 0 →
      (∀ x ∈ act, i x < nrow → (fromOwn = true → src + (if p.2 = 1 then i x else j x) * srs + rb ≤ own) ∧
          (toOwn = true → dst + (if p.2 = 1 then j x else i x) * drs + rb ≤ own)) →
      accepted (p.1 o) o.d { post p.2 o.pol.toNat o.res.toNat with
        mode := o.mode.toNat, srcG := !fromOwn, dst := if toOwn then 0 else 1, sbase := src, dbase := dst
        shape := [rb, srs, drs]
        entries := (State.byFid act).map fun x =>
          if i x < nrow then some (if p.2 = 1 then (i x, j x) else (j x, i x)) else none
        bar := if o.abe then some (s.srcG iss o.c).toNat else none
        actual := rb * (act.filter fun x => decide (i x < nrow)).length } (if toOwn then [me] else []) none') ∧
    ∀ (o : XT) (t : Tensor), s.Clear (.tcopy o) iss act → (o.d = .none ∨ ∃ n, o.d = .g n) →
      let src := (s.srcG iss o.a).toNat
      let ofs := (s.srcG iss o.c).toNat % 2 ^ 32
      let n := o.tn.toNat
      let ti := s.tile tid n
      tileDue s act = false → recordOpen s act tid = true → descBad s tid ofs 128 = none →
      tensorOf (spadDwords s tid ofs 16) = some t → src % t.esz = 0 →
      (o.srcs = true → spanBad (t.span true src) own = none) → ti.state = 2 → ti.readers = 0 →
      tileBad t ti.desc (upto t.total) = false →
      accepted (.tcopy o) o.d { post 4 o.pol.toNat o.res.toNat with
        srcG := !o.srcs, dst := 2, tile := n, sbase := src, shape := spadDwords s tid ofs 16, actual := t.actual } []
        fun u => n < (s.team tid).tiles.length → u.tile tid n = { ti with state := 1 }

/-- Batches and timelines (07 R164; 09 R201; 18 R384, R385; 24 R473, R474): a sealed batch is unfinished while the timeline
of a running team that it names reads less than its last number there; CSEAL seals each fibre's open batch where fewer than
sixteen sealed ones of the fibre are unfinished, and parks otherwise; CWAIT without an engine error goes on where at most N
are unfinished, no earlier release of the fibres being open (R156), and parks otherwise; TLREAD gives the timeline; TLWAIT
goes on where it has reached the number, and parks where it has not. -/
def Obligations.BatchesAndTimelines : Prop :=
  let left := fun (s : State) (f : FibreId) => (s.fibre f).sealed.filter fun b => b.any fun x =>
    (s.teams.find x.1).isSome && !(s.team x.1).ended && decide ((s.team x.1).copyDone < x.2)
  (∀ (o : XE) (s : State) (iss : Issue) (act : List (Nat × FibreId)), s.Clear (.cseal o) iss act →
    (act.map (·.2)).Nodup → (∀ x ∈ act, (s.teams.find x.2.team).isSome = true) →
    ((∀ x ∈ act, (s.fibre x.2).openBatch ≠ [] → (left s x.2).length < 16) →
      ∃ t, exec (.cseal o) s = .next t ∧ WentOn iss t ∧ SameButFibres s t ∧
        ∀ x ∈ act, (t.fibre x.2).openBatch = [] ∧ (t.fibre x.2).sealed =
          if (s.fibre x.2).openBatch = [] then (s.fibre x.2).sealed else left s x.2 ++ [(s.fibre x.2).openBatch]) ∧
    ((∃ x ∈ act, (s.fibre x.2).openBatch ≠ [] ∧ 16 ≤ (left s x.2).length) → ∃ t, exec (.cseal o) s = .next t ∧
      ∀ x ∈ iss.lanes, (∃ fs, (t.fibre x.2).status = .blocked (.seal fs)) ∧ (t.fibre x.2).pc = (s.fibre x.2).pc)) ∧
  (∀ (o : XS) (s : State) (iss : Issue) (act : List (Nat × FibreId)), s.Clear (.cwait o) iss act →
    (s.team (s.leadTeam iss.gid)).cpErr = false → (∀ x ∈ act, (s.fibre x.2).again = none) →
    ((∀ x ∈ act, (left s x.2).length ≤ o.imm.toNat % 16) → s.acquireOpen (act.map (·.2)) = true →
      ∃ t, exec (.cwait o) s = .next t ∧ WentOn iss t ∧ t.mem = s.mem) ∧
    ((∃ x ∈ act, o.imm.toNat % 16 < (left s x.2).length) → ∃ t, exec (.cwait o) s = .next t ∧
      ∀ x ∈ iss.lanes, (t.fibre x.2).status = .blocked (.batches (o.imm.toNat % 16) (act.map (·.2))) ∧
        (t.fibre x.2).pc = (s.fibre x.2).pc)) ∧
  (∀ (o : XE) (s : State) (iss : Issue) (act : List (Nat × FibreId)), s.Clear (.tlread o) iss act →
    Completes (.tlread o) s iss act [(act.headD (0, ⟨0, 0⟩), res1 o.d (BitVec.ofNat 64
      (if o.n6 = 1 then (s.team (s.leadTeam iss.gid)).matDone else (s.team (s.leadTeam iss.gid)).copyDone)))]) ∧
  ∀ (o : XS) (s : State) (iss : Issue) (act : List (Nat × FibreId)), s.Clear (.tlwait o) iss act →
    (∀ x ∈ act, (s.fibre x.2).again = none) →
    let tid := s.leadTeam iss.gid
    let t := s.team tid
    let mat := o.imm.getLsbD 0
    let n := (s.srcG iss o.a).toNat
    let now := if mat then t.matDone else t.copyDone
    (if mat then t.mx.err else t.cpErr) = false →
    (n ≤ now → s.acquireOpen (act.map (·.2)) = true → ∃ u, exec (.tlwait o) s = .next u ∧ WentOn iss u ∧ u.mem = s.mem) ∧
    (now < n → ∃ u, exec (.tlwait o) s = .next u ∧
      ∀ x ∈ iss.lanes, (u.fibre x.2).status = .blocked (.timeline tid mat n) ∧ (u.fibre x.2).pc = (s.fibre x.2).pc)

/-! The matrix engine. -/

/-- The instruction answers a next state that the property holds of. -/
def Answers (c : Instr) (s : State) (holds : State → Prop) : Prop := ∃ t, exec c s = .next t ∧ holds t

/-- The instruction answers a next state in which its whole subset stands at the next instruction. -/
def Passes (c : Instr) (s : State) (iss : Issue) (holds : State → Prop) : Prop :=
  Answers c s fun t => WentOn iss t ∧ holds t

/-- Every lane of the subset is parked at the instruction on a wait. -/
def ParkedOn (s : State) (iss : Issue) (w : Wake) (t : State) : Prop :=
  ∀ x ∈ iss.lanes, (t.fibre x.2).status = .blocked w ∧ (t.fibre x.2).pc = (s.fibre x.2).pc

/-- TDEF, TFREE and TSTAT (10 R215, R218; 24 R469, R470): TDEF of a legal descriptor on a tile that is Empty, or Ready with
no reader, puts the descriptor in force and the tile in Ready, TFREE makes such a Ready tile Empty, and both park where the
tile is in use; TFREE of an Empty tile, or one woken because its tile became Empty, raises TILE (0x0D); TSTAT gives the
descriptor with the state in bits 45:44 and the readers from bit 46 on. No other tile changes. -/
def Claims.Tiles : Prop :=
  ∀ (o : XT) (s : State) (iss : Issue) (act : List (Nat × FibreId)),
    let tid := s.leadTeam iss.gid
    let n := o.tn.toNat
    let d := s.srcG iss o.a
    let x := s.tile tid n
    let free := x.state = 0 ∨ (x.state = 2 ∧ x.readers = 0)
    let others := fun (t : State) => (∀ m, m ≠ n → t.tile tid m = s.tile tid m) ∧
      (∀ u, u ≠ tid → (t.team u).tiles = (s.team u).tiles) ∧ { t with teams := s.teams } = s
    (s.Clear (.tdef o) iss act → n < (s.team tid).tiles.length →
      bits d.toNat 9 0 + bits d.toNat 19 10 + 1 ≤ (s.team tid).trows → bits d.toNat 29 20 + bits d.toNat 39 30 + 1 ≤ 768 →
      bits d.toNat 43 40 ≠ 15 → bits d.toNat 63 44 = 0 →
      (free → Passes (.tdef o) s iss fun t => t.tile tid n = { desc := d, state := 2, readers := 0 } ∧ others t) ∧
      (¬free → Answers (.tdef o) s (ParkedOn s iss (.tile n)))) ∧
    (s.Clear (.tfree o) iss act → n < (s.team tid).tiles.length →
      (x.state = 0 ∨ tileDue s act = true → exec (.tfree o) s = .next (s.raise iss 0x0D 0 0)) ∧
      (tileDue s act = false → x.state = 2 → x.readers = 0 → Passes (.tfree o) s iss fun t =>
        t.tile tid n = { x with state := 0 } ∧ others t) ∧
      (tileDue s act = false → ¬free → Answers (.tfree o) s (ParkedOn s iss (.tile n)))) ∧
    (s.Clear (.tstat o) iss act →
      Completes (.tstat o) s iss act [(act.headD (0, ⟨0, 0⟩), res1 o.d (x.desc ||| BitVec.ofNat 64 (x.state * 2 ^ 44 + x.readers * 2 ^ 46)))])

/-- UNFSET, AALLOC, AFREE and DLOAD (10 R220, R221, R225, R229; 17 R349, R350, R355; 18 R388, R389; 24 R472): UNFSET
of a legal record, with no earlier access of it under way (07 R168), sets its view; AALLOC takes the lowest free run
of n banks and gives its mask, gives 0 to a team that holds banks, and else parks behind the core's earlier waiters;
AFREE gives the banks of its mask back; DLOAD replaces the drain slot by the words at the homes of its addresses, or
with CNT 0 empties it. -/
def Claims.MatrixSetup : Prop :=
  ∀ (o : XT) (s : State) (iss : Issue) (act : List (Nat × FibreId)),
    let tid := s.leadTeam iss.gid
    let core := (s.team tid).core
    let held := (s.team tid).banks.held
    let a := (s.srcG iss o.a).toNat
    (s.Clear (.unfset o) iss act → o.slot.toNat < 4 → recordOpen s act tid = true → descBad s tid a 64 = none →
      let dw := spadDwords s tid a 8
      viewIllegal dw = false → bits (dw.getD 0 0) 31 0 + viewBytes dw ≤ (s.team tid).ownBytes →
      Passes (.unfset o) s iss fun t => (t.team tid).views.getD o.slot.toNat none = some (dw.map (BitVec.ofNat 64)) ∧
        { t with teams := s.teams } = s) ∧
    (s.Clear (.aalloc o) iss act → 1 ≤ a → a ≤ 16 →
      (∀ b, s.freeRun core a = some b → (s.core core).bankQueue = [] →
        b + a ≤ 16 ∧ (∀ x, b ≤ x → x < b + a → x ∉ s.banksHeld core) ∧
        (∀ c < b, ∃ x, c ≤ x ∧ x < c + a ∧ x ∈ s.banksHeld core) ∧
        CompletesFrom (s.takeBanks tid b a) (.aalloc o) s iss act
          [(act.headD (0, ⟨0, 0⟩), res1 o.d (State.bankMask (stepsFrom b 1 a)))] ∧
        ∀ x < 16, x ∈ ((s.takeBanks tid b a).team tid).banks.held ↔ x ∈ held ∨ (b ≤ x ∧ x < b + a)) ∧
      (s.freeRun core a = none → held ≠ [] →
        Completes (.aalloc o) s iss act [(act.headD (0, ⟨0, 0⟩), res1 o.d 0)]) ∧
      (s.freeRun core a = none → held = [] → (s.ctx iss.ctx).stop = false → Answers (.aalloc o) s fun t =>
        ParkedOn s iss (.banks a) t ∧ (t.core core).bankQueue = (s.core core).bankQueue ++ [(tid, a, iss.gid)])) ∧
    (s.Clear (.afree o) iss act → a < 2 ^ 16 → (∀ b < 16, (s.srcG iss o.a).getLsbD b = true → b ∈ held) →
      (∀ x ∈ s.mats, x.2.tid ≠ tid) →
      Passes (.afree o) s iss fun t => (s.core core).bankQueue = [] →
        (t.team tid).banks.held = held.filter fun b => !(decide (b < 16) && (s.srcG iss o.a).getLsbD b)) ∧
    (s.Clear (.dload o) iss act → (∀ x ∈ s.mats, x.2.core ≠ core ∨ x.2.ctx ≠ iss.ctx ∨ bit (x.2.dw.getD 0 0) 30 = false ∨
        bits (x.2.dw.getD 0 0) 29 24 ≠ o.slot.toNat) →
      (o.cnt.toNat = 0 → Passes (.dload o) s iss fun t => drainOf t core iss.ctx o.slot.toNat = { ops := [], consts := [] }) ∧
      ∀ s1 ps, o.cnt.toNat ≠ 0 → s.globalCheck iss .read false 4 (consumes 4) (s.badLane iss (usesOf (.dload o)))
          ((upto (16 + o.cnt.toNat)).map fun i => (State.lowest act, a + 4 * i)) = (s1, .ok ps) → s1.lineGate ps = false →
        s1.accessOpen [State.lowest act] false = true → (∀ x ∈ ps, s1.loadPending (State.lowest act) x.2 4 = false) →
        let ws := ps.map fun x => wordOf (s1.homeBytes x.2 4)
        imageIllegal (ws.drop 16) = false → Passes (.dload o) s iss fun t =>
          drainOf t core iss.ctx o.slot.toNat = { ops := ws.drop 16, consts := ws.take 16 } ∧ t.mem = s1.mem)

/-- The tiles, the view, the banks and the drain. -/
def Obligations.TilesAndMatrixSetup : Prop := Claims.Tiles ∧ Claims.MatrixSetup

/-- A matrix operation can be accepted: no earlier access of its record is under way (07 R168), the record passes the checks
of 10 R227, its drain's pages are leased, its tiles are as it needs them, and there is room (21 R429). -/
structure MatReady (s s1 : State) (iss : Issue) (act : List (Nat × FibreId)) (mma : Bool) (ofs : Nat) (lease : KV Nat) :
    Prop where
  reads : recordOpen s act (s.leadTeam iss.gid) = true
  place : descBad s (s.leadTeam iss.gid) ofs 64 = none
  record : s.recordChecks (s.leadTeam iss.gid) iss.ctx mma (spadDwords s (s.leadTeam iss.gid) ofs 8) = none
  leased : s.leaseAll (s.team (s.leadTeam iss.gid)).core iss.ctx (s.drainPages (s.team (s.leadTeam iss.gid)).core iss.ctx
    (spadDwords s (s.leadTeam iss.gid) ofs 8)) = (s1, .ok lease)
  tiles : s1.tilesQualify (s.leadTeam iss.gid) (spadDwords s (s.leadTeam iss.gid) ofs 8) = true
  counters : ∀ x ∈ act, (s1.fibre x.2).tlc < 63
  room : (s1.mats.filter fun x => x.2.core == (s.team (s.leadTeam iss.gid)).core && !(s1.ctx x.2.ctx).saved).length < 32

/-- MLOOP, MMA and MATRIX_ACCEPT (07 R160, R164, R165; 10 R218, R227, R228; 21 R429, R430): an operation that can be accepted
gets the team's next number, which moves on by one and is written to the g destination; it is listed with its record, its
lease, its issuers, what its release waits for, FPCTL as it stood at issue (10 R236) and a cursor at the start; each guarded
fibre's TLC counts it, each tile that it reads counts a reader, a destination tile is Draining, and the subset goes on. While
a tile is not as it needs it, every lane parks at the instruction. MATRIX_ACCEPT does the same for a lane that waited, with
what it kept, once the tiles have qualified. -/
def Obligations.MatrixOperations : Prop :=
  let accepted := fun (s1 t : State) (iss : Issue) (act : List (Nat × FibreId)) (mma : Bool) (tid d fp : Nat) (dw : List Nat)
      (lease : KV Nat) =>
    ∃ id m, t.mats.find id = some m ∧ m.tid = tid ∧ m.num = (s1.team tid).matNext ∧ m.dw = dw ∧ m.lease = lease ∧
      m.issuers = act.map (·.2) ∧ m.waits = s1.releaseWaits iss.core (act.map (·.2)) ∧
      m.steps = (if mma then 1 else bits (dw.getD 0 0) 47 32) ∧
      m.interval = (if mma then 1 else bits (dw.getD 0 0) 53 48 + 1) ∧ m.step = 0 ∧ m.row = 0 ∧ m.blk = 0 ∧
      m.stopped = false ∧ m.fpctl = fp ∧ (t.team tid).matNext = m.num + 1 ∧
      (∀ x ∈ act, (t.fibre x.2).tlc = (s1.fibre x.2).tlc + 1) ∧
      (∀ n ∈ State.matReads dw, n < (s1.team tid).tiles.length → (t.tile tid n).readers = (s1.tile tid n).readers + 1) ∧
      (∀ n, State.matDest dw = some n → n < (s1.team tid).tiles.length → (t.tile tid n).state = 3) ∧
      (d < 64 → t.gReg iss.gid d = BitVec.ofNat 64 m.num) ∧ t.mem = s1.mem
  let shaped := fun (s1 : State) (gid : Nat) => (s1.group gid).g.length = 48 ∧ (s1.team (s1.leadTeam gid)).g.length = 16
  (∀ p ∈ ([(.mloop, false), (.mma, true)] : List ((XT → Instr) × Bool)),
    ∀ (o : XT) (s : State) (iss : Issue) (act : List (Nat × FibreId)), s.Clear (p.1 o) iss act →
      let tid := s.leadTeam iss.gid
      let ofs := (s.srcG iss o.a).toNat
      (s.team tid).control = false → (s.ctx iss.ctx).stop = false → (∀ x ∈ act, (s.fibre x.2).again = none) →
      (∀ s1 lease, MatReady s s1 iss act p.2 ofs lease → s1.leadTeam iss.gid = tid → shaped s1 iss.gid →
        (act.map (·.2)).Nodup → Passes (p.1 o) s iss fun t =>
          accepted s1 t iss act p.2 tid (opNum o.d) (s.fpctl iss) (spadDwords s tid ofs 8) lease) ∧
      ∀ s1 lease, recordOpen s act tid = true → descBad s tid ofs 64 = none →
        s.recordChecks tid iss.ctx p.2 (spadDwords s tid ofs 8) = none →
        s.leaseAll (s.team tid).core iss.ctx (s.drainPages (s.team tid).core iss.ctx (spadDwords s tid ofs 8)) = (s1, .ok lease) →
        s1.tilesQualify tid (spadDwords s tid ofs 8) = false → Answers (p.1 o) s (ParkedOn s1 iss .matrix)) ∧
  ∀ (s s1 : State) (gid : Nat) (x : Nat × FibreId) (ofs d mma next fp : Dword) (dws : List Dword) (lease : KV Nat),
    ((s.liveLanes gid).filter fun y => (s.fibre y.2).status == .blocked .matrix) = [x] →
    (s.fibre x.2).again = some ([ofs, d, mma, next, fp] ++ dws ++ [BitVec.ofNat 64 x.2.fid]) → dws.length = 8 →
    s.tilesWaited (s.leadTeam gid) (dws.map (·.toNat)) = true → (s.ctx (s.group gid).ctx).stop = false →
    let s0 := s.modFibre x.2 fun f => { f with status := .ready }
    let iss : Issue := { gid := gid, core := (s.group gid).core, ctx := (s.group gid).ctx, pc := (s.fibre x.2).pc, next := next
                         lanes := [x], atEnd := false }
    let m := decide (mma ≠ 0)
    MatReady s0 s1 iss [x] m ofs.toNat lease → s1.leadTeam gid = s0.leadTeam gid → shaped s1 gid →
    Passes (.matrixAccept gid) s iss fun t =>
      accepted s1 t iss [x] m (s0.leadTeam gid) d.toNat fp.toNat (spadDwords s0 (s0.leadTeam gid) ofs.toNat 8) lease

/-- K_STEP (05 R124; 10 R212, R224): the head operation's next step is performed: inside an interval the cursor moves on
with the step's sums; at the end of an interval or of the last step every element of the region takes the promotion of
its sum, over 0 for a first promotion with CLR, and the interval begins anew. HBM does not change. The hypothesis that no
read of the step meets an error (`stepBad`) takes which reads those are from the model's reading (log 37). -/
def Claims.KSteps : Prop :=
  ∀ (s : State) (id : Nat) (m : MatOp), s.mats.find id = some m → s.matHead m = true → m.step < m.steps →
    (s.ctx m.ctx).stop = false → s.stepBad m = false →
    let n := m.step + 1
    let cols := 8 * regionBlocks m.dw
    (n % m.interval ≠ 0 → n ≠ m.steps → Answers (.kStep id) s fun t =>
      t.mats.find id = some { m with step := n, parts := s.stepParts m } ∧ { t with mats := s.mats, fresh := s.fresh } = s) ∧
    ((n % m.interval = 0 ∨ n = m.steps) → regionCol m.dw + cols ≤ 512 → Answers (.kStep id) s fun t =>
      t.mats.find id = some { m with step := n, first := n, parts := [], promoted := true, ignoring := false } ∧
      (∀ i p, (s.stepParts m)[i]? = some p →
        t.accCell m.tid (regionRow m.dw + i / cols) (regionCol m.dw + i % cols) = Block.promote
          (if bit (m.dw.getD 0 0) 23 = true ∧ m.promoted = false then 0
            else s.accCell m.tid (regionRow m.dw + i / cols) (regionCol m.dw + i % cols)) p) ∧
      { t with mats := s.mats, teams := s.teams, fresh := s.fresh, badElse := s.badElse } = s ∧ ∀ x ∈ t.badElse, x ∈ s.badElse)

/-- DRAIN_BLOCK_COMMIT (10 R234, R235): a block whose micro-ops meet no stop commits: its flags are ORed into MXSTAT, the
cursor goes to the next block, or to the next row with RM at −∞, RS at 0 and an empty row buffer; a store to the
scratchpad puts the converted block at its address, and no other scratchpad byte changes. HBM does not change. Which reads
of a block can meet an error (`blockBad`) is the model's reading (log 37). -/
def Claims.DrainBlocks : Prop :=
  ∀ (s : State) (id : Nat) (m : MatOp), s.mats.find id = some m → s.matHead m = true → State.draining m = true →
    (s.ctx m.ctx).stop = false → s.blockBad m = false →
    let x := s.blockRun m
    let last := m.blk + 1 = regionBlocks m.dw
    State.blockStop m x = none → Answers (.drainBlockCommit id) s fun t =>
      (t.team m.tid).mx = { (s.team m.tid).mx with
        flg := (s.team m.tid).mx.flg ||| x.fl, bflg := (s.team m.tid).mx.bflg ||| x.bf } ∧
      (last → t.mats.find id = some { m with
        d := x.d, rm := 0xFF800000, rs := 0, buf := [], row := m.row + 1, blk := 0, ignoring := false }) ∧
      (¬last → t.mats.find id = some { m with
        d := x.d, rm := x.rm, rs := x.rs, buf := x.buf, blk := m.blk + 1, ignoring := false }) ∧
      t.mem = s.mem ∧
      ∀ f ws, (last → bit (m.dw.getD 0 0) 31 = false ∧ x.buf = []) → x.out = some (f, ws) → bits (m.dw.getD 3 0) 1 0 = 1 →
        let bs := (drainEncode f (State.ftzhOf m) ws).1
        let ofs := bits (m.dw.getD 4 0) 47 0 + m.row * bits (m.dw.getD 5 0) 31 0 + m.blk * drainBlock f
        (∀ i, (h : i < bs.length) → t.spadByte m.tid (ofs + i) = bs[i]) ∧
          ∀ u a, (u ≠ m.tid ∨ a < ofs ∨ ofs + bs.length ≤ a) → t.spadByte u a = s.spadByte u a

/-- MATRIX_COMPLETION and MATRIX_STOP (07 R165; 10 R218, R235 to R237): the head operation with every step and row done
completes: it is listed no more, its tiles lose a reader, its issuers' TLC count down, and in order the timeline reaches
its number. At a drain block that traps it stops before the block: MXSTAT has ERR, STP, the cause (ARITH 0x0B or DRAIN
0x0F), the row and the block with SPH 1, and no store of the block is made; at an uncorrectable error in what the step or block
reads the cause is ECC (0x0A). Which reads' errors stop an operation (`stepBad`, `blockBad`) is the model's reading (log
37). -/
def Claims.MatrixEnds : Prop :=
  ∀ (s : State) (id : Nat) (m : MatOp), s.mats.find id = some m → s.matHead m = true →
    (KV.sorted s.mats = true → m.steps ≤ m.step → State.draining m = false → m.issuers.Nodup →
      Answers (.matrixCompletion id) s fun t => t.mats.find id = none ∧
        (∀ n ∈ State.matReads m.dw, (t.tile m.tid n).readers = (s.tile m.tid n).readers - 1) ∧
        (∀ f ∈ m.issuers, (t.fibre f).tlc = (s.fibre f).tlc - 1) ∧
        (m.num = (s.team m.tid).matDone + 1 → (s.team m.tid).matFin = [] → (t.team m.tid).matDone = m.num) ∧
        t.mem = s.mem) ∧
    (State.draining m = true → s.blockBad m = true → Answers (.matrixStop id true) s fun t =>
      (t.team m.tid).mx = { (s.team m.tid).mx with
        err := true, stp := true, ecause := 0x0A, srow := m.row, sblk := m.blk, sph := true } ∧
      t.mats.find id = some { m with stopped := true, step := m.first, parts := [] } ∧
      ∀ u a, t.spadByte u a = s.spadByte u a) ∧
    (m.step < m.steps → s.stepBad m = true → Answers (.matrixStop id true) s fun t =>
      (t.team m.tid).mx.err = true ∧ (t.team m.tid).mx.stp = true ∧ (t.team m.tid).mx.ecause = 0x0A ∧
      (t.team m.tid).mx.sph = false ∧ t.mats.find id = some { m with stopped := true, step := m.first, parts := [] }) ∧
    ∀ c, State.draining m = true → s.blockBad m = false → State.blockStop m (s.blockRun m) = some c →
      Answers (.matrixStop id false) s fun t =>
      (c = 0x0B ∨ c = 0x0F) ∧ (t.team m.tid).mx.err = true ∧ (t.team m.tid).mx.stp = true ∧
      (t.team m.tid).mx.ecause = c ∧ (t.team m.tid).mx.srow = m.row ∧ (t.team m.tid).mx.sblk = m.blk ∧
      (t.team m.tid).mx.sph = true ∧
      (t.team m.tid).mx.flg = (if c = 0x0B then (s.team m.tid).mx.flg ||| (s.blockRun m).fl else (s.team m.tid).mx.flg) ∧
      t.mats.find id = some { m with stopped := true, step := m.first, parts := [] } ∧
      (∀ u a, t.spadByte u a = s.spadByte u a) ∧ t.mem = s.mem

/-- How an accepted matrix operation runs and ends. -/
def Obligations.MatrixExecution : Prop := Claims.KSteps ∧ Claims.DrainBlocks ∧ Claims.MatrixEnds

/-! The copy engine's and the memory system's own steps. -/

/-- COPY_LANDING (09 R196, R198, R199; 21 R427): a piece on its way to a target whose allocation stands lands at its offset
of that scratchpad and nowhere else; to one that has gone it is dropped, its new granules counted in DROP; the only unit
left of a plain copy from the own scratchpad to ordinary global memory is written at its home. -/
def Claims.CopyLandings : Prop :=
  (∀ (s : State) (id n tid ofs : Nat) (c : Cmd) (x : CTarget) (bs : List Byte) (r : List (Nat × List Byte)),
    s.cmds.find id = some c → c.kind ≠ 2 → c.dst = 0 → c.failed = false → c.bar = none → c.targets.find n = some x →
    x.tid = some tid → x.queue = (ofs, bs) :: r →
    (s.targetLive x = true → Answers (.copyLanding id n) s fun t =>
      (∀ i, (h : i < bs.length) → t.spadByte tid (ofs + i) = bs[i]) ∧
      (∀ u a, (u ≠ tid ∨ a < ofs ∨ ofs + bs.length ≤ a) → t.spadByte u a = s.spadByte u a) ∧
      (∃ d y, t.cmds.find id = some d ∧ d.targets.find n = some y ∧ y.queue = r ∧ y.sent = x.sent + bs.length) ∧
      { t with cmds := s.cmds, teams := s.teams, badSpad := s.badSpad } = s ∧ ∀ x ∈ t.badSpad, x ∈ s.badSpad) ∧
    (s.targetLive x = false → Answers (.copyLanding id n) s fun t =>
      (∀ u a, t.spadByte u a = s.spadByte u a) ∧
      (t.team c.tid).cpDrop = min ((s.team c.tid).cpDrop +
        ((State.granules ofs bs.length).filter fun g => !x.lost.contains g).length) 65535 ∧
      { t with cmds := s.cmds, teams := s.teams } = s)) ∧
  ∀ (s s1 : State) (id pa n : Nat) (c : Cmd) (a b : Int), s.cmds.find id = some c → c.kind = 0 → c.dst = 1 →
    c.srcG = false → c.mode = 0 → c.pol ≠ 3 → s.cmdRuns c = true → c.total = c.next + 1 → c.unit c.next = some (a, b, n) →
    s.rowPlaces c true true (pagesOf n (globalAddr b) n) = (s1, .ok [.mem pa n]) → s1.spadBad c.tid a.toNat n = false →
      s1.owners = [] →
    Answers (.copyLanding id 0) s fun t =>
      (∀ i < n, t.homeByte (pa + i) = s1.spadByte c.tid (a.toNat + i)) ∧
      (∀ q, (q < pa ∨ pa + n ≤ q) → t.homeByte q = s1.homeByte q) ∧
      t.cmds.find id = some { c with next := c.next + 1 } ∧ t.mem = s1.mem

/-- A phase of an arrival barrier with all its commands and bytes completes, and the next one's counts take its place (09
R203). -/
def phaseOver (b : Barrier) : Barrier :=
  if b.arr = b.exp ∧ b.pend = 0 then
    { b with phn := (b.phn + 1) % 128, arr := b.narr, pend := b.npend, narr := 0, npend := 0 }
  else b

/-- The updates of an arrival barrier (09 R202, R203): an arrival counts a command and its bytes for the phase while that
expects one, else for the next phase, and beyond that sets FL; a landing takes its bytes off; a sum beyond 2^32 − 1 or a
difference below 0 is clamped and sets FL; a phase with all its commands and no bytes left then completes. That the counts
which the next phase takes over may complete that one too, in the same update, is the model's reading (log 18). -/
def Claims.BarrierCounts : Prop :=
  ∀ (b : Barrier) (n : Nat),
    let after := fun (b : Barrier) => phaseOver (phaseOver b)
    let top := 2 ^ 32 - 1
    (b.arr < b.exp → barrierArrive b n =
      (after { b with arr := b.arr + 1, pend := min (b.pend + n) top, fl := b.fl || decide (top < b.pend + n) }, 0)) ∧
    (b.exp ≤ b.arr → b.narr < b.exp → barrierArrive b n =
      (after { b with narr := b.narr + 1, npend := min (b.npend + n) top, fl := b.fl || decide (top < b.npend + n) }, 1)) ∧
    (b.exp ≤ b.arr → b.exp ≤ b.narr → barrierArrive b n = ({ b with fl := true }, 2)) ∧
    barrierLand b n false = after { b with pend := b.pend - n, fl := b.fl || decide (b.pend < n) } ∧
    barrierLand b n true = after { b with npend := b.npend - n, fl := b.fl || decide (b.npend < n) }

/-- BARRIER_ARRIVAL and COPY_COMPLETION (07 R164, R165; 09 R203; 10 R218): the arrival of a command at a live target's
initialised barrier, once what its release waits for is done and nothing that its core sent to the target's before it is under
way (06 R142; 07 R164), makes its update of the barrier with the command's bytes, once (log 18 in the counts); a command whose
units are walked, whose targets are done and whose remote writes have left (07 R165; log 24) completes: it is listed no more, its issuers' CPC (TLC for TCOPY) count down,
and in order the timeline reaches its number. -/
def Claims.CopyProgress : Prop :=
  (∀ (s : State) (id n tid ofs : Nat) (c : Cmd) (x : CTarget), s.cmds.find id = some c → c.targets.find n = some x →
    x.tid = some tid → x.arrived = false → c.bar = some ofs → (s.ctx c.ctx).saved = false → c.failed = false →
    s.targetLive x = true → (barrierOf (s.barrierAt tid ofs)).magic = 0x4142 → s.barrierEcc tid ofs = false →
    arrivalHeld s id c x = false →
    Answers (.barrierArrival id n) s fun t =>
      (t.spadBytes tid ofs 16 = (let w := barrierWords (barrierArrive (barrierOf (s.barrierAt tid ofs)) c.actual).1
        leBytes 8 w.1 ++ leBytes 8 w.2)) ∧
      (∀ u a, (u ≠ tid ∨ a < ofs ∨ ofs + 16 ≤ a) → t.spadByte u a = s.spadByte u a) ∧
      (∃ d y, t.cmds.find id = some d ∧ d.targets.find n = some y ∧ y.arrived = true ∧ y.queue = x.queue) ∧
      { t with cmds := s.cmds, teams := s.teams, badSpad := s.badSpad } = s ∧ ∀ x ∈ t.badSpad, x ∈ s.badSpad) ∧
  ∀ (s : State) (id : Nat) (c : Cmd), s.cmds.find id = some c → KV.sorted s.cmds = true → c.parked = none →
    (s.ctx c.ctx).saved = false → c.failed = false → c.walked = true → c.issuers.Nodup →
    s.postedWaits c = false →
    (∀ x ∈ c.targets, x.2.queue = [] ∧ x.2.tid.isSome = true ∧ (c.bar ≠ none → x.2.arrived = true)) →
    Answers (.copyCompletion id) s fun t => t.cmds.find id = none ∧
      (∀ f ∈ c.issuers, (c.kind ≠ 4 → (t.fibre f).cpc = (s.fibre f).cpc - 1) ∧
        (c.kind = 4 → (t.fibre f).tlc = (s.fibre f).tlc - 1)) ∧
      (c.kind = 4 → c.tile < (s.team c.tid).tiles.length → (t.tile c.tid c.tile).state = 2) ∧
      (c.num = (s.team c.tid).copyDone + 1 → (s.team c.tid).copyFin = [] → (t.team c.tid).copyDone = c.num) ∧
      { t with cmds := s.cmds, teams := s.teams } = s

/-- COPY_FAULT and COPY_ERROR_STATE (09 R197 to R200; 12 R261, R262): a command that meets a recoverable fault parks under
a new record with cause PAGE, SRC 1, RECOV 1 and its number; one that meets an unrecoverable fault (0x09) or, in what it
reads, an uncorrectable error (0x0A) fails, and CPSTAT takes ERR and, where ERR was 0, that cause. -/
def Claims.CopyFaults : Prop :=
  ∀ (s s1 : State) (id : Nat) (c : Cmd), s.cmds.find id = some c → s.cmdRuns c = true → arrivalsHeld s id c = false →
    (∀ va wr, s.cmdObstacle id c = (s1, some (.page va wr)) → Answers (.copyFault id) s fun t =>
      ∃ r d, (t.ctx c.ctx).waiting.getLast? = some r ∧ r.cause = 0x08 ∧ r.src = 1 ∧ r.recov = true ∧ r.held = false ∧
        r.wr = wr ∧ r.va = va % 2 ^ 48 ∧ r.ctl = BitVec.ofNat 64 c.num ∧ r.subject = id ∧
        t.cmds.find id = some d ∧ d.parked = some r.id) ∧
    ∀ e ∈ ([(.bad, false, 0x09), (.ecc, true, 0x0A)] : List (Obstacle × Bool × Nat)),
      s.cmdObstacle id c = (s1, some e.1) → Answers (.copyErrorState id e.2.1) s fun t =>
        (t.team c.tid).cpErr = true ∧ ((s1.team c.tid).cpErr = false → (t.team c.tid).cpCause = e.2.2) ∧
        ∃ d, t.cmds.find id = some d ∧ d.failed = true ∧ d.parked = none

/-- How an accepted copy command runs and ends. -/
def Obligations.CopyExecution : Prop := Claims.BarrierCounts ∧ Claims.CopyLandings ∧ Claims.CopyProgress ∧ Claims.CopyFaults

/-- Ownership (06 R132, R134, R135, R492; 07 R155): OWNERSHIP_REGISTRATION makes the core the recorded owner of the
registration's words and of no other, and discards a former owner's copy; that a newer store of the former owner, still to be
registered, ends with that copy is the model's choice (log 34). Of a word that was not the core's, a read at the home then gives
the bytes that the core has stored, and for the others what it gave before, the model's reading (log 34). REGISTRATION_ACK
ends a recorded registration; OWNER_WRITE_BACK and OWNERSHIP_WITHDRAWAL put the owner's value at the home, where nobody owns
the word then; of a word whose registration has not been recorded, the bytes not stored stay as the home has them (log 34). -/
def Claims.Ownership : Prop :=
  (∀ (s : State) (id : Nat) (r : Registration), s.registrations.find id = some r → r.recorded = false →
    Answers (.ownershipRegistration id) s fun t =>
      (∀ w ∈ r.words, t.owners.find w = some r.core) ∧ (∀ w, w ∉ r.words → t.owners.find w = s.owners.find w) ∧
      t.registrations.find id = some { r with recorded := true } ∧
      (∀ w ∈ r.words, ∀ c, s.owners.find w = some c → c ≠ r.core → KV.sorted (s.core c).l1 = true →
        (t.core c).l1.find w = none ∧ ∀ x ∈ t.registrations, x.2.core = c → x.2.recorded = false → w ∉ x.2.words) ∧
      (∀ w ∈ r.words, ∀ x, (s.core r.core).l1.find w = some x → x.owned = true → s.owners.find w ≠ some r.core →
        (∀ y ∈ s.registrations, y.2.core = r.core → y.2.recorded = false → w ∈ y.2.words → y.2 = r) →
        ∀ i < 4, t.homeByte (4 * w + i) =
          if 4 * w + i ∈ r.bytes then byteOf x.data i else s.homeByte (4 * w + i)) ∧
      { t with owners := s.owners, registrations := s.registrations, cores := s.cores, guests := s.guests } = s) ∧
  (∀ (s : State) (id : Nat) (r : Registration), s.registrations.find id = some r → r.recorded = true →
    exec (.registrationAck id) s = .next { s with registrations := s.registrations.del id }) ∧
  (∀ (s : State) (core w : Nat) (x : L1Word), (s.core core).l1.find w = some x → x.owned = true →
    s.ackPending core w = false → s.badWord w = false → KV.sorted (s.core core).l1 = true → KV.sorted s.owners = true →
    Answers (.ownerWriteBack core w) s fun t => t.owners.find w = none ∧ (t.core core).l1.find w = none ∧
      ((s.owners.find w = some core ∨ s.unrecorded core w = none) → ∀ i < 4, t.homeByte (4 * w + i) = byteOf x.data i) ∧
      (∀ r, s.owners.find w ≠ some core → s.unrecorded core w = some r → ∀ i < 4, t.homeByte (4 * w + i) =
        if 4 * w + i ∈ r.bytes then byteOf x.data i else s.homeByte (4 * w + i)) ∧ t.mem = s.mem) ∧
  ∀ (s : State) (core w : Nat) (x : L1Word), w ∈ s.withdrawals → s.owners.find w = some core →
    (s.core core).l1.find w = some x → x.owned = true → s.ackPending core w = false → KV.sorted s.owners = true →
    Answers (.ownershipWithdrawal w) s fun t => t.owners.find w = none ∧ w ∉ t.withdrawals ∧
      (∀ i < 4, t.homeByte (4 * w + i) = byteOf x.data i) ∧ t.mem = s.mem

/-- OWNER_READ_FORWARD, READ_COMBINE_REPLY and PAGE_WALK (06 R135, R141, R146, R147): the reads concerned are answered and
HBM does not change; a walk that reaches a leaf leaves its translation in the core's TLB. -/
def Claims.ReadsAndWalks : Prop :=
  (∀ (s : State) (id pa n : Nat) (p : Sys2Proof.Machine.Pending) (l1 sx : Bool), s.pending.find id = some p →
    p.load = some (.global pa l1 false, n, sx) → (∃ w ∈ State.wordsOf pa n, (s.owners.find w).isSome = true) →
    Answers (.ownerReadForward id) s fun t => t = s.answer id ∧
      ∃ q, t.pending.find id = some q ∧ q.load = none ∧ q.fib = p.fib ∧ t.mem = s.mem) ∧
  (∀ (s : State) (line : Nat),
    let collected := fun (p : Sys2Proof.Machine.Pending) => ∃ pa l1 n sx, p.load = some (.global pa l1 false, n, sx) ∧
      pa / 64 = line
    KV.sorted s.pending = true → (∃ x ∈ s.pending, collected x.2) → Answers (.readCombineReply line) s fun t => t.mem = s.mem ∧
      ∀ id p, s.pending.find id = some p → collected p → ∃ q, t.pending.find id = some q ∧ q.load = none ∧ q.fib = p.fib) ∧
  ∀ (s s1 : State) (core ctx va : Nat) (kind : WalkKind) (p : Dword) (big : Bool), va < 2 ^ 48 →
    (s.contexts.find ctx).isSome = true → s.walkFill core ctx va kind (kind == .write) = (s1, .ok (p, big)) →
    exec (.pageWalk core ctx va kind) s = .next s1 ∧
      ⟨ctx, if big then va / 2 ^ 29 else va / 2 ^ 16, big, p⟩ ∈ (s1.core core).tlb ∧ s1.mem = s.mem

/-- Ownership of words, reads on their way, and page walks. -/
def Obligations.OwnershipAndReads : Prop := Claims.Ownership ∧ Claims.ReadsAndWalks

/-! Control registers and supervisor operations. -/

/-- GETC (02 R49; 09 R200; 10 R237; 12 R258; 13 R290; 20 R408, R409): the destination takes the register that the selector
names: FPCTL, the OR of the guarded lanes' FPFLAGS or BFFLAGS, ISSUEPOL, TRAPVEC, FAULTQ, LKSTAT, CPSTAT or MXSTAT by their
fields, 0 for STATCLR; TRAPINFO and TRAPVA of handler lanes that agree, else UNIF (0x03), and PRIV (0x02) outside a
handler. A selector beyond 0x0B makes no GETC and no SETC: no word decodes to one. -/
def Claims.ControlReads : Prop :=
  (∀ (o : XS) (ws : List Word) (n : Nat), 0xB < o.imm.toNat → ofEnc (.xs 0x8 o) = none ∧ decode ws ≠ .ok (.getc o, n)) ∧
  ∀ (o : XS) (s : State) (iss : Issue) (act : List (Nat × FibreId)), s.Clear (.getc o) iss act →
    let sel := o.imm.toNat
    let t := s.team (s.leadTeam iss.gid)
    let c := s.ctx iss.ctx
    let gives := fun (x : Dword) =>
      Completes (.getc o) s iss act [(act.headD (0, ⟨0, 0⟩), res1 o.d x)]
    (sel = 0 → gives t.fpctl) ∧
    (sel = 1 → gives ((act.foldl (fun x a => x ||| (s.fibre a.2).fpflags) 0#5).setWidth 64)) ∧
    (sel = 2 → gives ((act.foldl (fun x a => x ||| (s.fibre a.2).bfflags) 0#3).setWidth 64)) ∧
    (sel = 3 → gives (if c.issuepol then 1 else 0)) ∧ (sel = 4 → gives c.trapvec) ∧
    (sel = 5 → gives (BitVec.ofNat 64 c.faultq)) ∧ (sel = 7 → gives 0) ∧
    (sel = 6 → ∃ x, gives x ∧ x.getLsbD 0 = c.lost ∧ x.toNat / 2 ^ 32 =
      ((s.core iss.core).locked.filter fun l => l.1 == iss.ctx).length % 2 ^ 32) ∧
    (sel = 8 → ∃ x, gives x ∧ x.getLsbD 0 = t.cpErr ∧ bits x.toNat 15 8 = t.cpCause % 256 ∧
      bits x.toNat 31 16 = t.cpDrop % 65536) ∧
    (sel = 9 → ∃ x, gives x ∧ x.getLsbD 0 = t.mx.err ∧ x.getLsbD 1 = t.mx.stp ∧ bits x.toNat 15 8 = t.mx.ecause % 256 ∧
      bits x.toNat 20 16 = t.mx.flg.toNat ∧ bits x.toNat 23 21 = t.mx.bflg.toNat ∧ bits x.toNat 31 24 = t.mx.srow % 256 ∧
      bits x.toNat 37 32 = t.mx.sblk % 64 ∧ x.getLsbD 38 = t.mx.sph) ∧
    ∀ (va : Bool), sel = (if va then 0xB else 0xA) →
      ((∃ x ∈ act, (s.fibre x.2).handler = none) → exec (.getc o) s = .next (s.raise iss 0x02 0 0)) ∧
      ((∀ x ∈ act, (s.fibre x.2).handler ≠ none) →
        (∃ x ∈ act, ∃ y ∈ act, trapImage s x.2 va ≠ trapImage s y.2 va) →
        exec (.getc o) s = .next (s.raise iss 0x03 0 0)) ∧
      ∀ h : Handler, act ≠ [] → (∀ x ∈ act, (s.fibre x.2).handler = some h) → ∃ x, gives x ∧ (va = true → x = h.va) ∧
        (va = false → bits x.toNat 7 0 = h.cause % 256 ∧ bits x.toNat 23 8 = h.detail % 65536 ∧ x.getLsbD 24 = h.skip)

/-- SETC of the registers beside CPSTAT and MXSTAT (02 R49; 04 R86; 05 R112 to R114; 12 R256, R258, R261; 13 R290; 23 R456,
R457): FPCTL takes bits 11:0 of a value whose RM is 1 to 5 (else ILLEGAL), FPFLAGS and BFFLAGS lose the bits written as 1,
ISSUEPOL takes bit 0, TRAPVEC the value, LKSTAT loses LOST where bit 0 is 1, STATCLR clears RSL and MX, FAULTQ raises PRIV,
and TRAPINFO in a handler takes SKIP from bit 24 while TRAPVA ignores the write. -/
def Claims.ControlWrites : Prop :=
  ∀ (o : XS) (s : State) (iss : Issue) (act : List (Nat × FibreId)),
    let x := s.srcG iss o.a
    let tid := s.leadTeam iss.gid
    let lanes := fun (c : Instr) (f : Fibre → Fibre → Prop) => Passes c s iss fun t =>
      (∀ a ∈ act, f (s.fibre a.2) (t.fibre a.2)) ∧ SameButFibres s t
    let context := fun (c : Instr) (f : Context → Context) => Passes c s iss fun t =>
      t.ctx iss.ctx = f (s.ctx iss.ctx) ∧ { t with teams := s.teams, contexts := s.contexts } = s
    (s.Clear (.setcFpctl o) iss act →
      (x.toNat % 8 = 0 ∨ 6 ≤ x.toNat % 8 → exec (.setcFpctl o) s = .next (s.raise iss 0x01 0 0)) ∧
      (1 ≤ x.toNat % 8 → x.toNat % 8 ≤ 5 → Passes (.setcFpctl o) s iss fun t => (t.team tid).fpctl = x &&& 0xFFF ∧
        (∀ n, n ≠ tid → (t.team n).fpctl = (s.team n).fpctl) ∧ { t with teams := s.teams } = s)) ∧
    (s.Clear (.setcFpflags o) iss act → lanes (.setcFpflags o) fun f g => g.fpflags = f.fpflags &&& ~~~(x.setWidth 5)) ∧
    (s.Clear (.setcBfflags o) iss act → lanes (.setcBfflags o) fun f g => g.bfflags = f.bfflags &&& ~~~(x.setWidth 3)) ∧
    (s.Clear (.setcIssuepol o) iss act → context (.setcIssuepol o) fun c => { c with issuepol := x.getLsbD 0 }) ∧
    (s.Clear (.setcTrapvec o) iss act → context (.setcTrapvec o) fun c => { c with trapvec := x }) ∧
    (s.Clear (.setcFaultq o) iss act → exec (.setcFaultq o) s = .next (s.raise iss 0x02 0 0) ∧
      ∀ s1, Deliverable s s1 iss → ∃ t, exec (.setcFaultq o) s = .next t ∧ Entered s t iss 0x02 0 0) ∧
    (s.Clear (.setcLkstat o) iss act → context (.setcLkstat o) fun c => { c with lost := c.lost && !x.getLsbD 0 }) ∧
    (s.Clear (.setcStatclr o) iss act → lanes (.setcStatclr o) fun f g =>
      g.rsl = (f.rsl && !x.getLsbD 0) ∧ g.mx = (f.mx && !x.getLsbD 1)) ∧
    ((∃ a ∈ act, (s.fibre a.2).handler = none) →
      (s.Clear (.setcTrapinfo o) iss act → exec (.setcTrapinfo o) s = .next (s.raise iss 0x02 0 0)) ∧
      (s.Clear (.setcTrapva o) iss act → exec (.setcTrapva o) s = .next (s.raise iss 0x02 0 0))) ∧
    ((∀ a ∈ act, (s.fibre a.2).handler ≠ none) →
      (s.Clear (.setcTrapinfo o) iss act → lanes (.setcTrapinfo o) fun f g =>
        g.handler = f.handler.map fun h => { h with skip := x.getLsbD 24 }) ∧
      (s.Clear (.setcTrapva o) iss act → exec (.setcTrapva o) s = .next (s.advance iss)))

/-- GETC and SETC. -/
def Obligations.ControlRegisters : Prop := Claims.ControlReads ∧ Claims.ControlWrites

/-- SETC CPSTAT and SETC MXSTAT (09 R200; 10 R237; 23 R456; the rows of one register: log 6): CPSTAT loses ERR with ECAUSE
where bit 0 is 1 and DROP where bit 16 is 1; MXSTAT loses the flags written as 1, and ERR where bit 0 is 1 and nothing is
stopped; with an operation stopped, ACT 1 and 2 let it go on, 2 past TRAPIF and trap enables, 4 ends it with ERR kept, 0
leaves it, and in a SETC of a value not known to the assembler any other ACT is ILLEGAL. -/
def Obligations.EngineStatus : Prop :=
  ∀ (o : XS) (s : State) (iss : Issue) (act : List (Nat × FibreId)),
    let x := s.srcG iss o.a
    let tid := s.leadTeam iss.gid
    let old := (s.team tid).mx
    let flags := fun (m : MxStat) => m.flg = old.flg &&& ~~~((x >>> 16).setWidth 5) ∧
      m.bflg = old.bflg &&& ~~~((x >>> 21).setWidth 3)
    (∀ c ∈ ([.cpstatClearErr, .cpstatClearDrop] : List (XS → Instr)), s.Clear (c o) iss act → Passes (c o) s iss fun t =>
      (t.team tid).cpErr = ((s.team tid).cpErr && !x.getLsbD 0) ∧
      (t.team tid).cpCause = (if x.getLsbD 0 then 0 else (s.team tid).cpCause) ∧
      (t.team tid).cpDrop = (if x.getLsbD 16 then 0 else (s.team tid).cpDrop) ∧ { t with teams := s.teams } = s) ∧
    (∀ c ∈ ([.setcMxstat, .mxstatResume, .mxstatResumeIgnoring, .mxstatAbandon] : List (XS → Instr)),
      s.Clear (c o) iss act →
      (old.stp = false → Passes (c o) s iss fun t => flags (t.team tid).mx ∧
        (t.team tid).mx.err = (old.err && !x.getLsbD 0) ∧ { t with teams := s.teams } = s) ∧
      (old.stp = true → bits x.toNat 4 2 = 0 → Passes (c o) s iss fun t => flags (t.team tid).mx ∧
        (t.team tid).mx.err = old.err ∧ (t.team tid).mx.stp = true ∧ { t with teams := s.teams } = s) ∧
      ∀ id m, old.stp = true → s.mats = [(id, m)] → m.tid = tid → m.stopped = true →
        ((bits x.toNat 4 2 = 1 ∨ bits x.toNat 4 2 = 2) → Passes (c o) s iss fun t =>
          t.mats.find id = some { m with stopped := false, ignoring := decide (bits x.toNat 4 2 = 2) } ∧
          flags (t.team tid).mx ∧ (t.team tid).mx.err = false ∧ (t.team tid).mx.stp = false) ∧
        (bits x.toNat 4 2 = 4 → Passes (c o) s iss fun t => t.mats = [] ∧ (t.team tid).mx.err = old.err ∧
          (t.team tid).mx.stp = false ∧
          (m.num = (s.team tid).matDone + 1 → (s.team tid).matFin = [] → (t.team tid).matDone = m.num))) ∧
    (s.Clear (.setcMxstat o) iss act → old.stp = true → bits x.toNat 4 2 ≠ 0 → bits x.toNat 4 2 ≠ 1 →
      bits x.toNat 4 2 ≠ 2 → bits x.toNat 4 2 ≠ 4 → exec (.setcMxstat o) s = .next (s.raise iss 0x01 0 0))

/-- RESOLVE, XLINV and RESUME (06 R147; 12 R264, R265; 23 R468): outside a supervisor they raise PRIV (0x02); in one, once
the release is done, they act on a context that it supervises and give status 0 in g16, 1 for another context, 2 for a
record that is not outstanding, 3 for an operand out of range or a record without RECOV or HELD, each with the acquire; 2
before 3 is the model's reading (log 26). RESOLVE with replay makes the fibres parked under the record ready; RESUME with
retry lets the fibres held under it go, with skip to the next instruction that the record keeps, the model's reading (log
28); XLINV leaves no cached translation of the pages; the record is outstanding no more. -/
def Claims.Supervisor : Prop :=
  (∀ p ∈ ([.resolve, .xlinv, .resume] : List (XS → Instr)), ∀ (o : XS) (s : State) (iss : Issue)
      (act : List (Nat × FibreId)), s.Clear (p o) iss act → (s.ctx iss.ctx).supervisor = false →
      exec (p o) s = .next (s.raise iss 0x02 0 0)) ∧
  (∀ (o : XS) (s s1 : State) (iss : Issue) (act : List (Nat × FibreId)), (s.ctx iss.ctx).supervisor = true →
    s.syncStep iss.core act = (s1, true) →
    let g := fun (n : Nat) => (s1.gReg iss.gid n).toNat
    let answers := fun (c : Instr) (status : Nat) (t : State) => exec c s = .next
      (((t.acquire (act.map (·.2))).gWriteNow iss.gid 16 (BitVec.ofNat 64 status)).advance iss)
    (s.Clear (.resolve o) iss act →
      (s1.supervises iss.ctx (g 16) = false → answers (.resolve o) 1 s1) ∧
      (s1.supervises iss.ctx (g 16) = true → ((s1.ctx (g 16)).records.find (g 17) = none → answers (.resolve o) 2 s1) ∧
        ∀ r, (s1.ctx (g 16)).records.find (g 17) = some r →
          ((r.recov = false ∨ 1 < g 18) → answers (.resolve o) 3 s1) ∧
          (r.recov = true → g 18 = 0 → answers (.resolve o) 0 (s1.resolveRecord r false)) ∧
          (r.recov = true → g 18 = 1 → answers (.resolve o) 0 (s1.resolveRecord r true)))) ∧
    (s.Clear (.xlinv o) iss act →
      (s1.supervises iss.ctx (g 16) = false → answers (.xlinv o) 1 s1) ∧
      (s1.supervises iss.ctx (g 16) = true →
        ((g 17 % 65536 ≠ 0 ∨ 2 ^ 48 ≤ g 17 ∨ g 18 = 0 ∨ 2 ^ 32 ≤ g 18) → answers (.xlinv o) 3 s1) ∧
        (g 17 % 65536 = 0 → g 17 < 2 ^ 48 → 1 ≤ g 18 → g 18 < 2 ^ 32 → s1.leasedPage (g 16) (g 17 / 65536) (g 18) = false →
          answers (.xlinv o) 0 (s1.invalidate (g 16) (g 17 / 65536) (g 18))))) ∧
    (s.Clear (.resume o) iss act →
      (s1.supervises iss.ctx (g 16) = false → answers (.resume o) 1 s1) ∧
      (s1.supervises iss.ctx (g 16) = true → ((s1.ctx (g 16)).records.find (g 17) = none → answers (.resume o) 2 s1) ∧
        ∀ r, (s1.ctx (g 16)).records.find (g 17) = some r →
          ((r.held = false ∨ 2 < g 18) → answers (.resume o) 3 s1) ∧
          (r.held = true → g 18 ≤ 2 → answers (.resume o) 0 (s1.resumeRecord r (g 18)))))) ∧
  (∀ (s : State) (r : FaultRec), r.src = 0 → (s.ctx r.ctx).stop = false → (s.ctx r.ctx).saved = false →
    (s.ctx r.ctx).resolved = [] →
    (∀ f ∈ r.fibres, (s.fibre f).status = .faulted r.id → ((s.resolveRecord r false).fibre f).status = .ready) ∧
      (KV.sorted (s.ctx r.ctx).records = true → ((s.resolveRecord r false).ctx r.ctx).records.find r.id = none) ∧
      ∀ f, ((s.resolveRecord r false).fibre f).pc = (s.fibre f).pc) ∧
  (∀ (s : State) (r : FaultRec), (KV.sorted (s.ctx r.ctx).records = true →
      ((s.resumeRecord r 0).ctx r.ctx).records.find r.id = none) ∧
    (∀ f, (s.team f.team).ctx = r.ctx → ((s.resumeRecord r 0).fibre f).firm = (s.fibre f).firm.filter (· != r.id)) ∧
    (∀ f, ((s.resumeRecord r 0).fibre f).pc = (s.fibre f).pc) ∧
    (r.next ≠ 0 → ∀ f ∈ r.fibres, (s.fibre f).live = true → ((s.resumeRecord r 1).fibre f).pc = r.next)) ∧
  ∀ (s : State) (ctx page n core : Nat), (∀ e ∈ ((s.invalidate ctx page n).core core).tlb,
      State.entryIn e ctx page n = false ∧ e ∈ (s.core core).tlb) ∧
    ∀ e ∈ (s.core core).tlb, State.entryIn e ctx page n = false → e ∈ ((s.invalidate ctx page n).core core).tlb

/-- LOCKI and UNLOCKI (13 R289, R290; 20 R421, R422; 24 R477): LOCKI of lines of an installed object that can be fetched
takes them in order, holds each that had room and gives the count of the others; that the marks of 04 R99 are not asked of
them is the model's reading (log 25). UNLOCKI drops the locks of its lines and of no others. -/
def Claims.InstructionLocks : Prop :=
  (∀ (o : XS) (s s1 : State) (iss : Issue) (act : List (Nat × FibreId)) (k : Nat), s.Clear (.locki o) iss act →
    let r := s.srcG iss o.a
    s.refCheck iss.ctx r = none → refOfs r / 128 + o.imm.toNat ≤ (s.codeSlot iss.ctx r).npage * 512 →
    s.lockLines iss (refSlot r) (stepsFrom (refOfs r / 128) 1 o.imm.toNat) 0 = (s1, .ok k) →
    exec (.locki o) s = .next ((s1.gWriteNow iss.gid (opNum o.d) (BitVec.ofNat 64 k)).advance iss)) ∧
  (∀ (s : State) (iss : Issue) (slot k : Nat), s.lockLines iss slot [] k = (s, .ok k) ∧
    ∀ (s1 : State) (l : Nat) (r : List Nat), s.fetchWords iss.core iss.ctx (slot * 2 ^ 52 + (l + 1) * 128) 32 = (s1, .ok ()) →
      let p := s1.lockLine iss.core (iss.ctx, slot, l)
      s.lockLines iss slot (l :: r) k = p.1.lockLines iss slot r (if p.2 = true then k else k + 1)) ∧
  (∀ (s : State) (core : Nat) (l : Nat × Nat × Nat),
    let room := (s.core core).locked.length < 512 ∧
      ((s.core core).locked.filter fun x => lineSet s x == lineSet s l).length < 4
    (l ∈ (s.core core).locked → s.lockLine core l = (s, true)) ∧
    (l ∉ (s.core core).locked → room → (s.lockLine core l).2 = true ∧
      ((s.lockLine core l).1.core core).locked = (s.core core).locked ++ [l]) ∧
      (l ∉ (s.core core).locked → ¬room → s.lockLine core l = (s, false))) ∧
  ∀ (o : XS) (s : State) (iss : Issue) (act : List (Nat × FibreId)), s.Clear (.unlocki o) iss act →
    let r := s.srcG iss o.a
    let line := refOfs r / 128
    Passes (.unlocki o) s iss fun t => (t.core iss.core).locked = ((s.core iss.core).locked.filter fun x =>
        !decide (x.1 = iss.ctx ∧ x.2.1 = refSlot r ∧ line ≤ x.2.2 ∧ x.2.2 < line + o.imm.toNat)) ∧
      (∀ n, n ≠ iss.core → t.core n = s.core n) ∧ { t with cores := s.cores, teams := s.teams } = s

/-- RESOLVE, XLINV, RESUME, LOCKI and UNLOCKI. -/
def Obligations.SupervisorAndInstructionLocks : Prop := Claims.Supervisor ∧ Claims.InstructionLocks

/-! Regrouping. -/

/-- REORD and REORD_DEAL (11 R239, R240, R243 to R246; 22 R446): with every lane of an undiverged group arriving and its
results written, the lanes park with their keys and payload; a lone fibre whose team has arrived is formed into a group of
its own on its core, keeps its payload and goes on, and no other fibre changes but in SPIN, which a changed membership
clears (02 R48, R51). -/
def Obligations.Reordering : Prop :=
  (∀ (o : XS) (s : State) (iss : Issue) (act : List (Nat × FibreId)), s.Clear (.reord o) iss act →
    s.diverged iss.gid = false → act = iss.lanes → s.badReg = [] → (∀ y ∈ act, s.resultPending y.2 = false) →
    let n := o.imm.toNat % 8 + 1
    (∀ x ∈ act, opNum o.b + n ≤ (s.fibre x.2).window) →
    Answers (.reord o) s (ParkedOn s iss (.reord (o.imm.getLsbD 3) (o.imm.getLsbD 4) (opNum o.a) (opNum o.b) n iss.next))) ∧
  ∀ (s : State) (f : FibreId) (mix : Bool) (key p n : Nat) (next : Dword), s.liveFibres f.team = [f] →
    (s.fibre f).status = .blocked (.reord false mix key p n next) → (s.team f.team).control = false →
    (s.fibre f).role < 4 → 1 ≤ (s.team f.team).grant → (s.team f.team).grant ≤ 64 → s.badSump = [] →
    s.slotsTaken (s.coreOf f) [f] < 256 →
    (s.ctx (s.team f.team).ctx).stop = false → Answers (.reordDeal f.team) s fun t =>
      (t.fibre f).status = .ready ∧ (t.fibre f).pc = next ∧ (t.fibre f).window = (s.fibre f).window ∧
      (∀ i, p ≤ i → i < p + n → i < (s.fibre f).window → (t.fibre f).v.getD i 0 = (s.fibre f).v.getD i 0) ∧
      (t.group (t.fibre f).gid).members = [f] ∧ (t.group (t.fibre f).gid).grant = (s.team f.team).grant ∧
      (t.group (t.fibre f).gid).core = s.coreOf f ∧ (∀ g, g ≠ f → { t.fibre g with spin := (s.fibre g).spin } = s.fibre g) ∧
        t.mem = s.mem

/-! Launches, graphs and contexts. -/

/-- TEAM_START and TEAM_COMPLETION (02 R27, R28, R30; 03 R60 to R62, R66, R68, R69): a pending team whose footprint fits and
that no other comes before starts on its core: every fibre stands at the entry with its registers 0 and its predicates
false, g0 to g15 are P0 to P7 and the parameter block, and the launch counts it; a team without live fibres, without
engine operations under way and with every store, packet, slot and held access of its fibres performed (19 R393) is over, its
scratchpad given back. That a pending stop does not keep a team from
starting is the model's reading (log 28). -/
def Claims.Teams : Prop :=
  (∀ (s : State) (key num : Nat), num < 2 ^ 24 → (s.launch key).phase = 1 →
    (s.ctx (s.launch key).ctx).saved = false → (s.ctx (s.launch key).ctx).ended = false →
    num ∈ (s.launch key).unstarted → s.fits (s.launch key) num ((s.launch key).place.getD num 0) = true →
    s.someoneBefore (s.launch key) num ((s.launch key).place.getD num 0) = false →
    let l := s.launch key
    let tid := teamKey key num
    Answers (.teamStart tid) s fun t =>
      (t.team tid).core = l.place.getD num 0 ∧ (t.team tid).num = num ∧ (t.team tid).g = l.params ∧
      (t.team tid).nfib = (State.fibreShape l.words (num % recGsize l.words)).length ∧
      (∀ i x, (State.fibreShape l.words (num % recGsize l.words))[i]? = some x →
        (t.fibre ⟨tid, i⟩).pc = recEntry l.words ∧ (t.fibre ⟨tid, i⟩).role = x.1 ∧ (t.fibre ⟨tid, i⟩).window = x.2 ∧
        (t.fibre ⟨tid, i⟩).status = .ready ∧
        ∀ c n, (t.fibre ⟨tid, i⟩).vAt c n = 0 ∧ (1 ≤ n → (t.fibre ⟨tid, i⟩).kAt c n = false)) ∧
      num ∉ (t.launch key).unstarted ∧ tid ∈ (t.launch key).running ∧ (t.launch key).started = l.started + 1 ∧
      t.mem = s.mem) ∧
  ∀ (s : State) (tid : Nat), (s.teams.find tid).isSome = true → (s.team tid).ended = false → s.liveFibres tid = [] →
    (∀ x ∈ s.cmds, x.2.tid ≠ tid) → (∀ x ∈ s.mats, x.2.tid ≠ tid) → s.issuedOpen (fun f => f.team == tid) = false →
    KV.sorted s.pending = true → Answers (.teamCompletion tid) s fun t =>
      (t.team tid).ended = true ∧ (t.team tid).spad = [] ∧ tid ∉ (t.launch (s.team tid).launch).running ∧ t.mem = s.mem

/-- DISPATCH_TAKE, LAUNCH_COMPLETION and COMPLETION_REPORT (03 R57, R58, R66, R67): a dispatcher that takes a record lists
its launch in the entry, with LAUNCHID from the die and its count, the context and the priority of the queue; that it takes
the lowest free entry and passes over queues that it cannot read is the model's choice (log 38). A launch that is over, once
its release is done, completes, and its report is made or held until there is room. Without a report address the entry is
free at once; a word report puts the status word at its address in HBM first; a queue report offers its queue one element,
LAUNCHID and the status word, and where that is full the entry stays. -/
def Claims.Launches : Prop :=
  (∀ (s s1 : State) (die c i pa p e : Nat) (bs : List Byte), die < 4 → s.dispatchChoice die = some (c, i, pa, p) →
    s.freeEntry die = some e → s.qTake c pa 128 = (s1, .ok (some bs)) → Answers (.dispatchTake die) s fun t =>
      (∃ l, t.launches.find (die * 16384 + e) = some l ∧ l.ctx = c ∧ l.prio = p ∧ l.words = dwordsOf bs ∧
        l.launchId = BitVec.ofNat 64 (die * 2 ^ 62 + s1.taken.getD die 0) ∧ l.depth = bits (l.words.getD 0 0).toNat 15 12) ∧
      t.taken.getD die 0 = s1.taken.getD die 0 + 1 ∧ t.mem = s1.mem) ∧
  (∀ (s : State) (key : Nat), (s.launches.find key).isSome = true → s.launchOver key = true → s.launchReleased key = true →
    s.graphs.find key = none →
    exec (.launchCompletion key) s = .next ((s.modLaunch key fun l => { l with phase := 2 }).makeReport key).1) ∧
  (∀ (s : State) (key : Nat) (l : Launch), s.launches.find key = some l → l.phase = 2 → l.heldBy = none →
    (s.makeReport key).2 = true → exec (.completionReport key) s = .next (s.makeReport key).1) ∧
  (∀ (s : State) (key : Nat) (l : Launch), s.launches.find key = some l → KV.sorted s.launches = true → l.graph = none →
    bits (l.words.getD 5 0).toNat 47 0 = 0 →
    (s.makeReport key).2 = true ∧ (s.makeReport key).1.launches.find key = none ∧ (s.makeReport key).1.mem = s.mem ∧
      ∀ q, s.launches.find l.parent = some q → l.parent ≠ key →
        (s.makeReport key).1.launches.find l.parent = some { q with children := q.children - 1 }) ∧
  (∀ (s s1 s2 : State) (key pa : Nat) (l : Launch) (slot : Option Nat), s.launches.find key = some l →
    KV.sorted s.launches = true → l.graph = none → bits (l.words.getD 5 0).toNat 47 0 ≠ 0 →
    bits (l.words.getD 5 0).toNat 47 0 % 64 = 0 → bits (l.words.getD 0 0).toNat 7 7 = 0 →
    s.translateRaw l.ctx (bits (l.words.getD 5 0).toNat 47 0) .write true = (s1, .ok pa) → s1.reportSlotBad l.ctx pa = false →
    s1.qOffer l.ctx pa 16 (key / 16384) [leBytes 8 l.launchId.toNat ++ leBytes 8 (State.statusWord l).toNat] = (s2, .ok slot) →
    (slot = none → s.makeReport key = (s2, false)) ∧
    (slot ≠ none → (s.makeReport key).2 = true ∧ (s.makeReport key).1.launches.find key = none ∧
      (s.makeReport key).1.mem = s2.mem ∧ (s.makeReport key).1.l2 = s2.l2)) ∧
  ∀ (s s1 : State) (key pa : Nat) (l : Launch), s.launches.find key = some l → KV.sorted s.launches = true →
    l.graph = none → bits (l.words.getD 5 0).toNat 47 0 ≠ 0 → bits (l.words.getD 5 0).toNat 47 0 % 8 = 0 →
    bits (l.words.getD 0 0).toNat 7 7 = 1 →
    s.translateRaw l.ctx (bits (l.words.getD 5 0).toNat 47 0) .write true = (s1, .ok pa) → s1.owners = [] →
    s1.eccBad pa 8 = false → Inv s →
    (s.makeReport key).2 = true ∧ (s.makeReport key).1.launches.find key = none ∧
      ∀ i < 8, Memory.read (s.makeReport key).1.mem (pa + i) = BitVec.ofNat 8 ((State.statusWord l).toNat / 256 ^ i)

/-- Teams and launches, from the take of a record to its report. -/
def Obligations.TeamsAndLaunches : Prop := Claims.Teams ∧ Claims.Launches

/-- A machine with the contexts of another, no owned word and no error in memory, whose memory reads at the homes as the
other's does but for the PEND words of some graph nodes, at 28 bytes into each (03 R74). -/
def LikeButPend (s : State) (nn : Nat) (at' : Nat → Nat) (u : State) : Prop :=
  u.contexts = s.contexts ∧ u.spread = s.spread ∧ u.owners = [] ∧ u.badMem = [] ∧
    ∀ a, (∀ n < nn, a < at' n + 28 ∨ at' n + 32 ≤ a) → u.homeByte a = s.homeByte a

/-- GRAPH_START (03 R73 to R75): a sound header whose run may begin makes the run active and activates ENTRY; with the
header and the nodes mapped, A and D set, by entries that hold no PEND word, the PEND of every join node reads N after it,
that of every while node 0, and every other byte of memory as before. That a run is active until its report is made is the
model's choice (log 38). -/
def Claims.GraphStart : Prop :=
  ∀ (s s1 : State) (g pa : Nat) (x : Graph), s.graphs.find g = some x → x.active = false →
    x.heldBy = none → x.err = none → (s.ctx x.ctx).saved = false → s.translateRaw x.ctx x.hdr .read false = (s1, .ok pa) →
    s1.graphBusy g pa = false → x.hdr % 64 = 0 →
    (∀ (s2 s3 : State) (bs : List Byte), s1.readRaw x.ctx x.hdr 8 = (s2, .ok bs) →
      let nn := bits (leNat bs) 31 16
      let x' := { x with active := true, pa := pa, nnode := nn }
      bits (leNat bs) 15 0 = 0x4B47 → bits (leNat bs) 47 32 < nn →
      { s2 with graphs := s2.graphs.upd g fun x => { x with active := true, pa := pa, nnode := nn } }.resetNodes g x nn 0 =
        (s3, .ok ()) →
      Answers (.graphStart g) s fun t => t.mem = s.mem ∧
        t.graphs.find g = some { x' with acts := x.acts ++ [bits (leNat bs) 47 32] }) ∧
    let h := leNat (s.homeBytes pa 8)
    let nn := bits h 31 16
    ∀ at' : Nat → Nat, s.owners = [] → s.badMem = [] → bits h 15 0 = 0x4B47 → bits h 47 32 < nn →
      (∀ n < nn, at' n % 64 = 0) →
      (∀ u, LikeButPend s nn at' u → u.translateRaw x.ctx x.hdr .read false = (u, .ok pa) ∧
        ∀ n < nn, u.translateRaw x.ctx (x.hdr + 64 * (n + 1)) .read false = (u, .ok (at' n)) ∧
          u.translateRaw x.ctx (x.hdr + 64 * (n + 1) + 28) .write true = (u, .ok (at' n + 28))) →
      let kind := fun n => bits (leNat (s.homeBytes (at' n) 8)) 2 0
      let count := fun n => bits (leNat (s.homeBytes (at' n + 24) 8)) 31 0
      Answers (.graphStart g) s fun t =>
        t.graphs.find g = some { x with active := true, pa := pa, nnode := nn, acts := x.acts ++ [bits h 47 32] } ∧
        (∀ n < nn, (kind n = 1 → ∀ i < 4, t.homeByte (at' n + 28 + i) = BitVec.ofNat 8 (count n / 256 ^ i)) ∧
          (kind n = 3 → ∀ i < 4, t.homeByte (at' n + 28 + i) = 0)) ∧
        ∀ a, (∀ n < nn, (kind n = 1 ∨ kind n = 3) → a < at' n + 28 ∨ at' n + 32 ≤ a) → t.homeByte a = s.homeByte a

/-- The activations of a launch graph (03 R74, R75, R77): the one at a graph's head is made: a join counts its PEND down and,
at 0, starts again at N and activates its successors (that one with N = 0 counts on from 2^32 − 1 is the model's choice, log
38), a conditional goes by its condition word, a while node by its condition word and limit, and a launch node takes its
record as a new launch of the graph. When that launch completes, its graph has one fewer under way and activates the
successors that the node held as it was activated (the model's reading, log 20), or takes the launch's error and activates
nothing more. -/
def Claims.GraphActivations : Prop :=
  (∀ (s s1 : State) (g n : Nat) (x : Graph) (dw : List Nat), s.graphs.find g = some x →
    s.activation g n = some (s1, .ok dw) →
    let kind := bits (dw.getD 0 0) 2 0
    let next := State.successors dw
    let goes := fun (t : State) (l : List Nat) => t.graphs.find g = some { x with acts := x.acts.tail ++ l }
    (∀ n ∈ next, n < x.nnode) →
    (∀ s2, kind = 1 →
      let p := (bits (dw.getD 3 0) 63 32 + 2 ^ 32 - 1) % 2 ^ 32
      s1.graphWrite x.ctx (x.hdr + 64 * (n + 1) + 28) (leBytes 4 (if p = 0 then bits (dw.getD 3 0) 31 0 else p)) = (s2, .ok ()) →
      Answers (.joinActivation g n) s fun t => goes t (if p = 0 then next else []) ∧
        { t with graphs := s2.graphs } = s2) ∧
    (∀ s2 bs, kind = 2 → s1.readRaw x.ctx (bits (dw.getD 2 0) 47 0) 8 = (s2, .ok bs) →
      Answers (.conditionalActivation g n) s fun t =>
        goes t [next.getD (if leNat bs ≠ 0 then 0 else 1) 0] ∧ { t with graphs := s2.graphs } = s2) ∧
    (∀ s2 s3 bs, kind = 3 → s1.readRaw x.ctx (bits (dw.getD 2 0) 47 0) 8 = (s2, .ok bs) →
      let p := (bits (dw.getD 3 0) 63 32 + 1) % 2 ^ 32
      let more := leNat bs ≠ 0 ∧ (bits (dw.getD 3 0) 31 0 = 0 ∨ p ≤ bits (dw.getD 3 0) 31 0)
      (more → s2.graphWrite x.ctx (x.hdr + 64 * (n + 1) + 28) (leBytes 4 p) = (s3, .ok ()) →
        Answers (.whileActivation g n) s fun t => goes t [next.getD 0 0] ∧ { t with graphs := s3.graphs } = s3) ∧
      (¬more → s2.graphWrite x.ctx (x.hdr + 64 * (n + 1) + 28) (leBytes 4 0) = (s3, .ok ()) →
        Answers (.whileActivation g n) s fun t => goes t [next.getD 1 0] ∧ { t with graphs := s3.graphs } = s3)) ∧
    ∀ s2 bs e, kind = 0 → s1.readRaw x.ctx (bits (dw.getD 2 0) 47 0) 128 = (s2, .ok bs) → recVer (dwordsOf bs) ≠ 15 →
      s2.freeEntry (homeDie x.pa) = some e →
      Answers (.launchNodeActivation g n) s fun t =>
        t.graphs.find g = some { x with acts := x.acts.tail, out := x.out + 1, made := x.made + 1 } ∧
        ∃ l, t.launches.find (homeDie x.pa * 16384 + e) = some l ∧ l.graph = some (g, n) ∧ l.succs = next ∧ l.ctx = x.ctx ∧
          l.prio = x.prio ∧ l.words = dwordsOf bs) ∧
  ∀ (s : State) (key g n : Nat) (l : Launch) (x : Graph), s.launches.find key = some l → KV.sorted s.launches = true →
    s.launchOver key = true → s.launchReleased key = true → s.graphs.find key = none → l.graph = some (g, n) →
    s.graphs.find g = some x → x.err = none →
    Answers (.launchCompletion key) s fun t => t.launches.find key = none ∧ t.mem = s.mem ∧
      (l.err = true → t.graphs.find g =
        some { x with out := x.out - 1, err := some (l.cause, l.detail), acts := [] }) ∧
      (l.err = false → (∀ n ∈ l.succs, n < x.nnode) →
        t.graphs.find g = some { x with out := x.out - 1, acts := x.acts ++ l.succs })

/-- Launch graphs, from the start of a run to the completion of a node's launch. -/
def Obligations.Graphs : Prop := Claims.GraphStart ∧ Claims.GraphActivations

/-- FAULT_RECORD_ENQUEUE and CODE_PAGE_HASH_CHECK (12 R262, R263; 13 R286, R287): the oldest waiting record is offered to
FAULTQ as one element of 64 bytes and, where it is taken, waits no more, a recoverable or held one being outstanding from
then on; a first fetch's page that has the listed hash is verified, and any other makes its slot untrusted and drops its
cached and locked lines. -/
def Claims.FaultQueueAndCode : Prop :=
  (∀ (s s1 s2 : State) (ctx pa i : Nat) (r : FaultRec) (l : List FaultRec), (s.ctx ctx).waiting = r :: l →
    (s.ctx ctx).faultq % 64 = 0 → s.translateRaw ctx (s.ctx ctx).faultq .write true = (s1, .ok pa) →
    s1.qOffer ctx pa 64 (if r.src = 0 ∨ r.src = 1 then r.core / 48 else 0) [State.recordBytes r] = (s2, .ok (some i)) →
    (State.recordBytes r).length = 64 ∧ Answers (.faultRecordEnqueue ctx) s fun t => (t.ctx ctx).waiting = l ∧
      ((r.recov = true ∨ r.held = true) → (t.ctx ctx).records.find r.id = some r) ∧
      { t with contexts := s2.contexts } = s2) ∧
  ∀ (s s1 : State) (ctx slot page pa : Nat) (c : CodeSlot), (ctx, slot, page) ∈ s.hashWait →
    (s.ctx ctx).slots.find slot = some c → s.translateRaw ctx (c.laddr + 65536 * page) .fetch false = (s1, .ok pa) →
    s1.eccBad pa 65536 = false →
    (sha384 (s1.homeBytes pa 65536) = c.pageHash.getD page [] → Answers (.codePageHashCheck ctx slot page) s fun t =>
      (ctx, slot, page) ∉ t.hashWait ∧ (t.ctx ctx).slots.find slot = some { c with vbm := c.vbm ++ [page] } ∧
      { t with contexts := s1.contexts, hashWait := s1.hashWait, hashHeld := s1.hashHeld } = s1) ∧
    (sha384 (s1.homeBytes pa 65536) ≠ c.pageHash.getD page [] → s.hashWaiters ctx slot page = [] →
      Answers (.codePageHashCheck ctx slot page) s fun t => (ctx, slot, page) ∉ t.hashWait ∧
        (t.ctx ctx).slots.find slot = some { c with state := 2 } ∧
        (∀ n x, x ∈ (t.core n).locked → ¬(x.1 = ctx ∧ x.2.1 = slot)) ∧
        ∀ n x, x ∈ (t.core n).code → ¬(x.ctx = ctx ∧ x.slot = slot))

/-- STOP_REQUEST, STOP_COMPLETION and CONTEXT_RESTORE (12 R269 to R274; 13 R290, R291): a running context takes a stop
request; when everything of it has settled it is saved, without groups, with its instruction locks dropped, LOST set and
its objects' hashes recorded; a saved one whose slots still hold them is restored by a chamber map that fits: it is saved
no more, no stop is pending, its teams' launches place them on the mapped cores, every page is checked again and an
untrusted object is untrusted still; one whose slots do not, or that mixes modes, is refused with a notice, whose number 2
is the model's choice (log 23). -/
def Claims.StopAndRestore : Prop :=
  (∀ (s : State) (ctx : Nat), s.running ctx = true → (s.ctx ctx).stop = false →
    Answers (.stopRequest ctx) s fun t => (t.ctx ctx).stop = true ∧ t.mem = s.mem) ∧
  (∀ (s : State) (ctx : Nat), s.running ctx = true → (s.ctx ctx).stop = true → s.settled ctx = true →
    (s.ctx ctx).saver = none → Answers (.stopCompletion ctx) s fun t =>
      (t.ctx ctx).saved = true ∧ (t.ctx ctx).lost = true ∧
      (t.ctx ctx).recorded = ((s.ctx ctx).slots.filter fun x => x.2.state != 0).map (fun x => (x.1, x.2.hash, x.2.state)) ∧
        (∀ x ∈ t.groups, x.2.ctx ≠ ctx) ∧
      (∀ n, ∀ x ∈ (t.core n).locked, x.1 ≠ ctx) ∧ t.mem = s.mem) ∧
  ∀ (s : State) (ctx : Nat) (map : List Nat), (s.ctx ctx).saved = true → s.mapOk ctx map = true →
    s.restoreFits ctx map = true →
    (((∃ x ∈ (s.ctx ctx).recorded, ((s.ctx ctx).slots.getD x.1 {}).state = 0 ∨ ((s.ctx ctx).slots.getD x.1 {}).hash ≠ x.2.1) ∨
        s.modeConflict ctx = true) → exec (.contextRestore ctx map) s = .next (s.notice 2 ctx)) ∧
    (s.restoreRefused ctx = false → (s.ctx ctx).resolved = [] →
      Answers (.contextRestore ctx map) s fun t => (t.ctx ctx).saved = false ∧ (t.ctx ctx).stop = false ∧
        (∀ k l, s.launches.find k = some l → l.ctx = ctx → (t.launch k).place = l.place.map (mapCore map)) ∧
        ∀ n c, (s.ctx ctx).slots.find n = some c → ∃ d, (t.ctx ctx).slots.find n = some d ∧ d.vbm = [] ∧
          d.state = if ((s.ctx ctx).recorded.getD n ([], 0)).2 = 2 then 2 else c.state)

/-- The fault queue, the page-hash check, stop requests and restoring. -/
def Obligations.ContextSteps : Prop := Claims.FaultQueueAndCode ∧ Claims.StopAndRestore

/-! Bring-up, power, the ports and management. -/

/-- The stages of bring-up (14 R297 to R300, R304): power-good starts stage 1 from nothing, a loss of supply ends every
state but the hourly history in the external flash and what the unclonable function yields (R301), a stage that succeeds
goes on to the next with its effect, one that fails leaves READY at 0 with its FAIL code, and MSTAT reads READY, STAGE and
FAIL. That HBM is empty without power and the history keeps every report is the model's choice (log 33), and so are the
values that the rest of the machine has before stage 3, those of State.reset (logs 11 and 32). -/
def Claims.BringUp : Prop :=
  ∀ (s : State),
    let off : State := { State.reset with agenda := s.agenda, wire := s.wire, dev := { history := s.dev.history, puf := s.dev.puf } }
    let dev := fun (d : Device) => Host.Outcome.next (φ := Machine.Fault) (ρ := Refusal) { s with dev := d }
    (s.dev.power = false →
      exec .powerGood s = .next { off with dev := { off.dev with power := true, stage := 1 } }) ∧
    exec .powerLoss s = .next off ∧
    (s.dev.stage < 8 → s.dev.fail < 256 →
      bits s.mstat 0 0 = b2n s.dev.ready ∧ bits s.mstat 3 1 = s.dev.stage ∧ bits s.mstat 15 8 = s.dev.fail) ∧
    (s.dev.power = true → s.dev.fail = 0 →
      (s.dev.stage = 1 → ∀ tag,
        exec (.selfCalibration true tag) s = dev { s.dev with
          stage := 2, boardTag := tag % 2 ^ 32, ports := [(0, { up := true }), (1, { up := true })] } ∧
        exec (.selfCalibration false tag) s = dev { s.dev with fail := 1 }) ∧
      (s.dev.stage = 2 → ∀ x,
        ((s.dev.puf = none ∨ s.dev.puf = some (x % 2 ^ 256)) → exec (.builtInSelfTest true x) s = dev { s.dev with
          stage := 3, secret := x % 2 ^ 256, puf := some (x % 2 ^ 256) }) ∧
        exec (.builtInSelfTest false x) s = dev { s.dev with fail := 2 }) ∧
      (s.dev.stage = 3 →
        (∃ t, exec (.memoryInitialisation true) s = .next t ∧ t.dev = { s.dev with stage := 4 } ∧
          (∀ a, t.sliceByte a = 0) ∧ t.badMem = [] ∧ t.badSpad = [] ∧ t.badReg = [] ∧ t.badSump = [] ∧ t.badElse = []) ∧
        exec (.memoryInitialisation false) s = dev { s.dev with fail := 3 }) ∧
      (s.dev.stage = 4 → ∀ img,
        (img.readable = false → exec (.firmwareVerify img) s = dev { s.dev with fail := 4 }) ∧
        (img.readable = true →
          let rsa := sha384 img.rsaKey = Config.romRsaHash ∧ pssVerify img.rsaKey img.body img.rsaSig = true
          let slh := sha384 img.slhKey = Config.romSlhHash ∧ slhVerify img.slhKey img.body img.slhSig = true
          (¬rsa → exec (.firmwareVerify img) s = dev { s.dev with fail := 5 }) ∧
          (rsa → ¬slh → exec (.firmwareVerify img) s = dev { s.dev with fail := 6 }) ∧
          (rsa → slh → exec (.firmwareVerify img) s = dev { s.dev with
            stage := 5, fwVersion := Config.imageVersion img.body, fwHash := sha384 img.body
            ownerKeys := Config.imageOwnerKeys img.body }))) ∧
      (s.dev.stage = 5 → ∀ img,
        let body := (img.dws.map fun d => leBytes 8 d.toNat).flatten
        let signed := sha384 img.rsaKey = s.dev.ownerKeys.take 48 ∧ pssVerify img.rsaKey body img.rsaSig = true ∧
          sha384 img.slhKey = s.dev.ownerKeys.drop 48 ∧ slhVerify img.slhKey body img.slhSig = true
        (img.readable = false → exec (.configurationApply img) s = dev { s.dev with fail := 4 }) ∧
        (img.readable = true → ¬signed → exec (.configurationApply img) s = dev { s.dev with fail := 7 }) ∧
        (img.readable = true → signed → cfgBad img.dws = true →
          exec (.configurationApply img) s = dev { s.dev with fail := 8 }) ∧
        (img.readable = true → signed → cfgBad img.dws = false →
          exec (.configurationApply img) s = .next { s with
            spread := bits (img.dws.getD 0 0).toNat 6 0
            dev := { s.dev with stage := 6, ready := true, cfg := img.dws, cfgHash := sha384 body } })))

/-- Power, thermal states and health (14 R313, R314): the state that a reading puts a die in, by the entry points of R314
that it has passed (bit 2: 100 °C, bit 3: 105 °C, bit 4: HBM at 95 °C, bit 5: 110 °C) and the 5 °C of leaving; a reading
below the shutdown changes the die's record alone; at 110 °C or more READY is cleared, FAIL is 9 and no launch is left; the
hourly estimate joins the history, which keeps every report (the model's choice, log 33), and the report is of the last 720
hours of it (its means rounded down, the model's choice, log 23); a link that comes back is up. -/
def Claims.PowerAndHealth : Prop :=
  (∀ (cap before : Nat) (x : Sense), before < 32 → 100 * x.power ≤ 97 * cap → 0 < cap →
    let n := State.thermalState cap x (State.passedNow cap x before)
    let cool := x.hbm < 95 ∧ (bit before 4 = false ∨ x.hbm ≤ 90)
    (110 ≤ x.junction → n = 4) ∧
    (105 ≤ x.junction → x.junction < 110 → n = 3) ∧
    (100 < x.junction → x.junction < 105 → bit before 3 = true → n = 3) ∧
    (100 ≤ x.junction → x.junction < 105 → bit before 3 = false → cool → n = 2) ∧
    (95 < x.junction → x.junction < 100 → bit before 2 = true → cool → n = 2) ∧
    (95 ≤ x.junction → x.junction < 100 → bit before 2 = false → cool → n = 1) ∧
    (x.junction < 110 → 95 ≤ x.hbm → n = 3) ∧
    (x.junction ≤ 90 → x.hbm ≤ 90 → n = 0)) ∧
  (∀ (s : State) (die : Nat) (x : Sense),
    let passed := State.passedNow s.powerCap x (s.dev.passed.getD die 0)
    let new := State.thermalState s.powerCap x passed
    s.dev.ready = true → die < 4 →
    (new ≠ 4 → exec (.thermalStateChange die x) s = .next { s with dev := { s.dev with
      thr := s.dev.thr.set die new, passed := s.dev.passed.set die passed
      junction := s.dev.junction.set die x.junction } }) ∧
    (new = 4 → ∃ t, exec (.thermalStateChange die x) s = .next t ∧ t.dev.ready = false ∧ t.dev.fail = 9 ∧
      t.dev.thr = [4, 4, 4, 4] ∧ t.launches = [] ∧ t.graphs = [] ∧
      ∀ c x, s.contexts.find c = some x → (t.ctx c).ended = true)) ∧
  (∀ (s : State) (r : HealthSample), s.dev.ready = true → r.die.length = 4 → (∀ d ∈ r.die, d ≤ 1000) →
    let l := (r :: s.dev.history).take 720
    let mean := fun (f : HealthSample → Nat) => (l.map f).foldl (· + ·) 0 / l.length
    exec (.healthEstimate r) s = .next { s with dev := { s.dev with
      history := r :: s.dev.history
      health := { die := r.die, days := r.days, temp := mean (·.temp), volt := mean (·.volt), active := mean (·.active)
                  hours := l.length } } }) ∧
  ∀ (s : State) (n : Nat) (p : NetPort), s.dev.power = true → s.dev.ports.find n = some p →
    ∃ t, exec (.linkTraining n) s = .next t ∧ (t.port n).up = true ∧ t.mem = s.mem

/-- Bring-up, power, thermal states and health. -/
def Obligations.BringUpAndPower : Prop := Claims.BringUp ∧ Claims.PowerAndHealth

/-- A port sends at once: it is live, not paused, and nothing waits at it. -/
def Ready (s : State) (n : Nat) : Prop :=
  s.portLive n = true ∧ (s.port n).paused ≤ s.clockOf 0 ∧ (s.port n).out = []

/-- A packet sent on a port carries the port's own MAC address, the MAC of its next hop or of the asker it answers, the
configured VLAN tag and priority, and in an IP packet the port's address, the destination and the configured DSCP (14 R300,
R302, R304). -/
def OnWire (s : State) (n : Nat) (o : Outgoing) (w : Wired) : Prop :=
  w.port = n ∧ w.smac = s.portMac n ∧ w.pkt = o.pkt ∧ w.prio = s.cfgField 7 2 0 ∧
    (∀ h, o.hop = some h → w.dmac = State.hopMac (s.port n) h) ∧ (o.hop = none → w.dmac = o.mac) ∧
    w.vid = (if s.configured = true ∧ s.cfgField 7 3 3 = 1 then some (s.cfgField 7 15 4) else none) ∧
    (o.ip = none → w.ip = none ∧ w.dscp = none) ∧
    ∀ v6 d, o.ip = some (v6, d) → w.ip = some (v6, if v6 then s.portIp6 n else s.portIp4 n, d) ∧ w.dscp = some (s.cfgField 7 21 16)

/-- The instruction answers a next state with one packet more sent on a port, and nothing else changed but the port. -/
def Sends (i : Instr) (s : State) (n : Nat) (o : Outgoing) : Prop :=
  ∃ t w, exec i s = .next t ∧ OnWire s n o w ∧ t.wire = w :: s.wire ∧ { t with wire := s.wire, dev := s.dev } = s ∧
    { t.dev with ports := s.dev.ports } = s.dev

/-- What arrives at the ports (14 R302; log 22 for the pause's clocks): ARP requests and neighbour solicitations for an own
address are answered with the port's MAC, echo requests with their data; a router advertisement names the router; a pause
for PFCP holds the port for its quanta, and for another priority does nothing; a reply that is waited for resolves its next
hop. What is not for the port changes nothing. -/
def Claims.Neighbours : Prop :=
  ∀ (p : NetPkt) (s : State), s.dev.power = true →
    (∀ c ∈ ([(.arpRequest, false), (.neighbourSolicitation, true)] : List ((NetPkt → Instr) × Bool)),
      (s.heard p = true → Ready s p.port → s.ownIp p.port c.2 p.dst = true → (c.2 = true ∨ s.configured = true) →
        Sends (c.1 p) s p.port { hop := none, mac := some p.mac, ip := if c.2 then some (true, p.src) else none
                                 pkt := .answer c.2 p.dst (s.portMac p.port) p.src }) ∧
      (s.heard p = false ∨ s.ownIp p.port c.2 p.dst = false → exec (c.1 p) s = .next s)) ∧
    (s.heard p = true → Ready s p.port → s.configured = true → s.ownIp p.port p.v6 p.dst = true →
      ∀ hop, s.nextHop p.port p.v6 p.src = some hop → State.resolved (s.port p.port) (some (p.v6, hop)) = true →
      Sends (.icmpEchoRequest p) s p.port { hop := some (p.v6, hop), ip := some (p.v6, p.src), pkt := .echo p.v6 p.src p.data }) ∧
    (s.heard p = true → s.portIp6 p.port ≠ 0 → ∃ t, exec (.routerAdvertisement p) s = .next t ∧
      t.port p.port = { s.port p.port with router := some p.src } ∧ { t with dev := s.dev } = s) ∧
    (s.portLive p.port = true → s.configured = true → p.prio = s.cfgField 7 2 0 → 0 < p.quanta →
      ∃ t, exec (.pfcPauseFrame p) s = .next t ∧
        t.port p.port = { s.port p.port with paused := s.clockOf 0 + (p.quanta * 512 + 999) / 1000 } ∧
        { t with dev := s.dev } = s) ∧
    (p.prio ≠ s.cfgField 7 2 0 → exec (.pfcPauseFrame p) s = .next s) ∧
    ∀ c ∈ ([(.arpReply, false), (.neighbourAdvertisement, true)] : List ((NetPkt → Instr) × Bool)),
      (∀ o : Outgoing, s.heard p = true → (s.port p.port).paused ≤ s.clockOf 0 →
        (s.port p.port).out = [o] → o.hop = some (c.2, p.src) →
        ∃ t w, exec (c.1 p) s = .next t ∧ State.hopMac (t.port p.port) (c.2, p.src) = some p.mac ∧ OnWire t p.port o w ∧
          (t.port p.port).out = [] ∧ t.wire = w :: s.wire ∧ t.mem = s.mem) ∧
      ((∀ o ∈ (s.port p.port).out, o.hop ≠ some (c.2, p.src)) → exec (c.1 p) s = .next s)

/-- A queue pair's packets go at once: its port is ready and the next hop to its remote address is known. -/
def PairReady (s : State) (qpn : Nat) (q : QueuePair) (hop : Nat) : Prop :=
  s.qps.find qpn = some q ∧ Ready s q.port ∧
    s.nextHop q.port q.v6 q.ip = some hop ∧ State.resolved (s.port q.port) (some (q.v6, hop)) = true

/-- A packet of a queue pair to its remote address (14 R312). -/
def toPair (q : QueuePair) (hop : Nat) (pkt : Sent) : Outgoing :=
  { hop := some (q.v6, hop), ip := some (q.v6, q.ip), pkt := pkt }

/-- A RoCE request that reaches its queue pair, whose answers go at once: the port, the VLAN tag and the addresses are the
pair's (14 R300, R302, R312), and it carries no ECN mark. -/
structure Reaches (s : State) (r : RdmaReq) (q : QueuePair) (hop : Nat) : Prop where
  power : s.dev.power = true
  unmarked : r.ce = false
  ready : PairReady s r.qpn q hop
  heard : s.requestHeard r = true

/-- RDMA WRITE, RDMA READ, SEND and the congestion control (06 R140; 14 R307, R311, R312, R496; the sequence numbers: log
22): in its turn a write of registered memory that its page admits puts its bytes in HBM, no other byte changing, and is
acknowledged with the number of its last packet; a read is answered with HBM's bytes; a SEND is acknowledged; each moves the
expected number on by its packets. An access that no registration serves changes no memory and is answered with the remote
access error, a repeat is acknowledged again, one after a gap is told the number expected, and what does not reach the pair
is dropped. A notification halves the rate, down to 1 Gb/s, and a recovery adds 25 Gb/s, up to line rate. -/
def Claims.RemoteMemory : Prop :=
  let past := fun (q : QueuePair) (n : Nat) => { q with rpsn := (q.rpsn + max 1 ((n + 4095) / 4096)) % 2 ^ 24 }
  let last := fun (r : RdmaReq) => (r.psn + max 1 ((r.data.length + 4095) / 4096) - 1) % 2 ^ 24
  (∀ (r : RdmaReq) (s s1 : State) (q : QueuePair) (hop pa : Nat), Reaches s r q hop → r.psn = q.rpsn →
    s.served r true r.data.length = true → r.data ≠ [] → r.va % 65536 + r.data.length ≤ 65536 →
    s.translateRaw q.ctx r.va .write true = (s1, .ok pa) → Inv s1 → PairReady s1 r.qpn q hop →
    ∃ t w, exec (.rdmaWrite r) s = .next t ∧ OnWire s1 q.port (toPair q hop (.ack q.rqpn (last r))) w ∧ t.wire = w :: s1.wire ∧
      t.qps.find r.qpn = some (past q r.data.length) ∧
      (∀ i, (h : i < r.data.length) → Memory.read t.mem (pa + i) = r.data[i]) ∧
      ∀ a, (a < pa ∨ pa + r.data.length ≤ a) → Memory.read t.mem a = Memory.read s1.mem a) ∧
  (∀ (r : RdmaReq) (s s1 : State) (q : QueuePair) (hop pa : Nat), Reaches s r q hop → r.psn = q.rpsn →
    s.served r false r.len = true → 0 < r.len → r.va % 65536 + r.len ≤ 65536 →
    s.translateRaw q.ctx r.va .read false = (s1, .ok pa) → PairReady s1 r.qpn q hop →
    ∃ t w, exec (.rdmaRead r) s = .next t ∧ t.mem = s1.mem ∧ t.qps.find r.qpn = some (past q r.len) ∧
      OnWire s1 q.port (toPair q hop (.readReply q.rqpn r.psn ((upto r.len).map fun i => Memory.read s1.mem (pa + i)))) w ∧
      t.wire = w :: s1.wire) ∧
  (∀ (r : RdmaReq) (s : State) (q : QueuePair) (hop : Nat), Reaches s r q hop →
    let behind := (q.rpsn + 2 ^ 24 - r.psn) % 2 ^ 24
    let sends := fun (i : Instr) (pkt : Sent) => Sends i s q.port (toPair q hop pkt)
    (behind = 0 → s.served r true r.data.length = false → sends (.rdmaWrite r) (.accessError q.rqpn r.psn)) ∧
    (behind < 2 ^ 23 → s.served r false r.len = false → sends (.rdmaRead r) (.accessError q.rqpn r.psn)) ∧
    (behind = 0 → ∃ t w, exec (.roceSend r) s = .next t ∧ OnWire s q.port (toPair q hop (.ack q.rqpn (last r))) w ∧
      t.wire = w :: s.wire ∧ t.qps.find r.qpn = some (past q r.data.length) ∧
      { t with wire := s.wire, dev := s.dev, qps := s.qps } = s) ∧
    (0 < behind → behind < 2 ^ 23 → sends (.rdmaWrite r) (.ack q.rqpn (last r)) ∧
      sends (.roceSend r) (.ack q.rqpn (last r))) ∧
    (2 ^ 23 ≤ behind → ∀ c ∈ ([.rdmaWrite, .rdmaRead, .roceSend] : List (RdmaReq → Instr)),
      sends (c r) (.sequenceError q.rqpn q.rpsn))) ∧
  (∀ (r : RdmaReq) (s : State), s.dev.power = true → s.requestHeard r = false →
    ∀ c ∈ ([.rdmaWrite, .rdmaRead, .roceSend] : List (RdmaReq → Instr)), exec (c r) s = .next s) ∧
  ∀ (s : State) (qpn : Nat) (q : QueuePair), s.dev.power = true → s.qps.find qpn = some q → s.portLive q.port = true →
    (∃ t, exec (.congestionNotification qpn) s = .next t ∧ { t with qps := s.qps } = s ∧
      t.qps.find qpn = some (if q.rate ≤ 2 * q.rateDen then { q with rate := 1, rateDen := 1 }
        else { q with rateDen := 2 * q.rateDen })) ∧
    ∃ t, exec (.rateRecovery qpn) s = .next t ∧ { t with qps := s.qps } = s ∧
      t.qps.find qpn = some (if 800 * q.rateDen ≤ q.rate + 25 * q.rateDen then { q with rate := 800, rateDen := 1 }
        else { q with rate := q.rate + 25 * q.rateDen })

/-- What arrives at the Ethernet ports beside Druiraim frames. -/
def Obligations.PortsAndRemoteMemory : Prop := Claims.Neighbours ∧ Claims.RemoteMemory

/-- A management frame of the owner's session whose turn it is, with its TAG right (14 R303 to R305). -/
structure InTurn (s : State) (f : Frame) (sid : Nat) (e : Session) : Prop where
  taken : s.frameOk f = true
  session : s.sessionOf f.sender = some (sid, e)
  listed : s.dev.sessions.find sid = some e
  owner : e.owner = true
  management : f.ctxid = 0
  tag : f.tag = frameTag e.skey f.kind f.ctxid f.seq f.len f.payload
  next : f.seq < 2 ^ 32 ∧ f.seq = e.next.getD 0 0

/-- What stands before a frame of a session is executed: the session is the one used last, and its next number moves on. -/
def turned (s : State) (sid : Nat) : State :=
  (s.modDev fun d => { d with
    stamp := d.stamp + 1, sessions := d.sessions.upd sid fun e => { e with used := d.stamp + 1 } }).stepNext sid 0

/-- What an operation answers is sent in the session, in fragments, and kept (14 R305, R307). -/
def answered (sid : Nat) (e : Session) (f : Frame) (r : State × Answer) : State :=
  match r with
  | (u, none) => u
  | (u, some (st, x)) =>
    if (u.dev.sessions.find sid).isSome then u.replyAll sid 0x11 f.ctxid f.seq (State.fragments st x)
    else u.each (State.fragments st x) fun u p => u.sendFrame e.port e.sender (some e.skey) 0x11 f.ctxid f.seq p

/-- The sixteen management operations and the frames that carry them (14 R303 to R306, R309, R310): a request of the owner
in its turn is performed and answered; a sender without a session is answered STATUS, ATTEST and ATTACH alone, with TAG
zero; a wrong TAG or version is dropped; a frame ahead of its turn is held, and executed when its number is next; a
repeat has its kept replies sent again; a remote enqueue in its turn is executed and its reply kept unless it is "full". -/
def Claims.ManagementFrames : Prop :=
  (∀ c ∈ ([(.status, 0x01, fun s _ f => s.doStatus f.payload), (.attest, 0x02, fun s _ f => s.doAttest f.payload),
      (.attach, 0x03, fun s _ f => s.doAttach f), (.peer, 0x04, fun s _ f => s.doPeer f.payload),
      (.ctxcreate, 0x10, fun s _ f => s.doCtxcreate f.payload), (.ctxend, 0x11, fun s _ f => s.doCtxend f.payload),
      (.bindq, 0x12, fun s _ f => s.doBindq f.payload), (.install, 0x13, fun s _ f => s.doInstall f.payload),
      (.save, 0x14, fun s sid f => s.doSave sid f.seq f.payload), (.restore, 0x15, fun s _ f => s.doRestore f.payload),
      (.mreg, 0x16, fun s _ f => s.doMreg f.payload), (.qpopen, 0x17, fun s _ f => s.doQpopen f.payload),
      (.epset, 0x18, fun s _ f => s.doEpset f.payload), (.health, 0x20, fun s _ f => s.doHealth f.payload),
      (.pcap, 0x21, fun s _ f => s.doPcap f.payload), (.brk, 0x30, fun s _ f => s.doBreak f.payload)] :
      List ((Frame → Instr) × Nat × (State → Nat → Frame → State × Answer))),
    ∀ (f : Frame) (s : State), s.dev.power = true → f.kind = 0x10 → State.opOf f = c.2.1 →
      (∀ sid e, InTurn s f sid e → exec (c.1 f) s = .next (answered sid e f (c.2.2 (turned s sid) sid f))) ∧
      (s.frameOk f = true → s.sessionOf f.sender = none → c.2.1 ≤ 3 → f.ctxid = 0 →
        ∃ st x, (c.2.2 s 0 f).2 = some (st, x) ∧ exec (c.1 f) s = .next (State.each (c.2.2 s 0 f).1 (State.fragments st x)
          fun s p => s.sendFrame f.port f.sender none 0x11 0 f.seq p)) ∧
      (s.frameOk f = true → s.sessionOf f.sender = none → (3 < c.2.1 ∨ f.ctxid ≠ 0) → exec (c.1 f) s = .next s) ∧
      (s.frameOk f = false → exec (c.1 f) s = .next s) ∧
      (∀ sid e, s.sessionOf f.sender = some (sid, e) → f.tag ≠ frameTag e.skey f.kind f.ctxid f.seq f.len f.payload →
        exec (c.1 f) s = .next s)) ∧
  (∀ (f : Frame) (s : State) (sid : Nat) (e : Session), s.dev.power = true → f.kind = 1 → s.frameOk f = true →
    s.sessionOf f.sender = some (sid, e) → s.dev.sessions.find sid = some e →
    f.tag = frameTag e.skey f.kind f.ctxid f.seq f.len f.payload → f.ctxid ≠ 0 → s.named f.ctxid = true →
    s.reach e f.ctxid = true → f.seq = e.next.getD f.ctxid 0 → f.seq < 2 ^ 32 →
    let u := s.modDev fun d => { d with
      stamp := d.stamp + 1, sessions := d.sessions.upd sid fun e => { e with used := d.stamp + 1 } }
    u.enqueueWaits f = false →
    (∀ t i, u.enqueueFrame f = (t, 1, i) → exec (.remoteEnqueue f) s = .next
      (t.sendFrame e.port e.sender (some e.skey) 2 f.ctxid f.seq (State.enqueueReply f.seq 1 0))) ∧
    ∀ t st i, u.enqueueFrame f = (t, st, i) → st ≠ 1 → exec (.remoteEnqueue f) s = .next
      ((t.stepNext sid f.ctxid).replyAll sid 2 f.ctxid f.seq [State.enqueueReply f.seq st i])) ∧
  (∀ (f : Frame) (s : State) (sid : Nat) (e : Session) (d : Nat), 0 < d → e.next.getD f.ctxid 0 < 2 ^ 32 →
    f.seq = (e.next.getD f.ctxid 0 + d) % 2 ^ 32 →
    (d < 256 → (∀ h ∈ e.held, ¬(h.ctxid = f.ctxid ∧ h.seq = f.seq)) →
      s.number sid e f = s.modSession sid fun e => { e with held := e.held ++ [f] }) ∧
    (256 ≤ d → d < 2 ^ 31 → s.number sid e f = s) ∧
    (2 ^ 31 ≤ d → d < 2 ^ 32 → ∀ k p, e.kept.filter (fun k => k.1 == f.ctxid && k.2.1 == f.seq) = [(f.ctxid, f.seq, k, p)] →
      s.number sid e f = s.sendFrame e.port e.sender (some e.skey) k f.ctxid f.seq p)) ∧
  ∀ (s : State) (sid ctx : Nat) (e : Session) (f : Frame), s.dev.sessions.find sid = some e →
    (e.held.find? fun f => f.ctxid == ctx && f.seq == e.next.getD ctx 0) = some f → f.kind ≠ 1 →
    let u := s.modSession sid fun e => { e with held := e.held.filter (· != f) }
    (u.frameOk f = true → (ctx = 0 ∨ u.named ctx = true) → exec (.heldFrameExecute sid ctx) s = .next (u.execute sid f)) ∧
    (u.frameOk f = false → exec (.heldFrameExecute sid ctx) s = .next u)

/-- A request with a nonzero reserved byte, without all its bytes, with a field out of its range or that names no context is
answered with status 3 and changes nothing, whichever of the sixteen operations it is (14 R307, R312). -/
def Claims.IllegalRequests : Prop :=
  ∀ (s : State) (p : List Byte),
    let ill := fun (r : State × Answer) => r = (s, some (3, []))
    let c := pf p 8 2
    let odd := fun (n : Nat) (l : List (Nat × Nat)) => fieldsOk p n l = false
    let byte := fun (n : Nat) => pf p n 1
    let wide := fun (n : Nat) => 2 ^ 48 ≤ pf p n 8
    (odd 8 [] → ill (s.doStatus p) ∧ ill (s.doHealth p)) ∧
    (odd 42 [(8, 34)] ∨ (pf p 40 2 ≠ 0 ∧ s.named (pf p 40 2) = false) → ill (s.doAttest p)) ∧
    (odd 912 [(8, 97), (112, 800)] → ∀ f : Frame, f.payload = p → ill (s.doAttach f)) ∧
    (odd (if byte 58 = 0 then 59 else 64 + 2 * byte 58) [(8, 51), (64, 2 * byte 58)] ∨ 63 < byte 56 ∨ 1 < byte 57 ∨
      16 < byte 58 → ill (s.doPeer p)) ∧
    (odd (56 + 2 * byte 19) [(8, 12), (24, 32), (56, 2 * byte 19)] ∨ wide 8 ∨ pf p 16 2 < 5 ∨ 2000 < pf p 16 2 ∨
      1 < byte 18 ∨ 16 < byte 19 ∨ wide 24 ∨ pf p 24 8 % 64 ≠ 0 ∨ wide 32 ∨ pf p 32 8 % 512 ≠ 0 ∨ wide 40 ∨
      pf p 40 8 % 65536 ≠ 0 ∨ pf p 48 8 < 16 * 2 ^ 20 → ill (s.doCtxcreate p)) ∧
    (odd 10 [(8, 2)] ∨ s.named c = false → ill (s.doCtxend p)) ∧
    (odd 24 [(8, 3), (16, 8)] ∨ s.named c = false ∨ bits (byte 10) 6 3 ≠ 0 ∨ wide 16 ∨ pf p 16 8 % 64 ≠ 0 →
      ill (s.doBindq p)) ∧
    (odd 32 [(8, 5), (16, 16)] ∨ s.named c = false ∨ 4095 < pf p 10 2 ∨ 1 < byte 12 ∨ wide 16 ∨ wide 24 ∨
      pf p 24 8 % 65536 ≠ 0 → ill (s.doInstall p)) ∧
    (odd 32 [(8, 2), (16, 16)] ∨ s.named c = false ∨ wide 16 ∨ pf p 16 8 % 65536 ≠ 0 → ∀ sid seq, ill (s.doSave sid seq p)) ∧
    (odd 72 [(8, 2), (16, 56)] ∨ s.named c = false ∨ wide 16 ∨ pf p 16 8 % 65536 ≠ 0 → ill (s.doRestore p)) ∧
    (odd 32 [(8, 3), (12, 4), (16, 16)] ∨ s.named c = false ∨ bits (byte 10) 6 2 ≠ 0 ∨
      (bit (byte 10) 7 = true ∧ (s.ctx c).regions.find (pf p 12 4) = none) ∨
      (bit (byte 10) 7 = false ∧ (pf p 12 4 ≠ 0 ∨ 2 ^ 48 < pf p 16 8 + pf p 24 8)) → ill (s.doMreg p)) ∧
    (odd 39 [(8, 7), (16, 19), (36, 3)] ∨ s.named c = false ∨ bits (byte 11) 6 1 ≠ 0 ∨ 1 < byte 10 ∨
      (bit (byte 11) 7 = true ∧ s.qps.find (pf p 12 3) = none) ∨ (bit (byte 11) 7 = false ∧ pf p 12 3 ≠ 0) →
      ill (s.doQpopen p)) ∧
    (odd 40 [(8, 7), (16, 4), (24, 16)] ∨ s.named c = false ∨
      (pf p 12 3 ≠ 0xFFFFFF ∧ ((∃ q, s.qps.find (pf p 12 3) = some q ∧ q.ctx ≠ c) ∨
        (s.qps.find (pf p 12 3) = none ∧ c ≠ 0))) → ill (s.doEpset p)) ∧
    (odd 10 [(8, 2)] ∨ (c ≠ 0 ∧ (c < 600 ∨ s.cfgField 0 19 9 < c)) → ill (s.doPcap p)) ∧
    (odd 24 [(8, 4), (16, 8)] ∨ s.named c = false ∨ 7 < byte 10 ∨ 1 < byte 11 → ill (s.doBreak p))

/-- What the management operations do (03 R56; 12 R269, R494; 13 R282, R291; 14 R298, R301, R304 to R307, R312, R313), for
requests whose fields are legal. These are the model's choices: rebinding and unbinding a queue (log 38); the numbers of
queue pairs (log 22); the number of a new context, the hash of zeros of an emptied slot and the refusal of a RESTORE that
does not fit (log 27); the size of a save area and the number of the notice (log 23). -/
def Claims.ManagementEffects : Prop :=
  ∀ (s : State) (p : List Byte),
    (fieldsOk p 8 [] = true → s.doStatus p = (s, some (0, leBytes 8 s.mstat))) ∧
    (fieldsOk p 8 [] = true → s.dev.health.die.length = 4 → ∃ r, s.doHealth p = (s, some (0, r)) ∧ r.length = 24 ∧
      r.take 8 = (s.dev.health.die.map fun d => leBytes 2 d).flatten ∧ pf r 12 4 = s.dev.health.days % 2 ^ 32 ∧
      pf r 16 2 = s.dev.health.temp % 2 ^ 16 ∧ pf r 18 2 = s.dev.health.volt % 2 ^ 16 ∧
      pf r 20 2 = s.dev.health.active % 2 ^ 16 ∧ pf r 22 2 = s.dev.health.hours % 2 ^ 16) ∧
    (fieldsOk p 42 [(8, 34)] = true → (pf p 40 2 = 0 ∨ s.named (pf p 40 2) = true) →
      s.doAttest p = ({ s with fresh := s.fresh + 1 }, some (0, s.report ((p.drop 8).take 32) (pf p 40 2) []))) ∧
    (let i := pf p 56 1
     let n := pf p 58 1
     fieldsOk p (if n = 0 then 59 else 64 + 2 * n) [(8, 51), (64, 2 * n)] = true → i ≤ 63 → n ≤ 16 →
      (pf p 57 1 = 1 → (s.doPeer p).2 = some (0, []) ∧
        (s.doPeer p).1.dev.peers.find i = some ((p.drop 8).take 48, (upto n).map fun k => pf p (64 + 2 * k) 2)) ∧
      (pf p 57 1 = 0 → s.doPeer p = (s.modDev fun d => { d with peers := d.peers.del i }, some (0, [])))) ∧
    (let n := pf p 19 1
     fieldsOk p (56 + 2 * n) [(8, 12), (24, 32), (56, 2 * n)] = true → pf p 8 8 < 2 ^ 48 → 5 ≤ pf p 16 2 →
      pf p 16 2 ≤ 2000 → pf p 18 1 ≤ 1 → n ≤ 16 → pf p 24 8 < 2 ^ 48 → pf p 24 8 % 64 = 0 → pf p 32 8 < 2 ^ 48 →
      pf p 32 8 % 512 = 0 → pf p 40 8 < 2 ^ 48 → pf p 40 8 % 65536 = 0 → 16 * 2 ^ 20 ≤ pf p 48 8 →
      s.contexts.length < 65535 →
      let c := s.contexts.length + 1
      (s.doCtxcreate p).2 = some (0, leBytes 2 c) ∧
      (s.doCtxcreate p).1.ctx c = { partition := pf p 8 8, supervisor := pf p 18 1 == 1, root := pf p 32 8
                                    supervised := (upto n).map fun k => pf p (56 + 2 * k) 2, faultq := pf p 24 8
                                    drainUs := pf p 16 2, fwArea := pf p 40 8, fwBytes := pf p 48 8 }) ∧
    (fieldsOk p 10 [(8, 2)] = true → s.named (pf p 8 2) = true →
      ∃ t, s.doCtxend p = (t, some (0, [])) ∧ (t.ctx (pf p 8 2)).ended = true ∧ (∀ x ∈ t.groups, x.2.ctx ≠ pf p 8 2) ∧
        ∀ k l, s.launches.find k = some l → l.ctx = pf p 8 2 → ∃ m, t.launches.find k = some m ∧ m.err = true ∧
          m.cause = 0x1C ∧ m.detail = 1 ∧ m.unstarted = [] ∧ m.running = [] ∧ 1 ≤ m.phase) ∧
    (let c := pf p 8 2
     let cb := pf p 16 8
     fieldsOk p 24 [(8, 3), (16, 8)] = true → s.named c = true → pf p 10 1 < 8 → cb < 2 ^ 48 → cb % 64 = 0 →
      (∀ q ∈ (s.ctx c).queues, q.1 ≠ cb) →
      ((s.ctx c).queues.length < 16 → (s.doBindq p).2 = some (0, []) ∧
        ((s.doBindq p).1.ctx c).queues = (s.ctx c).queues ++ [(cb, pf p 10 1)]) ∧
      (16 ≤ (s.ctx c).queues.length → s.doBindq p = (s, some (1, [])))) ∧
    (let c := pf p 8 2
     let cb := pf p 16 8
     let l := (s.ctx c).queues
     fieldsOk p 24 [(8, 3), (16, 8)] = true → s.named c = true → cb < 2 ^ 48 → cb % 64 = 0 →
      (pf p 10 1 = 128 → s.doBindq p = (s.modCtx c fun x => { x with queues := l.filter fun q => q.1 != cb }, some (0, []))) ∧
      (pf p 10 1 < 8 → (∃ q ∈ l, q.1 = cb) → s.doBindq p = (s.modCtx c fun x =>
        { x with queues := l.map fun q => if q.1 = cb then (cb, pf p 10 1) else q }, some (0, [])))) ∧
    (let c := pf p 8 2
     fieldsOk p 32 [(8, 5), (16, 16)] = true → s.named c = true → pf p 10 2 ≤ 4095 → pf p 16 8 < 2 ^ 48 →
      pf p 24 8 < 2 ^ 48 → pf p 24 8 % 65536 = 0 →
      (pf p 12 1 = 1 → s.doInstall p = ((s.slotRewritten c (pf p 10 2)).modCtx c fun x =>
        { x with slots := x.slots.del (pf p 10 2) }, some (0, List.replicate 48 0))) ∧
      (pf p 12 1 = 0 → s.doInstall p = s.installFile c (pf p 10 2) (pf p 16 8) (pf p 24 8))) ∧
    (let c := pf p 8 2
     fieldsOk p 32 [(8, 2), (16, 16)] = true → s.named c = true → pf p 16 8 < 2 ^ 48 → pf p 16 8 % 65536 = 0 →
      (s.ctx c).saved = false → (s.ctx c).saver = none → ∀ sid seq,
      (pf p 24 8 < Config.saveBytes s.fresh → s.doSave sid seq p = (s, some (1, []))) ∧
      (Config.saveBytes s.fresh ≤ pf p 24 8 → (s.doSave sid seq p).2 = none ∧
        ((s.doSave sid seq p).1.ctx c).saver = some ⟨sid, seq, pf p 16 8, Config.saveBytes s.fresh⟩)) ∧
    (let c := pf p 8 2
     let map := (upto 48).map fun i => pf p (24 + i) 1
     fieldsOk p 72 [(8, 2), (16, 56)] = true → s.named c = true → pf p 16 8 < 2 ^ 48 → pf p 16 8 % 65536 = 0 →
      ((s.ctx c).saved = false → s.doRestore p = (s, some (1, []))) ∧
      ((s.ctx c).saved = true → s.mapOk c map = false → s.doRestore p = (s, some (3, []))) ∧
      ((s.ctx c).saved = true → s.mapOk c map = true → s.restoreRefused c = true →
        s.doRestore p = (s.notice 2 c, some (1, []))) ∧
      ((s.ctx c).saved = true → s.mapOk c map = true → s.restoreRefused c = false → s.restoreFits c map = false →
        s.doRestore p = (s, some (1, []))) ∧
      ((s.ctx c).saved = true → s.mapOk c map = true → s.restoreRefused c = false → s.restoreFits c map = true →
        s.doRestore p = (s.restoreContext c map, some (0, [])))) ∧
    (let c := pf p 8 2
     fieldsOk p 32 [(8, 3), (12, 4), (16, 16)] = true → s.named c = true → pf p 10 1 < 4 → pf p 12 4 = 0 →
      pf p 16 8 + pf p 24 8 ≤ 2 ^ 48 → ∃ key, (s.doMreg p).2 = some (0, leBytes 4 key) ∧
        ((s.doMreg p).1.ctx c).regions.find key =
          some ⟨pf p 16 8, pf p 24 8, bit (pf p 10 1) 0, bit (pf p 10 1) 1⟩) ∧
    (let c := pf p 8 2
     fieldsOk p 39 [(8, 7), (16, 19), (36, 3)] = true → s.named c = true →
      (pf p 11 1 ≤ 1 → pf p 10 1 ≤ 1 → pf p 12 3 = 0 →
        let open_ := (s.qps.filter fun x => x.2.port == pf p 10 1).length
        let q : QueuePair := { ctx := c, port := pf p 10 1, v6 := decide (pf p 11 1 = 1)
                               ip := if pf p 11 1 = 1 then pf p 16 16 else pf p 16 4, rqpn := pf p 32 3
                               rpsn := pf p 36 3, rate := 800 }
        (4096 ≤ open_ → s.doQpopen p = (s, some (1, []))) ∧
        (open_ < 4096 → ∃ n, s.qps.find n = none ∧ 2 ≤ n ∧ n < s.qps.length + 3 ∧
          s.doQpopen p = ({ s with qps := s.qps.put n q }, some (0, leBytes 3 n ++ [0] ++ leBytes 3 0)))) ∧
      (∀ q, pf p 11 1 = 128 → pf p 10 1 ≤ 1 → s.qps.find (pf p 12 3) = some q →
        (q.ctx ≠ c → s.doQpopen p = (s, some (3, []))) ∧
        (q.ctx = c → ∃ t, s.doQpopen p = (t, some (0, [])) ∧ t.qps = s.qps.del (pf p 12 3) ∧
          (∀ e ∈ (t.ctx c).endpoints, e.2.qpn ≠ pf p 12 3) ∧
          (∀ e ∈ (s.ctx c).endpoints, e.2.qpn ≠ pf p 12 3 → e ∈ (t.ctx c).endpoints) ∧
          { t with qps := s.qps, contexts := s.contexts } = s))) ∧
    (let c := pf p 8 2
     fieldsOk p 40 [(8, 7), (16, 4), (24, 16)] = true → s.named c = true →
      (pf p 12 3 = 0xFFFFFF → KV.sorted (s.ctx c).endpoints = true → (s.doEpset p).2 = some (0, []) ∧
        ((s.doEpset p).1.ctx c).endpoints.find (pf p 10 2) = none) ∧
      (∀ q, pf p 12 3 ≠ 0xFFFFFF → s.qps.find (pf p 12 3) = some q → q.ctx = c → (s.doEpset p).2 = some (0, []) ∧
        ((s.doEpset p).1.ctx c).endpoints.find (pf p 10 2) = some ⟨pf p 12 3, pf p 16 4, pf p 24 8, pf p 32 8⟩)) ∧
    (let w := pf p 8 2
     fieldsOk p 10 [(8, 2)] = true → (w = 0 ∨ (600 ≤ w ∧ w ≤ s.cfgField 0 19 9)) →
      s.doPcap p = ({ s with dev := { s.dev with cap := w } }, some (0, []))) ∧
    (let c := pf p 8 2
     fieldsOk p 24 [(8, 4), (16, 8)] = true → s.named c = true → pf p 10 1 ≤ 7 →
      (pf p 11 1 = 1 → (s.doBreak p).2 = some (0, []) ∧
        ((s.doBreak p).1.ctx c).breaks.find (pf p 10 1) = some (BitVec.ofNat 64 (pf p 16 8))) ∧
      (pf p 11 1 = 0 → KV.sorted (s.ctx c).breaks = true → (s.doBreak p).2 = some (0, []) ∧
        ((s.doBreak p).1.ctx c).breaks.find (pf p 10 1) = none))

/-- ATTACH (14 R301, R304, R305; log 13 for what the device draws): a key that is neither the owner's nor a peer's is
refused, one whose signature fails too, and a host key that is no point of the curve (the model's choice, log 13); else a
session of the sender under the agreed key takes the place of every other session of that sender, its numbers begin at 0,
and the attestation report over the exchange answers. -/
def Claims.Attach : Prop :=
  ∀ (s : State) (f : Frame),
    let p := f.payload
    let key := (p.drop 144).take 384
    let known := sha384 key = s.ownerHash ∨ ∃ x ∈ s.dev.peers, x.2.1 = sha384 key
    let signed := pssVerify key (p.take 528) ((p.drop 528).take 384)
    let host := (p.drop 8).take 97
    let mine := p384Secret (Config.ephemeral s.fresh)
    let nonce := (p.drop 112).take 32
    fieldsOk p 912 [(8, 97), (112, 800)] = true →
    (¬known → s.doAttach f = (s, some (1, []))) ∧
    (known → signed = false → s.doAttach f = (s, some (1, []))) ∧
    (known → signed = true → ecdh384 mine host = none → s.doAttach f = (s, some (1, []))) ∧
    ∀ x, known → signed = true → ecdh384 mine host = some x → ∃ t id e,
      s.doAttach f = (t, some (0, s.report nonce 0 (host ++ leBytes 7 0 ++ p384Public mine ++ leBytes 7 0))) ∧
      t.dev.sessions.find id = some e ∧ e.sender = f.sender ∧ e.port = f.port ∧ e.key = sha384 key ∧
      e.owner = decide (sha384 key = s.ownerHash) ∧ e.skey = hkdf384 nonce x (host ++ p384Public mine) ∧ e.next = [] ∧
      e.held = [] ∧ e.kept = [] ∧ (∀ y ∈ t.dev.sessions, y.2.sender = f.sender → y = (id, e)) ∧
      { t.dev with sessions := s.dev.sessions, stamp := s.dev.stamp } = s.dev ∧
      { t with dev := s.dev, fresh := s.fresh, nextId := s.nextId } = s

/-- The management operations and the frames that carry them. -/
def Obligations.Management : Prop :=
  Claims.ManagementFrames ∧ Claims.IllegalRequests ∧ Claims.ManagementEffects ∧ Claims.Attach

/-- Progress (02 R50, R51): a group that was ready and unissued for 128 clocks is lifted, and a slot with a lifted ready
group chooses a lifted one; a counter counts a taken backward branch whose interval changed nothing and starts at 1 after any
other, and one that reaches 16 returns to 0 with its subset due; that subset is demoted for 256 clocks with SPIN set in its
fibres, and at the end of a demotion SPIN is cleared. What counter updates that come after the sixteenth do once the demotion
is made, that the branches after it count on, is the model's reading (log 29). -/
def Obligations.Progress : Prop :=
  (∀ (s : State) (gid : Nat) (g : Group), s.groups.find gid = some g → g.lifted = false → 128 ≤ g.waited →
    ∃ t, exec (.ageingLift gid) s = .next t ∧ t.group gid = { g with lifted := true } ∧ { t with groups := s.groups } = s) ∧
  (∀ (s : State) (core slot : Nat) (x : Nat × Group), s.chooseGroup core slot = some x →
    (∃ y ∈ s.readyGroups core slot, y.2.lifted = true) → State.isLifted x.2 = true) ∧
  (∀ (r : Spin) (dirty : Bool) (rest : List (Bool × List Nat)), r.due = false →
    (r.branches = [(dirty, [])] → (dirty = true ∨ r.count < 15) → State.spinUpdate r =
      { r with count := if dirty then 1 else r.count + 1, branches := [] }) ∧
    (r.branches = (false, []) :: rest → 15 ≤ r.count → State.spinUpdate r =
      { r with count := 0, due := true, branches := rest })) ∧
  ∀ (s : State) (gid : Nat) (pc : Dword) (r : Spin),
    let clock := s.clockOf (s.group gid).core
    (s.spinAt gid pc State.spinDue = some r → ∃ t, exec (.spinDemotion gid pc) s = .next t ∧
      State.spinUpdate { r with due := false, demotedUntil := some (clock + 256) } ∈ (t.group gid).spins ∧
      (∀ f ∈ r.lanes, (t.fibre f).spin = true) ∧ { t with groups := s.groups, teams := s.teams } = s) ∧
    (s.spinAt gid pc (State.spinOver clock) = some r → ∃ t, exec (.spinDemotionEnd gid pc) s = .next t ∧
      { r with demotedUntil := none } ∈ (t.group gid).spins ∧
      (∀ f ∈ r.lanes, (t.fibre f).spin = false) ∧ { t with groups := s.groups, teams := s.teams } = s)

/-! Decoding and the step. -/

/-- Words written out from the encodings of 15 R319 to R335 decode to the instructions that they stand for: a base ADD with
a guard and a hint, a base CMP with a literal, a base LD, an extended DIV of XR, an extended LD of XM, a TDEF, a RET of XC,
an ENQ of XE and a TRAP of XS. -/
def Obligations.WordsDecode : Prop :=
  let g0 : XGuard := ⟨0, false⟩
  let h0 : Hint := ⟨0, false⟩
  decode [0b000011000010000001_01_0010000_1_01_00#32] =
      .ok (.add ⟨.k1, ⟨1, true⟩, 1, 2, .reg 3⟩, 1) ∧
  decode [0b000000000010_010_001_00_0011111_0_00_01#32, 7#32, 0#32] =
      .ok (.cmp ⟨.always, h0, 1, 2, 2, .lit 7⟩, 3) ∧
  decode [0b000011000010000001_00_0110000_0_00_00#32] = .ok (.ld ⟨.always, h0, 1, 2, 3⟩, 1) ∧
  decode [0b00000010_00000001_0_000_1110000_0_00_10#32, 0b0000_00000000_00000011_000000000110#32,
      0b00_00_0000_0000_000_1_0_000_110_000_000_000#32] =
      .ok (.div ⟨g0, h0, 0, .v 1, .v 2, .v 3, .none, 0, false, true, 0, 0, 0, 0⟩, 3) ∧
  decode [0b00000010_00000001_0_000_1110001_0_00_10#32, 0b00_0_0_00000000_00000000_000000000001#32,
      0b0000000000010000_010_00_00_00_00_0_01_00#32] =
      .ok (.ldX ⟨g0, h0, .v 1, .g 2, none, 0, false, false, 0, 0, 0, 0, 2, .short 16⟩, 3) ∧
  decode [0b00000010_00000000_0_000_1110010_0_00_10#32, 0b0000_00000000_00000000_000000000001#32,
      0b00_0_000000_000000_00101_110_110_001_110#32] =
      .ok (.tdef ⟨g0, h0, 0, 0, .none, .g 2, .none, .none, 5, 0, 0, false⟩, 3) ∧
  decode [0b00000000_00000000_0_000_1110011_0_00_10#32, 0b00_00_0000000000000000_000000000101#32, 0#32] =
      .ok (.retX ⟨g0, h0, .rel 0⟩, 3) ∧
  decode [0b00000010_00000001_0_000_1110100_0_00_10#32, 0b0000_00000000_00000000_000000000110#32,
      0b0000_000011_0000_0_0_00_00_110_110_001_000#32] =
      .ok (.enq ⟨g0, h0, 0, 0, .v 1, .g 2, .none, .none, 0, 0, false, false, 0, 3⟩, 3) ∧
  decode [0b00000000_00000000_0_000_1110101_0_00_10#32, 0b0000_00000000_00000000_000000001100#32,
      0b00000000000000000111_110_110_110_110#32] =
      .ok (.trap ⟨g0, h0, .none, .none, .none, .none, 7⟩, 3)

/-- The minors of classes XT and XC in order from 0x001 (15 R334); a word with any other minor is no instruction, a fetch
of it finds none, and what stands for it raises ILLEGAL (0x01). -/
def Obligations.MinorsOfXTAndXC : Prop :=
  let xt : List (XT → Instr) :=
    [.tdef, .tcopy, .tfree, .tstat, .unfset, .mloop, .mma, .dload, .aalloc, .afree]
  let xc : List (XC → Instr) := [.braX, .bruX, .callX, .callr, .retX, .exitX, .yieldX, .nopX]
  (∀ (k : Nat) (m : BitVec 12) (o : XT), m.toNat = k + 1 → ofEnc (.xt m o) = (xt[k]?).map fun c => c o) ∧
  (∀ (k : Nat) (m : BitVec 12) (o : XC), m.toNat = k + 1 → ofEnc (.xc m o) = (xc[k]?).map fun c => c o) ∧
  (∀ (o : XT) (p : XC), ofEnc (.xt 0 o) = none ∧ ofEnc (.xc 0 p) = none) ∧
  (∀ (ws : List Word) (e : Enc) (n : Nat), parse ws = .ok (e, n) → ofEnc e = none → ∀ i, decode ws ≠ .ok i) ∧
  (∀ (s s1 s2 : State) (core ctx : Nat) (r : Dword) (w : Word) (ws : List Word), s.refCheck ctx r = none → refOfs r % 128 ≠ 0 →
    s.codeWord core ctx r = (s1, .ok w) → s1.codeWords core ctx r (Machine.lenWords w) = (s2, .ok ws) →
    (∀ i, decode ws ≠ .ok i) → ∃ u, s.fetch core ctx r = (u, .illegal (Machine.lenWords w))) ∧
  ∀ (s : State) (iss : Issue), s.issue = some iss → exec .unassignedEncoding s = .next (s.raise iss 0x01 0 0)

/-- Decode and encode agree (15 R318 to R335): the words of every well-formed encoded instruction, whatever follows them,
decode to it and its length. -/
def Obligations.EncodeDecode : Prop :=
  ∀ (i : Instr) (rest : List Word), i.isStep = false → i.wf = true →
    decode (encode i ++ rest) = .ok (i, (encode i).length)

/-- A step runs the decoded instruction (04 R81, R85, R87; 15 R316): where the agenda names an issue slot whose port is
free, the slot's group and the first eligible subset of it are chosen, and where that subset stands at an instruction, the
step is `exec` of it with the subset as its issue, then the spin counters, the slot's choice, the port and the hint, and
what settles after every step. That a subset which only stalls leaves port, choice and hint alone, and what the second port
takes, is the model's reading (log 30). A subset runs what its pc's words decode to, and they decode to well-formed
instructions; at its launch's ENTRY the header's marks are asked first, the model's reading (log 26). -/
def Obligations.StepRunsDecoded : Prop :=
  (∀ (s u : State) (core slot gid n : Nat) (rest : List Directive) (g : Group) (q : Subset) (i : Instr)
      (l : List (Subset × Choice)), s.agenda = .issue core slot :: rest →
    let s1 := { s with agenda := rest }
    let woken := s1.wakeAll
    let s2 := woken.each ((woken.groups.filter fun x => x.2.core == core && !x.2.spins.isEmpty).map (·.1))
      fun s g => s.dueSpins g
    s2.portFree core slot = true → s2.chooseGroup core slot = some (gid, g) → s2.eligible gid = (q, .run i n) :: l →
    let s3 := (s2.fetchAt gid q.pc).1
    let iss := s3.issueOf gid q n
    exec i { s3 with issue := some iss } = .next u →
    let t := { u with issue := none }
    let ran := if t.leftStalled iss then t else s3.spinIssued t iss i (s3.active iss (guardOf i))
    step s = .next (s1.settleStep (if ran.leftStalled (s2.issueOf gid q 1) then ran
      else ((ran.chosen core slot gid (s2.classOf gid)).modCore core fun x => { x with
        ports := x.ports.put slot ⟨x.clock, gid, State.secondOf ((q, .run i n) :: l), State.issueClocks (s2.group gid)⟩
        }).applyHint gid (hintOfInstr i) (State.alwaysYields (.run i n))))) ∧
  (∀ (s : State) (gid n : Nat) (q : Subset) (i : Instr), (q, .run i n) ∈ s.eligible gid →
    (s.fetchAt gid q.pc).2 = .instr i n) ∧
  (∀ (s : State) (gid : Nat) (r : Dword),
    let g := s.group gid
    let fetched := fun (s : State) => s.fetch g.core g.ctx r
    let i := refOfs r % 128 / 4
    (r ≠ recEntry (s.launch (s.team (s.leadTeam gid)).launch).words → s.fetchAt gid r = fetched s) ∧
    (r = recEntry (s.launch (s.team (s.leadTeam gid)).launch).words → s.refCheck g.ctx r = none →
      ∀ s1 h, s.codeWord g.core g.ctx (r - BitVec.ofNat 64 (4 * i)) = (s1, .ok h) →
        s.fetchAt gid r = if i ≠ 0 ∧ h.getLsbD i = true ∧ h.getLsbD 0 = true then fetched s1
          else (s1, .fail (.trap 0x06 r.toNat)))) ∧
  (∀ (s s1 s2 : State) (core ctx : Nat) (r : Dword) (w : Word) (ws : List Word) (i : Instr) (n : Nat),
    s.refCheck ctx r = none → refOfs r % 128 ≠ 0 → s.codeWord core ctx r = (s1, .ok w) →
    refOfs r % 128 / 4 + Machine.lenWords w ≤ 32 →
    s1.codeWords core ctx r (Machine.lenWords w) = (s2, .ok ws) → decode ws = .ok (i, n) →
    s.fetch core ctx r = (s2, .instr i n)) ∧
  ∀ (ws : List Word) (i : Instr) (n : Nat), decode ws = .ok (i, n) → i.wf = true

/-! What every step keeps. -/

/-- Every step keeps HBM in its canonical form (log 32): from every state whose HBM has it, whatever the agenda names. -/
def Obligations.MemoryKept : Prop := ∀ s t : State, Inv s → step s = .next t → Inv t

/-- Every step keeps in order the lists that State.Listed names, pending results, launches, teams, fibres, groups and others,
but not every list of State (02 R27, R41, R42; 04 R90). From every state in which pending results, launches, teams and their
fibres, groups, commands, matrix operations, requests, queues, owners, L2 bytes, cores and their L1, contexts and their
records, endpoints and breakpoints stand in rising keys, every pending result has a number below the next, each listed team
has sixteen g registers, each listed group forty-eight and each listed launch sixteen values for them, the next state is such
a state too, whatever the agenda names. How the lists are kept is the model's own; that the registers are sixteen and
forty-eight is the spec's. -/
def Obligations.ListsKept : Prop := ∀ s t : State, s.Listed → step s = .next t → t.Listed

/-- The machine right after reset (14 R297, R298; 06 R150 for what it lists): HBM has its canonical form, the lists
that ListsKept names are in order, the device has no power, MSTAT reads 0, and no core, context, team, group, launch or session is there. That HBM reads zero before stage 3 is
the model's choice (log 32), and so are the reset values of log 11. -/
def Obligations.ResetState : Prop :=
  Inv State.reset ∧ State.reset.Listed ∧ (∀ a, Memory.read State.reset.mem a = 0) ∧ State.reset.mstat = 0 ∧
    State.reset.dev.power = false ∧
    State.reset.cores = [] ∧ State.reset.contexts = [] ∧ State.reset.teams = [] ∧ State.reset.groups = [] ∧
    State.reset.launches = [] ∧ State.reset.dev.sessions = []
end

