-- ==== Sys2Proof/Laws/Memory.lean ====
section
/-! SUPPORT. Sparse lists by key, and HBM's canonical form: what a write changes, and that every memory operation keeps
the form (log 32). -/

namespace Sys2Proof

namespace KV

variable {β : Type}

@[simp] theorem find_put (m : KV β) (a : Nat) (v : β) : (m.put a v).find a = some v := by
  induction m with
  | nil => simp [put, find]
  | cons x r ih =>
    obtain ⟨k, w⟩ := x
    by_cases h : a < k
    · simp [put, find, h]
    · by_cases h' : a = k
      · simp [put, find, h']
      · simp [put, find, h, h', ih]

theorem find_put_other (m : KV β) {a b : Nat} {v : β} (h : b ≠ a) : (m.put a v).find b = m.find b := by
  induction m with
  | nil => simp [put, find, h]
  | cons x r ih =>
    obtain ⟨k, w⟩ := x
    by_cases h1 : a < k
    · simp [put, find, h1, h]
    · by_cases h2 : a = k
      · subst h2; simp [put, find, h]
      · simp [put, find, h1, h2, ih]

theorem find_del_other (m : KV β) {a b : Nat} (h : b ≠ a) : (m.del a).find b = m.find b := by
  induction m with
  | nil => rfl
  | cons x r ih =>
    obtain ⟨k, w⟩ := x
    by_cases h2 : a = k
    · subst h2; simp [del, find, h]
    · simp [del, find, h2, ih]

theorem above_mono {m : KV β} {a b : Nat} (hab : a ≤ b) (h : m.above b = true) : m.above a = true := by
  induction m with
  | nil => rfl
  | cons x r ih =>
    obtain ⟨k, w⟩ := x
    simp only [above, Bool.and_eq_true, decide_eq_true_eq] at h ⊢
    exact ⟨by omega, ih h.2⟩

theorem find_above {m : KV β} {b a : Nat} (h : m.above b = true) (ha : a ≤ b) : m.find a = none := by
  induction m with
  | nil => rfl
  | cons x r ih =>
    obtain ⟨k, w⟩ := x
    simp only [above, Bool.and_eq_true, decide_eq_true_eq] at h
    have : a ≠ k := by omega
    simp [find, this, ih h.2]

theorem find_del {m : KV β} {a : Nat} (h : m.sorted = true) : (m.del a).find a = none := by
  induction m with
  | nil => rfl
  | cons x r ih =>
    obtain ⟨k, w⟩ := x
    simp only [sorted, Bool.and_eq_true] at h
    by_cases h2 : a = k
    · subst h2; simpa [del] using find_above h.1 (Nat.le_refl a)
    · simp [del, find, h2, ih h.2]

theorem above_put {m : KV β} {a b : Nat} {v : β} (h : m.above b = true) (hb : b < a) : (m.put a v).above b = true := by
  induction m with
  | nil => simpa [put, above] using hb
  | cons x r ih =>
    obtain ⟨k, w⟩ := x
    simp only [above, Bool.and_eq_true, decide_eq_true_eq] at h
    by_cases h1 : a < k
    · simp [put, above, h1, hb, h]
    · by_cases h2 : a = k
      · simp [put, above, h2, h]
      · simp [put, above, h1, h2, h, ih h.2]

theorem above_del {m : KV β} {a b : Nat} (h : m.above b = true) : (m.del a).above b = true := by
  induction m with
  | nil => rfl
  | cons x r ih =>
    obtain ⟨k, w⟩ := x
    simp only [above, Bool.and_eq_true, decide_eq_true_eq] at h
    by_cases h2 : a = k
    · simpa [del, h2] using h.2
    · simp [del, above, h2, h, ih h.2]

theorem sorted_put {m : KV β} (a : Nat) (v : β) (h : m.sorted = true) : (m.put a v).sorted = true := by
  induction m with
  | nil => rfl
  | cons x r ih =>
    obtain ⟨k, w⟩ := x
    simp only [sorted, Bool.and_eq_true] at h
    by_cases h1 : a < k
    · simp [put, sorted, above, h1, h, above_mono (Nat.le_of_lt h1) h.1]
    · by_cases h2 : a = k
      · subst h2; simp [put, sorted, h]
      · simp [put, sorted, h1, h2, ih h.2, above_put h.1 (by omega : k < a)]

theorem sorted_del {m : KV β} (a : Nat) (h : m.sorted = true) : (m.del a).sorted = true := by
  induction m with
  | nil => rfl
  | cons x r ih =>
    obtain ⟨k, w⟩ := x
    simp only [sorted, Bool.and_eq_true] at h
    by_cases h2 : a = k
    · simpa [del, h2] using h.2
    · simp [del, sorted, h2, ih h.2, above_del h.1]

theorem mem_put {m : KV β} {a : Nat} {v : β} {x : Nat × β} (h : x ∈ m.put a v) : x = (a, v) ∨ x ∈ m := by
  induction m with
  | nil => simpa [put] using h
  | cons y r ih =>
    obtain ⟨k, w⟩ := y
    by_cases h1 : a < k
    · simpa [put, h1] using h
    · by_cases h2 : a = k
      · simp only [put, h2, Nat.lt_irrefl, if_false, if_true, List.mem_cons] at h
        rw [h2]
        rcases h with h | h
        · exact .inl h
        · exact .inr (List.mem_cons_of_mem _ h)
      · simp only [put, h1, h2, if_false, List.mem_cons] at h
        rcases h with h | h
        · exact .inr (by simp [h])
        · rcases ih h with h | h
          · exact .inl h
          · exact .inr (List.mem_cons_of_mem _ h)

theorem mem_del {m : KV β} {a : Nat} {x : Nat × β} (h : x ∈ m.del a) : x ∈ m := by
  induction m with
  | nil => simp [del] at h
  | cons y r ih =>
    obtain ⟨k, w⟩ := y
    by_cases h2 : a = k
    · simp only [del, h2, if_true] at h; exact List.mem_cons_of_mem _ h
    · simp only [del, h2, if_false, List.mem_cons] at h
      rcases h with h | h
      · simp [h]
      · exact List.mem_cons_of_mem _ (ih h)

theorem above_iff {m : KV β} {b : Nat} : m.above b = true ↔ ∀ y ∈ m, b < y.1 := by
  induction m with
  | nil => simp [above]
  | cons y r ih => simp [above, ih]

theorem sorted_cons {x : Nat × β} {m : KV β} : sorted (x :: m) = true ↔ (∀ y ∈ m, x.1 < y.1) ∧ sorted m = true := by
  simp [sorted, above_iff]

theorem sorted_filter {m : KV β} (p : Nat × β → Bool) (h : m.sorted = true) : sorted (m.filter p) = true := by
  induction m with
  | nil => rfl
  | cons x r ih =>
    obtain ⟨h1, h2⟩ := sorted_cons.1 h
    by_cases hp : p x = true
    · rw [List.filter_cons_of_pos hp]
      exact sorted_cons.2 ⟨fun y hy => h1 y (List.mem_filter.1 hy).1, ih h2⟩
    · rw [List.filter_cons_of_neg hp]
      exact ih h2

/-- A map that leaves the keys leaves the order. -/
theorem sorted_map {γ : Type} {m : KV β} (f : Nat × β → Nat × γ) (k : ∀ x, (f x).1 = x.1) (h : m.sorted = true) :
    sorted (m.map f) = true := by
  induction m with
  | nil => rfl
  | cons x r ih =>
    obtain ⟨h1, h2⟩ := sorted_cons.1 h
    rw [List.map_cons]
    refine sorted_cons.2 ⟨fun y hy => ?_, ih h2⟩
    obtain ⟨z, hz, rfl⟩ := List.mem_map.1 hy
    rw [k, k]
    exact h1 z hz

theorem sorted_mapVals {m : KV β} (f : β → β) (h : m.sorted = true) : (m.mapVals f).sorted = true :=
  sorted_map _ (fun _ => rfl) h

theorem sorted_upd {m : KV β} (a : Nat) (f : β → β) (h : m.sorted = true) : (m.upd a f).sorted = true := by
  unfold upd
  split
  · exact sorted_put _ _ h
  · exact h

end KV

namespace Machine

namespace Memory

theorem wf_def (m : List Host.Cell) : Memory.wf m = true ↔ KV.sorted m = true ∧ ∀ x ∈ m, x.2 ≠ 0 := by
  simp [Memory.wf, List.all_eq_true]

theorem wf_write {m : List Host.Cell} (a : Nat) (b : Byte) (h : Memory.wf m = true) :
    Memory.wf (Memory.write m a b) = true := by
  rw [wf_def] at h ⊢
  by_cases hb : b = 0
  · simp only [Memory.write, hb, beq_self_eq_true, if_true]
    exact ⟨KV.sorted_del a h.1, fun x hx => h.2 x (KV.mem_del hx)⟩
  · have hb' : (b == 0) = false := by simpa using hb
    simp only [Memory.write, hb', Bool.false_eq_true, if_false]
    refine ⟨KV.sorted_put a b h.1, fun x hx => ?_⟩
    rcases KV.mem_put hx with rfl | hx
    · exact hb
    · exact h.2 x hx

theorem wf_writes {m : List Host.Cell} (a : Nat) (bs : List Byte) (h : Memory.wf m = true) :
    Memory.wf (Memory.writes m a bs) = true := by
  induction bs generalizing m a with
  | nil => exact h
  | cons b r ih => exact ih _ (wf_write a b h)

theorem read_write {m : List Host.Cell} (a : Nat) (b : Byte) (h : Memory.wf m = true) :
    Memory.read (Memory.write m a b) a = b := by
  by_cases hb : b = 0
  · simp [Memory.read, Memory.write, KV.getD, hb, KV.find_del ((wf_def m).1 h).1]
  · have hb' : (b == 0) = false := by simpa using hb
    simp only [Memory.read, Memory.write, KV.getD, hb', Bool.false_eq_true, if_false, KV.find_put, Option.getD_some]

theorem read_write_other (m : List Host.Cell) {a c : Nat} (b : Byte) (h : c ≠ a) :
    Memory.read (Memory.write m a b) c = Memory.read m c := by
  by_cases hb : b = 0
  · simp [Memory.read, Memory.write, KV.getD, hb, KV.find_del_other m h]
  · have hb' : (b == 0) = false := by simpa using hb
    simp only [Memory.read, Memory.write, KV.getD, hb', Bool.false_eq_true, if_false, KV.find_put_other m h]

theorem read_writes_other {m : List Host.Cell} {a c : Nat} (bs : List Byte) (h : c < a ∨ a + bs.length ≤ c) :
    Memory.read (Memory.writes m a bs) c = Memory.read m c := by
  induction bs generalizing m a with
  | nil => rfl
  | cons b r ih =>
    simp only [List.length_cons] at h
    rw [Memory.writes, ih (by omega), read_write_other _ _ (by omega)]

end Memory

namespace State

/-- A property that each update of a list keeps holds after all of them. -/
theorem each_keeps {α : Type} {P : State → Prop} {l : List α} {f : State → α → State} {s : State}
    (h : P s) (hf : ∀ s x, P s → P (f s x)) : P (s.each l f) := by
  induction l generalizing s with
  | nil => exact h
  | cons x r ih => exact ih (hf s x h)

/-- A part of the state that no update of a list changes is what it was. -/
theorem each_same {α β : Type} {g : State → β} {l : List α} {f : State → α → State} (s : State)
    (hf : ∀ s x, g (f s x) = g s) : g (s.each l f) = g s :=
  each_keeps (P := fun t => g t = g s) rfl fun t x h => (hf t x).trans h

theorem mem_dropGuests (s : State) (n : Nat) : (s.dropGuests n).mem = s.mem := rfl

theorem mem_l1Drop (s : State) (core w : Nat) : (s.l1Drop core w).mem = s.mem := rfl

theorem mem_discard (s : State) (core w : Nat) : (s.discard core w).mem = s.mem := rfl

theorem mem_unregister (s : State) (core w : Nat) : (s.unregister core w).mem = s.mem := rfl

theorem mem_repair (s : State) (pa n : Nat) : (s.repair pa n).mem = s.mem := by unfold repair; split <;> rfl

theorem mem_slicePut (s : State) (pa : Nat) (bs : List Byte) : (s.slicePut pa bs).mem = s.mem := by
  unfold slicePut
  refine (each_same (g := State.mem) (f := l2Touch) _ fun _ _ => rfl).trans ?_
  exact each_same (g := State.mem) s fun _ _ => rfl

/-- A line that leaves L2 keeps HBM in canonical form (06 R138, R140). -/
theorem wf_l2Evict {s : State} (line : Nat) (h : Memory.wf s.mem = true) : Memory.wf (s.l2Evict line).mem = true := by
  unfold l2Evict
  simp only
  generalize s.l2.filter _ = l
  generalize s.mem = m at h
  induction l generalizing m with
  | nil => exact h
  | cons x r ih => exact ih _ (Memory.wf_write _ _ h)

theorem wf_l2Fit {s : State} (w : Nat × Nat) (h : Memory.wf s.mem = true) : Memory.wf (s.l2Fit w).mem = true := by
  unfold l2Fit
  simp only
  split
  · exact h
  · split
    · exact wf_l2Evict _ h
    · exact h
    · exact h

theorem wf_l2Trim {s : State} (h : Memory.wf s.mem = true) : Memory.wf s.l2Trim.mem = true := by
  have h1 : Memory.wf (s.each (s.l2lines.filter (·.2.out)) fun s x => s.l2Evict x.1).mem = true :=
    each_keeps (P := fun t => Memory.wf t.mem = true) h fun _ x => wf_l2Evict x.1
  unfold l2Trim
  simp only
  split
  · exact h1
  · refine each_keeps (P := fun t => Memory.wf t.mem = true) ?_ fun _ x => wf_l2Fit (guestWay x.1)
    exact each_keeps (P := fun t => Memory.wf t.mem = true) h1 fun _ x => wf_l2Fit (homeWay x.1)

theorem mem_writeBack1 (s : State) (core w : Nat) : (s.writeBack1 core w).mem = s.mem := by
  unfold writeBack1
  split
  · split
    · simp only [mem_l1Drop, mem_slicePut, mem_dropGuests, mem_unregister]
      have hb : (if s.badWord w then { s with badWritten := s.badWritten ++ [w] } else s).mem = s.mem := by
        split <;> rfl
      split
      · split
        · exact hb
        · exact (mem_discard _ _ w).trans hb
      · exact hb
    · rfl
  · rfl

/-- A word that the home knows as the core's is written back as the core has it (06 R135). -/
theorem merged_of_owner {s : State} {core w : Nat} (x : Word) (h : s.owners.find w = some core) : s.merged core w x = x := by
  unfold merged
  split
  · simp [h]
  · rfl

/-- So is one of which no store waits for its registration. -/
theorem merged_of_registered {s : State} {core w : Nat} (x : Word) (h : s.unrecorded core w = none) :
    s.merged core w x = x := by
  simp [merged, h]

theorem mem_writeBack (s : State) (core w : Nat) : (s.writeBack core w).mem = s.mem := by
  unfold writeBack
  simp only
  split
  all_goals split
  all_goals simp only [mem_writeBack1]

theorem mem_withdraw (s : State) (w : Nat) : (s.withdraw w).mem = s.mem := by
  unfold withdraw
  split
  · exact mem_writeBack s _ w
  · rfl

/-- The home writes its sectors back in canonical form. -/
theorem wf_flushSectors {s : State} (pa n : Nat) (h : Memory.wf s.mem = true) :
    Memory.wf (s.flushSectors pa n).mem = true := by
  unfold flushSectors
  refine each_keeps (P := fun t => Memory.wf t.mem = true) h fun t q ht => ?_
  refine each_keeps (P := fun t => Memory.wf t.mem = true) ?_ fun u a hu => ?_
  · have hw : (t.each (stepsFrom (4 * q) 1 4) fun s w => s.withdraw w).mem = t.mem :=
      each_same (g := State.mem) t fun u w => mem_withdraw u w
    split
    · rw [hw]; exact ht
    · exact hw ▸ ht
  · split
    · exact Memory.wf_write _ _ hu
    · exact hu

theorem wf_sysRead {s : State} (pa n : Nat) (h : Memory.wf s.mem = true) :
    Memory.wf (s.sysRead pa n).2.mem = true := wf_flushSectors pa n h

theorem wf_homeWrite {s : State} (pa : Nat) (bs : List Byte) (h : Memory.wf s.mem = true) :
    Memory.wf (s.homeWrite pa bs).mem = true := by
  unfold homeWrite
  rw [mem_slicePut, mem_repair, each_same (g := State.mem) _ fun u w => by rw [mem_dropGuests, mem_withdraw]]
  exact h

theorem wf_sysWrite {s : State} (pa : Nat) (bs : List Byte) (h : Memory.wf s.mem = true) :
    Memory.wf (s.sysWrite pa bs).mem = true := wf_flushSectors _ _ (wf_homeWrite pa bs h)

theorem wf_remoteWrite {s : State} (pa : Nat) (bs : List Byte) (h : Memory.wf s.mem = true) :
    Memory.wf (s.remoteWrite pa bs).mem = true := by
  unfold remoteWrite
  refine Memory.wf_writes pa bs ?_
  rw [each_same (g := State.mem) s fun u w => mem_dropGuests u (w / 16)]
  exact h

theorem wf_loaded {s : State} (ws : List Word) (h : Memory.wf s.mem = true) : Memory.wf (s.loaded ws).mem = true :=
  Memory.wf_writes _ _ h

theorem wf_reset : Memory.wf State.reset.mem = true := rfl

theorem wf_dark (s : State) : Memory.wf s.dark.mem = true := rfl

end State

end Machine

end Sys2Proof
end

