-- ==== Sys2Proof/Laws/State.lean ====
section
/-! SUPPORT. One lemma per field for each update of a part of the state, and reading a part back after an update. -/

namespace Sys2Proof.Machine.State

@[simp] theorem setCore_agenda (s : State) (n : Nat) (x : Core) : (s.setCore n x).agenda = s.agenda := rfl
@[simp] theorem setCore_issue (s : State) (n : Nat) (x : Core) : (s.setCore n x).issue = s.issue := rfl
@[simp] theorem setCore_fresh (s : State) (n : Nat) (x : Core) : (s.setCore n x).fresh = s.fresh := rfl
@[simp] theorem setCore_nextId (s : State) (n : Nat) (x : Core) : (s.setCore n x).nextId = s.nextId := rfl
@[simp] theorem setCore_mem (s : State) (n : Nat) (x : Core) : (s.setCore n x).mem = s.mem := rfl
@[simp] theorem setCore_l2 (s : State) (n : Nat) (x : Core) : (s.setCore n x).l2 = s.l2 := rfl
@[simp] theorem setCore_owners (s : State) (n : Nat) (x : Core) : (s.setCore n x).owners = s.owners := rfl
@[simp] theorem setCore_guests (s : State) (n : Nat) (x : Core) : (s.setCore n x).guests = s.guests := rfl
@[simp] theorem setCore_l2lines (s : State) (n : Nat) (x : Core) : (s.setCore n x).l2lines = s.l2lines := rfl
@[simp] theorem setCore_l2stamp (s : State) (n : Nat) (x : Core) : (s.setCore n x).l2stamp = s.l2stamp := rfl
@[simp] theorem setCore_stlb (s : State) (n : Nat) (x : Core) : (s.setCore n x).stlb = s.stlb := rfl
@[simp] theorem setCore_spread (s : State) (n : Nat) (x : Core) : (s.setCore n x).spread = s.spread := rfl
@[simp] theorem setCore_registrations (s : State) (n : Nat) (x : Core) : (s.setCore n x).registrations = s.registrations := rfl
@[simp] theorem setCore_withdrawals (s : State) (n : Nat) (x : Core) : (s.setCore n x).withdrawals = s.withdrawals := rfl
@[simp] theorem setCore_pending (s : State) (n : Nat) (x : Core) : (s.setCore n x).pending = s.pending := rfl
@[simp] theorem setCore_releases (s : State) (n : Nat) (x : Core) : (s.setCore n x).releases = s.releases := rfl
@[simp] theorem setCore_packets (s : State) (n : Nat) (x : Core) : (s.setCore n x).packets = s.packets := rfl
@[simp] theorem setCore_requests (s : State) (n : Nat) (x : Core) : (s.setCore n x).requests = s.requests := rfl
@[simp] theorem setCore_queues (s : State) (n : Nat) (x : Core) : (s.setCore n x).queues = s.queues := rfl
@[simp] theorem setCore_reservations (s : State) (n : Nat) (x : Core) : (s.setCore n x).reservations = s.reservations := rfl
@[simp] theorem setCore_qhold (s : State) (n : Nat) (x : Core) : (s.setCore n x).qhold = s.qhold := rfl
@[simp] theorem setCore_flights (s : State) (n : Nat) (x : Core) : (s.setCore n x).flights = s.flights := rfl
@[simp] theorem setCore_creditFlights (s : State) (n : Nat) (x : Core) : (s.setCore n x).creditFlights = s.creditFlights := rfl
@[simp] theorem setCore_mats (s : State) (n : Nat) (x : Core) : (s.setCore n x).mats = s.mats := rfl
@[simp] theorem setCore_qps (s : State) (n : Nat) (x : Core) : (s.setCore n x).qps = s.qps := rfl
@[simp] theorem setCore_cmds (s : State) (n : Nat) (x : Core) : (s.setCore n x).cmds = s.cmds := rfl
@[simp] theorem setCore_contexts (s : State) (n : Nat) (x : Core) : (s.setCore n x).contexts = s.contexts := rfl
@[simp] theorem setCore_teams (s : State) (n : Nat) (x : Core) : (s.setCore n x).teams = s.teams := rfl
@[simp] theorem setCore_groups (s : State) (n : Nat) (x : Core) : (s.setCore n x).groups = s.groups := rfl
@[simp] theorem setCore_badMem (s : State) (n : Nat) (x : Core) : (s.setCore n x).badMem = s.badMem := rfl
@[simp] theorem setCore_badSpad (s : State) (n : Nat) (x : Core) : (s.setCore n x).badSpad = s.badSpad := rfl
@[simp] theorem setCore_badReg (s : State) (n : Nat) (x : Core) : (s.setCore n x).badReg = s.badReg := rfl
@[simp] theorem setCore_badSump (s : State) (n : Nat) (x : Core) : (s.setCore n x).badSump = s.badSump := rfl
@[simp] theorem setCore_badElse (s : State) (n : Nat) (x : Core) : (s.setCore n x).badElse = s.badElse := rfl
@[simp] theorem setCore_badWritten (s : State) (n : Nat) (x : Core) : (s.setCore n x).badWritten = s.badWritten := rfl
@[simp] theorem setCore_hashWait (s : State) (n : Nat) (x : Core) : (s.setCore n x).hashWait = s.hashWait := rfl
@[simp] theorem setCore_hashHeld (s : State) (n : Nat) (x : Core) : (s.setCore n x).hashHeld = s.hashHeld := rfl
@[simp] theorem setCore_launches (s : State) (n : Nat) (x : Core) : (s.setCore n x).launches = s.launches := rfl
@[simp] theorem setCore_graphs (s : State) (n : Nat) (x : Core) : (s.setCore n x).graphs = s.graphs := rfl
@[simp] theorem setCore_taken (s : State) (n : Nat) (x : Core) : (s.setCore n x).taken = s.taken := rfl
@[simp] theorem setCore_lastCtx (s : State) (n : Nat) (x : Core) : (s.setCore n x).lastCtx = s.lastCtx := rfl
@[simp] theorem setCore_lastQueue (s : State) (n : Nat) (x : Core) : (s.setCore n x).lastQueue = s.lastQueue := rfl
@[simp] theorem setCore_aborts (s : State) (n : Nat) (x : Core) : (s.setCore n x).aborts = s.aborts := rfl
@[simp] theorem setCore_wire (s : State) (n : Nat) (x : Core) : (s.setCore n x).wire = s.wire := rfl
@[simp] theorem setCore_dev (s : State) (n : Nat) (x : Core) : (s.setCore n x).dev = s.dev := rfl

@[simp] theorem modCore_agenda (s : State) (n : Nat) (f : Core → Core) : (s.modCore n f).agenda = s.agenda := rfl
@[simp] theorem modCore_issue (s : State) (n : Nat) (f : Core → Core) : (s.modCore n f).issue = s.issue := rfl
@[simp] theorem modCore_fresh (s : State) (n : Nat) (f : Core → Core) : (s.modCore n f).fresh = s.fresh := rfl
@[simp] theorem modCore_nextId (s : State) (n : Nat) (f : Core → Core) : (s.modCore n f).nextId = s.nextId := rfl
@[simp] theorem modCore_mem (s : State) (n : Nat) (f : Core → Core) : (s.modCore n f).mem = s.mem := rfl
@[simp] theorem modCore_l2 (s : State) (n : Nat) (f : Core → Core) : (s.modCore n f).l2 = s.l2 := rfl
@[simp] theorem modCore_owners (s : State) (n : Nat) (f : Core → Core) : (s.modCore n f).owners = s.owners := rfl
@[simp] theorem modCore_guests (s : State) (n : Nat) (f : Core → Core) : (s.modCore n f).guests = s.guests := rfl
@[simp] theorem modCore_l2lines (s : State) (n : Nat) (f : Core → Core) : (s.modCore n f).l2lines = s.l2lines := rfl
@[simp] theorem modCore_l2stamp (s : State) (n : Nat) (f : Core → Core) : (s.modCore n f).l2stamp = s.l2stamp := rfl
@[simp] theorem modCore_stlb (s : State) (n : Nat) (f : Core → Core) : (s.modCore n f).stlb = s.stlb := rfl
@[simp] theorem modCore_spread (s : State) (n : Nat) (f : Core → Core) : (s.modCore n f).spread = s.spread := rfl
@[simp] theorem modCore_registrations (s : State) (n : Nat) (f : Core → Core) : (s.modCore n f).registrations = s.registrations := rfl
@[simp] theorem modCore_withdrawals (s : State) (n : Nat) (f : Core → Core) : (s.modCore n f).withdrawals = s.withdrawals := rfl
@[simp] theorem modCore_pending (s : State) (n : Nat) (f : Core → Core) : (s.modCore n f).pending = s.pending := rfl
@[simp] theorem modCore_releases (s : State) (n : Nat) (f : Core → Core) : (s.modCore n f).releases = s.releases := rfl
@[simp] theorem modCore_packets (s : State) (n : Nat) (f : Core → Core) : (s.modCore n f).packets = s.packets := rfl
@[simp] theorem modCore_requests (s : State) (n : Nat) (f : Core → Core) : (s.modCore n f).requests = s.requests := rfl
@[simp] theorem modCore_queues (s : State) (n : Nat) (f : Core → Core) : (s.modCore n f).queues = s.queues := rfl
@[simp] theorem modCore_reservations (s : State) (n : Nat) (f : Core → Core) : (s.modCore n f).reservations = s.reservations := rfl
@[simp] theorem modCore_qhold (s : State) (n : Nat) (f : Core → Core) : (s.modCore n f).qhold = s.qhold := rfl
@[simp] theorem modCore_flights (s : State) (n : Nat) (f : Core → Core) : (s.modCore n f).flights = s.flights := rfl
@[simp] theorem modCore_creditFlights (s : State) (n : Nat) (f : Core → Core) : (s.modCore n f).creditFlights = s.creditFlights := rfl
@[simp] theorem modCore_mats (s : State) (n : Nat) (f : Core → Core) : (s.modCore n f).mats = s.mats := rfl
@[simp] theorem modCore_qps (s : State) (n : Nat) (f : Core → Core) : (s.modCore n f).qps = s.qps := rfl
@[simp] theorem modCore_cmds (s : State) (n : Nat) (f : Core → Core) : (s.modCore n f).cmds = s.cmds := rfl
@[simp] theorem modCore_contexts (s : State) (n : Nat) (f : Core → Core) : (s.modCore n f).contexts = s.contexts := rfl
@[simp] theorem modCore_teams (s : State) (n : Nat) (f : Core → Core) : (s.modCore n f).teams = s.teams := rfl
@[simp] theorem modCore_groups (s : State) (n : Nat) (f : Core → Core) : (s.modCore n f).groups = s.groups := rfl
@[simp] theorem modCore_badMem (s : State) (n : Nat) (f : Core → Core) : (s.modCore n f).badMem = s.badMem := rfl
@[simp] theorem modCore_badSpad (s : State) (n : Nat) (f : Core → Core) : (s.modCore n f).badSpad = s.badSpad := rfl
@[simp] theorem modCore_badReg (s : State) (n : Nat) (f : Core → Core) : (s.modCore n f).badReg = s.badReg := rfl
@[simp] theorem modCore_badSump (s : State) (n : Nat) (f : Core → Core) : (s.modCore n f).badSump = s.badSump := rfl
@[simp] theorem modCore_badElse (s : State) (n : Nat) (f : Core → Core) : (s.modCore n f).badElse = s.badElse := rfl
@[simp] theorem modCore_badWritten (s : State) (n : Nat) (f : Core → Core) : (s.modCore n f).badWritten = s.badWritten := rfl
@[simp] theorem modCore_hashWait (s : State) (n : Nat) (f : Core → Core) : (s.modCore n f).hashWait = s.hashWait := rfl
@[simp] theorem modCore_hashHeld (s : State) (n : Nat) (f : Core → Core) : (s.modCore n f).hashHeld = s.hashHeld := rfl
@[simp] theorem modCore_launches (s : State) (n : Nat) (f : Core → Core) : (s.modCore n f).launches = s.launches := rfl
@[simp] theorem modCore_graphs (s : State) (n : Nat) (f : Core → Core) : (s.modCore n f).graphs = s.graphs := rfl
@[simp] theorem modCore_taken (s : State) (n : Nat) (f : Core → Core) : (s.modCore n f).taken = s.taken := rfl
@[simp] theorem modCore_lastCtx (s : State) (n : Nat) (f : Core → Core) : (s.modCore n f).lastCtx = s.lastCtx := rfl
@[simp] theorem modCore_lastQueue (s : State) (n : Nat) (f : Core → Core) : (s.modCore n f).lastQueue = s.lastQueue := rfl
@[simp] theorem modCore_aborts (s : State) (n : Nat) (f : Core → Core) : (s.modCore n f).aborts = s.aborts := rfl
@[simp] theorem modCore_wire (s : State) (n : Nat) (f : Core → Core) : (s.modCore n f).wire = s.wire := rfl
@[simp] theorem modCore_dev (s : State) (n : Nat) (f : Core → Core) : (s.modCore n f).dev = s.dev := rfl

@[simp] theorem setCtx_agenda (s : State) (n : Nat) (x : Context) : (s.setCtx n x).agenda = s.agenda := rfl
@[simp] theorem setCtx_issue (s : State) (n : Nat) (x : Context) : (s.setCtx n x).issue = s.issue := rfl
@[simp] theorem setCtx_fresh (s : State) (n : Nat) (x : Context) : (s.setCtx n x).fresh = s.fresh := rfl
@[simp] theorem setCtx_nextId (s : State) (n : Nat) (x : Context) : (s.setCtx n x).nextId = s.nextId := rfl
@[simp] theorem setCtx_mem (s : State) (n : Nat) (x : Context) : (s.setCtx n x).mem = s.mem := rfl
@[simp] theorem setCtx_l2 (s : State) (n : Nat) (x : Context) : (s.setCtx n x).l2 = s.l2 := rfl
@[simp] theorem setCtx_owners (s : State) (n : Nat) (x : Context) : (s.setCtx n x).owners = s.owners := rfl
@[simp] theorem setCtx_guests (s : State) (n : Nat) (x : Context) : (s.setCtx n x).guests = s.guests := rfl
@[simp] theorem setCtx_l2lines (s : State) (n : Nat) (x : Context) : (s.setCtx n x).l2lines = s.l2lines := rfl
@[simp] theorem setCtx_l2stamp (s : State) (n : Nat) (x : Context) : (s.setCtx n x).l2stamp = s.l2stamp := rfl
@[simp] theorem setCtx_stlb (s : State) (n : Nat) (x : Context) : (s.setCtx n x).stlb = s.stlb := rfl
@[simp] theorem setCtx_spread (s : State) (n : Nat) (x : Context) : (s.setCtx n x).spread = s.spread := rfl
@[simp] theorem setCtx_registrations (s : State) (n : Nat) (x : Context) : (s.setCtx n x).registrations = s.registrations := rfl
@[simp] theorem setCtx_withdrawals (s : State) (n : Nat) (x : Context) : (s.setCtx n x).withdrawals = s.withdrawals := rfl
@[simp] theorem setCtx_pending (s : State) (n : Nat) (x : Context) : (s.setCtx n x).pending = s.pending := rfl
@[simp] theorem setCtx_releases (s : State) (n : Nat) (x : Context) : (s.setCtx n x).releases = s.releases := rfl
@[simp] theorem setCtx_packets (s : State) (n : Nat) (x : Context) : (s.setCtx n x).packets = s.packets := rfl
@[simp] theorem setCtx_requests (s : State) (n : Nat) (x : Context) : (s.setCtx n x).requests = s.requests := rfl
@[simp] theorem setCtx_queues (s : State) (n : Nat) (x : Context) : (s.setCtx n x).queues = s.queues := rfl
@[simp] theorem setCtx_reservations (s : State) (n : Nat) (x : Context) : (s.setCtx n x).reservations = s.reservations := rfl
@[simp] theorem setCtx_qhold (s : State) (n : Nat) (x : Context) : (s.setCtx n x).qhold = s.qhold := rfl
@[simp] theorem setCtx_flights (s : State) (n : Nat) (x : Context) : (s.setCtx n x).flights = s.flights := rfl
@[simp] theorem setCtx_creditFlights (s : State) (n : Nat) (x : Context) : (s.setCtx n x).creditFlights = s.creditFlights := rfl
@[simp] theorem setCtx_mats (s : State) (n : Nat) (x : Context) : (s.setCtx n x).mats = s.mats := rfl
@[simp] theorem setCtx_qps (s : State) (n : Nat) (x : Context) : (s.setCtx n x).qps = s.qps := rfl
@[simp] theorem setCtx_cmds (s : State) (n : Nat) (x : Context) : (s.setCtx n x).cmds = s.cmds := rfl
@[simp] theorem setCtx_cores (s : State) (n : Nat) (x : Context) : (s.setCtx n x).cores = s.cores := rfl
@[simp] theorem setCtx_teams (s : State) (n : Nat) (x : Context) : (s.setCtx n x).teams = s.teams := rfl
@[simp] theorem setCtx_groups (s : State) (n : Nat) (x : Context) : (s.setCtx n x).groups = s.groups := rfl
@[simp] theorem setCtx_badMem (s : State) (n : Nat) (x : Context) : (s.setCtx n x).badMem = s.badMem := rfl
@[simp] theorem setCtx_badSpad (s : State) (n : Nat) (x : Context) : (s.setCtx n x).badSpad = s.badSpad := rfl
@[simp] theorem setCtx_badReg (s : State) (n : Nat) (x : Context) : (s.setCtx n x).badReg = s.badReg := rfl
@[simp] theorem setCtx_badSump (s : State) (n : Nat) (x : Context) : (s.setCtx n x).badSump = s.badSump := rfl
@[simp] theorem setCtx_badElse (s : State) (n : Nat) (x : Context) : (s.setCtx n x).badElse = s.badElse := rfl
@[simp] theorem setCtx_badWritten (s : State) (n : Nat) (x : Context) : (s.setCtx n x).badWritten = s.badWritten := rfl
@[simp] theorem setCtx_hashWait (s : State) (n : Nat) (x : Context) : (s.setCtx n x).hashWait = s.hashWait := rfl
@[simp] theorem setCtx_hashHeld (s : State) (n : Nat) (x : Context) : (s.setCtx n x).hashHeld = s.hashHeld := rfl
@[simp] theorem setCtx_launches (s : State) (n : Nat) (x : Context) : (s.setCtx n x).launches = s.launches := rfl
@[simp] theorem setCtx_graphs (s : State) (n : Nat) (x : Context) : (s.setCtx n x).graphs = s.graphs := rfl
@[simp] theorem setCtx_taken (s : State) (n : Nat) (x : Context) : (s.setCtx n x).taken = s.taken := rfl
@[simp] theorem setCtx_lastCtx (s : State) (n : Nat) (x : Context) : (s.setCtx n x).lastCtx = s.lastCtx := rfl
@[simp] theorem setCtx_lastQueue (s : State) (n : Nat) (x : Context) : (s.setCtx n x).lastQueue = s.lastQueue := rfl
@[simp] theorem setCtx_aborts (s : State) (n : Nat) (x : Context) : (s.setCtx n x).aborts = s.aborts := rfl
@[simp] theorem setCtx_wire (s : State) (n : Nat) (x : Context) : (s.setCtx n x).wire = s.wire := rfl
@[simp] theorem setCtx_dev (s : State) (n : Nat) (x : Context) : (s.setCtx n x).dev = s.dev := rfl

@[simp] theorem modCtx_agenda (s : State) (n : Nat) (f : Context → Context) : (s.modCtx n f).agenda = s.agenda := rfl
@[simp] theorem modCtx_issue (s : State) (n : Nat) (f : Context → Context) : (s.modCtx n f).issue = s.issue := rfl
@[simp] theorem modCtx_fresh (s : State) (n : Nat) (f : Context → Context) : (s.modCtx n f).fresh = s.fresh := rfl
@[simp] theorem modCtx_nextId (s : State) (n : Nat) (f : Context → Context) : (s.modCtx n f).nextId = s.nextId := rfl
@[simp] theorem modCtx_mem (s : State) (n : Nat) (f : Context → Context) : (s.modCtx n f).mem = s.mem := rfl
@[simp] theorem modCtx_l2 (s : State) (n : Nat) (f : Context → Context) : (s.modCtx n f).l2 = s.l2 := rfl
@[simp] theorem modCtx_owners (s : State) (n : Nat) (f : Context → Context) : (s.modCtx n f).owners = s.owners := rfl
@[simp] theorem modCtx_guests (s : State) (n : Nat) (f : Context → Context) : (s.modCtx n f).guests = s.guests := rfl
@[simp] theorem modCtx_l2lines (s : State) (n : Nat) (f : Context → Context) : (s.modCtx n f).l2lines = s.l2lines := rfl
@[simp] theorem modCtx_l2stamp (s : State) (n : Nat) (f : Context → Context) : (s.modCtx n f).l2stamp = s.l2stamp := rfl
@[simp] theorem modCtx_stlb (s : State) (n : Nat) (f : Context → Context) : (s.modCtx n f).stlb = s.stlb := rfl
@[simp] theorem modCtx_spread (s : State) (n : Nat) (f : Context → Context) : (s.modCtx n f).spread = s.spread := rfl
@[simp] theorem modCtx_registrations (s : State) (n : Nat) (f : Context → Context) : (s.modCtx n f).registrations = s.registrations := rfl
@[simp] theorem modCtx_withdrawals (s : State) (n : Nat) (f : Context → Context) : (s.modCtx n f).withdrawals = s.withdrawals := rfl
@[simp] theorem modCtx_pending (s : State) (n : Nat) (f : Context → Context) : (s.modCtx n f).pending = s.pending := rfl
@[simp] theorem modCtx_releases (s : State) (n : Nat) (f : Context → Context) : (s.modCtx n f).releases = s.releases := rfl
@[simp] theorem modCtx_packets (s : State) (n : Nat) (f : Context → Context) : (s.modCtx n f).packets = s.packets := rfl
@[simp] theorem modCtx_requests (s : State) (n : Nat) (f : Context → Context) : (s.modCtx n f).requests = s.requests := rfl
@[simp] theorem modCtx_queues (s : State) (n : Nat) (f : Context → Context) : (s.modCtx n f).queues = s.queues := rfl
@[simp] theorem modCtx_reservations (s : State) (n : Nat) (f : Context → Context) : (s.modCtx n f).reservations = s.reservations := rfl
@[simp] theorem modCtx_qhold (s : State) (n : Nat) (f : Context → Context) : (s.modCtx n f).qhold = s.qhold := rfl
@[simp] theorem modCtx_flights (s : State) (n : Nat) (f : Context → Context) : (s.modCtx n f).flights = s.flights := rfl
@[simp] theorem modCtx_creditFlights (s : State) (n : Nat) (f : Context → Context) : (s.modCtx n f).creditFlights = s.creditFlights := rfl
@[simp] theorem modCtx_mats (s : State) (n : Nat) (f : Context → Context) : (s.modCtx n f).mats = s.mats := rfl
@[simp] theorem modCtx_qps (s : State) (n : Nat) (f : Context → Context) : (s.modCtx n f).qps = s.qps := rfl
@[simp] theorem modCtx_cmds (s : State) (n : Nat) (f : Context → Context) : (s.modCtx n f).cmds = s.cmds := rfl
@[simp] theorem modCtx_cores (s : State) (n : Nat) (f : Context → Context) : (s.modCtx n f).cores = s.cores := rfl
@[simp] theorem modCtx_teams (s : State) (n : Nat) (f : Context → Context) : (s.modCtx n f).teams = s.teams := rfl
@[simp] theorem modCtx_groups (s : State) (n : Nat) (f : Context → Context) : (s.modCtx n f).groups = s.groups := rfl
@[simp] theorem modCtx_badMem (s : State) (n : Nat) (f : Context → Context) : (s.modCtx n f).badMem = s.badMem := rfl
@[simp] theorem modCtx_badSpad (s : State) (n : Nat) (f : Context → Context) : (s.modCtx n f).badSpad = s.badSpad := rfl
@[simp] theorem modCtx_badReg (s : State) (n : Nat) (f : Context → Context) : (s.modCtx n f).badReg = s.badReg := rfl
@[simp] theorem modCtx_badSump (s : State) (n : Nat) (f : Context → Context) : (s.modCtx n f).badSump = s.badSump := rfl
@[simp] theorem modCtx_badElse (s : State) (n : Nat) (f : Context → Context) : (s.modCtx n f).badElse = s.badElse := rfl
@[simp] theorem modCtx_badWritten (s : State) (n : Nat) (f : Context → Context) : (s.modCtx n f).badWritten = s.badWritten := rfl
@[simp] theorem modCtx_hashWait (s : State) (n : Nat) (f : Context → Context) : (s.modCtx n f).hashWait = s.hashWait := rfl
@[simp] theorem modCtx_hashHeld (s : State) (n : Nat) (f : Context → Context) : (s.modCtx n f).hashHeld = s.hashHeld := rfl
@[simp] theorem modCtx_launches (s : State) (n : Nat) (f : Context → Context) : (s.modCtx n f).launches = s.launches := rfl
@[simp] theorem modCtx_graphs (s : State) (n : Nat) (f : Context → Context) : (s.modCtx n f).graphs = s.graphs := rfl
@[simp] theorem modCtx_taken (s : State) (n : Nat) (f : Context → Context) : (s.modCtx n f).taken = s.taken := rfl
@[simp] theorem modCtx_lastCtx (s : State) (n : Nat) (f : Context → Context) : (s.modCtx n f).lastCtx = s.lastCtx := rfl
@[simp] theorem modCtx_lastQueue (s : State) (n : Nat) (f : Context → Context) : (s.modCtx n f).lastQueue = s.lastQueue := rfl
@[simp] theorem modCtx_aborts (s : State) (n : Nat) (f : Context → Context) : (s.modCtx n f).aborts = s.aborts := rfl
@[simp] theorem modCtx_wire (s : State) (n : Nat) (f : Context → Context) : (s.modCtx n f).wire = s.wire := rfl
@[simp] theorem modCtx_dev (s : State) (n : Nat) (f : Context → Context) : (s.modCtx n f).dev = s.dev := rfl

@[simp] theorem setTeam_agenda (s : State) (n : Nat) (x : Team) : (s.setTeam n x).agenda = s.agenda := rfl
@[simp] theorem setTeam_issue (s : State) (n : Nat) (x : Team) : (s.setTeam n x).issue = s.issue := rfl
@[simp] theorem setTeam_fresh (s : State) (n : Nat) (x : Team) : (s.setTeam n x).fresh = s.fresh := rfl
@[simp] theorem setTeam_nextId (s : State) (n : Nat) (x : Team) : (s.setTeam n x).nextId = s.nextId := rfl
@[simp] theorem setTeam_mem (s : State) (n : Nat) (x : Team) : (s.setTeam n x).mem = s.mem := rfl
@[simp] theorem setTeam_l2 (s : State) (n : Nat) (x : Team) : (s.setTeam n x).l2 = s.l2 := rfl
@[simp] theorem setTeam_owners (s : State) (n : Nat) (x : Team) : (s.setTeam n x).owners = s.owners := rfl
@[simp] theorem setTeam_guests (s : State) (n : Nat) (x : Team) : (s.setTeam n x).guests = s.guests := rfl
@[simp] theorem setTeam_l2lines (s : State) (n : Nat) (x : Team) : (s.setTeam n x).l2lines = s.l2lines := rfl
@[simp] theorem setTeam_l2stamp (s : State) (n : Nat) (x : Team) : (s.setTeam n x).l2stamp = s.l2stamp := rfl
@[simp] theorem setTeam_stlb (s : State) (n : Nat) (x : Team) : (s.setTeam n x).stlb = s.stlb := rfl
@[simp] theorem setTeam_spread (s : State) (n : Nat) (x : Team) : (s.setTeam n x).spread = s.spread := rfl
@[simp] theorem setTeam_registrations (s : State) (n : Nat) (x : Team) : (s.setTeam n x).registrations = s.registrations := rfl
@[simp] theorem setTeam_withdrawals (s : State) (n : Nat) (x : Team) : (s.setTeam n x).withdrawals = s.withdrawals := rfl
@[simp] theorem setTeam_pending (s : State) (n : Nat) (x : Team) : (s.setTeam n x).pending = s.pending := rfl
@[simp] theorem setTeam_releases (s : State) (n : Nat) (x : Team) : (s.setTeam n x).releases = s.releases := rfl
@[simp] theorem setTeam_packets (s : State) (n : Nat) (x : Team) : (s.setTeam n x).packets = s.packets := rfl
@[simp] theorem setTeam_requests (s : State) (n : Nat) (x : Team) : (s.setTeam n x).requests = s.requests := rfl
@[simp] theorem setTeam_queues (s : State) (n : Nat) (x : Team) : (s.setTeam n x).queues = s.queues := rfl
@[simp] theorem setTeam_reservations (s : State) (n : Nat) (x : Team) : (s.setTeam n x).reservations = s.reservations := rfl
@[simp] theorem setTeam_qhold (s : State) (n : Nat) (x : Team) : (s.setTeam n x).qhold = s.qhold := rfl
@[simp] theorem setTeam_flights (s : State) (n : Nat) (x : Team) : (s.setTeam n x).flights = s.flights := rfl
@[simp] theorem setTeam_creditFlights (s : State) (n : Nat) (x : Team) : (s.setTeam n x).creditFlights = s.creditFlights := rfl
@[simp] theorem setTeam_mats (s : State) (n : Nat) (x : Team) : (s.setTeam n x).mats = s.mats := rfl
@[simp] theorem setTeam_qps (s : State) (n : Nat) (x : Team) : (s.setTeam n x).qps = s.qps := rfl
@[simp] theorem setTeam_cmds (s : State) (n : Nat) (x : Team) : (s.setTeam n x).cmds = s.cmds := rfl
@[simp] theorem setTeam_cores (s : State) (n : Nat) (x : Team) : (s.setTeam n x).cores = s.cores := rfl
@[simp] theorem setTeam_contexts (s : State) (n : Nat) (x : Team) : (s.setTeam n x).contexts = s.contexts := rfl
@[simp] theorem setTeam_groups (s : State) (n : Nat) (x : Team) : (s.setTeam n x).groups = s.groups := rfl
@[simp] theorem setTeam_badMem (s : State) (n : Nat) (x : Team) : (s.setTeam n x).badMem = s.badMem := rfl
@[simp] theorem setTeam_badSpad (s : State) (n : Nat) (x : Team) : (s.setTeam n x).badSpad = s.badSpad := rfl
@[simp] theorem setTeam_badReg (s : State) (n : Nat) (x : Team) : (s.setTeam n x).badReg = s.badReg := rfl
@[simp] theorem setTeam_badSump (s : State) (n : Nat) (x : Team) : (s.setTeam n x).badSump = s.badSump := rfl
@[simp] theorem setTeam_badElse (s : State) (n : Nat) (x : Team) : (s.setTeam n x).badElse = s.badElse := rfl
@[simp] theorem setTeam_badWritten (s : State) (n : Nat) (x : Team) : (s.setTeam n x).badWritten = s.badWritten := rfl
@[simp] theorem setTeam_hashWait (s : State) (n : Nat) (x : Team) : (s.setTeam n x).hashWait = s.hashWait := rfl
@[simp] theorem setTeam_hashHeld (s : State) (n : Nat) (x : Team) : (s.setTeam n x).hashHeld = s.hashHeld := rfl
@[simp] theorem setTeam_launches (s : State) (n : Nat) (x : Team) : (s.setTeam n x).launches = s.launches := rfl
@[simp] theorem setTeam_graphs (s : State) (n : Nat) (x : Team) : (s.setTeam n x).graphs = s.graphs := rfl
@[simp] theorem setTeam_taken (s : State) (n : Nat) (x : Team) : (s.setTeam n x).taken = s.taken := rfl
@[simp] theorem setTeam_lastCtx (s : State) (n : Nat) (x : Team) : (s.setTeam n x).lastCtx = s.lastCtx := rfl
@[simp] theorem setTeam_lastQueue (s : State) (n : Nat) (x : Team) : (s.setTeam n x).lastQueue = s.lastQueue := rfl
@[simp] theorem setTeam_aborts (s : State) (n : Nat) (x : Team) : (s.setTeam n x).aborts = s.aborts := rfl
@[simp] theorem setTeam_wire (s : State) (n : Nat) (x : Team) : (s.setTeam n x).wire = s.wire := rfl
@[simp] theorem setTeam_dev (s : State) (n : Nat) (x : Team) : (s.setTeam n x).dev = s.dev := rfl

@[simp] theorem modTeam_agenda (s : State) (n : Nat) (f : Team → Team) : (s.modTeam n f).agenda = s.agenda := rfl
@[simp] theorem modTeam_issue (s : State) (n : Nat) (f : Team → Team) : (s.modTeam n f).issue = s.issue := rfl
@[simp] theorem modTeam_fresh (s : State) (n : Nat) (f : Team → Team) : (s.modTeam n f).fresh = s.fresh := rfl
@[simp] theorem modTeam_nextId (s : State) (n : Nat) (f : Team → Team) : (s.modTeam n f).nextId = s.nextId := rfl
@[simp] theorem modTeam_mem (s : State) (n : Nat) (f : Team → Team) : (s.modTeam n f).mem = s.mem := rfl
@[simp] theorem modTeam_l2 (s : State) (n : Nat) (f : Team → Team) : (s.modTeam n f).l2 = s.l2 := rfl
@[simp] theorem modTeam_owners (s : State) (n : Nat) (f : Team → Team) : (s.modTeam n f).owners = s.owners := rfl
@[simp] theorem modTeam_guests (s : State) (n : Nat) (f : Team → Team) : (s.modTeam n f).guests = s.guests := rfl
@[simp] theorem modTeam_l2lines (s : State) (n : Nat) (f : Team → Team) : (s.modTeam n f).l2lines = s.l2lines := rfl
@[simp] theorem modTeam_l2stamp (s : State) (n : Nat) (f : Team → Team) : (s.modTeam n f).l2stamp = s.l2stamp := rfl
@[simp] theorem modTeam_stlb (s : State) (n : Nat) (f : Team → Team) : (s.modTeam n f).stlb = s.stlb := rfl
@[simp] theorem modTeam_spread (s : State) (n : Nat) (f : Team → Team) : (s.modTeam n f).spread = s.spread := rfl
@[simp] theorem modTeam_registrations (s : State) (n : Nat) (f : Team → Team) : (s.modTeam n f).registrations = s.registrations := rfl
@[simp] theorem modTeam_withdrawals (s : State) (n : Nat) (f : Team → Team) : (s.modTeam n f).withdrawals = s.withdrawals := rfl
@[simp] theorem modTeam_pending (s : State) (n : Nat) (f : Team → Team) : (s.modTeam n f).pending = s.pending := rfl
@[simp] theorem modTeam_releases (s : State) (n : Nat) (f : Team → Team) : (s.modTeam n f).releases = s.releases := rfl
@[simp] theorem modTeam_packets (s : State) (n : Nat) (f : Team → Team) : (s.modTeam n f).packets = s.packets := rfl
@[simp] theorem modTeam_requests (s : State) (n : Nat) (f : Team → Team) : (s.modTeam n f).requests = s.requests := rfl
@[simp] theorem modTeam_queues (s : State) (n : Nat) (f : Team → Team) : (s.modTeam n f).queues = s.queues := rfl
@[simp] theorem modTeam_reservations (s : State) (n : Nat) (f : Team → Team) : (s.modTeam n f).reservations = s.reservations := rfl
@[simp] theorem modTeam_qhold (s : State) (n : Nat) (f : Team → Team) : (s.modTeam n f).qhold = s.qhold := rfl
@[simp] theorem modTeam_flights (s : State) (n : Nat) (f : Team → Team) : (s.modTeam n f).flights = s.flights := rfl
@[simp] theorem modTeam_creditFlights (s : State) (n : Nat) (f : Team → Team) : (s.modTeam n f).creditFlights = s.creditFlights := rfl
@[simp] theorem modTeam_mats (s : State) (n : Nat) (f : Team → Team) : (s.modTeam n f).mats = s.mats := rfl
@[simp] theorem modTeam_qps (s : State) (n : Nat) (f : Team → Team) : (s.modTeam n f).qps = s.qps := rfl
@[simp] theorem modTeam_cmds (s : State) (n : Nat) (f : Team → Team) : (s.modTeam n f).cmds = s.cmds := rfl
@[simp] theorem modTeam_cores (s : State) (n : Nat) (f : Team → Team) : (s.modTeam n f).cores = s.cores := rfl
@[simp] theorem modTeam_contexts (s : State) (n : Nat) (f : Team → Team) : (s.modTeam n f).contexts = s.contexts := rfl
@[simp] theorem modTeam_groups (s : State) (n : Nat) (f : Team → Team) : (s.modTeam n f).groups = s.groups := rfl
@[simp] theorem modTeam_badMem (s : State) (n : Nat) (f : Team → Team) : (s.modTeam n f).badMem = s.badMem := rfl
@[simp] theorem modTeam_badSpad (s : State) (n : Nat) (f : Team → Team) : (s.modTeam n f).badSpad = s.badSpad := rfl
@[simp] theorem modTeam_badReg (s : State) (n : Nat) (f : Team → Team) : (s.modTeam n f).badReg = s.badReg := rfl
@[simp] theorem modTeam_badSump (s : State) (n : Nat) (f : Team → Team) : (s.modTeam n f).badSump = s.badSump := rfl
@[simp] theorem modTeam_badElse (s : State) (n : Nat) (f : Team → Team) : (s.modTeam n f).badElse = s.badElse := rfl
@[simp] theorem modTeam_badWritten (s : State) (n : Nat) (f : Team → Team) : (s.modTeam n f).badWritten = s.badWritten := rfl
@[simp] theorem modTeam_hashWait (s : State) (n : Nat) (f : Team → Team) : (s.modTeam n f).hashWait = s.hashWait := rfl
@[simp] theorem modTeam_hashHeld (s : State) (n : Nat) (f : Team → Team) : (s.modTeam n f).hashHeld = s.hashHeld := rfl
@[simp] theorem modTeam_launches (s : State) (n : Nat) (f : Team → Team) : (s.modTeam n f).launches = s.launches := rfl
@[simp] theorem modTeam_graphs (s : State) (n : Nat) (f : Team → Team) : (s.modTeam n f).graphs = s.graphs := rfl
@[simp] theorem modTeam_taken (s : State) (n : Nat) (f : Team → Team) : (s.modTeam n f).taken = s.taken := rfl
@[simp] theorem modTeam_lastCtx (s : State) (n : Nat) (f : Team → Team) : (s.modTeam n f).lastCtx = s.lastCtx := rfl
@[simp] theorem modTeam_lastQueue (s : State) (n : Nat) (f : Team → Team) : (s.modTeam n f).lastQueue = s.lastQueue := rfl
@[simp] theorem modTeam_aborts (s : State) (n : Nat) (f : Team → Team) : (s.modTeam n f).aborts = s.aborts := rfl
@[simp] theorem modTeam_wire (s : State) (n : Nat) (f : Team → Team) : (s.modTeam n f).wire = s.wire := rfl
@[simp] theorem modTeam_dev (s : State) (n : Nat) (f : Team → Team) : (s.modTeam n f).dev = s.dev := rfl

@[simp] theorem setGroup_agenda (s : State) (n : Nat) (x : Group) : (s.setGroup n x).agenda = s.agenda := rfl
@[simp] theorem setGroup_issue (s : State) (n : Nat) (x : Group) : (s.setGroup n x).issue = s.issue := rfl
@[simp] theorem setGroup_fresh (s : State) (n : Nat) (x : Group) : (s.setGroup n x).fresh = s.fresh := rfl
@[simp] theorem setGroup_nextId (s : State) (n : Nat) (x : Group) : (s.setGroup n x).nextId = s.nextId := rfl
@[simp] theorem setGroup_mem (s : State) (n : Nat) (x : Group) : (s.setGroup n x).mem = s.mem := rfl
@[simp] theorem setGroup_l2 (s : State) (n : Nat) (x : Group) : (s.setGroup n x).l2 = s.l2 := rfl
@[simp] theorem setGroup_owners (s : State) (n : Nat) (x : Group) : (s.setGroup n x).owners = s.owners := rfl
@[simp] theorem setGroup_guests (s : State) (n : Nat) (x : Group) : (s.setGroup n x).guests = s.guests := rfl
@[simp] theorem setGroup_l2lines (s : State) (n : Nat) (x : Group) : (s.setGroup n x).l2lines = s.l2lines := rfl
@[simp] theorem setGroup_l2stamp (s : State) (n : Nat) (x : Group) : (s.setGroup n x).l2stamp = s.l2stamp := rfl
@[simp] theorem setGroup_stlb (s : State) (n : Nat) (x : Group) : (s.setGroup n x).stlb = s.stlb := rfl
@[simp] theorem setGroup_spread (s : State) (n : Nat) (x : Group) : (s.setGroup n x).spread = s.spread := rfl
@[simp] theorem setGroup_registrations (s : State) (n : Nat) (x : Group) : (s.setGroup n x).registrations = s.registrations := rfl
@[simp] theorem setGroup_withdrawals (s : State) (n : Nat) (x : Group) : (s.setGroup n x).withdrawals = s.withdrawals := rfl
@[simp] theorem setGroup_pending (s : State) (n : Nat) (x : Group) : (s.setGroup n x).pending = s.pending := rfl
@[simp] theorem setGroup_releases (s : State) (n : Nat) (x : Group) : (s.setGroup n x).releases = s.releases := rfl
@[simp] theorem setGroup_packets (s : State) (n : Nat) (x : Group) : (s.setGroup n x).packets = s.packets := rfl
@[simp] theorem setGroup_requests (s : State) (n : Nat) (x : Group) : (s.setGroup n x).requests = s.requests := rfl
@[simp] theorem setGroup_queues (s : State) (n : Nat) (x : Group) : (s.setGroup n x).queues = s.queues := rfl
@[simp] theorem setGroup_reservations (s : State) (n : Nat) (x : Group) : (s.setGroup n x).reservations = s.reservations := rfl
@[simp] theorem setGroup_qhold (s : State) (n : Nat) (x : Group) : (s.setGroup n x).qhold = s.qhold := rfl
@[simp] theorem setGroup_flights (s : State) (n : Nat) (x : Group) : (s.setGroup n x).flights = s.flights := rfl
@[simp] theorem setGroup_creditFlights (s : State) (n : Nat) (x : Group) : (s.setGroup n x).creditFlights = s.creditFlights := rfl
@[simp] theorem setGroup_mats (s : State) (n : Nat) (x : Group) : (s.setGroup n x).mats = s.mats := rfl
@[simp] theorem setGroup_qps (s : State) (n : Nat) (x : Group) : (s.setGroup n x).qps = s.qps := rfl
@[simp] theorem setGroup_cmds (s : State) (n : Nat) (x : Group) : (s.setGroup n x).cmds = s.cmds := rfl
@[simp] theorem setGroup_cores (s : State) (n : Nat) (x : Group) : (s.setGroup n x).cores = s.cores := rfl
@[simp] theorem setGroup_contexts (s : State) (n : Nat) (x : Group) : (s.setGroup n x).contexts = s.contexts := rfl
@[simp] theorem setGroup_teams (s : State) (n : Nat) (x : Group) : (s.setGroup n x).teams = s.teams := rfl
@[simp] theorem setGroup_badMem (s : State) (n : Nat) (x : Group) : (s.setGroup n x).badMem = s.badMem := rfl
@[simp] theorem setGroup_badSpad (s : State) (n : Nat) (x : Group) : (s.setGroup n x).badSpad = s.badSpad := rfl
@[simp] theorem setGroup_badReg (s : State) (n : Nat) (x : Group) : (s.setGroup n x).badReg = s.badReg := rfl
@[simp] theorem setGroup_badSump (s : State) (n : Nat) (x : Group) : (s.setGroup n x).badSump = s.badSump := rfl
@[simp] theorem setGroup_badElse (s : State) (n : Nat) (x : Group) : (s.setGroup n x).badElse = s.badElse := rfl
@[simp] theorem setGroup_badWritten (s : State) (n : Nat) (x : Group) : (s.setGroup n x).badWritten = s.badWritten := rfl
@[simp] theorem setGroup_hashWait (s : State) (n : Nat) (x : Group) : (s.setGroup n x).hashWait = s.hashWait := rfl
@[simp] theorem setGroup_hashHeld (s : State) (n : Nat) (x : Group) : (s.setGroup n x).hashHeld = s.hashHeld := rfl
@[simp] theorem setGroup_launches (s : State) (n : Nat) (x : Group) : (s.setGroup n x).launches = s.launches := rfl
@[simp] theorem setGroup_graphs (s : State) (n : Nat) (x : Group) : (s.setGroup n x).graphs = s.graphs := rfl
@[simp] theorem setGroup_taken (s : State) (n : Nat) (x : Group) : (s.setGroup n x).taken = s.taken := rfl
@[simp] theorem setGroup_lastCtx (s : State) (n : Nat) (x : Group) : (s.setGroup n x).lastCtx = s.lastCtx := rfl
@[simp] theorem setGroup_lastQueue (s : State) (n : Nat) (x : Group) : (s.setGroup n x).lastQueue = s.lastQueue := rfl
@[simp] theorem setGroup_aborts (s : State) (n : Nat) (x : Group) : (s.setGroup n x).aborts = s.aborts := rfl
@[simp] theorem setGroup_wire (s : State) (n : Nat) (x : Group) : (s.setGroup n x).wire = s.wire := rfl
@[simp] theorem setGroup_dev (s : State) (n : Nat) (x : Group) : (s.setGroup n x).dev = s.dev := rfl

@[simp] theorem modGroup_agenda (s : State) (n : Nat) (f : Group → Group) : (s.modGroup n f).agenda = s.agenda := rfl
@[simp] theorem modGroup_issue (s : State) (n : Nat) (f : Group → Group) : (s.modGroup n f).issue = s.issue := rfl
@[simp] theorem modGroup_fresh (s : State) (n : Nat) (f : Group → Group) : (s.modGroup n f).fresh = s.fresh := rfl
@[simp] theorem modGroup_nextId (s : State) (n : Nat) (f : Group → Group) : (s.modGroup n f).nextId = s.nextId := rfl
@[simp] theorem modGroup_mem (s : State) (n : Nat) (f : Group → Group) : (s.modGroup n f).mem = s.mem := rfl
@[simp] theorem modGroup_l2 (s : State) (n : Nat) (f : Group → Group) : (s.modGroup n f).l2 = s.l2 := rfl
@[simp] theorem modGroup_owners (s : State) (n : Nat) (f : Group → Group) : (s.modGroup n f).owners = s.owners := rfl
@[simp] theorem modGroup_guests (s : State) (n : Nat) (f : Group → Group) : (s.modGroup n f).guests = s.guests := rfl
@[simp] theorem modGroup_l2lines (s : State) (n : Nat) (f : Group → Group) : (s.modGroup n f).l2lines = s.l2lines := rfl
@[simp] theorem modGroup_l2stamp (s : State) (n : Nat) (f : Group → Group) : (s.modGroup n f).l2stamp = s.l2stamp := rfl
@[simp] theorem modGroup_stlb (s : State) (n : Nat) (f : Group → Group) : (s.modGroup n f).stlb = s.stlb := rfl
@[simp] theorem modGroup_spread (s : State) (n : Nat) (f : Group → Group) : (s.modGroup n f).spread = s.spread := rfl
@[simp] theorem modGroup_registrations (s : State) (n : Nat) (f : Group → Group) : (s.modGroup n f).registrations = s.registrations := rfl
@[simp] theorem modGroup_withdrawals (s : State) (n : Nat) (f : Group → Group) : (s.modGroup n f).withdrawals = s.withdrawals := rfl
@[simp] theorem modGroup_pending (s : State) (n : Nat) (f : Group → Group) : (s.modGroup n f).pending = s.pending := rfl
@[simp] theorem modGroup_releases (s : State) (n : Nat) (f : Group → Group) : (s.modGroup n f).releases = s.releases := rfl
@[simp] theorem modGroup_packets (s : State) (n : Nat) (f : Group → Group) : (s.modGroup n f).packets = s.packets := rfl
@[simp] theorem modGroup_requests (s : State) (n : Nat) (f : Group → Group) : (s.modGroup n f).requests = s.requests := rfl
@[simp] theorem modGroup_queues (s : State) (n : Nat) (f : Group → Group) : (s.modGroup n f).queues = s.queues := rfl
@[simp] theorem modGroup_reservations (s : State) (n : Nat) (f : Group → Group) : (s.modGroup n f).reservations = s.reservations := rfl
@[simp] theorem modGroup_qhold (s : State) (n : Nat) (f : Group → Group) : (s.modGroup n f).qhold = s.qhold := rfl
@[simp] theorem modGroup_flights (s : State) (n : Nat) (f : Group → Group) : (s.modGroup n f).flights = s.flights := rfl
@[simp] theorem modGroup_creditFlights (s : State) (n : Nat) (f : Group → Group) : (s.modGroup n f).creditFlights = s.creditFlights := rfl
@[simp] theorem modGroup_mats (s : State) (n : Nat) (f : Group → Group) : (s.modGroup n f).mats = s.mats := rfl
@[simp] theorem modGroup_qps (s : State) (n : Nat) (f : Group → Group) : (s.modGroup n f).qps = s.qps := rfl
@[simp] theorem modGroup_cmds (s : State) (n : Nat) (f : Group → Group) : (s.modGroup n f).cmds = s.cmds := rfl
@[simp] theorem modGroup_cores (s : State) (n : Nat) (f : Group → Group) : (s.modGroup n f).cores = s.cores := rfl
@[simp] theorem modGroup_contexts (s : State) (n : Nat) (f : Group → Group) : (s.modGroup n f).contexts = s.contexts := rfl
@[simp] theorem modGroup_teams (s : State) (n : Nat) (f : Group → Group) : (s.modGroup n f).teams = s.teams := rfl
@[simp] theorem modGroup_badMem (s : State) (n : Nat) (f : Group → Group) : (s.modGroup n f).badMem = s.badMem := rfl
@[simp] theorem modGroup_badSpad (s : State) (n : Nat) (f : Group → Group) : (s.modGroup n f).badSpad = s.badSpad := rfl
@[simp] theorem modGroup_badReg (s : State) (n : Nat) (f : Group → Group) : (s.modGroup n f).badReg = s.badReg := rfl
@[simp] theorem modGroup_badSump (s : State) (n : Nat) (f : Group → Group) : (s.modGroup n f).badSump = s.badSump := rfl
@[simp] theorem modGroup_badElse (s : State) (n : Nat) (f : Group → Group) : (s.modGroup n f).badElse = s.badElse := rfl
@[simp] theorem modGroup_badWritten (s : State) (n : Nat) (f : Group → Group) : (s.modGroup n f).badWritten = s.badWritten := rfl
@[simp] theorem modGroup_hashWait (s : State) (n : Nat) (f : Group → Group) : (s.modGroup n f).hashWait = s.hashWait := rfl
@[simp] theorem modGroup_hashHeld (s : State) (n : Nat) (f : Group → Group) : (s.modGroup n f).hashHeld = s.hashHeld := rfl
@[simp] theorem modGroup_launches (s : State) (n : Nat) (f : Group → Group) : (s.modGroup n f).launches = s.launches := rfl
@[simp] theorem modGroup_graphs (s : State) (n : Nat) (f : Group → Group) : (s.modGroup n f).graphs = s.graphs := rfl
@[simp] theorem modGroup_taken (s : State) (n : Nat) (f : Group → Group) : (s.modGroup n f).taken = s.taken := rfl
@[simp] theorem modGroup_lastCtx (s : State) (n : Nat) (f : Group → Group) : (s.modGroup n f).lastCtx = s.lastCtx := rfl
@[simp] theorem modGroup_lastQueue (s : State) (n : Nat) (f : Group → Group) : (s.modGroup n f).lastQueue = s.lastQueue := rfl
@[simp] theorem modGroup_aborts (s : State) (n : Nat) (f : Group → Group) : (s.modGroup n f).aborts = s.aborts := rfl
@[simp] theorem modGroup_wire (s : State) (n : Nat) (f : Group → Group) : (s.modGroup n f).wire = s.wire := rfl
@[simp] theorem modGroup_dev (s : State) (n : Nat) (f : Group → Group) : (s.modGroup n f).dev = s.dev := rfl

@[simp] theorem setFibre_agenda (s : State) (i : FibreId) (x : Fibre) : (s.setFibre i x).agenda = s.agenda := rfl
@[simp] theorem setFibre_issue (s : State) (i : FibreId) (x : Fibre) : (s.setFibre i x).issue = s.issue := rfl
@[simp] theorem setFibre_fresh (s : State) (i : FibreId) (x : Fibre) : (s.setFibre i x).fresh = s.fresh := rfl
@[simp] theorem setFibre_nextId (s : State) (i : FibreId) (x : Fibre) : (s.setFibre i x).nextId = s.nextId := rfl
@[simp] theorem setFibre_mem (s : State) (i : FibreId) (x : Fibre) : (s.setFibre i x).mem = s.mem := rfl
@[simp] theorem setFibre_l2 (s : State) (i : FibreId) (x : Fibre) : (s.setFibre i x).l2 = s.l2 := rfl
@[simp] theorem setFibre_owners (s : State) (i : FibreId) (x : Fibre) : (s.setFibre i x).owners = s.owners := rfl
@[simp] theorem setFibre_guests (s : State) (i : FibreId) (x : Fibre) : (s.setFibre i x).guests = s.guests := rfl
@[simp] theorem setFibre_l2lines (s : State) (i : FibreId) (x : Fibre) : (s.setFibre i x).l2lines = s.l2lines := rfl
@[simp] theorem setFibre_l2stamp (s : State) (i : FibreId) (x : Fibre) : (s.setFibre i x).l2stamp = s.l2stamp := rfl
@[simp] theorem setFibre_stlb (s : State) (i : FibreId) (x : Fibre) : (s.setFibre i x).stlb = s.stlb := rfl
@[simp] theorem setFibre_spread (s : State) (i : FibreId) (x : Fibre) : (s.setFibre i x).spread = s.spread := rfl
@[simp] theorem setFibre_registrations (s : State) (i : FibreId) (x : Fibre) : (s.setFibre i x).registrations = s.registrations := rfl
@[simp] theorem setFibre_withdrawals (s : State) (i : FibreId) (x : Fibre) : (s.setFibre i x).withdrawals = s.withdrawals := rfl
@[simp] theorem setFibre_pending (s : State) (i : FibreId) (x : Fibre) : (s.setFibre i x).pending = s.pending := rfl
@[simp] theorem setFibre_releases (s : State) (i : FibreId) (x : Fibre) : (s.setFibre i x).releases = s.releases := rfl
@[simp] theorem setFibre_packets (s : State) (i : FibreId) (x : Fibre) : (s.setFibre i x).packets = s.packets := rfl
@[simp] theorem setFibre_requests (s : State) (i : FibreId) (x : Fibre) : (s.setFibre i x).requests = s.requests := rfl
@[simp] theorem setFibre_queues (s : State) (i : FibreId) (x : Fibre) : (s.setFibre i x).queues = s.queues := rfl
@[simp] theorem setFibre_reservations (s : State) (i : FibreId) (x : Fibre) : (s.setFibre i x).reservations = s.reservations := rfl
@[simp] theorem setFibre_qhold (s : State) (i : FibreId) (x : Fibre) : (s.setFibre i x).qhold = s.qhold := rfl
@[simp] theorem setFibre_flights (s : State) (i : FibreId) (x : Fibre) : (s.setFibre i x).flights = s.flights := rfl
@[simp] theorem setFibre_creditFlights (s : State) (i : FibreId) (x : Fibre) : (s.setFibre i x).creditFlights = s.creditFlights := rfl
@[simp] theorem setFibre_mats (s : State) (i : FibreId) (x : Fibre) : (s.setFibre i x).mats = s.mats := rfl
@[simp] theorem setFibre_qps (s : State) (i : FibreId) (x : Fibre) : (s.setFibre i x).qps = s.qps := rfl
@[simp] theorem setFibre_cmds (s : State) (i : FibreId) (x : Fibre) : (s.setFibre i x).cmds = s.cmds := rfl
@[simp] theorem setFibre_cores (s : State) (i : FibreId) (x : Fibre) : (s.setFibre i x).cores = s.cores := rfl
@[simp] theorem setFibre_contexts (s : State) (i : FibreId) (x : Fibre) : (s.setFibre i x).contexts = s.contexts := rfl
@[simp] theorem setFibre_groups (s : State) (i : FibreId) (x : Fibre) : (s.setFibre i x).groups = s.groups := rfl
@[simp] theorem setFibre_badMem (s : State) (i : FibreId) (x : Fibre) : (s.setFibre i x).badMem = s.badMem := rfl
@[simp] theorem setFibre_badSpad (s : State) (i : FibreId) (x : Fibre) : (s.setFibre i x).badSpad = s.badSpad := rfl
@[simp] theorem setFibre_badReg (s : State) (i : FibreId) (x : Fibre) : (s.setFibre i x).badReg = s.badReg := rfl
@[simp] theorem setFibre_badSump (s : State) (i : FibreId) (x : Fibre) : (s.setFibre i x).badSump = s.badSump := rfl
@[simp] theorem setFibre_badElse (s : State) (i : FibreId) (x : Fibre) : (s.setFibre i x).badElse = s.badElse := rfl
@[simp] theorem setFibre_badWritten (s : State) (i : FibreId) (x : Fibre) : (s.setFibre i x).badWritten = s.badWritten := rfl
@[simp] theorem setFibre_hashWait (s : State) (i : FibreId) (x : Fibre) : (s.setFibre i x).hashWait = s.hashWait := rfl
@[simp] theorem setFibre_hashHeld (s : State) (i : FibreId) (x : Fibre) : (s.setFibre i x).hashHeld = s.hashHeld := rfl
@[simp] theorem setFibre_launches (s : State) (i : FibreId) (x : Fibre) : (s.setFibre i x).launches = s.launches := rfl
@[simp] theorem setFibre_graphs (s : State) (i : FibreId) (x : Fibre) : (s.setFibre i x).graphs = s.graphs := rfl
@[simp] theorem setFibre_taken (s : State) (i : FibreId) (x : Fibre) : (s.setFibre i x).taken = s.taken := rfl
@[simp] theorem setFibre_lastCtx (s : State) (i : FibreId) (x : Fibre) : (s.setFibre i x).lastCtx = s.lastCtx := rfl
@[simp] theorem setFibre_lastQueue (s : State) (i : FibreId) (x : Fibre) : (s.setFibre i x).lastQueue = s.lastQueue := rfl
@[simp] theorem setFibre_aborts (s : State) (i : FibreId) (x : Fibre) : (s.setFibre i x).aborts = s.aborts := rfl
@[simp] theorem setFibre_wire (s : State) (i : FibreId) (x : Fibre) : (s.setFibre i x).wire = s.wire := rfl
@[simp] theorem setFibre_dev (s : State) (i : FibreId) (x : Fibre) : (s.setFibre i x).dev = s.dev := rfl

@[simp] theorem modFibre_agenda (s : State) (i : FibreId) (f : Fibre → Fibre) : (s.modFibre i f).agenda = s.agenda := rfl
@[simp] theorem modFibre_issue (s : State) (i : FibreId) (f : Fibre → Fibre) : (s.modFibre i f).issue = s.issue := rfl
@[simp] theorem modFibre_fresh (s : State) (i : FibreId) (f : Fibre → Fibre) : (s.modFibre i f).fresh = s.fresh := rfl
@[simp] theorem modFibre_nextId (s : State) (i : FibreId) (f : Fibre → Fibre) : (s.modFibre i f).nextId = s.nextId := rfl
@[simp] theorem modFibre_mem (s : State) (i : FibreId) (f : Fibre → Fibre) : (s.modFibre i f).mem = s.mem := rfl
@[simp] theorem modFibre_l2 (s : State) (i : FibreId) (f : Fibre → Fibre) : (s.modFibre i f).l2 = s.l2 := rfl
@[simp] theorem modFibre_owners (s : State) (i : FibreId) (f : Fibre → Fibre) : (s.modFibre i f).owners = s.owners := rfl
@[simp] theorem modFibre_guests (s : State) (i : FibreId) (f : Fibre → Fibre) : (s.modFibre i f).guests = s.guests := rfl
@[simp] theorem modFibre_l2lines (s : State) (i : FibreId) (f : Fibre → Fibre) : (s.modFibre i f).l2lines = s.l2lines := rfl
@[simp] theorem modFibre_l2stamp (s : State) (i : FibreId) (f : Fibre → Fibre) : (s.modFibre i f).l2stamp = s.l2stamp := rfl
@[simp] theorem modFibre_stlb (s : State) (i : FibreId) (f : Fibre → Fibre) : (s.modFibre i f).stlb = s.stlb := rfl
@[simp] theorem modFibre_spread (s : State) (i : FibreId) (f : Fibre → Fibre) : (s.modFibre i f).spread = s.spread := rfl
@[simp] theorem modFibre_registrations (s : State) (i : FibreId) (f : Fibre → Fibre) : (s.modFibre i f).registrations = s.registrations := rfl
@[simp] theorem modFibre_withdrawals (s : State) (i : FibreId) (f : Fibre → Fibre) : (s.modFibre i f).withdrawals = s.withdrawals := rfl
@[simp] theorem modFibre_pending (s : State) (i : FibreId) (f : Fibre → Fibre) : (s.modFibre i f).pending = s.pending := rfl
@[simp] theorem modFibre_releases (s : State) (i : FibreId) (f : Fibre → Fibre) : (s.modFibre i f).releases = s.releases := rfl
@[simp] theorem modFibre_packets (s : State) (i : FibreId) (f : Fibre → Fibre) : (s.modFibre i f).packets = s.packets := rfl
@[simp] theorem modFibre_requests (s : State) (i : FibreId) (f : Fibre → Fibre) : (s.modFibre i f).requests = s.requests := rfl
@[simp] theorem modFibre_queues (s : State) (i : FibreId) (f : Fibre → Fibre) : (s.modFibre i f).queues = s.queues := rfl
@[simp] theorem modFibre_reservations (s : State) (i : FibreId) (f : Fibre → Fibre) : (s.modFibre i f).reservations = s.reservations := rfl
@[simp] theorem modFibre_qhold (s : State) (i : FibreId) (f : Fibre → Fibre) : (s.modFibre i f).qhold = s.qhold := rfl
@[simp] theorem modFibre_flights (s : State) (i : FibreId) (f : Fibre → Fibre) : (s.modFibre i f).flights = s.flights := rfl
@[simp] theorem modFibre_creditFlights (s : State) (i : FibreId) (f : Fibre → Fibre) : (s.modFibre i f).creditFlights = s.creditFlights := rfl
@[simp] theorem modFibre_mats (s : State) (i : FibreId) (f : Fibre → Fibre) : (s.modFibre i f).mats = s.mats := rfl
@[simp] theorem modFibre_qps (s : State) (i : FibreId) (f : Fibre → Fibre) : (s.modFibre i f).qps = s.qps := rfl
@[simp] theorem modFibre_cmds (s : State) (i : FibreId) (f : Fibre → Fibre) : (s.modFibre i f).cmds = s.cmds := rfl
@[simp] theorem modFibre_cores (s : State) (i : FibreId) (f : Fibre → Fibre) : (s.modFibre i f).cores = s.cores := rfl
@[simp] theorem modFibre_contexts (s : State) (i : FibreId) (f : Fibre → Fibre) : (s.modFibre i f).contexts = s.contexts := rfl
@[simp] theorem modFibre_groups (s : State) (i : FibreId) (f : Fibre → Fibre) : (s.modFibre i f).groups = s.groups := rfl
@[simp] theorem modFibre_badMem (s : State) (i : FibreId) (f : Fibre → Fibre) : (s.modFibre i f).badMem = s.badMem := rfl
@[simp] theorem modFibre_badSpad (s : State) (i : FibreId) (f : Fibre → Fibre) : (s.modFibre i f).badSpad = s.badSpad := rfl
@[simp] theorem modFibre_badReg (s : State) (i : FibreId) (f : Fibre → Fibre) : (s.modFibre i f).badReg = s.badReg := rfl
@[simp] theorem modFibre_badSump (s : State) (i : FibreId) (f : Fibre → Fibre) : (s.modFibre i f).badSump = s.badSump := rfl
@[simp] theorem modFibre_badElse (s : State) (i : FibreId) (f : Fibre → Fibre) : (s.modFibre i f).badElse = s.badElse := rfl
@[simp] theorem modFibre_badWritten (s : State) (i : FibreId) (f : Fibre → Fibre) : (s.modFibre i f).badWritten = s.badWritten := rfl
@[simp] theorem modFibre_hashWait (s : State) (i : FibreId) (f : Fibre → Fibre) : (s.modFibre i f).hashWait = s.hashWait := rfl
@[simp] theorem modFibre_hashHeld (s : State) (i : FibreId) (f : Fibre → Fibre) : (s.modFibre i f).hashHeld = s.hashHeld := rfl
@[simp] theorem modFibre_launches (s : State) (i : FibreId) (f : Fibre → Fibre) : (s.modFibre i f).launches = s.launches := rfl
@[simp] theorem modFibre_graphs (s : State) (i : FibreId) (f : Fibre → Fibre) : (s.modFibre i f).graphs = s.graphs := rfl
@[simp] theorem modFibre_taken (s : State) (i : FibreId) (f : Fibre → Fibre) : (s.modFibre i f).taken = s.taken := rfl
@[simp] theorem modFibre_lastCtx (s : State) (i : FibreId) (f : Fibre → Fibre) : (s.modFibre i f).lastCtx = s.lastCtx := rfl
@[simp] theorem modFibre_lastQueue (s : State) (i : FibreId) (f : Fibre → Fibre) : (s.modFibre i f).lastQueue = s.lastQueue := rfl
@[simp] theorem modFibre_aborts (s : State) (i : FibreId) (f : Fibre → Fibre) : (s.modFibre i f).aborts = s.aborts := rfl
@[simp] theorem modFibre_wire (s : State) (i : FibreId) (f : Fibre → Fibre) : (s.modFibre i f).wire = s.wire := rfl
@[simp] theorem modFibre_dev (s : State) (i : FibreId) (f : Fibre → Fibre) : (s.modFibre i f).dev = s.dev := rfl

@[simp] theorem modDev_agenda (s : State) (f : Device → Device) : (s.modDev f).agenda = s.agenda := rfl
@[simp] theorem modDev_issue (s : State) (f : Device → Device) : (s.modDev f).issue = s.issue := rfl
@[simp] theorem modDev_fresh (s : State) (f : Device → Device) : (s.modDev f).fresh = s.fresh := rfl
@[simp] theorem modDev_nextId (s : State) (f : Device → Device) : (s.modDev f).nextId = s.nextId := rfl
@[simp] theorem modDev_mem (s : State) (f : Device → Device) : (s.modDev f).mem = s.mem := rfl
@[simp] theorem modDev_l2 (s : State) (f : Device → Device) : (s.modDev f).l2 = s.l2 := rfl
@[simp] theorem modDev_owners (s : State) (f : Device → Device) : (s.modDev f).owners = s.owners := rfl
@[simp] theorem modDev_guests (s : State) (f : Device → Device) : (s.modDev f).guests = s.guests := rfl
@[simp] theorem modDev_l2lines (s : State) (f : Device → Device) : (s.modDev f).l2lines = s.l2lines := rfl
@[simp] theorem modDev_l2stamp (s : State) (f : Device → Device) : (s.modDev f).l2stamp = s.l2stamp := rfl
@[simp] theorem modDev_stlb (s : State) (f : Device → Device) : (s.modDev f).stlb = s.stlb := rfl
@[simp] theorem modDev_spread (s : State) (f : Device → Device) : (s.modDev f).spread = s.spread := rfl
@[simp] theorem modDev_registrations (s : State) (f : Device → Device) : (s.modDev f).registrations = s.registrations := rfl
@[simp] theorem modDev_withdrawals (s : State) (f : Device → Device) : (s.modDev f).withdrawals = s.withdrawals := rfl
@[simp] theorem modDev_pending (s : State) (f : Device → Device) : (s.modDev f).pending = s.pending := rfl
@[simp] theorem modDev_releases (s : State) (f : Device → Device) : (s.modDev f).releases = s.releases := rfl
@[simp] theorem modDev_packets (s : State) (f : Device → Device) : (s.modDev f).packets = s.packets := rfl
@[simp] theorem modDev_requests (s : State) (f : Device → Device) : (s.modDev f).requests = s.requests := rfl
@[simp] theorem modDev_queues (s : State) (f : Device → Device) : (s.modDev f).queues = s.queues := rfl
@[simp] theorem modDev_reservations (s : State) (f : Device → Device) : (s.modDev f).reservations = s.reservations := rfl
@[simp] theorem modDev_qhold (s : State) (f : Device → Device) : (s.modDev f).qhold = s.qhold := rfl
@[simp] theorem modDev_flights (s : State) (f : Device → Device) : (s.modDev f).flights = s.flights := rfl
@[simp] theorem modDev_creditFlights (s : State) (f : Device → Device) : (s.modDev f).creditFlights = s.creditFlights := rfl
@[simp] theorem modDev_mats (s : State) (f : Device → Device) : (s.modDev f).mats = s.mats := rfl
@[simp] theorem modDev_qps (s : State) (f : Device → Device) : (s.modDev f).qps = s.qps := rfl
@[simp] theorem modDev_cmds (s : State) (f : Device → Device) : (s.modDev f).cmds = s.cmds := rfl
@[simp] theorem modDev_cores (s : State) (f : Device → Device) : (s.modDev f).cores = s.cores := rfl
@[simp] theorem modDev_contexts (s : State) (f : Device → Device) : (s.modDev f).contexts = s.contexts := rfl
@[simp] theorem modDev_teams (s : State) (f : Device → Device) : (s.modDev f).teams = s.teams := rfl
@[simp] theorem modDev_groups (s : State) (f : Device → Device) : (s.modDev f).groups = s.groups := rfl
@[simp] theorem modDev_badMem (s : State) (f : Device → Device) : (s.modDev f).badMem = s.badMem := rfl
@[simp] theorem modDev_badSpad (s : State) (f : Device → Device) : (s.modDev f).badSpad = s.badSpad := rfl
@[simp] theorem modDev_badReg (s : State) (f : Device → Device) : (s.modDev f).badReg = s.badReg := rfl
@[simp] theorem modDev_badSump (s : State) (f : Device → Device) : (s.modDev f).badSump = s.badSump := rfl
@[simp] theorem modDev_badElse (s : State) (f : Device → Device) : (s.modDev f).badElse = s.badElse := rfl
@[simp] theorem modDev_badWritten (s : State) (f : Device → Device) : (s.modDev f).badWritten = s.badWritten := rfl
@[simp] theorem modDev_hashWait (s : State) (f : Device → Device) : (s.modDev f).hashWait = s.hashWait := rfl
@[simp] theorem modDev_hashHeld (s : State) (f : Device → Device) : (s.modDev f).hashHeld = s.hashHeld := rfl
@[simp] theorem modDev_launches (s : State) (f : Device → Device) : (s.modDev f).launches = s.launches := rfl
@[simp] theorem modDev_graphs (s : State) (f : Device → Device) : (s.modDev f).graphs = s.graphs := rfl
@[simp] theorem modDev_taken (s : State) (f : Device → Device) : (s.modDev f).taken = s.taken := rfl
@[simp] theorem modDev_lastCtx (s : State) (f : Device → Device) : (s.modDev f).lastCtx = s.lastCtx := rfl
@[simp] theorem modDev_lastQueue (s : State) (f : Device → Device) : (s.modDev f).lastQueue = s.lastQueue := rfl
@[simp] theorem modDev_aborts (s : State) (f : Device → Device) : (s.modDev f).aborts = s.aborts := rfl
@[simp] theorem modDev_wire (s : State) (f : Device → Device) : (s.modDev f).wire = s.wire := rfl

@[simp] theorem modPort_agenda (s : State) (n : Nat) (f : NetPort → NetPort) : (s.modPort n f).agenda = s.agenda := rfl
@[simp] theorem modPort_issue (s : State) (n : Nat) (f : NetPort → NetPort) : (s.modPort n f).issue = s.issue := rfl
@[simp] theorem modPort_fresh (s : State) (n : Nat) (f : NetPort → NetPort) : (s.modPort n f).fresh = s.fresh := rfl
@[simp] theorem modPort_nextId (s : State) (n : Nat) (f : NetPort → NetPort) : (s.modPort n f).nextId = s.nextId := rfl
@[simp] theorem modPort_mem (s : State) (n : Nat) (f : NetPort → NetPort) : (s.modPort n f).mem = s.mem := rfl
@[simp] theorem modPort_l2 (s : State) (n : Nat) (f : NetPort → NetPort) : (s.modPort n f).l2 = s.l2 := rfl
@[simp] theorem modPort_owners (s : State) (n : Nat) (f : NetPort → NetPort) : (s.modPort n f).owners = s.owners := rfl
@[simp] theorem modPort_guests (s : State) (n : Nat) (f : NetPort → NetPort) : (s.modPort n f).guests = s.guests := rfl
@[simp] theorem modPort_l2lines (s : State) (n : Nat) (f : NetPort → NetPort) : (s.modPort n f).l2lines = s.l2lines := rfl
@[simp] theorem modPort_l2stamp (s : State) (n : Nat) (f : NetPort → NetPort) : (s.modPort n f).l2stamp = s.l2stamp := rfl
@[simp] theorem modPort_stlb (s : State) (n : Nat) (f : NetPort → NetPort) : (s.modPort n f).stlb = s.stlb := rfl
@[simp] theorem modPort_spread (s : State) (n : Nat) (f : NetPort → NetPort) : (s.modPort n f).spread = s.spread := rfl
@[simp] theorem modPort_registrations (s : State) (n : Nat) (f : NetPort → NetPort) : (s.modPort n f).registrations = s.registrations := rfl
@[simp] theorem modPort_withdrawals (s : State) (n : Nat) (f : NetPort → NetPort) : (s.modPort n f).withdrawals = s.withdrawals := rfl
@[simp] theorem modPort_pending (s : State) (n : Nat) (f : NetPort → NetPort) : (s.modPort n f).pending = s.pending := rfl
@[simp] theorem modPort_releases (s : State) (n : Nat) (f : NetPort → NetPort) : (s.modPort n f).releases = s.releases := rfl
@[simp] theorem modPort_packets (s : State) (n : Nat) (f : NetPort → NetPort) : (s.modPort n f).packets = s.packets := rfl
@[simp] theorem modPort_requests (s : State) (n : Nat) (f : NetPort → NetPort) : (s.modPort n f).requests = s.requests := rfl
@[simp] theorem modPort_queues (s : State) (n : Nat) (f : NetPort → NetPort) : (s.modPort n f).queues = s.queues := rfl
@[simp] theorem modPort_reservations (s : State) (n : Nat) (f : NetPort → NetPort) : (s.modPort n f).reservations = s.reservations := rfl
@[simp] theorem modPort_qhold (s : State) (n : Nat) (f : NetPort → NetPort) : (s.modPort n f).qhold = s.qhold := rfl
@[simp] theorem modPort_flights (s : State) (n : Nat) (f : NetPort → NetPort) : (s.modPort n f).flights = s.flights := rfl
@[simp] theorem modPort_creditFlights (s : State) (n : Nat) (f : NetPort → NetPort) : (s.modPort n f).creditFlights = s.creditFlights := rfl
@[simp] theorem modPort_mats (s : State) (n : Nat) (f : NetPort → NetPort) : (s.modPort n f).mats = s.mats := rfl
@[simp] theorem modPort_qps (s : State) (n : Nat) (f : NetPort → NetPort) : (s.modPort n f).qps = s.qps := rfl
@[simp] theorem modPort_cmds (s : State) (n : Nat) (f : NetPort → NetPort) : (s.modPort n f).cmds = s.cmds := rfl
@[simp] theorem modPort_cores (s : State) (n : Nat) (f : NetPort → NetPort) : (s.modPort n f).cores = s.cores := rfl
@[simp] theorem modPort_contexts (s : State) (n : Nat) (f : NetPort → NetPort) : (s.modPort n f).contexts = s.contexts := rfl
@[simp] theorem modPort_teams (s : State) (n : Nat) (f : NetPort → NetPort) : (s.modPort n f).teams = s.teams := rfl
@[simp] theorem modPort_groups (s : State) (n : Nat) (f : NetPort → NetPort) : (s.modPort n f).groups = s.groups := rfl
@[simp] theorem modPort_badMem (s : State) (n : Nat) (f : NetPort → NetPort) : (s.modPort n f).badMem = s.badMem := rfl
@[simp] theorem modPort_badSpad (s : State) (n : Nat) (f : NetPort → NetPort) : (s.modPort n f).badSpad = s.badSpad := rfl
@[simp] theorem modPort_badReg (s : State) (n : Nat) (f : NetPort → NetPort) : (s.modPort n f).badReg = s.badReg := rfl
@[simp] theorem modPort_badSump (s : State) (n : Nat) (f : NetPort → NetPort) : (s.modPort n f).badSump = s.badSump := rfl
@[simp] theorem modPort_badElse (s : State) (n : Nat) (f : NetPort → NetPort) : (s.modPort n f).badElse = s.badElse := rfl
@[simp] theorem modPort_badWritten (s : State) (n : Nat) (f : NetPort → NetPort) : (s.modPort n f).badWritten = s.badWritten := rfl
@[simp] theorem modPort_hashWait (s : State) (n : Nat) (f : NetPort → NetPort) : (s.modPort n f).hashWait = s.hashWait := rfl
@[simp] theorem modPort_hashHeld (s : State) (n : Nat) (f : NetPort → NetPort) : (s.modPort n f).hashHeld = s.hashHeld := rfl
@[simp] theorem modPort_launches (s : State) (n : Nat) (f : NetPort → NetPort) : (s.modPort n f).launches = s.launches := rfl
@[simp] theorem modPort_graphs (s : State) (n : Nat) (f : NetPort → NetPort) : (s.modPort n f).graphs = s.graphs := rfl
@[simp] theorem modPort_taken (s : State) (n : Nat) (f : NetPort → NetPort) : (s.modPort n f).taken = s.taken := rfl
@[simp] theorem modPort_lastCtx (s : State) (n : Nat) (f : NetPort → NetPort) : (s.modPort n f).lastCtx = s.lastCtx := rfl
@[simp] theorem modPort_lastQueue (s : State) (n : Nat) (f : NetPort → NetPort) : (s.modPort n f).lastQueue = s.lastQueue := rfl
@[simp] theorem modPort_aborts (s : State) (n : Nat) (f : NetPort → NetPort) : (s.modPort n f).aborts = s.aborts := rfl
@[simp] theorem modPort_wire (s : State) (n : Nat) (f : NetPort → NetPort) : (s.modPort n f).wire = s.wire := rfl

@[simp] theorem newId_agenda (s : State) : (s.newId.2).agenda = s.agenda := rfl
@[simp] theorem newId_issue (s : State) : (s.newId.2).issue = s.issue := rfl
@[simp] theorem newId_fresh (s : State) : (s.newId.2).fresh = s.fresh := rfl
@[simp] theorem newId_mem (s : State) : (s.newId.2).mem = s.mem := rfl
@[simp] theorem newId_l2 (s : State) : (s.newId.2).l2 = s.l2 := rfl
@[simp] theorem newId_owners (s : State) : (s.newId.2).owners = s.owners := rfl
@[simp] theorem newId_guests (s : State) : (s.newId.2).guests = s.guests := rfl
@[simp] theorem newId_l2lines (s : State) : (s.newId.2).l2lines = s.l2lines := rfl
@[simp] theorem newId_l2stamp (s : State) : (s.newId.2).l2stamp = s.l2stamp := rfl
@[simp] theorem newId_stlb (s : State) : (s.newId.2).stlb = s.stlb := rfl
@[simp] theorem newId_spread (s : State) : (s.newId.2).spread = s.spread := rfl
@[simp] theorem newId_registrations (s : State) : (s.newId.2).registrations = s.registrations := rfl
@[simp] theorem newId_withdrawals (s : State) : (s.newId.2).withdrawals = s.withdrawals := rfl
@[simp] theorem newId_pending (s : State) : (s.newId.2).pending = s.pending := rfl
@[simp] theorem newId_releases (s : State) : (s.newId.2).releases = s.releases := rfl
@[simp] theorem newId_packets (s : State) : (s.newId.2).packets = s.packets := rfl
@[simp] theorem newId_requests (s : State) : (s.newId.2).requests = s.requests := rfl
@[simp] theorem newId_queues (s : State) : (s.newId.2).queues = s.queues := rfl
@[simp] theorem newId_reservations (s : State) : (s.newId.2).reservations = s.reservations := rfl
@[simp] theorem newId_qhold (s : State) : (s.newId.2).qhold = s.qhold := rfl
@[simp] theorem newId_flights (s : State) : (s.newId.2).flights = s.flights := rfl
@[simp] theorem newId_creditFlights (s : State) : (s.newId.2).creditFlights = s.creditFlights := rfl
@[simp] theorem newId_mats (s : State) : (s.newId.2).mats = s.mats := rfl
@[simp] theorem newId_qps (s : State) : (s.newId.2).qps = s.qps := rfl
@[simp] theorem newId_cmds (s : State) : (s.newId.2).cmds = s.cmds := rfl
@[simp] theorem newId_cores (s : State) : (s.newId.2).cores = s.cores := rfl
@[simp] theorem newId_contexts (s : State) : (s.newId.2).contexts = s.contexts := rfl
@[simp] theorem newId_teams (s : State) : (s.newId.2).teams = s.teams := rfl
@[simp] theorem newId_groups (s : State) : (s.newId.2).groups = s.groups := rfl
@[simp] theorem newId_badMem (s : State) : (s.newId.2).badMem = s.badMem := rfl
@[simp] theorem newId_badSpad (s : State) : (s.newId.2).badSpad = s.badSpad := rfl
@[simp] theorem newId_badReg (s : State) : (s.newId.2).badReg = s.badReg := rfl
@[simp] theorem newId_badSump (s : State) : (s.newId.2).badSump = s.badSump := rfl
@[simp] theorem newId_badElse (s : State) : (s.newId.2).badElse = s.badElse := rfl
@[simp] theorem newId_badWritten (s : State) : (s.newId.2).badWritten = s.badWritten := rfl
@[simp] theorem newId_hashWait (s : State) : (s.newId.2).hashWait = s.hashWait := rfl
@[simp] theorem newId_hashHeld (s : State) : (s.newId.2).hashHeld = s.hashHeld := rfl
@[simp] theorem newId_launches (s : State) : (s.newId.2).launches = s.launches := rfl
@[simp] theorem newId_graphs (s : State) : (s.newId.2).graphs = s.graphs := rfl
@[simp] theorem newId_taken (s : State) : (s.newId.2).taken = s.taken := rfl
@[simp] theorem newId_lastCtx (s : State) : (s.newId.2).lastCtx = s.lastCtx := rfl
@[simp] theorem newId_lastQueue (s : State) : (s.newId.2).lastQueue = s.lastQueue := rfl
@[simp] theorem newId_aborts (s : State) : (s.newId.2).aborts = s.aborts := rfl
@[simp] theorem newId_wire (s : State) : (s.newId.2).wire = s.wire := rfl
@[simp] theorem newId_dev (s : State) : (s.newId.2).dev = s.dev := rfl
@[simp] theorem newId_nextId (s : State) : (s.newId.2).nextId = s.nextId + 1 := rfl

@[simp] theorem freeVal_agenda (s : State) : (s.freeVal.2).agenda = s.agenda := rfl
@[simp] theorem freeVal_issue (s : State) : (s.freeVal.2).issue = s.issue := rfl
@[simp] theorem freeVal_nextId (s : State) : (s.freeVal.2).nextId = s.nextId := rfl
@[simp] theorem freeVal_mem (s : State) : (s.freeVal.2).mem = s.mem := rfl
@[simp] theorem freeVal_l2 (s : State) : (s.freeVal.2).l2 = s.l2 := rfl
@[simp] theorem freeVal_owners (s : State) : (s.freeVal.2).owners = s.owners := rfl
@[simp] theorem freeVal_guests (s : State) : (s.freeVal.2).guests = s.guests := rfl
@[simp] theorem freeVal_l2lines (s : State) : (s.freeVal.2).l2lines = s.l2lines := rfl
@[simp] theorem freeVal_l2stamp (s : State) : (s.freeVal.2).l2stamp = s.l2stamp := rfl
@[simp] theorem freeVal_stlb (s : State) : (s.freeVal.2).stlb = s.stlb := rfl
@[simp] theorem freeVal_spread (s : State) : (s.freeVal.2).spread = s.spread := rfl
@[simp] theorem freeVal_registrations (s : State) : (s.freeVal.2).registrations = s.registrations := rfl
@[simp] theorem freeVal_withdrawals (s : State) : (s.freeVal.2).withdrawals = s.withdrawals := rfl
@[simp] theorem freeVal_pending (s : State) : (s.freeVal.2).pending = s.pending := rfl
@[simp] theorem freeVal_releases (s : State) : (s.freeVal.2).releases = s.releases := rfl
@[simp] theorem freeVal_packets (s : State) : (s.freeVal.2).packets = s.packets := rfl
@[simp] theorem freeVal_requests (s : State) : (s.freeVal.2).requests = s.requests := rfl
@[simp] theorem freeVal_queues (s : State) : (s.freeVal.2).queues = s.queues := rfl
@[simp] theorem freeVal_reservations (s : State) : (s.freeVal.2).reservations = s.reservations := rfl
@[simp] theorem freeVal_qhold (s : State) : (s.freeVal.2).qhold = s.qhold := rfl
@[simp] theorem freeVal_flights (s : State) : (s.freeVal.2).flights = s.flights := rfl
@[simp] theorem freeVal_creditFlights (s : State) : (s.freeVal.2).creditFlights = s.creditFlights := rfl
@[simp] theorem freeVal_mats (s : State) : (s.freeVal.2).mats = s.mats := rfl
@[simp] theorem freeVal_qps (s : State) : (s.freeVal.2).qps = s.qps := rfl
@[simp] theorem freeVal_cmds (s : State) : (s.freeVal.2).cmds = s.cmds := rfl
@[simp] theorem freeVal_cores (s : State) : (s.freeVal.2).cores = s.cores := rfl
@[simp] theorem freeVal_contexts (s : State) : (s.freeVal.2).contexts = s.contexts := rfl
@[simp] theorem freeVal_teams (s : State) : (s.freeVal.2).teams = s.teams := rfl
@[simp] theorem freeVal_groups (s : State) : (s.freeVal.2).groups = s.groups := rfl
@[simp] theorem freeVal_badMem (s : State) : (s.freeVal.2).badMem = s.badMem := rfl
@[simp] theorem freeVal_badSpad (s : State) : (s.freeVal.2).badSpad = s.badSpad := rfl
@[simp] theorem freeVal_badReg (s : State) : (s.freeVal.2).badReg = s.badReg := rfl
@[simp] theorem freeVal_badSump (s : State) : (s.freeVal.2).badSump = s.badSump := rfl
@[simp] theorem freeVal_badElse (s : State) : (s.freeVal.2).badElse = s.badElse := rfl
@[simp] theorem freeVal_badWritten (s : State) : (s.freeVal.2).badWritten = s.badWritten := rfl
@[simp] theorem freeVal_hashWait (s : State) : (s.freeVal.2).hashWait = s.hashWait := rfl
@[simp] theorem freeVal_hashHeld (s : State) : (s.freeVal.2).hashHeld = s.hashHeld := rfl
@[simp] theorem freeVal_launches (s : State) : (s.freeVal.2).launches = s.launches := rfl
@[simp] theorem freeVal_graphs (s : State) : (s.freeVal.2).graphs = s.graphs := rfl
@[simp] theorem freeVal_taken (s : State) : (s.freeVal.2).taken = s.taken := rfl
@[simp] theorem freeVal_lastCtx (s : State) : (s.freeVal.2).lastCtx = s.lastCtx := rfl
@[simp] theorem freeVal_lastQueue (s : State) : (s.freeVal.2).lastQueue = s.lastQueue := rfl
@[simp] theorem freeVal_aborts (s : State) : (s.freeVal.2).aborts = s.aborts := rfl
@[simp] theorem freeVal_wire (s : State) : (s.freeVal.2).wire = s.wire := rfl
@[simp] theorem freeVal_dev (s : State) : (s.freeVal.2).dev = s.dev := rfl
@[simp] theorem freeVal_fresh (s : State) : (s.freeVal.2).fresh = s.fresh + 1 := rfl

/-! Parts read back. -/

@[simp] theorem core_setCore (s : State) (n : Nat) (x : Core) : (s.setCore n x).core n = x := by
  simp [core, setCore, KV.getD]

theorem core_setCore_other (s : State) {n m : Nat} (x : Core) (h : m ≠ n) : (s.setCore n x).core m = s.core m := by
  simp [core, setCore, KV.getD, KV.find_put_other _ h]

@[simp] theorem core_modCore (s : State) (n : Nat) (f : Core → Core) : (s.modCore n f).core n = f (s.core n) :=
  core_setCore s n _

theorem core_modCore_other (s : State) {n m : Nat} (f : Core → Core) (h : m ≠ n) :
    (s.modCore n f).core m = s.core m := core_setCore_other s _ h

@[simp] theorem ctx_setCore (s : State) (n m : Nat) (x : Core) : (s.setCore n x).ctx m = s.ctx m := rfl
@[simp] theorem ctx_modCore (s : State) (n m : Nat) (f : Core → Core) : (s.modCore n f).ctx m = s.ctx m := rfl
@[simp] theorem team_setCore (s : State) (n m : Nat) (x : Core) : (s.setCore n x).team m = s.team m := rfl
@[simp] theorem team_modCore (s : State) (n m : Nat) (f : Core → Core) : (s.modCore n f).team m = s.team m := rfl
@[simp] theorem group_setCore (s : State) (n m : Nat) (x : Core) : (s.setCore n x).group m = s.group m := rfl
@[simp] theorem group_modCore (s : State) (n m : Nat) (f : Core → Core) : (s.modCore n f).group m = s.group m := rfl

@[simp] theorem ctx_setCtx (s : State) (n : Nat) (x : Context) : (s.setCtx n x).ctx n = x := by
  simp [ctx, setCtx, KV.getD]

theorem ctx_setCtx_other (s : State) {n m : Nat} (x : Context) (h : m ≠ n) : (s.setCtx n x).ctx m = s.ctx m := by
  simp [ctx, setCtx, KV.getD, KV.find_put_other _ h]

@[simp] theorem ctx_modCtx (s : State) (n : Nat) (f : Context → Context) : (s.modCtx n f).ctx n = f (s.ctx n) :=
  ctx_setCtx s n _

theorem ctx_modCtx_other (s : State) {n m : Nat} (f : Context → Context) (h : m ≠ n) :
    (s.modCtx n f).ctx m = s.ctx m := ctx_setCtx_other s _ h

@[simp] theorem core_setCtx (s : State) (n m : Nat) (x : Context) : (s.setCtx n x).core m = s.core m := rfl
@[simp] theorem core_modCtx (s : State) (n m : Nat) (f : Context → Context) : (s.modCtx n f).core m = s.core m := rfl
@[simp] theorem team_setCtx (s : State) (n m : Nat) (x : Context) : (s.setCtx n x).team m = s.team m := rfl
@[simp] theorem team_modCtx (s : State) (n m : Nat) (f : Context → Context) : (s.modCtx n f).team m = s.team m := rfl
@[simp] theorem group_setCtx (s : State) (n m : Nat) (x : Context) : (s.setCtx n x).group m = s.group m := rfl
@[simp] theorem group_modCtx (s : State) (n m : Nat) (f : Context → Context) : (s.modCtx n f).group m = s.group m := rfl

@[simp] theorem team_setTeam (s : State) (n : Nat) (x : Team) : (s.setTeam n x).team n = x := by
  simp [team, setTeam, KV.getD]

theorem team_setTeam_other (s : State) {n m : Nat} (x : Team) (h : m ≠ n) : (s.setTeam n x).team m = s.team m := by
  simp [team, setTeam, KV.getD, KV.find_put_other _ h]

@[simp] theorem team_modTeam (s : State) (n : Nat) (f : Team → Team) : (s.modTeam n f).team n = f (s.team n) :=
  team_setTeam s n _

theorem team_modTeam_other (s : State) {n m : Nat} (f : Team → Team) (h : m ≠ n) :
    (s.modTeam n f).team m = s.team m := team_setTeam_other s _ h

@[simp] theorem core_setTeam (s : State) (n m : Nat) (x : Team) : (s.setTeam n x).core m = s.core m := rfl
@[simp] theorem core_modTeam (s : State) (n m : Nat) (f : Team → Team) : (s.modTeam n f).core m = s.core m := rfl
@[simp] theorem ctx_setTeam (s : State) (n m : Nat) (x : Team) : (s.setTeam n x).ctx m = s.ctx m := rfl
@[simp] theorem ctx_modTeam (s : State) (n m : Nat) (f : Team → Team) : (s.modTeam n f).ctx m = s.ctx m := rfl
@[simp] theorem group_setTeam (s : State) (n m : Nat) (x : Team) : (s.setTeam n x).group m = s.group m := rfl
@[simp] theorem group_modTeam (s : State) (n m : Nat) (f : Team → Team) : (s.modTeam n f).group m = s.group m := rfl

@[simp] theorem group_setGroup (s : State) (n : Nat) (x : Group) : (s.setGroup n x).group n = x := by
  simp [group, setGroup, KV.getD]

theorem group_setGroup_other (s : State) {n m : Nat} (x : Group) (h : m ≠ n) : (s.setGroup n x).group m = s.group m := by
  simp [group, setGroup, KV.getD, KV.find_put_other _ h]

@[simp] theorem group_modGroup (s : State) (n : Nat) (f : Group → Group) : (s.modGroup n f).group n = f (s.group n) :=
  group_setGroup s n _

theorem group_modGroup_other (s : State) {n m : Nat} (f : Group → Group) (h : m ≠ n) :
    (s.modGroup n f).group m = s.group m := group_setGroup_other s _ h

@[simp] theorem core_setGroup (s : State) (n m : Nat) (x : Group) : (s.setGroup n x).core m = s.core m := rfl
@[simp] theorem core_modGroup (s : State) (n m : Nat) (f : Group → Group) : (s.modGroup n f).core m = s.core m := rfl
@[simp] theorem ctx_setGroup (s : State) (n m : Nat) (x : Group) : (s.setGroup n x).ctx m = s.ctx m := rfl
@[simp] theorem ctx_modGroup (s : State) (n m : Nat) (f : Group → Group) : (s.modGroup n f).ctx m = s.ctx m := rfl
@[simp] theorem team_setGroup (s : State) (n m : Nat) (x : Group) : (s.setGroup n x).team m = s.team m := rfl
@[simp] theorem team_modGroup (s : State) (n m : Nat) (f : Group → Group) : (s.modGroup n f).team m = s.team m := rfl

@[simp] theorem core_modFibre (s : State) (i : FibreId) (f : Fibre → Fibre) (m : Nat) : (s.modFibre i f).core m = s.core m := rfl
@[simp] theorem ctx_modFibre (s : State) (i : FibreId) (f : Fibre → Fibre) (m : Nat) : (s.modFibre i f).ctx m = s.ctx m := rfl
@[simp] theorem group_modFibre (s : State) (i : FibreId) (f : Fibre → Fibre) (m : Nat) : (s.modFibre i f).group m = s.group m := rfl

@[simp] theorem fibre_setFibre (s : State) (i : FibreId) (x : Fibre) : (s.setFibre i x).fibre i = x := by
  simp [fibre, setFibre, KV.getD]

theorem fibre_setFibre_other (s : State) {i j : FibreId} (x : Fibre) (h : j ≠ i) :
    (s.setFibre i x).fibre j = s.fibre j := by
  by_cases ht : j.team = i.team
  · have hf : j.fid ≠ i.fid := fun hf => h (by cases i; cases j; simp_all)
    simp [fibre, setFibre, ht, KV.getD, KV.find_put_other _ hf]
  · simp [fibre, setFibre, team_modTeam_other _ _ ht]

@[simp] theorem fibre_modFibre (s : State) (i : FibreId) (f : Fibre → Fibre) : (s.modFibre i f).fibre i = f (s.fibre i) :=
  fibre_setFibre s i _

theorem fibre_modFibre_other (s : State) {i j : FibreId} (f : Fibre → Fibre) (h : j ≠ i) :
    (s.modFibre i f).fibre j = s.fibre j := fibre_setFibre_other s _ h

@[simp] theorem fibre_modCore (s : State) (n : Nat) (f : Core → Core) (i : FibreId) :
    (s.modCore n f).fibre i = s.fibre i := rfl

@[simp] theorem fibre_modCtx (s : State) (n : Nat) (f : Context → Context) (i : FibreId) :
    (s.modCtx n f).fibre i = s.fibre i := rfl

@[simp] theorem fibre_modGroup (s : State) (n : Nat) (f : Group → Group) (i : FibreId) :
    (s.modGroup n f).fibre i = s.fibre i := rfl

/-- A team keeps all but its fibres when one of its fibres changes. -/
theorem team_modFibre (s : State) (i : FibreId) (f : Fibre → Fibre) (n : Nat) :
    { (s.modFibre i f).team n with fibres := (s.team n).fibres } = s.team n := by
  by_cases h : n = i.team
  · subst h; simp [modFibre, setFibre]
  · simp [modFibre, setFibre, team_modTeam_other _ _ h]

end Sys2Proof.Machine.State
end

