-- ==== Sys2Proof/Laws/Ops.lean ====
section
/-! SUPPORT. What each shared operation can do: the updates of lanes, moving on, stalling, parking, making a record, and
the checks that stand before every meaning. -/

namespace Sys2Proof.Machine

theorem SameButFibres.refl (s : State) : SameButFibres s s := ⟨rfl, fun _ => rfl⟩

theorem SameButFibres.trans {s t u : State} (h : SameButFibres s t) (k : SameButFibres t u) : SameButFibres s u := by
  refine ⟨?_, fun n => ?_⟩
  · have h1 := h.1
    have k1 := k.1
    rw [← k1] at h1
    exact h1
  · have h2 := h.2 n
    have k2 := k.2 n
    rw [← k2] at h2
    exact h2

theorem SameButFibres.mem {s t : State} (h : SameButFibres s t) : t.mem = s.mem := by
  have := congrArg State.mem h.1
  exact this

theorem SameButFibres.cores {s t : State} (h : SameButFibres s t) : t.cores = s.cores := by
  have := congrArg State.cores h.1
  exact this

theorem SameButFibres.contexts {s t : State} (h : SameButFibres s t) : t.contexts = s.contexts := by
  have := congrArg State.contexts h.1
  exact this

theorem SameButFibres.groups {s t : State} (h : SameButFibres s t) : t.groups = s.groups := by
  have := congrArg State.groups h.1
  exact this

theorem SameButFibres.pending {s t : State} (h : SameButFibres s t) : t.pending = s.pending := by
  have := congrArg State.pending h.1
  exact this

theorem modFibre_frame (s : State) (i : FibreId) (g : Fibre → Fibre) : SameButFibres s (s.modFibre i g) :=
  ⟨rfl, State.team_modFibre s i g⟩

namespace State

/-- An update of lanes changes fibres alone. -/
theorem lanes_frame (s : State) (ls : List (Nat × FibreId)) (g : Fibre → Fibre) :
    SameButFibres s (s.each ls fun s x => s.modFibre x.2 g) :=
  each_keeps (P := SameButFibres s) (SameButFibres.refl s) fun t x h => h.trans (modFibre_frame t x.2 g)

/-- A fibre outside the lanes is as before. -/
theorem lanes_other (s : State) (ls : List (Nat × FibreId)) (g : Fibre → Fibre) {f : FibreId}
    (h : f ∉ ls.map (·.2)) : (s.each ls fun s x => s.modFibre x.2 g).fibre f = s.fibre f := by
  induction ls generalizing s with
  | nil => rfl
  | cons x r ih =>
    simp only [List.map_cons, List.mem_cons, not_or] at h
    exact (ih _ h.2).trans (fibre_modFibre_other s g h.1)

/-- A property of fibres that the update gives and keeps holds in every lane. -/
theorem lanes_prop (s : State) (ls : List (Nat × FibreId)) (g : Fibre → Fibre) {P : FibreId → Fibre → Prop}
    (hg : ∀ f x, P f (g x)) : ∀ x ∈ ls, P x.2 ((s.each ls fun s x => s.modFibre x.2 g).fibre x.2) := by
  induction ls generalizing s with
  | nil => simp
  | cons y r ih =>
    intro x hx
    by_cases h : x.2 ∈ r.map (·.2)
    · obtain ⟨z, hz, hzx⟩ := List.mem_map.1 h
      rw [← hzx]; exact ih _ z hz
    · rcases List.mem_cons.1 hx with rfl | hx
      · have := lanes_other (s.modFibre x.2 g) r g h
        simp only [each, List.foldl_cons] at this ⊢
        rw [this, fibre_modFibre]; exact hg _ _
      · exact absurd (List.mem_map_of_mem hx) h

/-- Moving lanes changes fibres alone, and of them the pc and what a wait kept. -/
theorem goto_frame (s : State) (ls : List (Nat × FibreId)) (ref : Dword) : SameButFibres s (s.goto ls ref) :=
  lanes_frame s ls _

theorem goto_other (s : State) (ls : List (Nat × FibreId)) (ref : Dword) {f : FibreId} (h : f ∉ ls.map (·.2)) :
    (s.goto ls ref).fibre f = s.fibre f := lanes_other s ls _ h

theorem goto_pc (s : State) (ls : List (Nat × FibreId)) (ref : Dword) : ∀ x ∈ ls, ((s.goto ls ref).fibre x.2).pc = ref :=
  lanes_prop s ls _ (P := fun _ y => y.pc = ref) fun _ _ => rfl

theorem moved_refl (f : Fibre) : Fibre.moved f f := rfl

theorem goto_moved (s : State) (ls : List (Nat × FibreId)) (ref : Dword) (f : FibreId) :
    Fibre.moved (s.fibre f) ((s.goto ls ref).fibre f) := by
  unfold goto
  refine each_keeps (P := fun t : State => Fibre.moved (s.fibre f) (t.fibre f)) (moved_refl _) fun t x h => ?_
  by_cases hx : f = x.2
  · subst hx
    rw [fibre_modFibre]; exact h
  · rw [fibre_modFibre_other t _ hx]; exact h

theorem advance_frame (s : State) (iss : Issue) : SameButFibres s (s.advance iss) := goto_frame s _ _

theorem advance_goes (s : State) (iss : Issue) : WentOn iss (s.advance iss) := goto_pc s _ _

theorem advance_other (s : State) (iss : Issue) {f : FibreId} (h : f ∉ iss.lanes.map (·.2)) :
    (s.advance iss).fibre f = s.fibre f := goto_other s _ _ h

theorem advance_moved (s : State) (iss : Issue) (f : FibreId) : Fibre.moved (s.fibre f) ((s.advance iss).fibre f) :=
  goto_moved s _ _ f

/-- A stalled subset changes in nothing but the clock from which it may be chosen again. -/
theorem stall_frame (s : State) (iss : Issue) : SameButFibres s (s.stall iss) := lanes_frame s _ _

theorem stall_other (s : State) (iss : Issue) {f : FibreId} (h : f ∉ iss.lanes.map (·.2)) :
    (s.stall iss).fibre f = s.fibre f := lanes_other s _ _ h

theorem stall_until (s : State) (iss : Issue) :
    ∀ x ∈ iss.lanes, ((s.stall iss).fibre x.2).notBefore = s.clockOf iss.core + 1 :=
  lanes_prop s _ _ (P := fun _ y => y.notBefore = s.clockOf iss.core + 1) fun _ _ => rfl

/-- Parked lanes are blocked on the wait, with what it keeps of their operands. -/
theorem park_blocked (s : State) (iss : Issue) (ls : List (Nat × FibreId)) (w : Wake) (keep : Option (List Dword)) :
    ∀ x ∈ ls, ((s.park iss ls w keep).fibre x.2).status = .blocked w ∧ ((s.park iss ls w keep).fibre x.2).again = keep :=
  lanes_prop (s.settleLate iss.gid) ls _ (P := fun _ y => y.status = .blocked w ∧ y.again = keep) fun _ _ => ⟨rfl, rfl⟩

theorem park_frame (s : State) (iss : Issue) (ls : List (Nat × FibreId)) (w : Wake) (keep : Option (List Dword)) :
    SameButFibres (s.settleLate iss.gid) (s.park iss ls w keep) := lanes_frame _ _ _

/-- A record of a context waits for FAULTQ after those made before it, and nothing but the context changes. -/
theorem addRecord_waiting (s : State) (ctx : Nat) (r : FaultRec) :
    ((s.addRecord ctx r).2.ctx ctx).waiting =
      (s.ctx ctx).waiting ++ [{ r with id := s.faultId ctx, ctx := ctx }] := by
  simp [addRecord]

theorem addRecord_frame (s : State) (ctx : Nat) (r : FaultRec) :
    { (s.addRecord ctx r).2 with contexts := s.contexts } = s := rfl

end State

/-- What an issue can come to before the meaning, in the order of 04 R100, and the meaning itself. -/
theorem issuedMem_cases (i : Instr) (s : State) (leaves : Bool) (illegal : Issue → List (Nat × FibreId) → Bool)
    (body : Issue → List (Nat × FibreId) → State) :
    (s.issue = none ∧ issuedMem i s leaves illegal body = .next s) ∨
    ∃ iss, s.issue = some iss ∧
      ((∃ c va, issuedMem i s leaves illegal body = .next (s.raise iss c 0 va)) ∨
        issuedMem i s leaves illegal body = .next (s.advance iss) ∨
        issuedMem i s leaves illegal body = .next (s.stall iss) ∨
        (∃ va, issuedMem i s leaves illegal body =
          .next ((s.forgetFault (s.active iss (guardOf i)) (usesOf i)).parkPage iss va false)) ∨
        issuedMem i s leaves illegal body = .next (body iss (s.active iss (guardOf i)))) := by
  unfold issuedMem
  cases hi : s.issue with
  | none => exact .inl ⟨rfl, rfl⟩
  | some iss =>
    refine .inr ⟨iss, rfl, ?_⟩
    dsimp only
    by_cases h1 : (s.beyondWindow iss (usesOf i) || s.badStream (s.active iss (guardOf i)) (usesOf i) ||
        illegal iss (s.active iss (guardOf i))) = true
    · exact .inl ⟨_, _, by rw [if_pos h1]⟩
    rw [if_neg h1]
    by_cases h2 : s.unifBad iss (s.active iss (guardOf i)) (usesOf i) = true
    · exact .inl ⟨_, _, by rw [if_pos h2]⟩
    rw [if_neg h2]
    by_cases h3 : (iss.atEnd && !leaves) = true
    · exact .inl ⟨_, _, by rw [if_pos h3]⟩
    rw [if_neg h3]
    by_cases h4 : s.badGuard iss (guardOf i) = true
    · exact .inl ⟨_, _, by rw [if_pos h4]⟩
    rw [if_neg h4]
    by_cases h5 : ((s.active iss (guardOf i)).isEmpty && !leaves) = true
    · exact .inr (.inl (by rw [if_pos h5]))
    rw [if_neg h5]
    split
    · exact .inr (.inr (.inl rfl))
    · rename_i c va _
      by_cases h6 : (c == cPAGE) = true
      · exact .inr (.inr (.inr (.inl ⟨va, by rw [if_pos h6]⟩)))
      · exact .inl ⟨c, va, by rw [if_neg h6]⟩
    · exact .inr (.inr (.inr (.inr rfl)))

/-- With the errors in source registers among the checks nothing else can come of it. -/
theorem issued_cases (i : Instr) (s : State) (leaves : Bool) (illegal : Issue → List (Nat × FibreId) → Bool)
    (body : Issue → List (Nat × FibreId) → State) :
    (s.issue = none ∧ issued i s leaves illegal body = .next s) ∨
    ∃ iss, s.issue = some iss ∧
      ((∃ c va, issued i s leaves illegal body = .next (s.raise iss c 0 va)) ∨
        issued i s leaves illegal body = .next (s.advance iss) ∨
        issued i s leaves illegal body = .next (s.stall iss) ∨
        (∃ va, issued i s leaves illegal body =
          .next ((s.forgetFault (s.active iss (guardOf i)) (usesOf i)).parkPage iss va false)) ∨
        issued i s leaves illegal body = .next (body iss (s.active iss (guardOf i)))) := by
  rcases issuedMem_cases i s leaves illegal (fun iss act => s.sourced iss act i (body iss act)) with
    h | ⟨iss, hi, h | h | h | h | h⟩
  · exact .inl h
  · exact .inr ⟨iss, hi, .inl h⟩
  · exact .inr ⟨iss, hi, .inr (.inl h)⟩
  · exact .inr ⟨iss, hi, .inr (.inr (.inl h))⟩
  · exact .inr ⟨iss, hi, .inr (.inr (.inr (.inl h)))⟩
  · refine .inr ⟨iss, hi, ?_⟩
    unfold issued
    rw [h]
    unfold State.sourced
    split
    · exact .inl ⟨_, _, rfl⟩
    · exact .inr (.inr (.inr (.inr rfl)))

/-- A clear issue comes to the meaning. -/
theorem issuedMem_clear {i : Instr} {s : State} {iss : Issue} {act : List (Nat × FibreId)} (h : s.Clear i iss act)
    (leaves : Bool) {illegal : Issue → List (Nat × FibreId) → Bool} (hl : illegal iss act = false)
    (body : Issue → List (Nat × FibreId) → State) : issuedMem i s leaves illegal body = .next (body iss act) := by
  have ha : act.isEmpty = false := by
    cases act with
    | nil => exact absurd rfl h.some'
    | cons _ _ => rfl
  have hg := h.guarded
  unfold issuedMem
  rw [h.issue]
  dsimp only
  rw [← hg]
  simp [h.window, h.streams, ha, hl, h.uniform, h.inside, h.guards, h.pops]

theorem issued_clear {i : Instr} {s : State} {iss : Issue} {act : List (Nat × FibreId)} (h : s.Clear i iss act)
    (leaves : Bool) {illegal : Issue → List (Nat × FibreId) → Bool} (hl : illegal iss act = false)
    (body : Issue → List (Nat × FibreId) → State) : issued i s leaves illegal body = .next (body iss act) := by
  unfold issued
  rw [issuedMem_clear h leaves hl]
  simp [State.sourced, h.sources]

/-- So does an issue that no check stops, where the instruction itself decides where its lanes go. -/
theorem issued_reached {i : Instr} {s : State} {iss : Issue} {act : List (Nat × FibreId)} (h : s.Reached i iss act)
    {illegal : Issue → List (Nat × FibreId) → Bool} (hl : illegal iss act = false)
    (body : Issue → List (Nat × FibreId) → State) : issued i s true illegal body = .next (body iss act) := by
  have hg := h.guarded
  unfold issued issuedMem
  rw [h.issue]
  dsimp only
  rw [← hg]
  simp [State.sourced, h.window, h.streams, hl, h.uniform, h.inside, h.guards, h.pops, h.sources]

end Sys2Proof.Machine
end

