-- ==== Sys2Proof/Laws/PerInstr.lean ====
section
/-! SUPPORT. The encoder names for every instruction a form that the decoder reads as that instruction again: one lemma
per constructor (15_instruction_formats R331 to R335). -/

namespace Sys2Proof.Laws.Encoding

/-- Where an instruction is well-formed and a word encodes it, the form that the encoder gives it names it. -/
def Statement (i : Instr) : Prop := i.wf = true → ∀ e, i.enc = some e → ofEnc e = some i

/-- The variant of a well-formed XR instruction is one that its entry accepts. -/
theorem var_mem {r : XRule} {o : XR} (h : wfXR r o = true) : r.var.contains o.var.toNat = true := by
  simp only [wfXR, Bool.and_eq_true] at h
  exact h.1.1.1.1.1.1.1.1.2

theorem var_eq {k : BitVec 4} {r : XRule} {o : XR} (hr : r.var = [k.toNat]) (h : wfXR r o = true) : o.var = k := by
  have := var_mem h
  rw [hr] at this
  exact BitVec.eq_of_toNat_eq (by simpa using this)

theorem xs_selector {k : Nat} {o : XS} (h : setcOk k o = true) : o.imm.toNat = k := by
  simp only [setcOk, Bool.and_eq_true, beq_iff_eq] at h
  exact h.2

theorem xr_shfl (o : XR) : ofEnc (.xr 0x80 o) =
    if o.var == 0 then some (.shflIdx o)
    else if o.var == 1 then some (.shflUp o)
    else if o.var == 2 then some (.shflDown o)
    else if o.var == 3 then some (.shflXor o)
    else none := rfl

theorem xr_vote (o : XR) : ofEnc (.xr 0x81 o) =
    if o.var == 0 then some (.voteMask o)
    else if o.var == 1 then some (.voteCount o)
    else if o.var == 2 then some (.voteQuorum o)
    else if o.var == 3 then some (.voteSplit o)
    else none := rfl

theorem xr_match (o : XR) : ofEnc (.xr 0x84 o) =
    if o.var == 0 then some (.matchAny o) else if o.var == 1 then some (.matchAll o) else none := rfl

theorem xm_cache (o : XM) : ofEnc (.xm 0x9 o) =
    if o.c == 0 then some (.cacheWb o)
    else if o.c == 1 then some (.cacheInv o)
    else if o.c == 2 then some (.cacheClel o)
    else none := rfl

theorem xm_fence (o : XM) : ofEnc (.xm 0xA o) =
    if o.ord == 1 then some (.fenceAcq o)
    else if o.ord == 2 then some (.fenceRel o)
    else if o.ord == 3 then some (.fenceAr o)
    else none := rfl

theorem xe_enq (o : XE) : ofEnc (.xe 0x6 o) =
    if o.tryb == false then some (.enq o) else if o.tryb == true then some (.enqTry o) else none := rfl

theorem xe_deq (o : XE) : ofEnc (.xe 0x7 o) =
    if o.tryb == false then some (.deq o) else if o.tryb == true then some (.deqTry o) else none := rfl

theorem xs_gbar (o : XS) : ofEnc (.xs 0x2 o) =
    if o.imm == 0 then some (.gbar o)
    else if o.imm == 1 then some (.gbarEnter o)
    else if o.imm == 2 then some (.gbarLeave o)
    else none := rfl

theorem xs_service (o : XS) : ofEnc (.xs 0xB o) =
    if o.imm == 128 then some (.resolve o)
    else if o.imm == 129 then some (.xlinv o)
    else if o.imm == 130 then some (.resume o)
    else some (.svc o) := rfl

theorem xs_setc (o : XS) : ofEnc (.xs 0x8 o) = ofSetc o := rfl

theorem nop (o : BZ) : Statement (.nop o) := fun _ e he => by cases he; rfl
theorem nopX (o : XC) : Statement (.nopX o) := fun _ e he => by cases he; rfl
theorem yield (o : BZ) : Statement (.yield o) := fun _ e he => by cases he; rfl
theorem yieldX (o : XC) : Statement (.yieldX o) := fun _ e he => by cases he; rfl
theorem exit (o : BZ) : Statement (.exit o) := fun _ e he => by cases he; rfl
theorem exitX (o : XC) : Statement (.exitX o) := fun _ e he => by cases he; rfl
theorem ret (o : BZ) : Statement (.ret o) := fun _ e he => by cases he; rfl
theorem retX (o : XC) : Statement (.retX o) := fun _ e he => by cases he; rfl
theorem bra (o : BB) : Statement (.bra o) := fun _ e he => by cases he; rfl
theorem braX (o : XC) : Statement (.braX o) := fun _ e he => by cases he; rfl
theorem bru (o : BB) : Statement (.bru o) := fun _ e he => by cases he; rfl
theorem bruX (o : XC) : Statement (.bruX o) := fun _ e he => by cases he; rfl
theorem call (o : BB) : Statement (.call o) := fun _ e he => by cases he; rfl
theorem callX (o : XC) : Statement (.callX o) := fun _ e he => by cases he; rfl
theorem callr (o : XC) : Statement (.callr o) := fun _ e he => by cases he; rfl
theorem add (o : BR) : Statement (.add o) := fun _ e he => by cases he; rfl
theorem addX (o : XR) : Statement (.addX o) := fun _ e he => by cases he; rfl
theorem sub (o : BR) : Statement (.sub o) := fun _ e he => by cases he; rfl
theorem subX (o : XR) : Statement (.subX o) := fun _ e he => by cases he; rfl
theorem mul (o : BR) : Statement (.mul o) := fun _ e he => by cases he; rfl
theorem mulX (o : XR) : Statement (.mulX o) := fun _ e he => by cases he; rfl
theorem mulh (o : BR) : Statement (.mulh o) := fun _ e he => by cases he; rfl
theorem mulhX (o : XR) : Statement (.mulhX o) := fun _ e he => by cases he; rfl
theorem mad (o : BR) : Statement (.mad o) := fun _ e he => by cases he; rfl
theorem madX (o : XR) : Statement (.madX o) := fun _ e he => by cases he; rfl
theorem and (o : BR) : Statement (.and o) := fun _ e he => by cases he; rfl
theorem andX (o : XR) : Statement (.andX o) := fun _ e he => by cases he; rfl
theorem or (o : BR) : Statement (.or o) := fun _ e he => by cases he; rfl
theorem orX (o : XR) : Statement (.orX o) := fun _ e he => by cases he; rfl
theorem xor (o : BR) : Statement (.xor o) := fun _ e he => by cases he; rfl
theorem xorX (o : XR) : Statement (.xorX o) := fun _ e he => by cases he; rfl
theorem andn (o : BR) : Statement (.andn o) := fun _ e he => by cases he; rfl
theorem andnX (o : XR) : Statement (.andnX o) := fun _ e he => by cases he; rfl
theorem min (o : BR) : Statement (.min o) := fun _ e he => by cases he; rfl
theorem minX (o : XR) : Statement (.minX o) := fun _ e he => by cases he; rfl
theorem max (o : BR) : Statement (.max o) := fun _ e he => by cases he; rfl
theorem maxX (o : XR) : Statement (.maxX o) := fun _ e he => by cases he; rfl
theorem shl (o : BI) : Statement (.shl o) := fun _ e he => by cases he; rfl
theorem shlX (o : XR) : Statement (.shlX o) := fun _ e he => by cases he; rfl
theorem shr (o : BI) : Statement (.shr o) := fun _ e he => by cases he; rfl
theorem shrX (o : XR) : Statement (.shrX o) := fun _ e he => by cases he; rfl
theorem rol (o : BI) : Statement (.rol o) := fun _ e he => by cases he; rfl
theorem rolX (o : XR) : Statement (.rolX o) := fun _ e he => by cases he; rfl
theorem mov (o : BU) : Statement (.mov o) := fun _ e he => by cases he; rfl
theorem movX (o : XR) : Statement (.movX o) := fun _ e he => by cases he; rfl
theorem li (o : BL) : Statement (.li o) := fun _ e he => by cases he; rfl
theorem liX (o : XR) : Statement (.liX o) := fun _ e he => by cases he; rfl
theorem cmp (o : BC) : Statement (.cmp o) := fun _ e he => by cases he; rfl
theorem cmpX (o : XR) : Statement (.cmpX o) := fun _ e he => by cases he; rfl
theorem fadd (o : BR) : Statement (.fadd o) := fun _ e he => by cases he; rfl
theorem faddX (o : XR) : Statement (.faddX o) := fun _ e he => by cases he; rfl
theorem fsub (o : BR) : Statement (.fsub o) := fun _ e he => by cases he; rfl
theorem fsubX (o : XR) : Statement (.fsubX o) := fun _ e he => by cases he; rfl
theorem fmul (o : BR) : Statement (.fmul o) := fun _ e he => by cases he; rfl
theorem fmulX (o : XR) : Statement (.fmulX o) := fun _ e he => by cases he; rfl
theorem fmin (o : BR) : Statement (.fmin o) := fun _ e he => by cases he; rfl
theorem fminX (o : XR) : Statement (.fminX o) := fun _ e he => by cases he; rfl
theorem fmax (o : BR) : Statement (.fmax o) := fun _ e he => by cases he; rfl
theorem fmaxX (o : XR) : Statement (.fmaxX o) := fun _ e he => by cases he; rfl
theorem fma (o : BR) : Statement (.fma o) := fun _ e he => by cases he; rfl
theorem fmaX (o : XR) : Statement (.fmaX o) := fun _ e he => by cases he; rfl
theorem fdiv (o : XR) : Statement (.fdiv o) := fun _ e he => by cases he; rfl
theorem fsqrt (o : BU) : Statement (.fsqrt o) := fun _ e he => by cases he; rfl
theorem fsqrtX (o : XR) : Statement (.fsqrtX o) := fun _ e he => by cases he; rfl
theorem hadd2 (o : BR) : Statement (.hadd2 o) := fun _ e he => by cases he; rfl
theorem hadd2X (o : XR) : Statement (.hadd2X o) := fun _ e he => by cases he; rfl
theorem hmul2 (o : BR) : Statement (.hmul2 o) := fun _ e he => by cases he; rfl
theorem hmul2X (o : XR) : Statement (.hmul2X o) := fun _ e he => by cases he; rfl
theorem hfma2 (o : BR) : Statement (.hfma2 o) := fun _ e he => by cases he; rfl
theorem hfma2X (o : XR) : Statement (.hfma2X o) := fun _ e he => by cases he; rfl
theorem fcmp (o : BC) : Statement (.fcmp o) := fun _ e he => by cases he; rfl
theorem fcmpX (o : XR) : Statement (.fcmpX o) := fun _ e he => by cases he; rfl
theorem fclass (o : XR) : Statement (.fclass o) := fun _ e he => by cases he; rfl
theorem fcvt (o : XR) : Statement (.fcvt o) := fun _ e he => by cases he; rfl
theorem frnd (o : XR) : Statement (.frnd o) := fun _ e he => by cases he; rfl
theorem frcp (o : BU) : Statement (.frcp o) := fun _ e he => by cases he; rfl
theorem frcpX (o : XR) : Statement (.frcpX o) := fun _ e he => by cases he; rfl
theorem frsq (o : BU) : Statement (.frsq o) := fun _ e he => by cases he; rfl
theorem frsqX (o : XR) : Statement (.frsqX o) := fun _ e he => by cases he; rfl
theorem fexp2 (o : BU) : Statement (.fexp2 o) := fun _ e he => by cases he; rfl
theorem fexp2X (o : XR) : Statement (.fexp2X o) := fun _ e he => by cases he; rfl
theorem flog2 (o : BU) : Statement (.flog2 o) := fun _ e he => by cases he; rfl
theorem flog2X (o : XR) : Statement (.flog2X o) := fun _ e he => by cases he; rfl
theorem fsin (o : XR) : Statement (.fsin o) := fun _ e he => by cases he; rfl
theorem fcos (o : XR) : Statement (.fcos o) := fun _ e he => by cases he; rfl
theorem abs (o : BU) : Statement (.abs o) := fun _ e he => by cases he; rfl
theorem absX (o : XR) : Statement (.absX o) := fun _ e he => by cases he; rfl
theorem neg (o : BU) : Statement (.neg o) := fun _ e he => by cases he; rfl
theorem negX (o : XR) : Statement (.negX o) := fun _ e he => by cases he; rfl
theorem clz (o : BU) : Statement (.clz o) := fun _ e he => by cases he; rfl
theorem clzX (o : XR) : Statement (.clzX o) := fun _ e he => by cases he; rfl
theorem popc (o : BU) : Statement (.popc o) := fun _ e he => by cases he; rfl
theorem popcX (o : XR) : Statement (.popcX o) := fun _ e he => by cases he; rfl
theorem brev (o : BU) : Statement (.brev o) := fun _ e he => by cases he; rfl
theorem brevX (o : XR) : Statement (.brevX o) := fun _ e he => by cases he; rfl
theorem div (o : XR) : Statement (.div o) := fun _ e he => by cases he; rfl
theorem rem (o : XR) : Statement (.rem o) := fun _ e he => by cases he; rfl
theorem bfx (o : XR) : Statement (.bfx o) := fun _ e he => by cases he; rfl
theorem bfi (o : XR) : Statement (.bfi o) := fun _ e he => by cases he; rfl
theorem sel (o : XR) : Statement (.sel o) := fun _ e he => by cases he; rfl
theorem plop (o : XR) : Statement (.plop o) := fun _ e he => by cases he; rfl
theorem movs (o : XR) : Statement (.movs o) := fun _ e he => by cases he; rfl
theorem bcvt (o : XR) : Statement (.bcvt o) := fun _ e he => by cases he; rfl
theorem bdot (o : XR) : Statement (.bdot o) := fun _ e he => by cases he; rfl
theorem shflIdx (o : XR) : Statement (.shflIdx o) := fun h e he => by
  cases he
  rw [xr_shfl, var_eq (k := 0) rfl h]; rfl
theorem shflUp (o : XR) : Statement (.shflUp o) := fun h e he => by
  cases he
  rw [xr_shfl, var_eq (k := 1) rfl h]; rfl
theorem shflDown (o : XR) : Statement (.shflDown o) := fun h e he => by
  cases he
  rw [xr_shfl, var_eq (k := 2) rfl h]; rfl
theorem shflXor (o : XR) : Statement (.shflXor o) := fun h e he => by
  cases he
  rw [xr_shfl, var_eq (k := 3) rfl h]; rfl
theorem voteMask (o : XR) : Statement (.voteMask o) := fun h e he => by
  cases he
  have hw : (wfXR (rVote 0 [.v, .g] [.none]) o && o.d.evenV) = true := h
  rw [Bool.and_eq_true] at hw
  rw [xr_vote, var_eq (k := 0) rfl hw.1]; rfl
theorem voteCount (o : XR) : Statement (.voteCount o) := fun h e he => by
  cases he
  rw [xr_vote, var_eq (k := 1) rfl h]; rfl
theorem voteQuorum (o : XR) : Statement (.voteQuorum o) := fun h e he => by
  cases he
  rw [xr_vote, var_eq (k := 2) rfl h]; rfl
theorem voteSplit (o : XR) : Statement (.voteSplit o) := fun h e he => by
  cases he
  rw [xr_vote, var_eq (k := 3) rfl h]; rfl
theorem gred (o : XR) : Statement (.gred o) := fun _ e he => by cases he; rfl
theorem gscan (o : XR) : Statement (.gscan o) := fun _ e he => by cases he; rfl
theorem matchAny (o : XR) : Statement (.matchAny o) := fun h e he => by
  cases he
  have hw : (wfXR (rMatch 0 [.none]) o && o.d.evenV) = true := h
  rw [Bool.and_eq_true] at hw
  rw [xr_match, var_eq (k := 0) rfl hw.1]; rfl
theorem matchAll (o : XR) : Statement (.matchAll o) := fun h e he => by
  cases he
  have hw : (wfXR (rMatch 1 [.none, .k]) o && o.d.evenV) = true := h
  rw [Bool.and_eq_true] at hw
  rw [xr_match, var_eq (k := 1) rfl hw.1]; rfl
theorem rebal (o : XR) : Statement (.rebal o) := fun _ e he => by cases he; rfl
theorem topk (o : XR) : Statement (.topk o) := fun _ e he => by cases he; rfl
theorem ld (o : BI) : Statement (.ld o) := fun _ e he => by cases he; rfl
theorem ldX (o : XM) : Statement (.ldX o) := fun _ e he => by cases he; rfl
theorem st (o : BI) : Statement (.st o) := fun _ e he => by cases he; rfl
theorem stX (o : XM) : Statement (.stX o) := fun _ e he => by cases he; rfl
theorem lds (o : BI) : Statement (.lds o) := fun _ e he => by cases he; rfl
theorem ldsX (o : XM) : Statement (.ldsX o) := fun _ e he => by cases he; rfl
theorem sts (o : BI) : Statement (.sts o) := fun _ e he => by cases he; rfl
theorem stsX (o : XM) : Statement (.stsX o) := fun _ e he => by cases he; rfl
theorem ldx (o : XM) : Statement (.ldx o) := fun _ e he => by cases he; rfl
theorem stx (o : XM) : Statement (.stx o) := fun _ e he => by cases he; rfl
theorem lea (o : XM) : Statement (.lea o) := fun _ e he => by cases he; rfl
theorem pref (o : XM) : Statement (.pref o) := fun _ e he => by cases he; rfl
theorem cacheWb (o : XM) : Statement (.cacheWb o) := fun h e he => by
  cases he
  have hw : cacheOk 0 o = true := h
  simp only [cacheOk, Bool.and_eq_true, beq_iff_eq] at hw
  rw [xm_cache]; simp [hw]
theorem cacheInv (o : XM) : Statement (.cacheInv o) := fun h e he => by
  cases he
  have hw : cacheOk 1 o = true := h
  simp only [cacheOk, Bool.and_eq_true, beq_iff_eq] at hw
  rw [xm_cache]; simp [hw]
theorem cacheClel (o : XM) : Statement (.cacheClel o) := fun h e he => by
  cases he
  have hw : cacheOk 2 o = true := h
  simp only [cacheOk, Bool.and_eq_true, beq_iff_eq] at hw
  rw [xm_cache]; simp [hw]
theorem fenceAcq (o : XM) : Statement (.fenceAcq o) := fun h e he => by
  cases he
  have hw : fenceOk 1 o = true := h
  simp only [fenceOk, Bool.and_eq_true, beq_iff_eq] at hw
  rw [xm_fence]; simp [hw]
theorem fenceRel (o : XM) : Statement (.fenceRel o) := fun h e he => by
  cases he
  have hw : fenceOk 2 o = true := h
  simp only [fenceOk, Bool.and_eq_true, beq_iff_eq] at hw
  rw [xm_fence]; simp [hw]
theorem fenceAr (o : XM) : Statement (.fenceAr o) := fun h e he => by
  cases he
  have hw : fenceOk 3 o = true := h
  simp only [fenceOk, Bool.and_eq_true, beq_iff_eq] at hw
  rw [xm_fence]; simp [hw]
theorem atomAdd (o : XM) : Statement (.atomAdd o) := fun _ e he => by cases he; rfl
theorem atomAnd (o : XM) : Statement (.atomAnd o) := fun _ e he => by cases he; rfl
theorem atomOr (o : XM) : Statement (.atomOr o) := fun _ e he => by cases he; rfl
theorem atomXor (o : XM) : Statement (.atomXor o) := fun _ e he => by cases he; rfl
theorem atomMin (o : XM) : Statement (.atomMin o) := fun _ e he => by cases he; rfl
theorem atomMax (o : XM) : Statement (.atomMax o) := fun _ e he => by cases he; rfl
theorem atomUmin (o : XM) : Statement (.atomUmin o) := fun _ e he => by cases he; rfl
theorem atomUmax (o : XM) : Statement (.atomUmax o) := fun _ e he => by cases he; rfl
theorem atomExch (o : XM) : Statement (.atomExch o) := fun _ e he => by cases he; rfl
theorem atomCas (o : XM) : Statement (.atomCas o) := fun _ e he => by cases he; rfl
theorem atomFadd (o : XM) : Statement (.atomFadd o) := fun _ e he => by cases he; rfl
theorem atomsAdd (o : XM) : Statement (.atomsAdd o) := fun _ e he => by cases he; rfl
theorem atomsAnd (o : XM) : Statement (.atomsAnd o) := fun _ e he => by cases he; rfl
theorem atomsOr (o : XM) : Statement (.atomsOr o) := fun _ e he => by cases he; rfl
theorem atomsXor (o : XM) : Statement (.atomsXor o) := fun _ e he => by cases he; rfl
theorem atomsMin (o : XM) : Statement (.atomsMin o) := fun _ e he => by cases he; rfl
theorem atomsMax (o : XM) : Statement (.atomsMax o) := fun _ e he => by cases he; rfl
theorem atomsUmin (o : XM) : Statement (.atomsUmin o) := fun _ e he => by cases he; rfl
theorem atomsUmax (o : XM) : Statement (.atomsUmax o) := fun _ e he => by cases he; rfl
theorem atomsExch (o : XM) : Statement (.atomsExch o) := fun _ e he => by cases he; rfl
theorem atomsCas (o : XM) : Statement (.atomsCas o) := fun _ e he => by cases he; rfl
theorem atomsFadd (o : XM) : Statement (.atomsFadd o) := fun _ e he => by cases he; rfl
theorem tdef (o : XT) : Statement (.tdef o) := fun _ e he => by cases he; rfl
theorem tcopy (o : XT) : Statement (.tcopy o) := fun _ e he => by cases he; rfl
theorem tfree (o : XT) : Statement (.tfree o) := fun _ e he => by cases he; rfl
theorem tstat (o : XT) : Statement (.tstat o) := fun _ e he => by cases he; rfl
theorem unfset (o : XT) : Statement (.unfset o) := fun _ e he => by cases he; rfl
theorem mloop (o : XT) : Statement (.mloop o) := fun _ e he => by cases he; rfl
theorem mma (o : XT) : Statement (.mma o) := fun _ e he => by cases he; rfl
theorem dload (o : XT) : Statement (.dload o) := fun _ e he => by cases he; rfl
theorem aalloc (o : XT) : Statement (.aalloc o) := fun _ e he => by cases he; rfl
theorem afree (o : XT) : Statement (.afree o) := fun _ e he => by cases he; rfl
theorem copy (o : XE) : Statement (.copy o) := fun _ e he => by cases he; rfl
theorem gather (o : XE) : Statement (.gather o) := fun _ e he => by cases he; rfl
theorem scatter (o : XE) : Statement (.scatter o) := fun _ e he => by cases he; rfl
theorem mcast (o : XE) : Statement (.mcast o) := fun _ e he => by cases he; rfl
theorem cseal (o : XE) : Statement (.cseal o) := fun _ e he => by cases he; rfl
theorem cwait (o : XS) : Statement (.cwait o) := fun _ e he => by cases he; rfl
theorem enq (o : XE) : Statement (.enq o) := fun h e he => by
  cases he
  have hw : xeOk [.v] [.g, .lit] [.none] [.none] false false false false false false true o = true := h
  simp only [xeOk, Bool.and_eq_true, Bool.false_or, Bool.not_eq_true'] at hw
  rw [xe_enq]; simp [hw]
theorem enqTry (o : XE) : Statement (.enqTry o) := fun h e he => by
  cases he
  have hw : (xeOk [.v] [.g, .lit] [.g] [.k] false false false true false false true o && o.tryb) = true := h
  rw [Bool.and_eq_true] at hw
  rw [xe_enq]; simp [hw.2]
theorem deq (o : XE) : Statement (.deq o) := fun h e he => by
  cases he
  have hw : xeOk [.v] [.g, .lit] [.none] [.none] false false false false false false true o = true := h
  simp only [xeOk, Bool.and_eq_true, Bool.false_or, Bool.not_eq_true'] at hw
  rw [xe_deq]; simp [hw]
theorem deqTry (o : XE) : Statement (.deqTry o) := fun h e he => by
  cases he
  have hw : (xeOk [.v] [.g, .lit] [.g] [.k] false false false true false false true o && o.tryb) = true := h
  rw [Bool.and_eq_true] at hw
  rw [xe_deq]; simp [hw.2]
theorem qinit (o : XE) : Statement (.qinit o) := fun _ e he => by cases he; rfl
theorem qstat (o : XE) : Statement (.qstat o) := fun _ e he => by cases he; rfl
theorem chsend (o : XE) : Statement (.chsend o) := fun _ e he => by cases he; rfl
theorem chrecv (o : XE) : Statement (.chrecv o) := fun _ e he => by cases he; rfl
theorem spawn (o : XE) : Statement (.spawn o) := fun _ e he => by cases he; rfl
theorem abinit (o : XE) : Statement (.abinit o) := fun _ e he => by cases he; rfl
theorem abwait (o : XS) : Statement (.abwait o) := fun _ e he => by cases he; rfl
theorem sdef (o : XE) : Statement (.sdef o) := fun _ e he => by cases he; rfl
theorem sstop (o : XE) : Statement (.sstop o) := fun _ e he => by cases he; rfl
theorem tlread (o : XE) : Statement (.tlread o) := fun _ e he => by cases he; rfl
theorem tlwait (o : XS) : Statement (.tlwait o) := fun _ e he => by cases he; rfl
theorem bar (o : XS) : Statement (.bar o) := fun _ e he => by cases he; rfl
theorem gbar (o : XS) : Statement (.gbar o) := fun h e he => by
  cases he
  have hw : xsOk [.none] [.none] [.none] 1 o = true := h
  simp only [xsOk, Bool.and_eq_true, decide_eq_true_eq] at hw
  have : o.imm = 0 := BitVec.eq_of_toNat_eq (by simpa using hw.2)
  rw [xs_gbar]; simp [this]
theorem gbarEnter (o : XS) : Statement (.gbarEnter o) := fun h e he => by
  cases he
  have hw : (xsOk [.v] [.none] [.none] 2 o && o.imm == 1) = true := h
  simp only [Bool.and_eq_true, beq_iff_eq] at hw
  rw [xs_gbar]; simp [hw.2]
theorem gbarLeave (o : XS) : Statement (.gbarLeave o) := fun h e he => by
  cases he
  have hw : (xsOk [.none] [.v] [.none] 3 o && o.imm == 2) = true := h
  simp only [Bool.and_eq_true, beq_iff_eq] at hw
  rw [xs_gbar]; simp [hw.2]
theorem wait (o : XS) : Statement (.wait o) := fun _ e he => by cases he; rfl
theorem getc (o : XS) : Statement (.getc o) := fun _ e he => by cases he; rfl
theorem setcFpctl (o : XS) : Statement (.setcFpctl o) := fun h e he => by
  cases he
  have hw : setcOk 0 o = true := h
  rw [xs_setc, ofSetc, xs_selector hw]; rfl
theorem setcFpflags (o : XS) : Statement (.setcFpflags o) := fun h e he => by
  cases he
  have hw : setcOk 1 o = true := h
  rw [xs_setc, ofSetc, xs_selector hw]; rfl
theorem setcBfflags (o : XS) : Statement (.setcBfflags o) := fun h e he => by
  cases he
  have hw : setcOk 2 o = true := h
  rw [xs_setc, ofSetc, xs_selector hw]; rfl
theorem setcIssuepol (o : XS) : Statement (.setcIssuepol o) := fun h e he => by
  cases he
  have hw : setcOk 3 o = true := h
  rw [xs_setc, ofSetc, xs_selector hw]; rfl
theorem setcTrapvec (o : XS) : Statement (.setcTrapvec o) := fun h e he => by
  cases he
  have hw : setcOk 4 o = true := h
  rw [xs_setc, ofSetc, xs_selector hw]; rfl
theorem setcFaultq (o : XS) : Statement (.setcFaultq o) := fun h e he => by
  cases he
  have hw : setcOk 5 o = true := h
  rw [xs_setc, ofSetc, xs_selector hw]; rfl
theorem setcLkstat (o : XS) : Statement (.setcLkstat o) := fun h e he => by
  cases he
  have hw : setcOk 6 o = true := h
  rw [xs_setc, ofSetc, xs_selector hw]; rfl
theorem setcStatclr (o : XS) : Statement (.setcStatclr o) := fun h e he => by
  cases he
  have hw : setcOk 7 o = true := h
  rw [xs_setc, ofSetc, xs_selector hw]; rfl
theorem cpstatClearErr (o : XS) : Statement (.cpstatClearErr o) := fun h e he => by
  cases he
  have hw : (setcOk 8 o && !Instr.wf.cpstatDropOnly o) = true := h
  rw [Bool.and_eq_true] at hw
  have hc := hw.2
  rw [xs_setc]; simp only [ofSetc, xs_selector hw.1]
  rw [Bool.not_eq_true'] at hc; rw [hc]; rfl
theorem cpstatClearDrop (o : XS) : Statement (.cpstatClearDrop o) := fun h e he => by
  cases he
  have hw : (setcOk 8 o && Instr.wf.cpstatDropOnly o) = true := h
  rw [Bool.and_eq_true] at hw
  have hc := hw.2
  rw [xs_setc]; simp only [ofSetc, xs_selector hw.1]
  rw [hc]; rfl
theorem setcMxstat (o : XS) : Statement (.setcMxstat o) := fun h e he => by
  cases he
  have hw : (setcOk 9 o && Instr.wf.mxstatAct o == 0) = true := h
  simp only [Bool.and_eq_true, beq_iff_eq] at hw
  rw [xs_setc]; simp only [ofSetc, xs_selector hw.1, hw.2]
  rfl
theorem mxstatResume (o : XS) : Statement (.mxstatResume o) := fun h e he => by
  cases he
  have hw : (setcOk 9 o && Instr.wf.mxstatAct o == 1) = true := h
  simp only [Bool.and_eq_true, beq_iff_eq] at hw
  rw [xs_setc]; simp only [ofSetc, xs_selector hw.1, hw.2]
  rfl
theorem mxstatResumeIgnoring (o : XS) : Statement (.mxstatResumeIgnoring o) := fun h e he => by
  cases he
  have hw : (setcOk 9 o && Instr.wf.mxstatAct o == 2) = true := h
  simp only [Bool.and_eq_true, beq_iff_eq] at hw
  rw [xs_setc]; simp only [ofSetc, xs_selector hw.1, hw.2]
  rfl
theorem mxstatAbandon (o : XS) : Statement (.mxstatAbandon o) := fun h e he => by
  cases he
  have hw : (setcOk 9 o && Instr.wf.mxstatAct o == 4) = true := h
  simp only [Bool.and_eq_true, beq_iff_eq] at hw
  rw [xs_setc]; simp only [ofSetc, xs_selector hw.1, hw.2]
  rfl
theorem setcTrapinfo (o : XS) : Statement (.setcTrapinfo o) := fun h e he => by
  cases he
  have hw : setcOk 10 o = true := h
  rw [xs_setc, ofSetc, xs_selector hw]; rfl
theorem setcTrapva (o : XS) : Statement (.setcTrapva o) := fun h e he => by
  cases he
  have hw : setcOk 11 o = true := h
  rw [xs_setc, ofSetc, xs_selector hw]; rfl
theorem setw (o : XS) : Statement (.setw o) := fun _ e he => by cases he; rfl
theorem reord (o : XS) : Statement (.reord o) := fun _ e he => by cases he; rfl
theorem svc (o : XS) : Statement (.svc o) := fun h e he => by
  cases he
  have hw : xsOk [.none] [.none] [.none] 128 o = true := h
  simp only [xsOk, Bool.and_eq_true, decide_eq_true_eq] at hw
  have hs := hw.2
  rw [xs_service]; simp only [beq_iff_eq]
  repeat rw [if_neg (by rintro hx; rw [hx] at hs; simp at hs)]
theorem resolve (o : XS) : Statement (.resolve o) := fun h e he => by
  cases he
  have hw : (xsOk [.none] [.none] [.none] 256 o && o.imm.toNat == 128) = true := h
  simp only [Bool.and_eq_true, beq_iff_eq] at hw
  have : o.imm = 128 := BitVec.eq_of_toNat_eq (by simpa using hw.2)
  rw [xs_service]; simp [this]
theorem xlinv (o : XS) : Statement (.xlinv o) := fun h e he => by
  cases he
  have hw : (xsOk [.none] [.none] [.none] 256 o && o.imm.toNat == 129) = true := h
  simp only [Bool.and_eq_true, beq_iff_eq] at hw
  have : o.imm = 129 := BitVec.eq_of_toNat_eq (by simpa using hw.2)
  rw [xs_service]; simp [this]
theorem resume (o : XS) : Statement (.resume o) := fun h e he => by
  cases he
  have hw : (xsOk [.none] [.none] [.none] 256 o && o.imm.toNat == 130) = true := h
  simp only [Bool.and_eq_true, beq_iff_eq] at hw
  have : o.imm = 130 := BitVec.eq_of_toNat_eq (by simpa using hw.2)
  rw [xs_service]; simp [this]
theorem trap (o : XS) : Statement (.trap o) := fun _ e he => by cases he; rfl
theorem locki (o : XS) : Statement (.locki o) := fun _ e he => by cases he; rfl
theorem unlocki (o : XS) : Statement (.unlocki o) := fun _ e he => by cases he; rfl
theorem ageingLift (gid : Nat) : Statement (.ageingLift gid) := fun _ _ h => nomatch h
theorem spinDemotion (gid : Nat) (pc : Dword) : Statement (.spinDemotion gid pc) := fun _ _ h => nomatch h
theorem spinDemotionEnd (gid : Nat) (pc : Dword) : Statement (.spinDemotionEnd gid pc) := fun _ _ h => nomatch h
theorem resultWriteback (id : Nat) : Statement (.resultWriteback id) := fun _ _ h => nomatch h
theorem ownershipRegistration (id : Nat) : Statement (.ownershipRegistration id) := fun _ _ h => nomatch h
theorem registrationAck (id : Nat) : Statement (.registrationAck id) := fun _ _ h => nomatch h
theorem ownerWriteBack (core word : Nat) : Statement (.ownerWriteBack core word) := fun _ _ h => nomatch h
theorem ownerReadForward (id : Nat) : Statement (.ownerReadForward id) := fun _ _ h => nomatch h
theorem ownershipWithdrawal (word : Nat) : Statement (.ownershipWithdrawal word) := fun _ _ h => nomatch h
theorem readCombineReply (line : Nat) : Statement (.readCombineReply line) := fun _ _ h => nomatch h
theorem pageWalk (core ctx va : Nat) (kind : WalkKind) : Statement (.pageWalk core ctx va kind) := fun _ _ h => nomatch h
theorem faultRecordEnqueue (ctx : Nat) : Statement (.faultRecordEnqueue ctx) := fun _ _ h => nomatch h
theorem codePageHashCheck (ctx slot page : Nat) : Statement (.codePageHashCheck ctx slot page) := fun _ _ h => nomatch h
theorem enqAtHome (id : Nat) : Statement (.enqAtHome id) := fun _ _ h => nomatch h
theorem deqAtHome (id : Nat) : Statement (.deqAtHome id) := fun _ _ h => nomatch h
theorem elementPublication (id : Nat) : Statement (.elementPublication id) := fun _ _ h => nomatch h
theorem waiterEviction (id : Nat) : Statement (.waiterEviction id) := fun _ _ h => nomatch h
theorem queueReply (id : Nat) : Statement (.queueReply id) := fun _ _ h => nomatch h
theorem channelLanding (id : Nat) : Statement (.channelLanding id) := fun _ _ h => nomatch h
theorem channelCreditReturn (id : Nat) : Statement (.channelCreditReturn id) := fun _ _ h => nomatch h
theorem stxLanding (id : Nat) : Statement (.stxLanding id) := fun _ _ h => nomatch h
theorem copyLanding (id target : Nat) : Statement (.copyLanding id target) := fun _ _ h => nomatch h
theorem barrierArrival (id target : Nat) : Statement (.barrierArrival id target) := fun _ _ h => nomatch h
theorem copyCompletion (id : Nat) : Statement (.copyCompletion id) := fun _ _ h => nomatch h
theorem copyFault (id : Nat) : Statement (.copyFault id) := fun _ _ h => nomatch h
theorem copyErrorState (id : Nat) (ecc : Bool) : Statement (.copyErrorState id ecc) := fun _ _ h => nomatch h
theorem streamPrefetch (fib : FibreId) (stream : Nat) : Statement (.streamPrefetch fib stream) := fun _ _ h => nomatch h
theorem matrixAccept (gid : Nat) : Statement (.matrixAccept gid) := fun _ _ h => nomatch h
theorem kStep (id : Nat) : Statement (.kStep id) := fun _ _ h => nomatch h
theorem drainBlockCommit (id : Nat) : Statement (.drainBlockCommit id) := fun _ _ h => nomatch h
theorem matrixCompletion (id : Nat) : Statement (.matrixCompletion id) := fun _ _ h => nomatch h
theorem matrixStop (id : Nat) (ecc : Bool) : Statement (.matrixStop id ecc) := fun _ _ h => nomatch h
theorem reordDeal (tid : Nat) : Statement (.reordDeal tid) := fun _ _ h => nomatch h
theorem dispatchTake (die : Nat) : Statement (.dispatchTake die) := fun _ _ h => nomatch h
theorem teamStart (tid : Nat) : Statement (.teamStart tid) := fun _ _ h => nomatch h
theorem teamCompletion (tid : Nat) : Statement (.teamCompletion tid) := fun _ _ h => nomatch h
theorem launchCompletion (launch : Nat) : Statement (.launchCompletion launch) := fun _ _ h => nomatch h
theorem completionReport (launch : Nat) : Statement (.completionReport launch) := fun _ _ h => nomatch h
theorem graphStart (graph : Nat) : Statement (.graphStart graph) := fun _ _ h => nomatch h
theorem launchNodeActivation (graph node : Nat) : Statement (.launchNodeActivation graph node) := fun _ _ h => nomatch h
theorem joinActivation (graph node : Nat) : Statement (.joinActivation graph node) := fun _ _ h => nomatch h
theorem conditionalActivation (graph node : Nat) : Statement (.conditionalActivation graph node) := fun _ _ h => nomatch h
theorem whileActivation (graph node : Nat) : Statement (.whileActivation graph node) := fun _ _ h => nomatch h
theorem stopRequest (ctx : Nat) : Statement (.stopRequest ctx) := fun _ _ h => nomatch h
theorem stopCompletion (ctx : Nat) : Statement (.stopCompletion ctx) := fun _ _ h => nomatch h
theorem contextRestore (ctx : Nat) (map : List Nat) : Statement (.contextRestore ctx map) := fun _ _ h => nomatch h
theorem powerGood : Statement (.powerGood) := fun _ _ h => nomatch h
theorem selfCalibration (ok : Bool) (boardTag : Nat) : Statement (.selfCalibration ok boardTag) := fun _ _ h => nomatch h
theorem builtInSelfTest (ok : Bool) (secret : Nat) : Statement (.builtInSelfTest ok secret) := fun _ _ h => nomatch h
theorem memoryInitialisation (ok : Bool) : Statement (.memoryInitialisation ok) := fun _ _ h => nomatch h
theorem firmwareVerify (img : FwImage) : Statement (.firmwareVerify img) := fun _ _ h => nomatch h
theorem configurationApply (img : CfgImage) : Statement (.configurationApply img) := fun _ _ h => nomatch h
theorem thermalStateChange (die : Nat) (sense : Sense) : Statement (.thermalStateChange die sense) := fun _ _ h => nomatch h
theorem healthEstimate (report : HealthSample) : Statement (.healthEstimate report) := fun _ _ h => nomatch h
theorem arpRequest (pkt : NetPkt) : Statement (.arpRequest pkt) := fun _ _ h => nomatch h
theorem neighbourSolicitation (pkt : NetPkt) : Statement (.neighbourSolicitation pkt) := fun _ _ h => nomatch h
theorem icmpEchoRequest (pkt : NetPkt) : Statement (.icmpEchoRequest pkt) := fun _ _ h => nomatch h
theorem routerAdvertisement (pkt : NetPkt) : Statement (.routerAdvertisement pkt) := fun _ _ h => nomatch h
theorem pfcPauseFrame (pkt : NetPkt) : Statement (.pfcPauseFrame pkt) := fun _ _ h => nomatch h
theorem status (f : Frame) : Statement (.status f) := fun _ _ h => nomatch h
theorem attest (f : Frame) : Statement (.attest f) := fun _ _ h => nomatch h
theorem attach (f : Frame) : Statement (.attach f) := fun _ _ h => nomatch h
theorem peer (f : Frame) : Statement (.peer f) := fun _ _ h => nomatch h
theorem ctxcreate (f : Frame) : Statement (.ctxcreate f) := fun _ _ h => nomatch h
theorem ctxend (f : Frame) : Statement (.ctxend f) := fun _ _ h => nomatch h
theorem bindq (f : Frame) : Statement (.bindq f) := fun _ _ h => nomatch h
theorem install (f : Frame) : Statement (.install f) := fun _ _ h => nomatch h
theorem save (f : Frame) : Statement (.save f) := fun _ _ h => nomatch h
theorem restore (f : Frame) : Statement (.restore f) := fun _ _ h => nomatch h
theorem mreg (f : Frame) : Statement (.mreg f) := fun _ _ h => nomatch h
theorem qpopen (f : Frame) : Statement (.qpopen f) := fun _ _ h => nomatch h
theorem epset (f : Frame) : Statement (.epset f) := fun _ _ h => nomatch h
theorem health (f : Frame) : Statement (.health f) := fun _ _ h => nomatch h
theorem pcap (f : Frame) : Statement (.pcap f) := fun _ _ h => nomatch h
theorem brk (f : Frame) : Statement (.brk f) := fun _ _ h => nomatch h
theorem remoteEnqueue (f : Frame) : Statement (.remoteEnqueue f) := fun _ _ h => nomatch h
theorem heldFrameExecute (session ctx : Nat) : Statement (.heldFrameExecute session ctx) := fun _ _ h => nomatch h
theorem rdmaWrite (r : RdmaReq) : Statement (.rdmaWrite r) := fun _ _ h => nomatch h
theorem rdmaRead (r : RdmaReq) : Statement (.rdmaRead r) := fun _ _ h => nomatch h
theorem roceSend (r : RdmaReq) : Statement (.roceSend r) := fun _ _ h => nomatch h
theorem congestionNotification (qpn : Nat) : Statement (.congestionNotification qpn) := fun _ _ h => nomatch h
theorem rateRecovery (qpn : Nat) : Statement (.rateRecovery qpn) := fun _ _ h => nomatch h
theorem unassignedEncoding : Statement (.unassignedEncoding) := fun _ _ h => nomatch h
theorem powerLoss : Statement (.powerLoss) := fun _ _ h => nomatch h
theorem linkTraining (port : Nat) : Statement (.linkTraining port) := fun _ _ h => nomatch h
theorem arpReply (pkt : NetPkt) : Statement (.arpReply pkt) := fun _ _ h => nomatch h
theorem neighbourAdvertisement (pkt : NetPkt) : Statement (.neighbourAdvertisement pkt) := fun _ _ h => nomatch h

end Sys2Proof.Laws.Encoding
end

