-- ==== Sys2Proof/Tests/Slice0.lean ====
section
/-! SUPPORT. Tests of the model: checks of WellFormed that refuse, words of the spec's own encodings and what they
decode to, one step on small states against results that the spec states, and states that meet the hypotheses of the
obligations. The expected values are those of the rules and examples that the docstrings name. -/

open Sys2Proof Sys2Proof.Machine

namespace Sys2Proof.Tests

/-! A small machine: core 0 runs one group of one team of context 1, its code at word 1 of slot 0. -/

/-- Fibre i of the team. -/
def fid (i : Nat) : FibreId := ⟨teamKey 0 0, i⟩

/-- A list of `n` zeros with the given entries. -/
def filled {α : Type} (z : α) (n : Nat) (xs : List (Nat × α)) : List α := xs.foldl (fun l x => l.set x.1 x.2) (List.replicate n z)

/-- The subset of the first `n` fibres, each in the lane of its FID, at the reference 4. -/
def issueOf (n : Nat) : Issue :=
  { gid := 1, core := 0, ctx := 1, pc := 4, next := 8, lanes := (upto n).map fun i => (i, fid i), atEnd := false }

/-- Read, write and execute translations of the page at 64 KiB and the one after it (06 R145). -/
def pages : List TlbEntry := [loadedPage, ⟨1, 2, false, 0x200C7⟩]

/-- One fibre for each entry, with its k registers and the v registers listed; the g registers listed; 4 KiB of
scratchpad, 64 rows of tiles; the memory bytes listed; and the fibres' subset issued. -/
def squad (fs : List (BitVec 8 × List (Nat × Word))) (gs : List (Nat × Dword)) (bytes : List (Nat × List Byte)) : State :=
  let n := fs.length
  { State.reset.loaded [] with
    agenda := [], issue := some (issueOf n)
    mem := bytes.foldl (fun m x => Memory.writes m x.1 x.2) []
    cores := [(0, { clock := 100, widthLimit := 64, tlb := pages })]
    teams := [(teamKey 0 0, { loadedTeam with
      nfib := n, ownBytes := 4096, spadBytes := 4096, trows := 64, g := filled 0 16 gs
      fibres := (upto n).map fun i =>
        let f := fs.getD i (0, [])
        (i, { loadedFibre with k := f.1, v := filled 0 64 f.2, stack := 0x21000, stackTop := 0x21000, stackBottom := 0x20000 }) })]
    groups := [(1, { loadedGroup with
      members := (upto n).map fid, g := filled 0 48 ((gs.filter fun x => 16 ≤ x.1).map fun x => (x.1 - 16, x.2)) })] }

/-- One fibre with v registers. -/
def one (vs : List (Nat × Word)) : State := squad [(0, vs)] [] []

/-- The state that an instruction answers. -/
def after (i : Instr) (s : State) : Option State :=
  match exec i s with
  | .next t => some t
  | _ => none

/-- The state that the instruction of some words answers. -/
def ran (ws : List Word) (s : State) : Option State :=
  match decode ws with
  | .ok (i, _) => after i s
  | _ => none

/-- Every pending result is answered and written. -/
def settled (s : State) : State := s.pending.foldl (fun t x => (t.answer x.1).writeResult x.1) s

/-- v register n of each of the first m fibres four clocks on, results written. -/
def vs (m n : Nat) (t : Option State) : List Word :=
  match t with
  | some t => (upto m).map fun i => ((settled t).fibre (fid i)).vAt 104 n
  | none => []

/-- k register n of each of the first m fibres. -/
def ks (m n : Nat) (t : Option State) : List Bool :=
  match t with
  | some t => (upto m).map fun i => ((settled t).fibre (fid i)).kAt 104 n
  | none => []

/-- g register n. -/
def gs (n : Nat) (t : Option State) : Option Dword := t.map fun t => (settled t).gAt 1 n 104

/-- A property of the state answered. -/
def holds (p : State → Bool) (t : Option State) : Bool :=
  match t with
  | some t => p t
  | none => false

/-- Words decode to an instruction, all of them. -/
def is (ws : List Word) (i : Instr) : Bool := decode ws == .ok (i, ws.length) && encode i == ws

/-- Words are no instruction. -/
def isNot (ws : List Word) : Bool :=
  match decode ws with
  | .ok _ => false
  | .error _ => true

def g0 : XGuard := ⟨0, false⟩
def h0 : Hint := ⟨0, false⟩
def br (d a b : BitVec 6) : BR := ⟨.always, h0, d, a, .reg b⟩
def bu (d a : BitVec 6) : BU := ⟨.always, h0, d, a⟩
def bi (d a b : BitVec 6) : BI := ⟨.always, h0, d, a, b⟩
def bz : BZ := ⟨.always, h0⟩
def xr (d a b c : Opnd) : XR := ⟨g0, h0, 0, d, a, b, c, 0, false, false, 0, 0, 0, 0⟩
def xm (d : XData) (b : XBase) (size : BitVec 3) : XM :=
  ⟨g0, h0, d, b, none, 0, false, false, 0, 0, 0, 0, size, .short 0⟩
def xt (d a c : Opnd) (tn : BitVec 5) : XT := ⟨g0, h0, 0, 0, d, a, .none, c, tn, 0, 0, false⟩
def xe (d a b c : Opnd) (n6 : BitVec 6) : XE := ⟨g0, h0, 0, 0, d, a, b, c, 0, 0, false, false, 0, n6⟩
def xc (t : XTarget) : XC := ⟨g0, h0, t⟩
def xs (d a b : Opnd) (imm : BitVec 20) : XS := ⟨g0, h0, d, a, b, .none, imm⟩

/-! Words that the spec writes out, and the instructions that they stand for. -/

/-- 15 R319, R320 and the entries of the base forms; the worked examples of 15 and 16. -/
theorem test_words_base :
    (is [0x20] (.nop bz) && is [0x2C] (.nop ⟨.always, ⟨3, false⟩⟩) && is [0x1020] (.nop ⟨.k1, h0⟩) &&
      is [0x40] (.yield bz) && is [0x1040] (.yield ⟨.k1, h0⟩) && is [0x60] (.exit bz) && is [0x1060] (.exit ⟨.k1, h0⟩) &&
      is [0x80] (.ret bz) && is [0x1080] (.ret ⟨.k1, h0⟩) && is [0xFFFE50A0] (.bra ⟨.k1, h0, -7⟩) &&
      is [0x001700E0] (.call ⟨.always, h0, 92⟩) && is [0x0020820D, 1, 0] (.add ⟨.always, ⟨3, false⟩, 2, 2, .lit 1⟩) &&
      is [0x10308220] (.sub (br 2 3 4)) && is [0x0810C240] (.mul (br 3 1 2)) && is [0x08118520] (.mad (br 6 1 2)) &&
      is [0x081102C0] (.xor (br 4 1 2)) && is [0x0C110340] (.shl (bi 4 1 3)) && is [0x20110380] (.rol (bi 4 1 8)) &&
      is [0x009143A0] (.mov (bu 5 9)) && is [0x83C8] (.li ⟨.always, ⟨2, false⟩, 2, .short 0⟩) &&
      is [0x009083E1, 1, 0] (.cmp ⟨.always, h0, 2, 0, 9, .lit 1⟩) && is [0x14310400] (.fadd (br 4 3 5)) &&
      is [0x1030C440] (.fmul (br 3 3 4)) && is [0x08118500] (.fma (br 6 1 2)) && is [0x143104A0] (.hadd2 (br 4 3 5)) &&
      is [0x1440C600] (.ld (bi 3 4 5)) && is [0x1440C620] (.st (bi 3 4 5)) && is [0x0820C660] (.sts (bi 3 2 2)) &&
      is [0x003088C0] (.neg (bu 2 3)) && is [0x00308900] (.popc (bu 2 3))) = true := by decide +kernel

/-- The entries of class XR (15 R325). -/
theorem test_words_arithmetic :
    (is [0x05030E02, 0x0000901B, 0x000B0C42] (.cmpX { xr (.k 3) (.v 5) (.g 9) .none with u := true, cc := 5 }) &&
      is [0x01040E02, 0x00002004, 0x00010C00] (.mulhX { xr (.v 4) (.v 1) (.v 2) .none with u := true }) &&
      is [0x01040E02, 0x10002011, 0x00000C00] (.shrX { xr (.v 4) (.v 1) (.v 2) .none with var := 1 }) &&
      is [0x01040E02, 0x00002007, 0x00010C00] (.rem { xr (.v 4) (.v 1) (.v 2) .none with u := true }) &&
      is [0x01060E02, 0x0020301A, 0x00000400] (.sel (xr (.v 6) (.v 1) (.v 3) (.k 2))) &&
      is [0x01030E02, 0x0000201C, 0x0C000C92] (.plop { xr (.k 3) (.k 1) (.k 2) .none with fb := 12 }) &&
      is [0x02090E02, 0x0000001C, 0x0F000D90] (.plop { xr (.v 9) (.k 2) .none .none with fb := 15 }) &&
      is [0x00030E02, 0x0000001D, 0x00000DA0] (.movs (xr (.v 3) (.imm 0) .none .none)) &&
      is [0x09140E02, 0x0000001D, 0x00000DA1] (.movs (xr (.g 20) (.imm 9) .none .none))) = true := by decide +kernel

/-- The entries of floating point, block formats and exchange among lanes. -/
theorem test_words_lanes :
    (is [0x03040E02, 0x00005040, 0x00001C00] (.faddX { xr (.v 4) (.v 3) (.v 5) .none with rnd := 1 }) &&
      is [0x01060E02, 0x00302043, 0x00002000] (.fmaX { xr (.v 6) (.v 1) (.v 2) (.v 3) with rnd := 2 }) &&
      is [0x02040E02, 0x0000004B, 0x01D09D80]
        (.fcvt { xr (.v 4) (.v 2) .none .none with rnd := 1, sat := true, fa := 13, fb := 1 }) &&
      is [0x01060E02, 0x00302054, 0x00C01000] (.hfma2X { xr (.v 6) (.v 1) (.v 2) (.v 3) with rnd := 1, fa := 12 }) &&
      is [0x0A040E02, 0x00006060, 0x01400C00] (.bcvt { xr (.v 4) (.v 10) (.v 6) .none with fa := 4, fb := 1 }) &&
      is [0x02060E02, 0x80008082, 0x00101C40] (.gred { xr (.v 6) (.v 2) (.g 8) .none with var := 8, rnd := 1, fa := 1 }) &&
      is [0x02060E02, 0x00008084, 0x00000C40] (.matchAny (xr (.v 6) (.v 2) (.g 8) .none)) &&
      is [0x02060E02, 0x30801080, 0x00000300] (.shflXor { xr (.v 6) (.v 2) (.imm 1) (.g 8) with var := 3 }) &&
      is [0x01140E02, 0x00008081, 0x00000C51] (.voteMask (xr (.g 20) (.k 1) (.g 8) .none)) &&
      is [0x01060E02, 0x10008081, 0x00000C50] (.voteCount { xr (.v 6) (.k 1) (.g 8) .none with var := 1 }) &&
      is [0x01040E02, 0x20208081, 0x00000852] (.voteQuorum { xr (.k 4) (.k 1) (.g 8) (.imm 2) with var := 2 }) &&
      is [0x03060E02, 0x01405085, 0x00040240] (.rebal { xr (.v 6) (.v 3) (.g 5) (.g 20) with cc := 2 }) &&
      is [0x02140E02, 0x10803086, 0x00300201] (.topk { xr (.g 20) (.v 2) (.v 3) (.g 8) with var := 1, fa := 3 })) =
      true := by decide +kernel

/-- The entries of class XM (15 R326, R333). -/
theorem test_words_memory :
    (is [0x06090E22, 1, 0x00004104] (.ldX { xm (.v 9) (.g 6) 2 with pol := 2 }) &&
      is [0x06040E22, 0x00007001, 0x00104954]
        (.ldX { xm (.v 4) (.g 6) 2 with idx := some 7, scale := 2, pol := 2, ord := 1, disp := .short 16 }) &&
      is [0x04020E22, 0x00007007, 0x00100054]
        (.lea { xm (.v 2) (.g 4) 0 with idx := some 7, scale := 2, disp := .short 16 }) &&
      is [0x05010E22, 2, 0x00005004] (.stX { xm (.v 1) (.g 5) 2 with ord := 2 }) &&
      is [0x01040E22, 2, 0x0000400C] (.stX (xm (.v 4) (.q 1) 2)) &&
      is [0x03080E22, 0x00100006, 0x00104000] (.stx { xm (.v 8) (.v 3) 2 with c := 1, disp := .short 16 }) &&
      is [0x04000E22, 8, 0x01000404] (.pref { xm (.v 0) (.g 4) 0 with res := 2, disp := .short 256 }) &&
      is [0x04000E22, 0x00100009, 4] (.cacheInv { xm (.v 0) (.g 4) 0 with c := 1 }) &&
      is [0x00000E22, 10, 0x800] (.fenceAcq { xm (.v 0) (.v 0) 0 with ord := 1 }) &&
      is [0x00000E22, 10, 0x1000] (.fenceRel { xm (.v 0) (.v 0) 0 with ord := 2 }) &&
      is [0x00000E22, 10, 0x1800] (.fenceAr { xm (.v 0) (.v 0) 0 with ord := 3 }) &&
      is [0x04050E22, 0x20, 0x00005804] (.atomAdd { xm (.v 5) (.g 4) 2 with ord := 3 })) = true := by decide +kernel

/-- The entries of class XT (15 R327, R334). -/
theorem test_words_tiles :
    (is [0x04000E42, 1, 0x00000D8E] (.tdef (xt .none (.g 4) .none 0)) &&
      is [0x04140E42, 0x00600002, 0x00001389] (.tcopy (xt (.g 20) (.g 4) (.g 6) 1)) &&
      is [0x00000E42, 3, 0x00001DB6] (.tfree (xt .none .none .none 1)) &&
      is [0x00140E42, 4, 0x00003DB1] (.tstat (xt (.g 20) .none .none 3)) &&
      is [0x04000E42, 5, 0x00020D8E] (.unfset { xt .none (.g 4) .none 0 with slot := 1 }) &&
      is [0x06140E42, 6, 0x00000D89] (.mloop (xt (.g 20) (.g 6) .none 0)) &&
      is [0x04000E42, 8, 0x02800D8E] (.dload { xt .none (.g 4) .none 0 with cnt := 5 }) &&
      is [0x02140E42, 9, 0x00000DA1] (.aalloc (xt (.g 20) (.imm 2) .none 0))) = true := by decide +kernel

/-- The entries of class XE (15 R328, R335). -/
theorem test_words_engines :
    (is [0x04140E82, 0x00605001, 0x00021249] (.copy { xe (.g 20) (.g 4) (.g 5) (.g 6) 0 with dirm := 1, abe := true }) &&
      is [0x0A140E82, 0x00804002, 0x01821209]
        (.gather { xe (.g 20) (.g 10) (.v 4) (.g 8) 6 with dirm := 1, abe := true }) &&
      is [0x0A140E82, 0x00004003, 0x01806C09] (.scatter { xe (.g 20) (.g 10) (.v 4) .none 6 with dirm := 2, mode := 1 }) &&
      is [0x04140E82, 0x00605004, 0x001E1249]
        (.mcast { xe (.g 20) (.g 4) (.g 5) (.g 6) 0 with dirm := 1, abe := true, mask := 7 }) &&
      is [0x00000E82, 5, 0x00000DB6] (.cseal (xe .none .none .none .none 0)) &&
      is [0x04080E82, 6, 0x00C00D88] (.enq (xe (.v 8) (.g 4) .none .none 3)) &&
      is [0x04080E82, 0x00314006, 0x00010448] (.enqTry { xe (.v 8) (.g 4) (.g 20) (.k 3) 0 with tryb := true }) &&
      is [0x040C0E82, 0x00314007, 0x00C10448] (.deqTry { xe (.v 12) (.g 4) (.g 20) (.k 3) 3 with tryb := true }) &&
      is [0x04140E82, 0x00305008, 0x00C00849] (.qinit (xe (.g 20) (.g 4) (.g 5) (.imm 3) 3)) &&
      is [0x04180E82, 9, 0x00000D89] (.qstat (xe (.g 24) (.g 4) .none .none 0)) &&
      is [0x08000E82, 0x0000300A, 0x01C00D06] (.chsend (xe .none (.v 8) (.imm 3) .none 7)) &&
      is [0x04140E82, 0x0000500C, 0x00000C49] (.spawn (xe (.g 20) (.g 4) (.g 5) .none 0)) &&
      is [0x09000E82, 0x0000200D, 0x00000D0E] (.abinit (xe .none (.g 9) (.imm 2) .none 0)) &&
      is [0x04000E82, 0x0060300E, 0x0040020E] (.sdef (xe .none (.g 4) (.v 3) (.g 6) 1)) &&
      is [0x00000E82, 15, 0x00400DB6] (.sstop (xe .none .none .none .none 1)) &&
      is [0x00140E82, 16, 0x00400DB1] (.tlread (xe (.g 20) .none .none .none 1))) = true := by decide +kernel

/-- The entries of classes XC and XS (15 R329, R330, R334, R335). -/
theorem test_words_system :
    (is [0x0000AE62, 1, 0xFFFFFFFA] (.braX ⟨⟨2, true⟩, h0, .rel (-6)⟩) && is [0x0E62, 5, 0] (.retX (xc (.rel 0))) &&
      is [0x0E62, 6, 0] (.exitX (xc (.rel 0))) && is [0x0E62, 7, 0] (.yieldX (xc (.rel 0))) &&
      is [0x0E62, 8, 0] (.nopX (xc (.rel 0))) && is [0x0EA2, 1, 0xDB6] (.bar (xs .none .none .none 0)) &&
      is [0x0EA2, 2, 0xDB6] (.gbar (xs .none .none .none 0)) && is [0x0B0EA2, 2, 0x1DB0] (.gbarEnter (xs (.v 11) .none .none 1)) &&
      is [0x0B000EA2, 2, 0x2D86] (.gbarLeave (xs .none (.v 11) .none 2)) &&
      is [0x08000EA2, 3, 0xD8E] (.abwait (xs .none (.g 8) .none 0)) && is [0x08000EA2, 3, 0x5D8E] (.abwait (xs .none (.g 8) .none 5)) &&
      is [0x01000EA2, 4, 0x02100DA6] (.wait (xs .none (.imm 1) .none 0x2100)) &&
      is [0x14000EA2, 5, 0x1D8E] (.tlwait (xs .none (.g 20) .none 1)) && is [0x0EA2, 6, 0x2DB6] (.cwait (xs .none .none .none 2)) &&
      is [0x140EA2, 7, 0x1DB1] (.getc (xs (.g 20) .none .none 1)) && is [0x09000EA2, 8, 0xD8E] (.setcFpctl (xs .none (.g 9) .none 0)) &&
      is [0x140EA2, 9, 0x40DB1] (.setw (xs (.g 20) .none .none 64)) && is [0x140EA2, 9, 0xC0DB1] (.setw (xs (.g 20) .none .none 192)) &&
      is [0x05000EA2, 0x800A, 0x9C06] (.reord (xs .none (.v 5) (.v 8) 9)) && is [0x0EA2, 11, 0x5DB6] (.svc (xs .none .none .none 5)) &&
      is [0x0EA2, 11, 0x82DB6] (.resume (xs .none .none .none 0x82)) && is [0x0EA2, 12, 0x7DB6] (.trap (xs .none .none .none 7)) &&
      is [0x06140EA2, 13, 0x200D89] (.locki (xs (.g 20) (.g 6) .none 512)) &&
      is [0x06000EA2, 14, 0x10D8E] (.unlocki (xs .none (.g 6) .none 16))) = true := by decide +kernel

/-- What 15 R317 to R336 call ILLEGAL: majors and minors without a name, a major in the other form, reserved codes of a
policy, a residence, a condition and a kind, and fields that are not used. -/
theorem test_words_refused :
    (isNot [0] && isNot [0x100] && isNot [0x560] && isNot [0x0E02] && isNot [0x22, 0, 0] && isNot [0x0E00] &&
      isNot [0x0EC2, 0, 0] && isNot [0x0E02, 0x01E, 0xDB6] && isNot [0x0E22, 0x00B, 0] && isNot [0x0E62, 9, 0] &&
      isNot [0x0E82, 0x011, 0xDB6] && isNot [0x0EA2, 0x00F, 0xDB6] && isNot [0x06090E22, 1, 0x4704] &&
      isNot [0x009E83E1, 1, 0] && isNot [0x4020] && isNot [0x0E62, 8, 1] && isNot [0x8E62, 8, 0] &&
      isNot [0x0EA2, 1, 0xDB7] && isNot [0x0EA2, 1, 0x1DB6] && isNot [0x0E22, 0x00A, 0] && isNot [0x0020820D, 0, 1]) = true := by
  decide +kernel

/-! An ill-formed term for each check of WellFormed, which the check refuses. -/

/-- Literals, guards, kinds, ranges and the fields of class XR. -/
theorem test_wf_refuses_arithmetic :
    ([.add ⟨.always, h0, 1, 2, .lit 0x100000000⟩, .li ⟨.always, h0, 1, .lit 0x80000000_00000000⟩,
      .cmp ⟨.always, h0, 1, 6, 2, .reg 3⟩, .addX { xr (.v 1) (.v 2) (.v 3) .none with gd := ⟨0, true⟩ },
      .addX (xr (.k 1) (.v 2) (.v 3) .none), .addX (xr (.v 1) (.k 2) (.v 3) .none), .addX (xr (.v 1) (.v 2) .none .none),
      .addX (xr (.v 1) (.v 2) (.v 3) (.v 4)), .addX (xr (.g 64) (.g 2) (.g 3) .none), .addX (xr (.g 1) (.v 2) (.g 3) .none),
      .addX (xr (.v 1) (.lit 1) (.lit 1) .none), .addX (xr (.v 1) (.v 2) (.lit 0x100000000) .none),
      .addX { xr (.v 1) (.v 2) (.v 3) .none with var := 1 }, .addX { xr (.v 1) (.v 2) (.v 3) .none with rnd := 1 },
      .addX { xr (.v 1) (.v 2) (.v 3) .none with u := true }, .andX { xr (.v 1) (.v 2) (.v 3) .none with sat := true },
      .addX { xr (.v 1) (.v 2) (.v 3) .none with cc := 1 }, .addX { xr (.v 1) (.v 2) (.v 3) .none with fa := 1 },
      .addX { xr (.v 1) (.v 2) (.v 3) .none with fb := 1 }, .addX { xr (.v 1) (.v 2) (.v 3) .none with bsel := 1 },
      .cmpX (xr (.k 8) (.v 2) (.v 3) .none), .cmpX { xr (.k 1) (.v 2) (.v 3) .none with cc := 6 },
      .sel (xr (.v 1) (.v 2) (.v 3) (.v 4)), .movX (xr (.g 1) (.q 2) .none .none), .movX (xr (.v 1) (.q 4) .none .none),
      .movs (xr (.v 1) (.imm 9) .none .none), .movs (xr (.g 1) (.imm 14) .none .none),
      .faddX { xr (.v 1) (.v 2) (.v 3) .none with rnd := 6 }, .hadd2X (xr (.v 1) (.v 2) (.v 3) .none),
      .fclass { xr (.v 1) (.v 2) .none .none with fa := 2 },
      .fcvt { xr (.v 1) (.v 2) .none .none with fa := 1, fb := 1 }, .fcvt { xr (.v 1) (.v 2) .none .none with fa := 2, fb := 0 },
      .fcvt { xr (.v 1) (.v 2) .none .none with sat := true, fa := 11, fb := 1 },
      .fcvt { xr (.v 1) (.v 2) .none .none with var := 1, fa := 11, fb := 1 },
      .fcvt { xr (.v 1) (.v 2) .none .none with var := 1, fa := 1, fb := 11 },
      .bcvt { xr (.v 1) (.v 2) (.v 3) .none with fa := 1, fb := 1 },
      .bcvt { xr (.v 1) (.v 2) (.v 3) .none with fa := 2, fb := 1, bsel := 1 },
      .bdot { xr (.v 1) (.v 2) (.v 3) (.imm 1) with fa := 1, fb := 2 }, .voteMask (xr (.v 1) (.k 1) (.g 8) .none),
      .voteQuorum { xr (.k 1) (.k 1) (.g 8) .none with var := 2 }, .matchAny (xr (.v 1) (.v 2) (.g 8) .none),
      .matchAll { xr (.v 1) (.v 2) (.g 8) .none with var := 1 }, .gred { xr (.v 6) (.v 2) (.g 8) .none with var := 6 },
      .gred { xr (.v 6) (.v 2) (.g 8) .none with var := 1, fa := 1 }, .gred { xr (.v 6) (.v 2) (.g 8) .none with u := true },
      .gscan { xr (.v 6) (.v 2) (.g 8) .none with rnd := 1 }, .rebal (xr (.v 7) (.v 3) (.g 5) (.g 20)),
      .rebal (xr (.v 6) (.v 3) (.g 5) (.g 63)), .topk (xr (.g 20) (.v 2) (.v 3) (.v 8))] : List Instr).all (fun i => !i.wf) =
      true := by decide +kernel

/-- The fields of class XM. -/
theorem test_wf_refuses_memory :
    ([.ldX { xm (.v 1) (.g 2) 2 with gd := ⟨0, true⟩ }, .ldX { xm (.v 1) (.g 2) 2 with res := 3 },
      .ldX { xm (.v 1) (.g 2) 2 with pol := 1, res := 2 }, .ldX (xm (.v 1) (.v 3) 2), .ldX (xm (.v 1) (.g 64) 2),
      .ldX (xm (.v 1) (.q 1) 2), .ldX (xm (.v 1) (.g 2) 3), .ldX (xm (.v 2) (.g 2) 4), .ldX (xm (.g 2) (.g 2) 4),
      .ldX (xm (.v 1) (.g 2) 5), .ldX (xm (.g 1) (.v 2) 2), .ldX { xm (.v 1) (.g 2) 2 with sx := true },
      .ldX { xm (.v 1) (.g 2) 2 with mkb := true }, .ldX { xm (.v 1) (.g 2) 2 with c := 1 },
      .ldX { xm (.v 1) (.g 2) 2 with ord := 2 }, .ldX { xm (.v 1) (.g 2) 2 with pol := 1, ord := 1 },
      .stX { xm (.v 1) (.g 2) 2 with ord := 1 }, .stX { xm (.v 1) (.g 2) 0 with sx := true }, .stX (xm (.v 1) (.q 4) 2),
      .stX (xm (.v 1) (.q 1) 1), .stX { xm (.v 1) (.q 1) 2 with disp := .short 4 }, .ldsX { xm (.v 1) (.v 2) 2 with pol := 1 },
      .ldsX (xm (.v 1) (.q 1) 2), .stsX { xm (.v 1) (.v 2) 2 with ord := 2 }, .ldx { xm (.v 1) (.v 2) 2 with c := 4 },
      .ldx (xm (.g 1) (.g 2) 2), .stx { xm (.v 1) (.v 2) 2 with c := 4 }, .lea (xm (.v 1) (.g 2) 0), .lea (xm (.v 2) (.g 2) 2),
      .pref (xm (.v 1) (.g 2) 0), .pref { xm (.v 0) (.g 2) 0 with pol := 3 }, .cacheWb (xm (.v 0) .none 0),
      .cacheInv (xm (.v 0) (.g 2) 0), .cacheClel { xm (.v 0) (.g 2) 0 with c := 1 }, .fenceAcq (xm (.v 0) (.v 0) 0),
      .fenceRel { xm (.v 0) (.g 1) 0 with ord := 2 }, .fenceAr { xm (.v 0) (.v 0) 2 with ord := 3 },
      .atomAdd { xm (.v 1) (.g 2) 2 with pol := 1 }, .atomAdd (xm (.v 1) (.g 2) 1), .atomAdd { xm (.v 1) (.g 2) 2 with c := 1 },
      .atomCas { xm (.v 2) (.g 2) 3 with c := 1 }, .atomCas { xm (.g 2) (.g 2) 2 with c := 64 }, .atomFadd (xm (.v 2) (.g 2) 3),
      .atomsAdd { xm (.v 1) (.v 2) 2 with res := 1 }, .atomsFadd (xm (.v 2) (.v 2) 3)] : List Instr).all (fun i => !i.wf) =
      true := by decide +kernel

/-- The fields of classes XT, XE, XC and XS. -/
theorem test_wf_refuses_engines_and_system :
    ([.tdef { xt .none (.g 4) .none 0 with slot := 1 }, .tdef (xt .none (.v 4) .none 0), .tdef { xt .none (.g 4) .none 0 with pol := 1 },
      .tcopy { xt (.g 20) (.g 4) (.g 6) 1 with srcs := true, pol := 2 }, .tcopy { xt (.g 20) (.g 4) (.g 6) 1 with res := 3 },
      .tfree (xt .none (.g 4) .none 1), .tstat (xt .none .none .none 3), .unfset { xt .none (.g 4) .none 0 with slot := 4 },
      .mloop (xt (.g 20) (.g 6) .none 1), .mma { xt (.g 20) (.g 6) .none 0 with cnt := 1 },
      .dload { xt .none (.g 4) .none 0 with cnt := 33 }, .aalloc (xt .none (.imm 2) .none 0), .afree (xt .none (.imm 2) .none 0),
      .copy { xe (.g 20) (.g 4) (.g 5) (.g 6) 0 with dirm := 0, abe := true }, .copy (xe (.g 20) (.g 4) (.g 5) (.g 6) 1),
      .gather (xe (.g 20) (.g 63) (.v 4) .none 6), .gather (xe (.g 20) (.g 10) (.v 5) .none 6),
      .gather (xe (.g 20) (.g 10) (.v 4) .none 63), .gather (xe (.g 20) (.g 10) (.v 4) (.g 8) 6),
      .scatter { xe (.g 20) (.g 10) (.v 4) .none 6 with mode := 3 }, .mcast { xe (.g 20) (.g 4) (.g 5) (.g 6) 0 with dirm := 1 },
      .mcast { xe (.g 20) (.g 4) (.g 5) (.g 6) 0 with dirm := 2, mask := 1 },
      .mcast { xe (.g 20) (.g 4) (.g 5) (.g 6) 0 with dirm := 3, mask := 1, pol := 1 }, .cseal (xe .none .none .none .none 1),
      .enq { xe (.v 8) (.g 4) .none .none 3 with tryb := true }, .enqTry (xe (.v 8) (.g 4) (.g 20) (.k 3) 3),
      .deq (xe (.v 8) (.v 4) .none .none 3), .deqTry (xe (.v 8) (.g 4) (.g 20) (.k 3) 3),
      .qinit (xe (.g 20) (.g 4) (.g 5) .none 3), .qstat (xe (.g 57) (.g 4) .none .none 0),
      .chsend (xe .none (.v 8) (.imm 64) .none 7), .chrecv (xe (.v 8) .none (.imm 3) .none 2),
      .spawn (xe (.g 20) (.g 4) (.g 5) .none 1), .abinit (xe .none (.imm 9) (.imm 2) .none 0),
      .sdef (xe .none (.g 4) (.v 3) (.g 6) 4), .sstop (xe .none .none .none .none 4), .tlread (xe (.g 20) .none .none .none 2),
      .nopX (xc (.rel 1)), .retX (xc (.reg 1)), .braX (xc (.reg 1)), .bruX (xc (.reg 64)), .callX ⟨⟨0, true⟩, h0, .rel 0⟩,
      .callr (xc (.reg 3)), .callr (xc (.rel 0)), .bar (xs .none .none .none 1), .gbar (xs .none .none .none 1),
      .gbarEnter (xs (.v 1) .none .none 2), .gbarLeave (xs .none (.v 1) .none 1), .abwait (xs .none (.g 1) .none 128),
      .wait (xs .none (.imm 64) .none 0), .wait (xs .none (.imm 1) .none 0x40000), .tlwait (xs .none (.g 1) .none 2),
      .cwait (xs .none .none .none 16), .getc (xs (.g 1) .none .none 12), .setcFpctl (xs .none (.g 1) .none 1),
      .setcFpflags (xs .none (.v 1) .none 1), .setcBfflags (xs .none (.g 1) .none 3), .setcIssuepol (xs .none (.g 1) .none 64),
      .setcTrapvec (xs .none (.g 1) .none 5), .setcFaultq (xs .none (.g 1) .none 4), .setcLkstat (xs .none (.g 1) .none 7),
      .setcStatclr (xs .none (.g 1) .none 6), .cpstatClearErr (xs .none (.lit 0x10000) .none 8),
      .cpstatClearDrop (xs .none (.imm 1) .none 8), .setcMxstat (xs .none (.imm 4) .none 9),
      .mxstatResume (xs .none (.imm 8) .none 9), .mxstatResumeIgnoring (xs .none (.imm 4) .none 9),
      .mxstatAbandon (xs .none (.g 1) .none 9), .setcTrapinfo (xs .none (.g 1) .none 11), .setcTrapva (xs .none (.g 1) .none 10),
      .setw (xs (.v 1) .none .none 64), .setw (xs (.g 1) .none .none 256), .reord (xs .none (.v 1) (.v 2) 32),
      .svc (xs .none .none .none 128), .resolve (xs .none .none .none 0x81), .xlinv (xs .none .none .none 0x80),
      .resume (xs .none .none .none 0x83), .trap (xs .none .none .none 65536), .locki (xs (.g 1) (.g 2) .none 0),
      .unlocki (xs .none (.g 2) .none 513)] : List Instr).all (fun i => !i.wf) = true := by decide +kernel

/-! One step on a small machine, against results that the spec states. -/

/-- 17 R354, 23 R467, 21 R424, 23 R460, 22 R437, R449, 18 R387, 22 R445. -/
theorem test_integer_results :
    (vs 1 2 (ran [0x0020820D, 1, 0] (one [(2, 41)])) == [42] &&
      vs 1 2 (ran [0x10308220] (one [(3, 3), (4, 5)])) == [0xFFFFFFFE] &&
      vs 1 2 (after (.subX { xr (.v 2) (.v 3) (.v 4) .none with sat := true, u := true }) (one [(3, 3), (4, 5)])) == [0] &&
      vs 1 4 (ran [0x01040E02, 0x00002004, 0x00010C00] (one [(1, 0xFFFFFFFF), (2, 0xFFFFFFFF)])) == [0xFFFFFFFE] &&
      vs 1 4 (after (.mulh (br 4 1 2)) (one [(1, 0xFFFFFFFF), (2, 0xFFFFFFFF)])) == [0] &&
      vs 1 4 (after (.mulX { xr (.v 4) (.v 1) (.v 2) .none with sat := true }) (one [(1, 0x10000), (2, 0x10000)])) == [0x7FFFFFFF] &&
      vs 1 4 (after (.mulX (xr (.v 4) (.v 1) (.v 2) .none)) (one [(1, 0x10000), (2, 0x10000)])) == [0] &&
      vs 1 6 (ran [0x08118520] (one [(1, 3), (2, 5), (6, 7)])) == [22] &&
      vs 1 2 (ran [0x00308900] (one [(3, 0xF0F00001)])) == [9] &&
      vs 1 4 (ran [0x20110380] (one [(1, 0x12345678)])) == [0x34567812] &&
      vs 1 4 (after (.rolX (xr (.v 4) (.v 1) (.lit 0x108) .none)) (one [(1, 0x12345678)])) == [0x34567812] &&
      vs 1 4 (after (.rol (bi 4 1 40)) (one [(1, 0x12345678)])) == [0x34567812] &&
      vs 1 4 (ran [0x01040E02, 0x10002011, 0xC00] (one [(1, 0x80000010), (2, 4)])) == [0xF8000001] &&
      vs 1 4 (after (.shrX (xr (.v 4) (.v 1) (.v 2) .none)) (one [(1, 0x80000010), (2, 4)])) == [0x08000001] &&
      vs 1 4 (ran [0x01040E02, 0x10002011, 0xC00] (one [(1, 0x80000010), (2, 40)])) == [0xFFFFFFFF] &&
      vs 1 4 (after (.shrX (xr (.v 4) (.v 1) (.v 2) .none)) (one [(1, 0x80000010), (2, 40)])) == [0] &&
      vs 1 4 (ran [0x01040E02, 0x10002011, 0xC00] (one [(1, 0x80000010), (2, 0x104)])) == [0xF8000001]) = true := by
  decide +kernel

/-- The corners of DIV and REM (18 R387; 22 R445) and the fields of BFX (17 R369). -/
theorem test_division_and_fields :
    (vs 1 4 (after (.div (xr (.v 4) (.v 1) (.v 2) .none)) (one [(1, 0xFFFFFFF9), (2, 2)])) == [0xFFFFFFFD] &&
      vs 1 4 (after (.div (xr (.v 4) (.v 1) (.v 2) .none)) (one [(1, 0x80000000), (2, 0xFFFFFFFF)])) == [0x80000000] &&
      vs 1 4 (after (.div (xr (.v 4) (.v 1) (.v 2) .none)) (one [(1, 5), (2, 0)])) == [0xFFFFFFFF] &&
      vs 1 4 (after (.div { xr (.v 4) (.v 1) (.v 2) .none with u := true }) (one [(1, 0xFFFFFFF9), (2, 2)])) == [0x7FFFFFFC] &&
      vs 1 4 (after (.rem (xr (.v 4) (.v 1) (.v 2) .none)) (one [(1, 0xFFFFFFF9), (2, 2)])) == [0xFFFFFFFF] &&
      vs 1 4 (after (.rem (xr (.v 4) (.v 1) (.v 2) .none)) (one [(1, 0x80000000), (2, 0xFFFFFFFF)])) == [0] &&
      vs 1 4 (ran [0x01040E02, 0x2007, 0x10C00] (one [(1, 0xFFFFFFF9), (2, 2)])) == [1] &&
      vs 1 3 (after (.bfx (xr (.v 3) (.v 1) .none (.lit 0x0804))) (one [(1, 0x0F30)])) == [0xFFFFFFF3] &&
      vs 1 3 (after (.bfx { xr (.v 3) (.v 1) .none (.lit 0x0804) with u := true }) (one [(1, 0x0F30)])) == [0xF3]) = true := by
  decide +kernel

/-- Predicates (18 R381; 22 R435): the examples of CMP and PLOP; a value moves from k into v. -/
theorem test_predicates :
    (ks 1 3 (ran [0x05030E02, 0x901B, 0xB0C42] (squad [(0, [(5, 0xFFFFFFFF)])] [(9, 1)] [])) == [true] &&
      ks 1 3 (after (.cmpX { xr (.k 3) (.v 5) (.g 9) .none with cc := 5 }) (squad [(0, [(5, 0xFFFFFFFF)])] [(9, 1)] [])) == [false] &&
      ks 1 3 (ran [0x01030E02, 0x201C, 0x0C000C92] (squad [(6, [])] [] [])) == [true] &&
      ks 1 3 (ran [0x01030E02, 0x201C, 0x0C000C92] (squad [(2, [])] [] [])) == [false] &&
      ks 1 4 (after (.plop { xr (.k 4) (.k 1) (.k 2) (.k 3) with fa := 8, fb := 14 }) (squad [(10, [])] [] [])) == [true] &&
      vs 1 9 (ran [0x02090E02, 0x1C, 0x0F000D90] (squad [(4, [])] [] [])) == [1] &&
      vs 2 6 (ran [0x01060E02, 0x20301A, 0x400] (squad [(4, [(1, 7), (3, 8)]), (0, [(1, 7), (3, 8)])] [] [])) == [7, 8]) =
      true := by decide +kernel

/-- Floating point (19 R395, R398, R401; 20 R414; 05 R103): the examples of the entries, with the flags they set. -/
theorem test_float_results :
    (vs 1 6 (ran [0x01060E02, 0x302054, 0xC01000] (one [(1, 0x40003F80), (2, 0x3F004040), (3, 0x3F80BF80)])) == [0x40004000] &&
      vs 1 4 (ran [0x02040E02, 0x4B, 0x01D09D80] (one [(2, 0x43FA0000)])) == [0x7E] &&
      vs 1 4 (ran [0x02040E02, 0x4B, 0x01D01D80] (one [(2, 0x43FA0000)])) == [0x7F] &&
      holds (fun t => (t.fibre (fid 0)).fpflags == 0b10100) (ran [0x02040E02, 0x4B, 0x01D09D80] (one [(2, 0x43FA0000)])) &&
      vs 1 4 (ran [0x14310400] (one [(3, 0x3F800000), (5, 0x40000000)])) == [0x40400000] &&
      vs 1 6 (ran [0x08118500] (one [(1, 0x40000000), (2, 0x40400000), (6, 0x3F800000)])) == [0x40E00000] &&
      vs 1 4 (after (.fdiv (xr (.v 4) (.v 1) (.v 2) .none)) (one [(1, 0x3F800000), (2, 0)])) == [0x7F800000] &&
      vs 1 4 (after (.fsqrt (bu 4 1)) (one [(1, 0x40800000)])) == [0x40000000]) = true := by decide +kernel

/-- Exchange among lanes: the examples of SHFL, VOTE, MATCH and GRED (23 R459; 24 R478; 21 R425; 20 R410). -/
theorem test_lane_results :
    (vs 4 6 (ran [0x02060E02, 0x30801080, 0x300] (squad [(0, [(2, 10)]), (0, [(2, 11)]), (0, [(2, 12)]), (0, [(2, 13)])] [(8, 15)] [])) ==
        [11, 10, 13, 12] &&
      gs 20 (ran [0x01140E02, 0x8081, 0xC51] (squad [(0, []), (2, []), (0, []), (2, [])] [(8, 15)] [])) == some 10 &&
      vs 4 6 (ran [0x01060E02, 0x10008081, 0xC50] (squad [(0, []), (2, []), (0, []), (2, [])] [(8, 15)] [])) == [2, 2, 2, 2] &&
      ks 4 4 (ran [0x01040E02, 0x20208081, 0x852] (squad [(0, []), (2, []), (0, []), (2, [])] [(8, 15)] [])) ==
        [true, true, true, true] &&
      ks 4 4 (after (.voteSplit { xr (.k 4) (.k 1) (.g 8) .none with var := 3 }) (squad [(0, []), (2, []), (0, []), (2, [])] [(8, 15)] [])) ==
        [true, true, true, true] &&
      vs 4 6 (ran [0x02060E02, 0x8084, 0xC40] (squad [(0, [(2, 5)]), (0, [(2, 7)]), (0, [(2, 5)]), (0, [(2, 5)])] [(8, 15)] [])) ==
        [13, 2, 13, 13] &&
      vs 4 6 (ran [0x02060E02, 0x80008082, 0x101C40]
        (squad [(0, [(2, 0x33800000)]), (0, [(2, 0x3F800000)]), (0, [(2, 0x33800000)]), (0, [(2, 0x33800000)])] [(8, 15)] [])) ==
        [0x3F800000, 0x3F800000, 0x3F800000, 0x3F800000] &&
      vs 4 6 (after (.gred { xr (.v 6) (.v 2) (.g 8) .none with rnd := 1, fa := 1 })
        (squad [(0, [(2, 0x33800000)]), (0, [(2, 0x3F800000)]), (0, [(2, 0x33800000)]), (0, [(2, 0x33800000)])] [(8, 15)] [])) ==
        [0x3F800001, 0x3F800001, 0x3F800001, 0x3F800001]) = true := by decide +kernel

/-- REBAL on the lengths of the example after 11 R250, from base 0 (22 R444). -/
theorem test_rebal :
    let s := squad [(0, [(3, 3)]), (0, [(3, 0)]), (0, [(3, 2)]), (0, [(3, 1)])] [(5, 0)] []
    let t := ran [0x03060E02, 0x01405085, 0x40240] s
    (vs 4 6 t == [0, 0, 0, 2] && vs 4 7 t == [0, 1, 2, 0] && ks 4 2 t == [true, true, true, true] && gs 20 t == some 6 && gs 21 t == some 4) = true := by
  decide +kernel

/-- Bytes of words. -/
def words32 (ws : List Nat) : List Byte := (ws.map fun w => leBytes 4 w).flatten

/-- Bytes of doublewords. -/
def words64 (ws : List Nat) : List Byte := (ws.map fun w => leBytes 8 w).flatten

/-- A state whose team's scratchpad holds bytes at an offset. -/
def withSpad (ofs : Nat) (bs : List Byte) (s : State) : State := s.spadWrite (teamKey 0 0) ofs bs

/-- The scratchpad's bytes after an instruction. -/
def spad (ofs n : Nat) (t : Option State) : List Byte :=
  match t with
  | some t => t.spadBytes (teamKey 0 0) ofs n
  | none => []

/-- The bytes at the homes after an instruction. -/
def home (pa n : Nat) (t : Option State) : List Byte :=
  match t with
  | some t => t.homeBytes pa n
  | none => []

/-- The candidates of 11 R252's example, one for each fibre. -/
def candidates : State :=
  squad [(0, [(2, 0x40200000), (3, 17)]), (0, [(2, 0x3F800000), (3, 40)]), (0, [(2, 0x7FC00000), (3, 5)]), (0, [(2, 0x3F800000), (3, 9)])]
    [(8, 0x100)] []

/-- BCVT and BDOT on the eight values of 05 R118 (17 R364, R366), and TOPK on the candidates of 11 R252 (24 R475). -/
theorem test_blocks_and_lists :
    let s := one [(6, 0xAABBCC00), (10, 0x3FC00000), (11, 0xBF400000), (12, 0x3E800000), (13, 0x40400000), (14, 0), (15, 0xC0000000),
      (16, 0x3E000000), (17, 0x3F800000)]
    let block := withSpad 0x200 [0x81, 0xE3, 0x60, 0xC0, 0x20] (one [(1, 0x200)])
    (vs 1 4 (ran [0x0A040E02, 0x6060, 0x01400C00] s) == [0x20C060E3] && vs 1 6 (ran [0x0A040E02, 0x6060, 0x01400C00] s) == [0xAABBCC81] &&
      vs 1 7 (after (.bdot { xr (.v 7) (.v 1) (.v 1) (.imm 1) with fa := 4, fb := 4 }) block) == [0x418A0000] &&
      vs 1 7 (after (.bdot { xr (.v 7) (.v 1) (.v 1) (.imm 1) with var := 1, fa := 4, fb := 4 }) block) == [0] &&
      gs 20 (ran [0x02140E02, 0x10803086, 0x00300201] candidates) == some 3 &&
      spad 0x100 32 (ran [0x02140E02, 0x10803086, 0x00300201] candidates) ==
        words32 [0x3F800000, 9, 0x3F800000, 40, 0x40200000, 17, 0x7F800000, 0xFFFFFFFF]) = true := by decide +kernel

/-- AALLOC's example (17 R349): a team that holds bank 0 and asks for two gets banks 1 and 2. ABINIT's bytes (17 R351). -/
theorem test_banks_and_barriers :
    let s := (one []).modTeam (teamKey 0 0) fun t => { t with banks := { t.banks with held := [0] } }
    (gs 20 (ran [0x02140E42, 9, 0xDA1] s) == some 6 &&
      spad 0x40 16 (ran [0x09000E82, 0x200D, 0xD0E] (squad [(0, [])] [(9, 0x40)] [])) ==
        words64 [0x0000200000000000, 0x0414200000000000]) = true := by decide +kernel

/-- The softmax row of chapter 10: block 0 is drained, and block 1 is about to be. -/
def softmax : State :=
  let s := one []
  let acc := ((upto 16).zip [0, 0x3F800000, 0x40000000, 0x40400000, 0, 0x3F800000, 0x40000000, 0x40400000, 0x40A00000, 0x3F800000,
    0x3F800000, 0x3F800000, 0x3F800000, 0x3F800000, 0x3F800000, 0x3F800000])
  { (s.modTeam (teamKey 0 0) fun t => { t with ownBytes := 0x8000, spadBytes := 0x8000, banks := { held := [0], cells := acc } }).modCore 0
      (fun x => { x with drains := [(64, { ops := [0x0000084A, 0x02004861, 0x00000386, 0x0000040B, 0x6000040D], consts := List.replicate 16 0 })] }) with
    mats := [(2, { tid := teamKey 0 0, ctx := 1, core := 0, num := 1, issuers := [fid 0]
                   dw := [0x00030004C0800040, 0x0000000000400000, 0x0000001000000001, 1, 0x4000, 0x20, 0x5000, 0]
                   steps := 4, interval := 4, fpctl := 1, step := 4, first := 4, d := List.replicate 8 (List.replicate 8 0) })] }

/-- Chapter 10's softmax row: the row maximum and sum after the first block, and the bytes stored after the second. -/
theorem test_softmax_drain :
    (holds (fun t => (t.mats.map fun x => (x.2.rm, x.2.rs, x.2.blk)) == [(0x40400000, 0x40700000, 1)]) (after (.drainBlockCommit 2) softmax) &&
      (match after (.drainBlockCommit 2) softmax with
       | some t => spad 0x4000 32 (after (.drainBlockCommit 2) t) == ([0x3D00, 0x3D80, 0x3E00, 0x3E80, 0x3D00, 0x3D80, 0x3E00, 0x3E80,
             0x3F80, 0x3D80, 0x3D80, 0x3D80, 0x3D80, 0x3D80, 0x3D80, 0x3D80].map fun h => leBytes 2 h).flatten &&
           spad 0x5000 8 (after (.drainBlockCommit 2) t) == words32 [0x40A00000, 0x40180000]
       | none => false)) = true := by decide +kernel

/-- Two fetch lines at slot 0, both function entries whose words 1 and 2 are marked, the words NOP. -/
def withCode (s : State) : State :=
  let line := words32 (7 :: List.replicate 31 0x20)
  { s with mem := Memory.writes s.mem 65536 (line ++ line) }

/-- Calls (04 R97): the fifth call of the example stores e1 at 0x0050_0000_0FF8; here the area ends at 0x21000. RET pops. -/
theorem test_calls :
    let s := (withCode (one [])).modFibre (fid 0) fun f => { f with rstack := [4, 3, 2, 1] }
    (holds (fun t => (t.fibre (fid 0)).rstack == [8, 4, 3, 2] && (t.fibre (fid 0)).stack == 0x20FF8 && (t.fibre (fid 0)).pc == 132 &&
        t.l1Bytes 0 0x20FF8 8 == leBytes 8 1) (after (.call ⟨.always, h0, 32⟩) s) &&
      holds (fun t => (t.fibre (fid 0)).pc == 132 && (t.fibre (fid 0)).rstack == [7])
        (after (.ret bz) ((withCode (one [])).modFibre (fid 0) fun f => { f with rstack := [132, 7] }))) = true := by decide +kernel

/-- Memory (20 R415, R417; 23 R463, R465; 17 R358): a load of four bytes, the least significant first, a store that the
core sees and its home does not yet, the scratchpad, and four atomic adds in the order of FIDs. -/
theorem test_memory_results :
    let s := squad [(0, [(3, 0x11223344), (5, 8)])] [(4, 0x20000)] [(0x20000, words32 [1, 2, 0xA0B0C0D0])]
    let adds := squad [(0, [(5, 1)]), (0, [(5, 2)]), (0, [(5, 3)]), (0, [(5, 4)])] [(4, 0x20000)] [(0x20000, words32 [10])]
    (vs 1 3 (ran [0x1440C600] s) == [0xA0B0C0D0] && home 0x20008 4 (ran [0x1440C620] s) == words32 [0xA0B0C0D0] &&
      holds (fun t => t.l1Bytes 0 0x20008 4 == words32 [0x11223344]) (ran [0x1440C620] s) &&
      home 0x20008 4 (after (.stX { xm (.v 3) (.g 4) 2 with pol := 2, disp := .short 8 }) s) == words32 [0x11223344] &&
      spad 0x10 4 (ran [0x0820C660] (one [(2, 8), (3, 0x55667788)])) == words32 [0x55667788] &&
      vs 1 3 (after (.ldsX { xm (.v 3) (.v 2) 1 with sx := true }) (withSpad 8 [0x34, 0xF2] (one [(2, 8)]))) == [0xFFFFF234] &&
      vs 4 5 (after (.atomAdd { xm (.v 5) (.g 4) 2 with pol := 2 }) adds) == [10, 11, 13, 16] &&
      home 0x20000 4 (after (.atomAdd { xm (.v 5) (.g 4) 2 with pol := 2 }) adds) == words32 [20] &&
      vs 1 2 (after (.lea { xm (.v 2) (.g 4) 0 with idx := some 7, scale := 2, disp := .short 16 })
        (squad [(0, [(7, 3)])] [(4, 0x100000000)] [])) == [28] &&
      vs 1 3 (after (.lea { xm (.v 2) (.g 4) 0 with idx := some 7, scale := 2, disp := .short 16 })
        (squad [(0, [(7, 3)])] [(4, 0x100000000)] [])) == [1]) = true := by decide +kernel

/-- The walk of chapter 6's example: three entries, the dirty bit set in the last, and the address it gives. -/
theorem test_page_walk :
    let s := { ((one []).modCtx 1 fun c => { c with root := 0x8000 }) with
      mem := [(0x8070, words64 [0x10001]), (0x19048, words64 [0x20001]), (0x21A28, words64 [0x0000001234560047])].foldl
        (fun m x => Memory.writes m x.1 x.2) [] }
    holds (fun t => t.mem == s.mem && t.homeBytes 0x21A28 8 == words64 [0x00000012345600C7] &&
      (t.translate 0 1 0x3A4123456789 .write true).2 == .ok 0x1234566789) (after (.pageWalk 0 1 0x3A4123456789 .write) s) = true := by
  decide +kernel

/-- The record of chapter 3's example: team 5 is member 1 of gallery 1 and starts on core 37 with 128 fibres; fibre 90 is
a compute fibre with a window of 64 and STACK at 0x0050_0051_6C00. -/
theorem test_team_start :
    let s := { State.reset with
      contexts := [(1, {})], cores := [(37, { clock := 0, widthLimit := 64 })]
      launches := [(0, { ctx := 1, words := [0xFFFF0000080000C3, 4, 0x0800400018000020, 0, 0, 0, 0x0100005000000000, 0x0010000000000000]
                         place := [32, 33, 34, 35, 36, 37, 38, 39], params := List.replicate 16 0, phase := 1, unstarted := [5] })] }
    holds (fun t => (t.team (teamKey 0 5)).core == 37 && (t.team (teamKey 0 5)).gallery == 1 && (t.team (teamKey 0 5)).member == 1 &&
      (t.team (teamKey 0 5)).nfib == 128 && (t.team (teamKey 0 5)).ownBytes == 65536 && (t.fibre ⟨teamKey 0 5, 90⟩).stack == 0x5000516C00 &&
      (t.fibre ⟨teamKey 0 5, 90⟩).window == 64 && (t.fibre ⟨teamKey 0 5, 31⟩).window == 32 && (t.fibre ⟨teamKey 0 5, 90⟩).pc == 4)
      (after (.teamStart (teamKey 0 5)) s) = true := by decide +kernel

/-- A trap with HREF 0 is held for firmware with its immediate (24 R476; 12 R262); with HREF at a function entry the lane
enters the handler (12 R257); an access that is not aligned traps with cause 0x07 and its address (12 R254). -/
theorem test_traps :
    let s := withCode (one [])
    let t := s.modCtx 1 fun c => { c with trapvec := 132 }
    let odd := (withCode (squad [(0, [])] [(4, 0x20002)] [])).modCtx 1 fun c => { c with trapvec := 132 }
    let handler := fun (cause detail va : Nat) (t : State) => (t.fibre (fid 0)).pc == 132 && (t.fibre (fid 0)).rstack == [4] &&
      (t.fibre (fid 0)).handler == some ⟨1, cause, detail, false, BitVec.ofNat 64 va⟩
    (holds (fun t => ((t.ctx 1).waiting.map fun r => (r.cause, r.detail, r.id, r.held, r.recov, r.pc)) == [(0x16, 7, 1, true, false, 4)] &&
        (t.fibre (fid 0)).firm == [1] && (t.fibre (fid 0)).pc == 4) (ran [0x0EA2, 12, 0x7DB6] s) &&
      holds (handler 0x16 7 0) (ran [0x0EA2, 12, 0x7DB6] t) && holds (handler 0x15 5 0) (ran [0x0EA2, 11, 0x5DB6] t) &&
      holds (handler 0x07 0 0x20002) (after (.ldX (xm (.v 3) (.g 4) 2)) odd)) = true := by decide +kernel


/-! States and operands that meet the hypotheses of the obligations, all of them together. -/

/-- `State.Clear` as a value. -/
def clear (s : State) (i : Instr) (iss : Issue) (act : List (Nat × FibreId)) : Bool :=
  decide (s.issue = some iss) && decide (act = s.active iss (guardOf i)) && !act.isEmpty && !iss.atEnd &&
    !s.beyondWindow iss (usesOf i) && !s.badStream act (usesOf i) && !s.unifBad iss act (usesOf i) &&
    !s.badGuard iss (guardOf i) && decide (s.popState act (usesOf i) = none) && !s.badSource iss act (usesOf i)

theorem clear_of_true {s : State} {i : Instr} {iss : Issue} {act : List (Nat × FibreId)} (h : clear s i iss act = true) :
    s.Clear i iss act := by
  simp only [clear, Bool.and_eq_true, decide_eq_true_eq, Bool.not_eq_true'] at h
  obtain ⟨⟨⟨⟨⟨⟨⟨⟨⟨h1, h2⟩, h3⟩, h4⟩, h5⟩, h6⟩, h7⟩, h8⟩, h9⟩, h10⟩ := h
  exact ⟨h1, h2, by rintro rfl; simp at h3, h4, h5, h6, h7, h8, h9, h10⟩

theorem reached_of_clear {s : State} {i : Instr} {iss : Issue} {act : List (Nat × FibreId)} (h : s.Clear i iss act) :
    s.Reached i iss act := ⟨h.issue, h.guarded, h.inside, h.window, h.streams, h.uniform, h.guards, h.pops, h.sources⟩

/-- The lanes of `issueOf`. -/
def lanes (n : Nat) : List (Nat × FibreId) := (issueOf n).lanes

/-- The instruction is clear for all of the first `n` fibres. -/
def clearAll (s : State) (n : Nat) (l : List Instr) : Bool := l.all fun i => clear s i (issueOf n) (lanes n)

/-- Two fibres with k1 to k7 true, code and data. -/
def duo : State :=
  withCode (squad [(0xFE, [(1, 3), (2, 5), (3, 7)]), (0xFE, [(1, 4), (2, 6), (3, 8)])] [(1, 3), (2, 5), (8, 3)]
    [(0x20000, words32 (List.replicate 32 1))])

/-- Registers and predicates: what the integer, move, floating-point and exchange statements ask of state and operands. -/
theorem witness_clear_arithmetic :
    clearAll duo 2
      (([.add, .sub, .mul, .mulh, .mad, .and, .or, .xor, .andn, .min, .max, .fadd, .fsub, .fmul, .fmin, .fmax, .fma, .hadd2, .hmul2,
          .hfma2] : List (BR → Instr)).map (· (br 63 62 0)) ++
        ([.shl, .shr, .rol] : List (BI → Instr)).map (· (bi 63 62 63)) ++
        ([.abs, .neg, .clz, .popc, .brev, .mov, .fsqrt, .frcp, .frsq, .fexp2, .flog2] : List (BU → Instr)).map (· (bu 63 62)) ++
        [.li ⟨.always, h0, 63, .short (-1)⟩, .cmp ⟨.always, h0, 7, 5, 1, .reg 2⟩, .fcmp ⟨.always, h0, 7, 5, 1, .lit 0⟩] ++
        ([.addX, .subX, .mulX, .mulhX, .madX, .andX, .orX, .xorX, .andnX, .minX, .maxX, .shlX, .shrX, .rolX, .absX, .negX, .clzX, .popcX,
          .brevX, .liX, .div, .rem, .bfx, .bfi, .movX, .faddX, .fsubX, .fmulX, .fminX, .fmaxX, .fmaX, .fdiv, .fsqrtX, .frnd, .frcpX,
          .frsqX, .fexp2X, .flog2X, .fsin, .fcos, .hadd2X, .hmul2X, .hfma2X, .fclass, .fcvt] : List (XR → Instr)).map
          (· (xr (.v 63) (.v 1) (.v 2) (.v 3))) ++
        ([.addX, .subX, .mulX, .mulhX, .madX, .andX, .orX, .xorX, .andnX, .minX, .maxX, .shlX, .shrX, .rolX, .absX, .negX, .clzX, .popcX,
          .brevX, .liX, .div, .rem, .bfx, .bfi, .movX] : List (XR → Instr)).map (· (xr (.g 63) (.g 1) (.lit 2) (.g 3))) ++
        [.cmpX (xr (.k 7) (.v 1) (.v 2) .none), .fcmpX (xr (.k 7) (.v 1) (.v 2) .none), .sel (xr (.v 4) (.v 1) (.v 2) (.k 7)),
          .plop (xr (.k 1) (.k 2) (.k 3) (.k 4)), .movX (xr (.g 20) (.v 1) .none .none), .movX (xr (.v 63) (.g 1) .none .none)] ++
        (upto 14).map (fun n => .movs (xr (.g 63) (.imm (BitVec.ofNat 8 n)) .none .none)) ++
        [.movs (xr (.v 63) (.imm 0) .none .none), .movs (xr (.v 63) (.imm 12) .none .none),
          .movX (xr (.g 20) (.v 63) .none .none),
          .bcvt { xr (.v 4) (.v 10) (.v 6) .none with fa := 4, fb := 1 }, .bcvt { xr (.v 10) (.v 4) (.v 6) .none with fa := 1, fb := 4 },
          .bdot { xr (.v 7) (.v 1) (.v 2) (.imm 1) with fa := 4, fb := 4 },
          .bdot { xr (.v 7) (.v 1) (.v 2) (.lit 4096) with fa := 4, fb := 4 }]) = true := by decide +kernel

/-- FixedLatencyResult and VariableLatencyResult: results of two lanes into v, k and g registers. -/
theorem witness_results :
    let rs : List ((Nat × FibreId) × LaneRes) := (lanes 2).map fun x => (x, { dests := [(.v 63, 5), (.k 7, 1)], fl := 1 })
    let add : Instr := .add (br 1 2 3)
    let div : Instr := .div (xr (.v 4) (.v 1) (.v 2) .none)
    (unitOf add = .alu ∧ duo.enabled (issueOf 2) rs = 0 ∧ (rs.map fun x => x.1.2).Nodup ∧ ((lanes 2).map (·.2)).Nodup ∧
      (∀ x ∈ rs, x.1 ∈ (issueOf 2).lanes) ∧ (∀ x ∈ rs, (x.2.dests.map (·.1)).Nodup ∧ 63 < (duo.fibre x.1.2).window)) ∧
      ((duo.group 1).core = (issueOf 2).core ∧ (duo.group 1).g.length = 48 ∧ (duo.team (duo.leadTeam 1)).g.length = 16) ∧
      (unitOf div = .sfu ∧ ∀ x ∈ duo.pending, x.1 < duo.nextId) := by decide +kernel

/-- ResultWriteback: a pending result of a v and a k register, with and without an error, and one of a team's and a group's g
register. -/
theorem witness_result_writeback :
    let p : Sys2Proof.Machine.Pending := { fib := fid 1, gid := 1, core := 0, dests := [(.v 0, 7), (.k 1, 1)], count := [fid 0] }
    let g : Sys2Proof.Machine.Pending := { fib := fid 0, gid := 1, core := 0, tid := teamKey 0 0, dests := [(.g 15, 7), (.g 63, 8)], count := [fid 0, fid 1] }
    let s := { duo with pending := [(5, p), (6, g), (7, { p with bad := true })], nextId := 8 }
    (s.pending.find 5 = some p ∧ s.pending.find 6 = some g ∧ s.pending.find 7 = some { p with bad := true } ∧
      KV.sorted s.pending = true ∧ p.load = none ∧ g.load = none ∧ (p.dests.map (·.1)).Nodup ∧ (g.dests.map (·.1)).Nodup ∧
      p.count.Nodup ∧ g.count.Nodup ∧ 0 < (s.fibre p.fib).window) ∧
      ((s.teams.find g.tid).isSome = true ∧ (s.team g.tid).g.length = 16 ∧ (s.groups.find g.gid).isSome = true ∧
        (s.group g.gid).g.length = 48) := by decide +kernel

/-- BlockFormats: one block, and 4096 blocks, inside a scratchpad without errors. -/
theorem witness_dot_products :
    let big := duo.modTeam (teamKey 0 0) fun t => { t with ownBytes := 524288 }
    (∀ x ∈ lanes 2, ∀ a ∈ [1, 2], ((duo.fibre x.2).vAt 100 a).toNat + 1 * (1 + Block.mantBits 4) ≤ (duo.team x.2.team).ownBytes) ∧
      (∀ x ∈ lanes 2, ∀ a ∈ [1, 2], ((big.fibre x.2).vAt 100 a).toNat + 4096 * (1 + Block.mantBits 4) ≤ (big.team x.2.team).ownBytes) ∧
      duo.badSpad = [] ∧ duo.accessOpen ((lanes 2).map (·.2)) false = true ∧
      ∀ x ∈ lanes 2, homeOpen duo [x.2.team] [x.2] = true := by decide +kernel

/-- A power of two that is not one in a significand of two bits. -/
theorem three_not_power (j : Nat) : 3 ≠ 2 ^ j := by
  rcases j with _ | _ | j
  · decide
  · decide
  · intro h; rw [pow_succ, pow_succ] at h; omega

/-- FloatingPointArithmetic, the approximations: operands for each special and exact case (two NaNs, 2^3, 2^4 and -2^-20, and
the integers 3 and -130 for FEXP2), and 3, whose reciprocal, root, logarithm and sine are not exact; a result of each sign and
an enclosure around zero. -/
theorem witness_approximations :
    (Float.unpack Float.f32 0x7FC00000 = .nan false ∧ Float.unpack Float.f32 0x7F800001 = .nan true ∧
      Float.unpack Float.f32 0x41000000 = .fin false (2 ^ 23) (-20) ∧ Float.unpack Float.f32 0x41800000 = .fin false (2 ^ 23) (-19) ∧
      Float.unpack Float.f32 0xB5800000 = .fin true (2 ^ 23) (-43) ∧ Float.unpack Float.f32 0x40400000 = .fin false (3 * 2 ^ 22) (-22) ∧
      Float.unpack Float.f32 0xC3020000 = .fin true (65 * 2 ^ 17) (-16)) ∧
      (numberOf false (3 * 2 ^ 22) (-22) = (3 : Int) ∧ numberOf true (65 * 2 ^ 17) (-16) = (-130 : Int)) ∧
      (¬∃ j : Nat, 3 * 2 ^ 22 = 2 ^ j ∧ True) ∧
      Float.unpack Float.f32 0x3EAAAAAB = .fin false 11184811 (-25) ∧ Float.unpack Float.f32 0xBF800000 = .fin true (2 ^ 23) (-23) ∧
      (-1 : Int) ≤ 1 := by
  refine ⟨by decide +kernel, ⟨?_, ?_⟩, ?_, by decide +kernel, by decide +kernel, by decide⟩
  · norm_num [numberOf]
  · norm_num [numberOf]
  · rintro ⟨j, h, -⟩
    rcases Nat.lt_or_ge j 22 with hj | hj
    · have : (2 : Nat) ^ j < 2 ^ 22 := Nat.pow_lt_pow_right (by decide) hj
      omega
    · obtain ⟨k, rfl⟩ := Nat.exists_eq_add_of_le hj
      rw [pow_add] at h
      exact three_not_power k (by omega)

/-- ArithmeticTrap: FPCTL enables every flag, and a lane raises one of the five or one of the three. -/
theorem witness_arithmetic_trap :
    let s := duo.modTeam (teamKey 0 0) fun t => { t with fpctl := 0xFF1 }
    let low : List ((Nat × FibreId) × LaneRes) := (lanes 2).map fun x => (x, { dests := [(.v 1, 5)], fl := 1 })
    let high : List ((Nat × FibreId) × LaneRes) := (lanes 2).map fun x => (x, { dests := [(.v 1, 5)], bf := 4 })
    (low.map fun x => x.1.2).Nodup ∧ (high.map fun x => x.1.2).Nodup ∧
      low.foldl (fun m x => m ||| x.2.fl) 0#5 &&& BitVec.ofNat 5 (bits (s.fpctl (issueOf 2)) 8 4) ≠ 0 ∧
      high.foldl (fun m x => m ||| x.2.bf) 0#3 &&& BitVec.ofNat 3 (bits (s.fpctl (issueOf 2)) 11 9) ≠ 0 := by decide +kernel

/-- OrderOfCauses, clause by clause: a register at the window, a g write under a guard that differs, the end of the object,
an error in the guard, and a guard that is false in every lane. -/
theorem witness_order_of_causes :
    let out : Instr := .addX (xr (.v 64) (.v 1) (.v 2) .none)
    let split := (duo.modFibre (fid 1) fun f => { f with k := 0 })
    let group : Instr := .addX { xr (.g 20) (.g 1) (.g 2) .none with gd := ⟨1, false⟩ }
    let fine : Instr := .add (br 1 2 3)
    let off : Instr := .add ⟨.notK1, h0, 1, 2, .reg 3⟩
    let last := { issueOf 2 with atEnd := true }
    (unitOf out = .alu ∧ duo.beyondWindow (issueOf 2) (usesOf out) = true) ∧
      (unitOf group = .alu ∧ split.beyondWindow (issueOf 2) (usesOf group) = false ∧
        split.unifBad (issueOf 2) (split.active (issueOf 2) (guardOf group)) (usesOf group) = true) ∧
      (({ duo with issue := some last }).issue = some last ∧ duo.beyondWindow last (usesOf fine) = false ∧
        duo.unifBad last (duo.active last (guardOf fine)) (usesOf fine) = false) ∧
      (({ duo with badElse := [.k (fid 1) 1] }).badGuard (issueOf 2) (guardOf off) = true ∧
        duo.unifBad (issueOf 2) (duo.active (issueOf 2) (guardOf off)) (usesOf off) = false) ∧
      (duo.active (issueOf 2) (guardOf off) = [] ∧ duo.beyondWindow (issueOf 2) (usesOf off) = false ∧
        duo.badGuard (issueOf 2) (guardOf off) = false) := by decide +kernel

/-- OrderOfCauses: the instructions of its witness are not BDOT. -/
theorem witness_not_bdot : (∀ o, Instr.addX (xr (.v 64) (.v 1) (.v 2) .none) ≠ .bdot o) ∧
    (∀ o, Instr.addX { xr (.g 20) (.g 1) (.g 2) .none with gd := ⟨1, false⟩ } ≠ .bdot o) ∧
    (∀ o, Instr.add (br 1 2 3) ≠ .bdot o) ∧ ∀ o, Instr.add ⟨.notK1, h0, 1, 2, .reg 3⟩ ≠ .bdot o := by
  refine ⟨?_, ?_, ?_, ?_⟩ <;> exact fun o h => nomatch (show Unit'.alu = Unit'.sfu from congrArg unitOf h)

/-- Branches and calls in every form: two lanes, a target that both checks pass, room on the stacks; NOP, YIELD, EXIT. -/
theorem witness_control :
    let lit : Dword := 132
    let s := squad [(0xFE, [(2, 132), (3, 0)]), (0xFE, [(2, 4), (3, 0)])] [(20, 132)] []
    let s := withCode s
    let ok := fun (t : Dword × Bool) (call : Bool) => t.2 && (s.targetCheck 0 1 t.1 call).2 == Move.ok
    (clearAll s 2 ([.nop bz, .yield bz, .exit bz, .bra ⟨.always, h0, 32⟩, .bru ⟨.always, h0, 0⟩, .call ⟨.always, h0, 32⟩] ++
        ([.nopX, .yieldX, .exitX] : List (XC → Instr)).map (· (xc (.rel 0))) ++
        [.braX (xc (.rel 32)), .braX (xc (.lit lit)), .bruX (xc (.reg 20)), .bruX (xc (.lit lit)), .callX (xc (.rel 32)), .callX (xc (.reg 20)),
          .callX (xc (.lit lit)), .callr (xc (.reg 2))]) &&
      ok (bbTarget (issueOf 2) ⟨.always, h0, 32⟩) true && ok (bbTarget (issueOf 2) ⟨.always, h0, 0⟩) false &&
      ok (s.xcTarget (issueOf 2) (xc (.rel 32))) true && ok (s.xcTarget (issueOf 2) (xc (.reg 20))) true &&
      ok (s.xcTarget (issueOf 2) (xc (.lit lit))) true &&
      (s.checkEach (issueOf 2) true ((State.byFid (lanes 2)).map fun x => (x.2, pairOf s (issueOf 2) x.2 2))).2 == Move.ok &&
      ((lanes 2).all fun x => (s.fibre x.2).rstack.length < 4)) = true := by decide +kernel

/-- Exits: two lanes of which none, and one of which the guard is true; a team-mate that waits at BAR. -/
theorem witness_exits :
    let off : Instr := .exit ⟨.notK1, h0⟩
    let split := duo.modFibre (fid 0) fun f => { f with k := 0 }
    let some' : List (Nat × FibreId) := [(0, fid 0)]
    let alone := { (duo.modFibre (fid 1) fun f => { f with status := .blocked (.bar 8) }) with issue := some { issueOf 2 with lanes := [(0, fid 0)] } }
    let ready := fun (s : State) (l : List (Nat × FibreId)) => l.all (fun x => (s.fibre x.2).status == .ready) && decide (l.map (·.2)).Nodup &&
      s.setwArrivals (teamKey 0 0) == [] && KV.sorted s.teams && KV.sorted (s.team (teamKey 0 0)).fibres && !(s.ctx 1).stop
    (duo.active (issueOf 2) (guardOf off) == [] && !duo.badGuard (issueOf 2) (guardOf off) && clear split off (issueOf 2) some' &&
      ready duo (lanes 2) && ready split (lanes 2) &&
      clear alone (.exitX (xc (.rel 0))) { issueOf 2 with lanes := some' } some' && ready alone some' &&
      alone.liveFibres (teamKey 0 0) == [fid 0, fid 1] && (alone.fibre (fid 1)).status == .blocked (.bar 8)) = true := by
  decide +kernel

/-- Branches, relative targets: from the reference 0 by -0 words, and up to the last word of a slot. -/
theorem witness_relative_targets :
    (0 ≤ (refOfs 0 : Int) + 4 * 0 ∧ (refOfs 0 : Int) + 4 * 0 < 2 ^ 52) ∧
      (0 ≤ (refOfs (2 ^ 52 - 4) : Int) + 4 * (-(2 ^ 50 - 1)) ∧ (refOfs 4 : Int) + 4 * (2 ^ 50 - 2) < 2 ^ 52) := by decide +kernel

/-- ReturnStackSpill: four references on chip, and a page below STACK that translates as a write. -/
theorem witness_spill :
    let s := duo.modFibre (fid 0) fun f => { f with rstack := [4, 8, 12, 16] }
    (s.fibre (fid 0)).rstack.length = 4 ∧ ((s.accessDone 0 [fid 0]).translate 0 1 ((s.fibre (fid 0)).stack - 8).toNat .write true).2 = .ok 0x20FF8 := by
  decide +kernel

/-- Returns, on chip and refilled, trap returns, and refills, in both forms: a lane with its starting STACK, one whose slot
translates, one whose slot holds an error; a refill's result. -/
theorem witness_returns :
    let s := (duo.modFibre (fid 0) fun x => { x with rstack := [132, 4] }).modFibre (fid 1) fun x => { x with refill := some 132 }
    let dry := withCode (one [])
    let moved := dry.modFibre (fid 0) fun x => { x with stack := 0x20FF8 }
    let p : Sys2Proof.Machine.Pending := { fib := fid 0, gid := 1, core := 0, dests := [(.ret, 132)] }
    let empty := fun (s : State) => clearAll s 1 [.ret bz, .retX (xc (.rel 0))] && (s.fibre (fid 0)).rstack == [] &&
      (s.fibre (fid 0)).handler == none && (s.fibre (fid 0)).refill == none
    let t := (withCode (one [])).modFibre (fid 0) fun x => { x with rstack := [4], handler := some ⟨1, 0x16, 7, false, 0⟩ }
    (clearAll s 2 [.ret bz, .retX (xc (.rel 0))] && clearAll t 1 [.ret bz, .retX (xc (.rel 0))] &&
      ((lanes 2).all fun x => ((s.fibre x.2).rstack ≠ [] || (s.fibre x.2).refill ≠ none) && (s.fibre x.2).handler == none) &&
      (s.checkEach (issueOf 2) false ((State.byFid (lanes 2)).map fun x => (x.2, (s.fibre x.2).rstack.headD ((s.fibre x.2).refill.getD 0)))).2 == Move.ok &&
      empty dry && (dry.fibre (fid 0)).stack == (dry.fibre (fid 0)).stackTop && empty moved &&
      (moved.fibre (fid 0)).stack != (moved.fibre (fid 0)).stackTop && (moved.translate 0 1 0x20FF8 .read false).2 == .ok 0x20FF8 &&
      (let u := (moved.translate 0 1 0x20FF8 .read false).1
       !u.eccBad 0x20FF8 8 && { u with badMem := [0x20FF8 / 4] }.eccBad 0x20FF8 8 && (u.fibre (fid 0)).fenceAcq == none &&
         !u.loadPending (fid 0) 0x20FF8 8 && u.pending == []) &&
      ({ moved with pending := [(3, p)] }).pending.find 3 == some p && p.load == none && p.count == [] &&
      (t.fibre (fid 0)).depth == 1 && t.refCheck 1 4 == none && KV.sorted t.teams &&
      (t.teams.find (fid 0).team).isSome && ((t.team (fid 0).team).fibres.find 0).isSome) = true := by decide +kernel

/-- SoftwareTraps: TRAP with the largest immediate, SVC 127, and TRAP with no true guard. -/
theorem witness_software_traps :
    (clearAll duo 2 [.trap (xs .none .none .none 0xFFFF), .svc (xs .none .none .none 127)] &&
      (let i : Instr := .trap { xs .none .none .none 7 with gd := ⟨1, true⟩ }
       duo.active (issueOf 2) (guardOf i) == [] && !duo.beyondWindow (issueOf 2) (usesOf i) && !duo.badStream [] (usesOf i) &&
         !duo.unifBad (issueOf 2) [] (usesOf i) && duo.popState [] (usesOf i) == none && !duo.badSource (issueOf 2) [] (usesOf i) && !duo.badGuard (issueOf 2) (guardOf i) &&
         duo.issue == some (issueOf 2))) = true := by decide +kernel

/-- `Deliverable` for HandlerEntry, SoftwareTraps and the traps of other statements: HREF at a function entry, no lane in a
handler, room on every stack, no atomic of the group open. -/
theorem witness_handler_entry :
    let s := duo.modCtx 1 fun c => { c with trapvec := 132 }
    toHandler 0x16 = true ∧ (s.ctx 1).trapvec ≠ 0 ∧ (issueOf 2).lanes ≠ [] ∧ ((issueOf 2).lanes.map (·.2)).Nodup ∧
      (∀ x ∈ (issueOf 2).lanes, (s.fibre x.2).handler = none ∧ (s.fibre x.2).rstack.length < 4) ∧
      ((s.settle 1).targetCheck 0 1 (s.ctx 1).trapvec true).2 = .ok ∧ s.atomicOpen 1 = false ∧
      (duo.ctx 1).trapvec = 0 ∧ duo.atomicOpen 1 = false := by decide +kernel

/-- An error or a value of a checked operation. -/
def okWith {ε α : Type} (x : State × Except ε α) (p : State → α → Bool) : Bool :=
  match x.2 with
  | .ok a => p x.1 a
  | .error _ => false

/-- `Ungated` as a value. -/
def ungated (s : State) (act : List (Nat × FibreId)) : Bool :=
  act.all fun x => (s.fibre x.2).fenceAcq == none && (s.fibre x.2).fenceRel == [] && (s.fibre x.2).ldc < 63 && (s.fibre x.2).stc < 63

/-- `Performed` as a value. -/
def performedB (s : State) (core : Nat) (act : List (Nat × FibreId)) : Bool :=
  act.all fun x => (s.fibre x.2).relWait == none && s.releaseSet core x.2 == []

/-- `Released` as a value. -/
def releasedB (s : State) (core : Nat) (act : List (Nat × FibreId)) : Bool :=
  performedB s core act && s.acquireOpen (act.map (·.2))

/-- `Ordered` as a value, for a fibre with nothing open. -/
def orderedB (s : State) (core : Nat) (act : List (Nat × FibreId)) : Bool :=
  !s.anyOpen (s.releaseWaits core (act.map (·.2))) && s.acquireOpen (act.map (·.2))

/-- `Gathered` as a value. -/
def gathered (s : State) (n : Nat) (mask : Dword) : Bool :=
  s.awaited 1 mask (lanes n) == [] && !s.droppedLane 1 mask &&
    (lanes n).all fun x => mask.getLsbD x.1 && x.1 < min (s.group 1).grant 64

/-- ShufflesAndVotes, ReductionsAndRebal: two lanes that a mask names, in every form. -/
theorem witness_exchange :
    (clearAll duo 2
        (([(.shflIdx, 0), (.shflUp, 1), (.shflDown, 2), (.shflXor, 3)] : List ((XR → Instr) × BitVec 4)).map
            (fun p => p.1 { xr (.v 6) (.v 2) (.imm 1) (.g 8) with var := p.2 }) ++
          [.voteMask (xr (.g 20) (.k 1) (.g 8) .none), .voteMask (xr (.v 6) (.k 1) (.g 8) .none),
            .voteCount { xr (.v 6) (.k 1) (.g 8) .none with var := 1 }, .voteCount { xr (.g 20) (.k 1) (.g 8) .none with var := 1 },
            .voteQuorum { xr (.k 4) (.k 1) (.g 8) (.imm 2) with var := 2 }, .voteQuorum { xr (.k 4) (.k 1) (.g 8) (.imm 0) with var := 2 },
            .voteSplit { xr (.k 4) (.k 1) (.g 8) .none with var := 3 }, .matchAny (xr (.v 6) (.v 2) (.g 8) .none),
            .matchAll { xr (.v 6) (.v 2) (.g 8) .none with var := 1 }, .matchAll { xr (.v 6) (.v 2) (.g 8) (.k 3) with var := 1 }] ++
          ((upto 6).map fun n => .gred { xr (.v 6) (.v 2) (.g 8) .none with var := BitVec.ofNat 4 n }) ++
          [.gred (xr (.g 20) (.v 2) (.g 8) .none), .gscan (xr (.v 6) (.v 2) (.g 8) .none), .gscan { xr (.v 6) (.v 2) (.g 8) .none with var := 8 },
            .rebal { xr (.v 6) (.v 3) (.g 5) (.g 20) with cc := 2 }]) && ((lanes 2).all fun y => !duo.badLane (issueOf 2) (srcUse (.v 2) 1) y.2) &&
      recordOpen candidates (lanes 4) (candidates.leadTeam 1) && candidates.accessOpen ((lanes 4).map (·.2)) true &&
      clearAll candidates 4 [.topk { xr (.g 20) (.v 2) (.v 3) (.g 8) with var := 1, fa := 3 }] && gathered duo 2 3 &&
      duo.srcG (issueOf 2) (.g 8) == 3 && decide (lanes 2).Nodup && decide ((lanes 2).map (·.1)).Nodup &&
      0x100 % 8 == 0 && decide (0x100 + 8 * 4 ≤ (candidates.team (candidates.leadTeam 1)).ownBytes) && candidates.badSpad == []) = true := by
  decide +kernel

/-- Loads and stores: two lanes at words 0 and 1 of the data page, the base in g4, the index in v5. -/
def access : State :=
  squad [(0, [(0, 64), (1, 0), (2, 0x20000), (3, 0x20000), (5, 0), (6, 9)]), (0, [(0, 128), (1, 0), (2, 0x20000), (3, 0x20000), (5, 4), (6, 8)])]
    [(4, 0x20000), (5, 0x40)] [(0x20000, words32 (List.replicate 32 1))]

/-- GlobalLoadsAndAnswers, GlobalStores and Atomics: what they ask of the address, the line and the state, in every form. -/
theorem witness_global_accesses :
    let a := lanes 2
    let ld : Instr × XM := (.ld (bi 3 4 5), bmgOf (bi 3 4 5))
    let st : Instr × XM := (.st (bi 3 4 5), bmgOf (bi 3 4 5))
    let x := { xm (.v 8) (.g 4) 2 with idx := some 5 }
    let loads := ld :: ([x, { x with pol := 2, ord := 1 }, { x with pol := 3, ord := 1 }, { x with pol := 1 }].map fun o => (.ldX o, o))
    let stores := st :: ([x, { x with pol := 1 }, { x with pol := 2 }, { x with pol := 3, ord := 2 }, { x with ord := 2 }].map fun o => (.stX o, o))
    let free := fun (s : State) (o : XM) (ps : List (FibreId × Nat)) =>
      ps.all (fun y => !s.loadPending y.1 y.2 (sizeBytes o)) && ps ≠ [] && !s.lineGate ps && s.pending.all (fun y => y.1 < s.nextId)
    let eas := fun (o : XM) => (State.performers o a).map fun f => (f, access.globalEA (issueOf 2) f o)
    (ungated access a && (loads.all fun c => clear access c.1 (issueOf 2) a &&
        okWith (access.globalCheck (issueOf 2) .read false (sizeBytes c.2) (consumes (sizeBytes c.2)) (access.badLane (issueOf 2) (usesOf c.1)) (eas c.2))
          fun s ps => free s c.2 ps) &&
      access.acquireOpen (a.map (·.2)) &&
      stores.all fun c => clear access c.1 (issueOf 2) a &&
        okWith (access.globalCheck (issueOf 2) .write true (sizeBytes c.2) (consumes (if sizeBytes c.2 < 4 then sizeBytes c.2 else 0))
          (access.badLane (issueOf 2) (usesOf c.1)) (eas c.2)) fun s ps => free s c.2 ps &&
          orderedB s 0 a && (s.ownGate (issueOf 2) ps (sizeBytes c.2) false).2) = true := by decide +kernel

/-- GlobalStores: a release that has to wait for a load of other words, one of a word that another core owns, and a .na store to
a line with a registration. -/
theorem witness_waiting_release :
    let p : Sys2Proof.Machine.Pending :=
      { fib := fid 0, gid := 1, core := 0, dests := [(.v 0, 0)], load := some (.global 0x20020 false false, 4, false) }
    let s := { access with pending := [(4, p)] }
    let o := { xm (.v 8) (.g 4) 2 with idx := some 5, ord := 2 }
    let check := fun (s : State) => s.globalCheck (issueOf 2) .write true 4 (consumes 0) (s.badLane (issueOf 2) (usesOf (.stX o)))
      ((State.performers o (lanes 2)).map fun f => (f, s.globalEA (issueOf 2) f o))
    let held := { access with owners := [(0x20000 / 4, 1)] }
    let past := { access with registrations := [(4, { core := 1, sector := 0x20000 / 16, words := [0x20000 / 4], fibres := [fid 1] })] }
    let na := { o with pol := 2, ord := 0 }
    (clearAll past 2 [.stX na] && ungated past (lanes 2) && okWith (past.globalCheck (issueOf 2) .write true 4 (consumes 0)
        (past.badLane (issueOf 2) (usesOf (.stX na))) ((State.performers na (lanes 2)).map fun f => (f, past.globalEA (issueOf 2) f na)))
        (fun t ps => ps ≠ [] && t.lineGate ps) && clearAll s 2 [.stX o] && ungated s (lanes 2) && decide ((lanes 2).map (·.2)).Nodup &&
      okWith (check s) (fun t ps => ps.all (fun y => !t.loadPending y.1 y.2 4) && ps ≠ [] && t.anyOpen (t.releaseWaits 0 ((lanes 2).map (·.2)))) &&
      clearAll held 2 [.stX o] && ungated held (lanes 2) &&
      okWith (check held) fun t ps => ps ≠ [] && !t.anyOpen (t.releaseWaits 0 ((lanes 2).map (·.2))) && !t.lineGate ps &&
        !(t.ownGate (issueOf 2) ps 4 false).2) = true := by
  decide +kernel

/-- Atomics: each operation by one lane, on global memory and in the scratchpad. -/
theorem witness_atomics :
    let s := squad [(0, [(2, 0x20000), (3, 0), (5, 1)])] [(4, 0x20000)] [(0x20000, words32 [10])]
    let x := xm (.v 5) (.g 4) 2
    let y := xm (.v 5) (.v 3) 2
    let global : List Instr := [.atomAdd x, .atomAnd x, .atomOr x, .atomXor x, .atomMin x, .atomMax x, .atomUmin x, .atomUmax x, .atomExch x,
      .atomCas x, .atomFadd x]
    let local' : List Instr := [.atomsAdd y, .atomsAnd y, .atomsOr y, .atomsXor y, .atomsMin y, .atomsMax y, .atomsUmin y, .atomsUmax y,
      .atomsExch y, .atomsCas y, .atomsFadd y]
    (clearAll s 1 (global ++ local') && ungated s (lanes 1) && State.performers x (lanes 1) == [fid 0] && State.performers y (lanes 1) == [fid 0] &&
      local'.all (fun i => (s.spadCheck 4 4 (s.badLane (issueOf 1) (usesOf i)) (spadItems s (issueOf 1) y [fid 0])).isNone) && s.pending == [] && orderedB s 0 (lanes 1) &&
      spadOpen s (issueOf 1) y [fid 0] &&
      global.all fun i => okWith (s.globalCheck (issueOf 1) .write true 4 (consumes 4) (s.badLane (issueOf 1) (usesOf i))
          [(fid 0, s.globalEA (issueOf 1) (fid 0) x)]) fun t ps =>
        ps == [(fid 0, 0x20000)] && Memory.wf t.mem && KV.sorted t.l2 && t.pending == [] && t.registrations == [] && t.releases == [] && t.owners == [] &&
          t.cores.all (fun c => c.2.l1.isEmpty)) = true := by decide +kernel

/-- LoadAnswer: a load of two bytes from the home. StoreFrames: no owner; a line held with the word valid. -/
theorem witness_answers_and_frames :
    let p : Sys2Proof.Machine.Pending :=
      { fib := fid 0, gid := 1, core := 0, dests := [(.v 0, 0)], load := some (.global 0x20000 false false, 2, true) }
    let s := { access with pending := [(4, p)] }
    let t := access.modCore 0 fun c => { c with lines := [(0x20000 / 64, ⟨1, false, false⟩)], l1 := [(0x20000 / 4, ⟨7, true⟩)] }
    (s.pending.find 4 = some p ∧ access.owners = [] ∧ 0x20000 / 16 = (0x20000 + 2 - 1) / 16 ∧ Memory.wf access.mem = true ∧ KV.sorted access.l2 = true) ∧
      (0x20000 / 64 = (0x20000 + 4 - 1) / 64 ∧ ((t.core 0).lines.find (0x20000 / 64)).isSome = true ∧ t.l1Valid 0 0x20000 4 = true ∧
        t.halfOwned 0 0x20000 4 = []) ∧
      ((∀ w ∈ State.wordsOf 0x20008 8, 0x20008 ≤ 4 * w ∧ 4 * w + 4 ≤ 0x20008 + 8) ∧ t.l1Valid 0 0x20008 8 = false ∧
        t.halfOwned 0 0x20008 8 = []) := by
  decide +kernel

/-- GlobalFaults, ScratchpadFaults and FaultIds: the second of two lanes at an address that is not aligned, at 2^48, in a page
that faults, in one that no table holds, or in bytes with an error; the same of a scratchpad; fewer than 2^32 records. -/
theorem witness_access_faults :
    let at' := fun (a b : Word) => squad [(0, [(5, 0), (6, 9), (7, 0)]), (0, [(5, a), (6, 8), (7, b)])] [(4, 0x20000)] []
    let g := { xm (.v 8) (.g 4) 2 with idx := some 5 }
    let l := xm (.v 8) (.v 7) 2
    let clear := fun (s : State) => clearAll s 2 ([.ldX g, .stX { g with d := .v 6 }, .ldsX l, .stsX { l with d := .v 6 }] ++ globalAtomics.map (· g) ++ spadAtomics.map (· l)) && ungated s (lanes 2)
    let ea := fun (s : State) => [fid 0, fid 1].map fun f => s.globalEA (issueOf 2) f g
    let ofs := fun (s : State) => [fid 0, fid 1].map fun f => s.effective (issueOf 2) f l false
    let table := fun (e : Nat) => { ((at' 0x40000 0).modCtx 1 fun c => { c with root := 0x30000 }) with
      mem := [(0x30000, words64 [0x40001]), (0x40000, words64 [0x50001]), (0x50030, words64 [e])].foldl
        (fun (m : List Host.Cell) (x : Nat × List Byte) => Memory.writes m x.1 x.2) [] }
    let first := fun (s : State) => match s.translateAll (issueOf 2) .read false [(fid 0, 0x20000)] with
      | (u, .ok _) => (u.translate 0 1 0x60000 .read false).2
      | _ => .ok 0
    let all := fun (s : State) => match s.translateAll (issueOf 2) .read false [(fid 0, 0x20000), (fid 1, 0x20008)] with
      | (u, .ok ps) => ps == [(fid 0, some 0x20000), (fid 1, some 0x20008)] && !u.eccBad 0x20000 4 && u.eccBad 0x20008 4
      | _ => false
    let ecc := { at' 8 8 with badMem := [0x20008 / 4], badSpad := [(teamKey 0 0, 8)] }
    (State.performers g (lanes 2) == [fid 0, fid 1] && State.performers l (lanes 2) == [fid 0, fid 1] &&
      ([at' 2 2, at' 0 4096, table 0x100, table 0, ecc].all clear) && ea (at' 2 2) == [0x20000, 0x20002] && ofs (at' 2 2) == [0, 2] &&
      ofs (at' 0 4096) == [0, 4096] && ((at' 0 4096).team (teamKey 0 0)).ownBytes == 4096 && first (table 0x100) == .fault true &&
      first (table 0) == .fault false && ea ecc == [0x20000, 0x20008] && all ecc && ofs ecc == [0, 8] && ecc.spadBad (teamKey 0 0) 8 4 && !ecc.spadBad (teamKey 0 0) 0 4 &&
      spadOpen ecc (issueOf 2) l [fid 0, fid 1] && ((at' 0 0).ctx 1).waiting == []) = true := by decide +kernel

/-- GlobalFaults: an address at 2^48. -/
theorem witness_high_address :
    let s := squad [(0, [])] [(4, 0x1000000000000)] []
    let o := xm (.v 8) (.g 4) 2
    clearAll s 1 [.ldX o] && ungated s (lanes 1) && 2 ^ 48 ≤ s.globalEA (issueOf 1) (fid 0) o && s.globalEA (issueOf 1) (fid 0) o % 4 == 0 := by
  decide +kernel

/-- GlobalLoads of one lane: a default load whose word stands in L1 and one whose word does not, an acquire, and one with
.sys. -/
theorem witness_single_loads :
    let s := squad [(0, [])] [(4, 0x20000)] [(0x20000, words32 [10])]
    let full := s.modCore 0 fun c => { c with lines := [(0x20000 / 64, ⟨1, false, false⟩)], l1 := [(0x20000 / 4, ⟨7, false⟩)] }
    let o := xm (.v 8) (.g 4) 2
    let good := fun (s : State) (o : XM) (p : State → Bool) => clearAll s 1 [.ldX o] && ungated s (lanes 1) &&
      okWith (s.globalCheck (issueOf 1) .read false 4 (consumes 4) (s.badLane (issueOf 1) (usesOf (.ldX o))) [(fid 0, s.globalEA (issueOf 1) (fid 0) o)])
        fun t ps => ps == [(fid 0, 0x20000)] && !t.loadPending (fid 0) 0x20000 4 && t.acquireOpen [fid 0] && !t.lineGate ps && t.pending == [] && p t
    (good full o (·.l1Valid 0 0x20000 4) && good s o (fun t => !t.l1Valid 0 0x20000 4) && good s { o with pol := 2, ord := 1 } (fun _ => true) &&
      good s { o with pol := 3, ord := 1 } fun _ => true) = true := by decide +kernel

/-- ScratchpadAccesses, in both forms, and the statements over LEA, PREF, CACHE and FENCE. -/
theorem witness_scratchpad_and_cache :
    let o := xm (.v 8) (.v 5) 2
    let s := squad [(0, [(5, 4), (6, 9)])] [] []
    let held := { (access.modCore 0 fun c => { c with lines := [(0x20000 / 64, ⟨1, false, true⟩)], l1 := [(0x20000 / 4, ⟨7, true⟩)] }) with
      owners := [(0x20000 / 4, 0)] }
    let lines := fun (c : XM → Instr) (back : Bool) (code : BitVec 8) =>
      let o := { xm (.v 0) (.g 4) 0 with c := code }
      clear held (c o) (issueOf 2) (lanes 2) && okWith (cacheLines held (issueOf 2) (c o) o back (lanes 2)) fun t ls => t.badMem == [] &&
        t.registrations == [] && ls == [0x20000 / 64] && KV.sorted (t.core 0).l1 && KV.sorted t.owners
    (clearAll access 2 [.lds (bi 8 5 0), .ldsX o, .lea (xm (.v 10) (.g 4) 0), .lea (xm (.g 20) (.g 4) 0), .pref (xm (.v 0) (.g 4) 0),
        .fenceAcq { xm (.v 0) (.v 0) 0 with ord := 1 }, .fenceRel { xm (.v 0) (.v 0) 0 with ord := 2 },
        .fenceAr { xm (.v 0) (.v 0) 0 with ord := 3 }] && clearAll s 1 [.sts (bi 6 5 63), .stsX (xm (.v 6) (.v 5) 2)] &&
      access.spadCheck 4 4 (access.badLane (issueOf 2) (usesOf (.ldsX o))) (spadItems access (issueOf 2) o (State.performers o (lanes 2))) == none &&
      access.spadCheck 4 4 (access.badLane (issueOf 2) (usesOf (.lds (bi 8 5 0))))
        (spadItems access (issueOf 2) (bmsOf (bi 8 5 0)) (State.performers (bmsOf (bi 8 5 0)) (lanes 2))) == none &&
      s.spadCheck 4 0 (s.badLane (issueOf 1) (usesOf (.sts (bi 6 5 63))))
        (spadItems s (issueOf 1) (bmsOf (bi 6 5 63)) (State.performers (bmsOf (bi 6 5 63)) (lanes 1))) == none &&
      spadOpen access (issueOf 2) o (State.performers o (lanes 2)) && spadOpen s (issueOf 1) (bmsOf (bi 6 5 63)) [fid 0] &&
      access.acquireOpen ((lanes 2).map (·.2)) &&
      State.performers o (lanes 1) == [fid 0] && lines .cacheWb true 0 && lines .cacheInv true 1 && lines .cacheClel false 2 &&
      okWith (prefCheck access (issueOf 2) ((State.byFid (lanes 2)).map fun x => access.globalEA (issueOf 2) x.2 (xm (.v 0) (.g 4) 0)))
        (fun _ _ => true) && KV.sorted (access.core 0).l1 && decide ((lanes 2).map (·.2)).Nodup) = true := by decide +kernel

/-- A gallery of two teams of one fibre, member 0 on core 0 and member 1 on core 1, with channel 3 from team 0 to team 1. -/
def pair : State :=
  let s := squad [(0, [(3, 0), (6, 9)])] [] []
  { s with
    cores := s.cores ++ [(1, { clock := 100, widthLimit := 64, tlb := pages })]
    launches := [(0, { loadedLaunch with
      words := [BitVec.ofNat 64 (0x20 + 2 ^ 25), 0, 1], place := [0, 1], running := [teamKey 0 0, teamKey 0 1], started := 2
      channels := [(3, { slots := 4, size := 32, prod := 0, cons := 1, credits := 4, landed := 1 })] })]
    teams := s.teams ++ [(teamKey 0 1, { loadedTeam with
      num := 1, member := 1, core := 1, ownBytes := 4096, spadBytes := 4096, tag := 5
      fibres := [(0, { loadedFibre with gid := 2, v := List.replicate 64 0 })] })]
    groups := s.groups ++ [(2, { loadedGroup with core := 1, members := [⟨teamKey 0 1, 0⟩] })] }

/-- The subset of team 1's fibre. -/
def other : Issue := { issueOf 1 with gid := 2, core := 1, lanes := [(0, ⟨teamKey 0 1, 0⟩)] }

/-- GalleryAccessesAndPackets: member 1 from member 0; a packet to a live team, and to one whose tag is another. -/
theorem witness_gallery :
    let o := { xm (.v 6) (.v 3) 2 with c := 1 }
    let p : Packet := { src := fid 0, count := [fid 0], srcCore := 0, target := teamKey 0 1, tag := 5, offset := 16, data := [1, 2, 3, 4], seq := 0 }
    let s := { pair with packets := [(7, p)] }
    let t := { pair with packets := [(7, { p with tag := 4 })] }
    (clearAll pair 1 [.ldx o, .stx o] && KV.sorted pair.teams && ungated pair (lanes 1) && (pair.galleryCheck (issueOf 1) o 4 (pair.badLane (issueOf 1) (usesOf (.ldx o))) (State.performers o (lanes 1))).isNone &&
      (pair.galleryCheck (issueOf 1) o 0 (pair.badLane (issueOf 1) (usesOf (.stx o))) (State.performers o (lanes 1))).isNone && State.performers o (lanes 1) == [fid 0] &&
      pair.memberOf (fid 0) (pair.memberIdx (issueOf 1) (fid 0) o) == .other (teamKey 0 1) &&
      s.streamBefore 0 1 7 == [] && t.streamBefore 0 1 7 == [] && galleryBefore pair (issueOf 1) o true [fid 0] == [] &&
      galleryBefore pair (issueOf 1) o false [fid 0] == [] && pair.pending == [] && (s.team (teamKey 0 1)).tag == 5 && !(s.team (teamKey 0 1)).ended) = true := by
  decide +kernel

/-- GalleryFaults: an offset that is not aligned, one beyond the target, a member beyond the gallery, one that has not started,
and an error. -/
theorem witness_gallery_faults :
    let at' := fun (ofs : Word) (s : State) => s.modFibre (fid 0) fun f => { f with v := f.v.set 3 ofs }
    let o := { xm (.v 6) (.v 3) 2 with c := 1 }
    let clear := fun (s : State) (o : XM) => clearAll s 1 [.ldx o, .stx o] && ungated s (lanes 1)
    let m := fun (s : State) (o : XM) => s.memberOf (fid 0) (s.memberIdx (issueOf 1) (fid 0) o)
    let late := { pair with teams := pair.teams.del (teamKey 0 1), launches := pair.launches.map fun (x : Nat × Launch) =>
      (x.1, { x.2 with running := [teamKey 0 0], unstarted := [1], started := 1 }) }
    let ecc := { pair with badSpad := [(teamKey 0 1, 0)] }
    (clear (at' 2 pair) o && clear (at' 4096 pair) o && (pair.team (teamKey 0 1)).ownBytes == 4096 && clear pair { o with c := 3 } &&
      m pair { o with c := 3 } == .none && clear late o && m late o == .unstarted && clear ecc o &&
      m ecc o == .other (teamKey 0 1) && ecc.spadBad (teamKey 0 1) 0 4 && galleryBefore ecc (issueOf 1) o true [fid 0] == []) = true := by
  decide +kernel

/-- Streams: a descriptor of four words in, a defined stream to prefetch from, and one to store to. -/
theorem witness_streams :
    let desc := words64 [8, 4 + 4 * 2 ^ 32, 0, 0, 0, 0, 0, 0]
    let s := withSpad 0x40 desc (squad [(0, [(3, 4)])] [(4, 0x20000), (6, 0x40)] [(0x20000, words32 [1, 2, 3, 4])])
    let q : Stream := { defined := true, esz := 4, dims := [(4, 4)], start := 0x20000 }
    let give := fun (q : Stream) => s.modFibre (fid 0) fun f => { f with streams := [q, {}, {}, {}] }
    let t := give q
    let u := give { q with out := true }
    (clearAll s 1 [.sdef (xe .none (.g 4) (.v 3) (.g 6) 3), .sstop (xe .none .none .none .none 3)] &&
      poppedOpen s [fid 0] 3 == [] && poppedOpen u [fid 0] 0 == [] && recordOpen s (lanes 1) (teamKey 0 0) && descBad s (teamKey 0 0) 0x40 64 == none && (streamOf (spadDwords s (teamKey 0 0) 0x40 8)).isSome &&
      (0x20000 + 4) % 4 == 0 && (s.fibre (fid 0)).streams.length ≤ 4 &&
      (t.fibre (fid 0)).live && !(t.ctx 1).saved && (t.fibre (fid 0)).streams[0]? == some q && q.bad == none && !t.anyOpen q.waits && q.ahead.length < 8 && q.cursor + q.ahead.length < State.streamLength q &&
      (t.translate (t.coreOf (fid 0)) 1 (streamAddr q 0) .read false).2 == .ok 0x20000 && !t.eccBad 0x20000 4 &&
      clearAll u 1 [.stX (xm (.v 6) (.q 0) 2)] && ungated u (lanes 1) &&
      okWith (u.globalCheck (issueOf 1) .write true 1 (fun s _ pa => s.eccBad pa (partBytes 4)) (u.badLane (issueOf 1) (usesOf (.stX (xm (.v 6) (.q 0) 2))))
          [(fid 0, streamAddr { q with out := true } 0)]) fun t ps => ps == [(fid 0, 0x20000)] &&
        t.pending == [] && t.registrations == [] && t.releases == [] && t.owners == [] && t.cores.all (fun c => c.2.l1.isEmpty)) = true := by decide +kernel

/-- BarriersAndWidth: a fibre whose team-mate has not arrived, one whose team-mate waits, a gallery with another member that
has not come, and with one that waits, and a lone fibre that asks for 16, 32 and 64 lanes. -/
theorem witness_barriers :
    let iss : Issue := { issueOf 2 with lanes := [(0, fid 0)] }
    let two := { duo with issue := some iss }
    let last := two.modFibre (fid 1) fun f => { f with status := .blocked (.bar 8) }
    let ready := fun (s : State) => clear s (.bar (xs .none .none .none 0)) iss [(0, fid 0)] && releasedB s 0 [(0, fid 0)] &&
      (s.fibre (fid 0)).status == .ready && s.liveFibres (teamKey 0 0) == [fid 0, fid 1] && KV.sorted s.teams &&
      KV.sorted (s.team (teamKey 0 0)).fibres && !(s.ctx 1).stop
    let g := (pair.homeGallery (fid 0))
    let late := pair.modGallery g.1 g.2 fun x => { x with phase := 1 }
    let far := pair.modGallery g.1 g.2 fun x => { x with phase := 2 ^ 31 }
    let gal := fun (s : State) => clearAll s 1 [.gbar (xs .none .none .none 0), .gbarEnter (xs (.v 11) .none .none 1),
        .gbarLeave (xs .none (.v 11) .none 2)] && releasedB s 0 (lanes 1) && (s.fibre (fid 0)).live && (s.launches.find g.1).isSome &&
      !s.hasArrived (fid 0) && KV.sorted s.teams && (s.teams.find (s.leadTeam 1)).isSome && decide ((s.galleryArrived g.1 g.2).length + 1 < s.galleryExpected g.1 g.2)
    let lone := one []
    let whole := (pair.modFibre ⟨teamKey 0 1, 0⟩ fun f => { f with status := .blocked (.gbar 0 8) }).modGallery g.1 g.2 fun x =>
      { x with arrived := [⟨teamKey 0 1, 0⟩] }
    (clearAll whole 1 [.gbar (xs .none .none .none 0)] && releasedB whole 0 (lanes 1) && (whole.fibre (fid 0)).live &&
      (whole.launches.find g.1).isSome && !whole.hasArrived (fid 0) && KV.sorted whole.teams && (whole.teams.find (whole.leadTeam 1)).isSome &&
      decide ((whole.galleryArrived g.1 g.2).length + 1 = whole.galleryExpected g.1 g.2) && whole.phaseOf (fid 0) == 0 &&
      whole.galleryArrived g.1 g.2 == [⟨teamKey 0 1, 0⟩] && !(whole.ctx 1).stop && whole.pending == [] &&
      ready two && ready last && (two.fibre (fid 1)).status == .ready && gal pair && gal late && gal far && late.phaseOf (fid 0) == 1 &&
      far.phaseOf (fid 0) == 2 ^ 31 && clearAll lone 1 ([16, 32, 64].map fun n => .setw (xs (.g 63) .none .none n)) &&
      clearAll lone 1 [.setw (xs (.g 16) .none .none 32)] && releasedB lone 0 (lanes 1) && lone.liveFibres (teamKey 0 0) == [fid 0] &&
      KV.sorted lone.groups && decide ((lone.groups.filter fun g => g.2.core == 0).length < 256) && KV.sorted lone.teams && KV.sorted (lone.team (teamKey 0 0)).fibres && !(lone.team (teamKey 0 0)).control && (lone.team (teamKey 0 0)).core == 0 &&
      decide (1 ≤ (lone.core 0).widthLimit) && decide ((lone.fibre (fid 0)).role < 4) && (lone.fibre (fid 0)).gid == 1 &&
      decide (1 < lone.nextId) && !(lone.ctx 1).stop) = true := by decide +kernel

/-- ArrivalBarriersAndWait: EXP 1 and 4095; a barrier whose phase has passed (at the distances 1 and 64) and one whose phase
has not; counters at the limits and above one of them. -/
theorem witness_arrivals_and_wait :
    let s := squad [(0, [])] [(8, 0x40)] []
    let at' := fun (phn : Nat) => withSpad 0x40 (leBytes 8 (2 ^ 44 + phn * 2 ^ 56) ++ leBytes 8 (0x4142 * 2 ^ 44)) s
    let good := fun (s : State) => (s.barrierBad (teamKey 0 0) 0x40).isNone && (barrierOf (s.barrierAt (teamKey 0 0) 0x40)).magic == 0x4142 &&
      !(barrierOf (s.barrierAt (teamKey 0 0) 0x40)).fl && !s.barrierEcc (teamKey 0 0) 0x40 && s.acquireOpen [fid 0] &&
      recordOpen s (lanes 1) (teamKey 0 0) && s.accessOpen [fid 0] true && clearAll s 1 [.abwait (xs .none (.g 8) .none 5)] &&
      (s.fibre (fid 0)).again == none
    let phn := fun (s : State) => ((barrierOf (s.barrierAt (teamKey 0 0) 0x40)).phn + 128 - 5) % 128
    let full := s.modFibre (fid 0) fun f => { f with ldc := 63, stc := 63, cpc := 63, tlc := 63 }
    let wait : Instr := .wait (xs .none (.imm 63) .none 0x3FFFF)
    let tight : Instr := .wait (xs .none (.imm 62) .none 0x3FFFF)
    (clearAll s 1 [.abinit (xe .none (.g 8) (.imm 1) .none 0), .abinit (xe .none (.g 8) (.lit 4095) .none 0), wait, tight] &&
      recordOpen s (lanes 1) (teamKey 0 0) && s.accessOpen [fid 0] true && (s.barrierBad (teamKey 0 0) 0x40).isNone && good (at' 6) && good (at' 69) && good (at' 5) && phn (at' 6) == 1 && phn (at' 69) == 64 &&
      phn (at' 5) == 0 && clearAll full 1 [wait, tight]) = true := by decide +kernel

/-- A queue block at the data page with elements of one word and capacity four, written where its fields say. -/
def queueAt (head rtail ptail free : Nat) : List (Nat × List Byte) :=
  let b := (qNew 0x20100 1 2).set 2 head |>.set 3 rtail |>.set 4 ptail |>.set 5 free
  [(0x20000, words64 b)]

/-- QueueInstructions: ENQ, DEQ, SPAWN, QINIT and QSTAT of a block at g4. -/
theorem witness_queue_instructions :
    let s := squad [(0, [(8, 5)]), (0, [(8, 6)])] [(4, 0x20000), (5, 0x40), (6, 0x20100)] (queueAt 0 0 0 4)
    let empty := squad [(0, [])] [(4, 0x20000), (6, 0x20100)] []
    let block := fun (s : State) (kind : WalkKind) (write : Bool) (p : State → Nat → Bool) =>
      okWith (s.cbCheck (issueOf 2) 0x20000 kind write) p
    let qi := xe (.g 20) (.g 4) (.g 6) (.imm 24) 0
    ((lanes 2).all (fun x => (s.fibre x.2).again == none) && s.acquireOpen ((lanes 2).map (·.2)) && clearAll s 2 [.enq (xe (.v 8) (.g 4) .none .none 0), .enqTry { xe (.v 8) (.g 4) (.g 20) (.k 3) 0 with tryb := true },
        .deq (xe (.v 8) (.g 4) .none .none 0), .deqTry { xe (.v 8) (.g 4) (.g 20) (.k 3) 0 with tryb := true },
        .spawn (xe (.g 20) (.g 4) (.g 5) .none 0), .qstat (xe (.g 56) (.g 4) .none .none 0)] &&
      (s.releaseStep 0 (lanes 2)).2 && block (s.releaseStep 0 (lanes 2)).1 .write true (fun t pa => pa == 0x20000 &&
        !t.lineGate ((lanes 2).map fun x => (x.2, pa))) && block s .write true (fun t pa => pa == 0x20000 && !t.blockGate [fid 0, fid 1] pa &&
        t.acquireOpen [fid 0, fid 1] && (t.releaseStep 0 (lanes 2)).2 && (t.releaseStep 0 (lanes 2)).1.badSpad == [] &&
        !(t.releaseStep 0 (lanes 2)).1.lineGate ((lanes 2).map fun x => (x.2, pa))) &&
      0x40 % 16 == 0 && decide (0x40 + 128 ≤ (s.team (teamKey 0 0)).ownBytes) && decide (s.depthOf 0 < 8) &&
      block s .read false (fun t pa => !t.eccBad pa 64 && !t.blockGate [fid 0, fid 1] pa && !t.qHeld pa && t.owners == [] &&
        (t.group 1).g.length == 48 && (t.team (t.leadTeam 1)).g.length == 16) &&
      clearAll empty 1 [.qinit qi] && !qinitBad empty (issueOf 1) qi && block empty .write true (fun t pa =>
        (t.releaseStep 0 (lanes 1)).2 && (let u := (t.releaseStep 0 (lanes 1)).1
          !u.lineGate ((lanes 1).map fun x => (x.2, pa)) && (u.qOwn 0 pa).owners == [] && !u.qBusy pa && !u.eccBad pa 64 && u.qhold == [] &&
            (u.group 1).g.length == 48 && (u.team (u.leadTeam 1)).g.length == 16 && !qOk ((u.qOwn 0 pa).qRead pa).1))) = true := by decide +kernel

/-- A state whose page table maps the data page, for what is translated without a core. -/
def mapped (s : State) : State :=
  { (s.modCtx 1 fun c => { c with root := 0x30000 }) with
    mem := [(0x30000, words64 [0x40001]), (0x40000, words64 [0x50001]), (0x50010, words64 [0x200C7])].foldl
      (fun (m : List Host.Cell) (x : Nat × List Byte) => Memory.writes m x.1 x.2) s.mem }

/-- HomeSlice, requests: enqueues that fit to the last slot, that fit in part and not at all, dequeues of what is there, of
more and of nothing, in trying forms and without. -/
theorem witness_requests_at_home :
    let r : Request := { kind := 0, iss := issueOf 1, ranks := [fid 0], cb := 0x20000, pa := 0x20000, esz := 4, trying := false
                         data := [[1, 0, 0, 0], [2, 0, 0, 0], [3, 0, 0, 0]], vreg := 0, greg := 0, kreg := 0 }
    let four := { r with data := [[4, 0, 0, 0]] ++ r.data }
    let d := { r with kind := 1, ranks := [fid 0, fid 1], data := [] }
    let part := mapped (squad [(0, [])] [] (queueAt 4 5 5 3))
    let full := mapped (squad [(0, [])] [] (queueAt 4 8 8 0))
    let empty := mapped (squad [(0, [])] [] (queueAt 5 5 5 4))
    let atHome := fun (s : State) (r : Request) (p : State → QBlock → Bool) =>
      let s := { s with requests := [(3, r)] }
      let t := s.qOwn 0 r.pa
      let b := (t.qRead r.pa).1
      r.state == 0 && !s.qHeld r.pa && !s.qBusy r.pa && t.owners == [] && !t.eccBad r.pa 64 && qOk b && r.esz == qEszw b * 4 && p t b
    let slots := fun (t : State) (b : QBlock) (i n : Nat) (write : Bool) (r : Request) =>
      okWith (t.qSlots 1 b i n write) fun u ps => u.owners == [] && !slotsGated u r ps && (u.queues.find r.pa).isNone && ps.length == n
    (atHome part r (fun t b => decide (3 ≤ qFree b) && !qWpe b && decide (qRtail b + 3 < 2 ^ 64) && slots t b (qRtail b) 3 true r) &&
      atHome part { four with trying := true } (fun t b => min 4 (qFree b) == 3 && !qWpe b && slots t b (qRtail b) 3 true r) &&
      atHome part { d with ranks := [fid 0] } (fun t b => decide (1 ≤ qPtail b - qHeadIdx b) && !qWpd b && slots t b (qHeadIdx b) 1 false d) &&
      atHome part { d with trying := true } (fun t b => min 2 (qPtail b - qHeadIdx b) == 1 && !qWpd b && slots t b (qHeadIdx b) 1 false d) &&
      atHome part four (fun t b => decide (4 ≤ qCap b) && decide (qFree b < 4) && slots t b (qRtail b) 4 true r) &&
      atHome part d (fun t b => decide (2 ≤ qCap b) && decide (qPtail b - qHeadIdx b < 2) && okWith (t.qReach 1 b (qHeadIdx b) 2) fun u _ => !ranksOpen u d) &&
      atHome full { r with trying := true } (fun t b => qFree b == 0 && slots t b (qRtail b) 0 true r) &&
      atHome empty { d with trying := true } (fun t b => qPtail b == qHeadIdx b && slots t b (qHeadIdx b) 0 false d) &&
      atHome part { d with ranks := [] } (fun t b => slots t b (qHeadIdx b) 0 false d)) = true := by decide +kernel

/-- HomeSlice, the rest: a publication, an eviction, and the replies to a dequeue, a trying one and a launch. -/
theorem witness_publication_and_replies :
    let base := squad [(0, [])] [] (queueAt 4 5 5 3)
    let r : Request := { kind := 0, iss := issueOf 1, ranks := [fid 0], cb := 0x20000, pa := 0x20000, esz := 4, trying := false
                         data := [[1, 0, 0, 0]], vreg := 0, greg := 0, kreg := 0 }
    let w : Reservation := { pa := 0x20000, ctx := 1, first := 5, count := 1, writes := [(0x20104, [1, 2, 3, 4])], request := some 3 }
    let u := { base with reservations := [(9, w)], requests := [(3, { r with state := 2 })] }
    let stopped := { (base.modCtx 1 fun c => { c with stop := true }) with requests := [(3, { r with state := 1 })], queues := [(r.pa, { enq := [3] })] }
    let d := { r with kind := 1, state := 3, got := [[7, 0, 0, 0]], vreg := 63, greg := 63, kreg := 7, moved := 1 }
    let reply := fun (r : Request) => let s := { base with requests := [(3, r)] }
      KV.sorted s.requests && !(s.ctx 1).stop && decide (r.vreg < (s.fibre (fid 0)).window) && (s.group 1).g.length == 48 &&
        (s.team (s.leadTeam 1)).g.length == 16 && ((s.team (fid 0).team).fibres.find 0).isSome
    (!u.qBusy w.pa && u.owners == [] && u.registrations == [] && u.cores.all (fun c => c.2.l1.isEmpty) && u.queues == [] &&
      decide (w.pa + 64 ≤ 0x20104) && qPtail (u.qRead w.pa).1 == 5 && (stopped.ctx 1).stop && !stopped.qBusy r.pa &&
      KV.sorted stopped.queues && reply d && reply { d with trying := true } && reply { d with kind := 2 }) = true := by decide +kernel

/-- Channels: a send with credits and without, a receive with a landed slot and without, a landing, and credits that return. -/
theorem witness_channels :
    let send : Instr := .chsend (xe .none (.v 8) (.imm 3) .none 7)
    let recv : Instr := .chrecv (xe (.v 8) .none (.imm 3) .none 7)
    let c := pair.channel 0 3
    let r := { pair with issue := some other }
    let fl : Flight := { launch := 0, cid := 3, slot := 1, data := List.replicate 32 1, src := fid 0 }
    let dry := fun (s : State) => { s with launches := s.launches.upd 0 fun l => { l with
      channels := l.channels.upd 3 fun c => { c with credits := 0, landed := 0 } } }
    let s := { pair with flights := [(6, fl)], creditFlights := [(7, (0, 3, 2))] }
    (clearAll pair 1 [send] && !chanBad pair (lanes 1) 3 32 true && decide ((pair.fibre (fid 0)).stc < 63) && c.sendq == [] &&
      decide (1 ≤ c.credits) && decide (c.next < c.slots) && pair.started 0 c.cons && performedB pair 0 (lanes 1) &&
      r.acquireOpen [⟨teamKey 0 1, 0⟩] && (r.fibre ⟨teamKey 0 1, 0⟩).live && (pair.fibre (fid 0)).live && pair.pending == [] &&
      clearAll (dry pair) 1 [send] && !chanBad (dry pair) (lanes 1) 3 32 true && ((dry pair).channel 0 3).credits == 0 &&
      clear (dry r) recv other other.lanes && !chanBad (dry r) other.lanes 3 32 false && ((dry r).channel 0 3).landed == 0 &&
      !(dry r).completed 0 c.prod &&
      clear r recv other other.lanes && !chanBad r other.lanes 3 32 false && c.recvq == [] && decide (1 ≤ c.landed) && !r.spadBad (teamKey 0 1) (r.channelBase 0 3 + c.rnext % c.slots * c.size) c.size &&
      KV.sorted s.teams && s.flights.all (fun x => !(x.1 < 6)) && s.teamOf 0 c.cons == some (teamKey 0 1) && !(s.team (teamKey 0 1)).ended &&
      (s.teams.find (fid 0).team).isSome && ((s.launch 0).channels.find 3).isSome && (s.launches.find 0).isSome &&
      s.creditFlights.find 7 == some (0, 3, 2)) = true := by decide +kernel

/-- A descriptor of four elements of four bytes each, in one dimension (09 R191). -/
def row4 : List Byte := words64 ([0x10, 8 * 2 ^ 32, 4 + 4 * 2 ^ 48, 4] ++ List.replicate 12 0)

/-- A team with that descriptor at 0x80, a Ready tile t1 of one row of 16 columns, and shapes and addresses in g registers. -/
def engine : State :=
  let s := squad [(0, [(4, 0), (5, 1)]), (0, [(4, 1), (5, 0)])]
    [(4, 0x20000), (5, 0x200), (6, 0x80 + 0x300 * 2 ^ 32), (7, 0x300), (10, 0x20000), (11, 0x400), (12, 8 + 4 * 2 ^ 32), (13, 8 + 8 * 2 ^ 32), (14, 0x80)]
    [(0x20000, words32 (List.replicate 32 1))]
  withSpad 0x80 row4 (s.modTeam (teamKey 0 0) fun t => { t with
    tiles := modAt t.tiles 1 fun _ => { desc := BitVec.ofNat 64 (4 * 2 ^ 10 + 31 * 2 ^ 30 + 2 ^ 40), state := 2, readers := 0 } })

/-- CopyPosts: the five posts, with and without a barrier, with sources and destinations on either side. -/
theorem witness_copy_posts :
    let s := engine
    let own := 4096
    let t := tensorOf (spadDwords s (teamKey 0 0) 0x80 16)
    let ti := s.tile (teamKey 0 0) 1
    (clearAll s 2
        [.copy { xe (.g 20) (.g 4) (.g 5) (.g 6) 0 with dirm := 1, abe := true }, .copy (xe .none (.g 4) (.g 4) (.g 14) 0),
          .copy { xe (.g 20) (.g 5) (.g 5) (.g 14) 0 with dirm := 3 },
          .mcast { xe (.g 20) (.g 4) (.g 5) (.g 6) 0 with dirm := 1, abe := true, mask := 1 },
          .gather { xe (.g 20) (.g 10) (.v 4) (.g 7) 12 with dirm := 1, abe := true },
          .scatter { xe (.g 20) (.g 11) (.v 4) .none 12 with dirm := 3 },
          .tcopy (xt (.g 20) (.g 4) (.g 14) 1), .tcopy { xt (.g 20) (.g 5) (.g 14) 1 with srcs := true }] &&
      s.srcG (issueOf 2) (.g 6) == 0x80 + 0x300 * 2 ^ 32 && t.isSome && decide (0x80 + 128 ≤ own) && (s.team (teamKey 0 0)).ownBytes == own &&
      (match t with
        | some t => t.esz == 4 && (spanBad (t.span true 0x200) own).isNone && (spanBad (t.span false 0x200) own).isNone &&
            !tileBad t ti.desc (upto t.total)
        | none => false) &&
      decide (0x300 + 16 ≤ own) && !(s.ctx 1).stop && !(s.team (teamKey 0 0)).cpErr && s.badSpad == [] && s.cmds == [] && performedB s 0 (lanes 2) &&
      rowShape (s.gReg 1 12) (s.gReg 1 13) == some (8, 4, 8, 8) && decide (0 < recGsize (s.launch 0).words) &&
      (lanes 2).all (fun x => (s.fibre x.2).cpc < 63 && (s.fibre x.2).tlc < 63 && decide (0x400 + 3 * 8 + 8 ≤ own)) && ti.state == 2 &&
      ti.readers == 0 && !tileDue s (lanes 2) && recordOpen s (lanes 2) (teamKey 0 0) && (s.group 1).g.length == 48 &&
      (s.team (teamKey 0 0)).g.length == 16 && decide (1 < (s.team (teamKey 0 0)).tiles.length) && decide ((lanes 2).map (·.2)).Nodup) = true := by decide +kernel

/-- BatchesAndTimelines: a batch to seal with fifteen unfinished ones and with sixteen, a wait that passes at its bound and one
that does not, and timelines that have and have not reached a number. -/
theorem witness_batches_and_timelines :
    let s := squad [(0, [])] [(20, 3)] []
    let sealed := fun (n : Nat) => s.modFibre (fid 0) fun f =>
      { f with openBatch := [(teamKey 0 0, 40)], sealed := (upto n).map fun i => [(teamKey 0 0, i + 1)] }
    let t := sealed 15
    let left := fun (s : State) => ((s.fibre (fid 0)).sealed.filter fun b => b.any fun x =>
      (s.teams.find x.1).isSome && !(s.team x.1).ended && decide ((s.team x.1).copyDone < x.2)).length
    let reached := s.modTeam (teamKey 0 0) fun t => { t with copyDone := 3, matDone := 3 }
    (clearAll t 1 [.cseal (xe .none .none .none .none 0), .cwait (xs .none .none .none 15), .cwait (xs .none .none .none 14)] &&
      (t.fibre (fid 0)).again == none && t.acquireOpen [fid 0] && reached.acquireOpen [fid 0] &&
      left t == 15 && left (sealed 16) == 16 && clearAll (sealed 16) 1 [.cseal (xe .none .none .none .none 0)] &&
      (t.teams.find (teamKey 0 0)).isSome && (s.team (teamKey 0 0)).matDone == 0 && s.srcG (issueOf 1) (.g 20) == 3 &&
      clearAll s 1 [.tlread (xe (.g 20) .none .none .none 0), .tlread (xe (.g 20) .none .none .none 1), .tlwait (xs .none (.g 20) .none 0),
        .tlwait (xs .none (.g 20) .none 1)] && clearAll reached 1 [.tlwait (xs .none (.g 20) .none 0), .tlwait (xs .none (.g 20) .none 1)] &&
      !(s.team (teamKey 0 0)).cpErr && !(s.team (teamKey 0 0)).mx.err && (s.fibre (fid 0)).again == none) = true := by decide +kernel

/-- TilesAndMatrixSetup: a tile that is Empty, Ready and in use; a view; banks that are free, held and all taken by another
team; a drain slot emptied and loaded. -/
theorem witness_tiles_and_setup :
    let d : Dword := BitVec.ofNat 64 (63 * 2 ^ 10 + 767 * 2 ^ 30 + 2 ^ 40)
    let view := words64 [0x200 + 8 * 2 ^ 32, 1 + 2 ^ 16 + 8 * 2 ^ 32, 0x010101010101, 1, 0, 0, 0, 0]
    let s := withSpad 0x100 view (squad [(0, [])] [(4, d), (5, 0x20000), (6, 0x100), (7, 3)] [(0x20000, words32 (List.replicate 17 0))])
    let tile := fun (n r : Nat) => s.modTeam (teamKey 0 0) fun t => { t with tiles := modAt t.tiles 31 fun _ => { state := n, readers := r } }
    let banks := fun (b : List Nat) (s : State) => s.modTeam (teamKey 0 0) fun t => { t with banks := { t.banks with held := b } }
    let taken := { pair with teams := pair.teams.upd (teamKey 0 1) fun t => { t with core := 0, banks := { held := upto 16 } } }
    let td : Instr := .tdef (xt .none (.g 4) .none 31)
    let tf : Instr := .tfree (xt .none .none .none 31)
    let due := (tile 2 0).modFibre (fid 0) fun f => { f with again := some [31, 1, 0, 1] }
    (clearAll due 1 [tf] && tileDue due (lanes 1) && !tileDue (tile 2 0) (lanes 1) && clearAll (tile 0 0) 1 [td, tf] && clearAll (tile 2 0) 1 [td, tf] && clearAll (tile 2 1) 1 [td, tf] && clearAll (tile 1 0) 1 [td, tf] &&
      clearAll s 1 [.tstat (xt (.g 20) .none .none 31), .unfset { xt .none (.g 6) .none 0 with slot := 3 },
        .aalloc (xt (.g 20) (.imm 1) .none 0), .aalloc (xt (.g 20) (.imm 16) .none 0), .dload { xt .none (.g 5) .none 0 with slot := 63 },
        .dload { xt .none (.g 5) .none 0 with slot := 63, cnt := 1 }] &&
      decide (31 < (s.team (teamKey 0 0)).tiles.length) && decide (bits d.toNat 9 0 + bits d.toNat 19 10 + 1 ≤ (s.team (teamKey 0 0)).trows) &&
      decide (bits d.toNat 29 20 + bits d.toNat 39 30 + 1 ≤ 768) && bits d.toNat 63 44 == 0 &&
      (descBad s (teamKey 0 0) 0x100 64).isNone && !viewIllegal (spadDwords s (teamKey 0 0) 0x100 8) &&
      decide (bits ((spadDwords s (teamKey 0 0) 0x100 8).getD 0 0) 31 0 + viewBytes (spadDwords s (teamKey 0 0) 0x100 8) ≤ 4096) &&
      s.freeRun 0 1 == some 0 && s.freeRun 0 16 == some 0 && (s.core 0).bankQueue == [] &&
      (banks (upto 16) s).freeRun 0 1 == none && clearAll (banks (upto 16) s) 1 [.aalloc (xt (.g 20) (.imm 1) .none 0)] &&
      taken.freeRun 0 16 == none && clearAll taken 1 [.aalloc (xt (.g 20) (.imm 16) .none 0)] && !(taken.ctx 1).stop &&
      clearAll (banks [0, 1] s) 1 [.afree (xt .none (.g 7) .none 0)] && s.mats == [] &&
      recordOpen s (lanes 1) (teamKey 0 0) && s.banksHeld 0 == [] &&
      okWith (s.globalCheck (issueOf 1) .read false 4 (consumes 4) (s.badLane (issueOf 1) (usesOf (.dload { xt .none (.g 5) .none 0 with slot := 63, cnt := 1 })))
          ((upto 17).map fun i => (State.lowest (lanes 1), 0x20000 + 4 * i))) fun t ps =>
        !t.lineGate ps && t.accessOpen [fid 0] false && ps.all (fun x => !t.loadPending (fid 0) x.2 4) && !imageIllegal ((ps.map fun x => wordOf (t.homeBytes x.2 4)).drop 16)) = true := by decide +kernel

/-- The MLOOP of chapter 21's example: its record at 0x100, its tiles, its bank and the softmax program. -/
def mloopState (readers : Nat) : State :=
  let s := squad [(0, [])] [(6, 0x100)] []
  let s := s.modTeam (teamKey 0 0) fun t => { t with
    ownBytes := 0x8000, spadBytes := 0x8000, trows := 68, banks := { held := [0], cells := [] }
    tiles := modAt (modAt t.tiles 0 fun _ => { desc := 0x00000847C0000C00, state := 2, readers := 0 }) 1 fun _ =>
      { desc := 0x00000847C000FC04, state := if readers == 0 then 2 else 3, readers := 0 } }
  withSpad 0x100 (words64 [0x00030004C0800040, 0x0000000000400000, 0x0000001000000001, 1, 0x4000, 0x20, 0x5000, 0])
    (s.modCore 0 fun x => { x with drains := [(64, { ops := [0x0000084A, 0x02004861, 0x00000386, 0x0000040B, 0x6000040D], consts := List.replicate 16 0 })] })

/-- `MatReady` as a value, at offset 0x100. -/
def matReady (s : State) (mma : Bool) : Bool :=
  let tid := s.leadTeam 1
  let dw := spadDwords s tid 0x100 8
  recordOpen s (lanes 1) tid && (descBad s tid 0x100 64).isNone && (s.recordChecks tid 1 mma dw).isNone &&
    okWith (s.leaseAll (s.team tid).core 1 (s.drainPages (s.team tid).core 1 dw)) fun t _ => t.tilesQualify tid dw &&
      (lanes 1).all (fun x => (t.fibre x.2).tlc < 63) && decide ((t.mats.filter fun x => x.2.core == (s.team tid).core && !(t.ctx x.2.ctx).saved).length < 32) &&
      t.leadTeam 1 == tid && (t.group 1).g.length == 48 && (t.team tid).g.length == 16

/-- MatrixOperations: MLOOP and MMA of that record, the same with a tile that is not Ready, and a lane that waited. -/
theorem witness_matrix_operations :
    let s := mloopState 0
    let busy := mloopState 1
    let dw := spadDwords busy (teamKey 0 0) 0x100 8
    let sd := spadDwords s (teamKey 0 0) 0x100 8
    let keep : List Dword := [0x100, 20, 0, 8, 1] ++ sd.map (BitVec.ofNat 64) ++ [0]
    let waits := (s.modFibre (fid 0) fun f => { f with status := .blocked .matrix, again := some keep })
    (clearAll s 1 [.mloop (xt (.g 20) (.g 6) .none 0), .mma (xt (.g 20) (.g 6) .none 0)] && matReady s false && matReady s true &&
      !(s.team (teamKey 0 0)).control && !(s.ctx 1).stop && (s.fibre (fid 0)).again == none && recordOpen busy (lanes 1) (teamKey 0 0) && clearAll busy 1 [.mloop (xt (.g 20) (.g 6) .none 0)] &&
      (busy.recordChecks (teamKey 0 0) 1 false dw).isNone && okWith (busy.leaseAll 0 1 (busy.drainPages 0 1 dw)) (fun t _ =>
        !t.tilesQualify (teamKey 0 0) dw) &&
      ((waits.liveLanes 1).filter fun y => (waits.fibre y.2).status == .blocked .matrix) == [(0, fid 0)] &&
      (waits.fibre (fid 0)).again == some keep && sd.length == 8 && waits.tilesWaited (teamKey 0 0) sd && matReady (waits.modFibre (fid 0) fun f => { f with status := .ready }) false) = true := by decide +kernel

/-- MatrixExecution: an operation inside an interval, at the end of one and of its steps; blocks that commit, the last of a
row and another; a completed one; one that stops at an error and at an enabled flag. -/
theorem witness_matrix_execution :
    let m := (softmax.mats.map (·.2)).headD { tid := 0, ctx := 0, core := 0, issuers := [], dw := [] }
    let done := { softmax with mats := [(2, { m with dw := m.dw.set 0 0x0003000480800040 })] }
    let run := { softmax with mats := [(2, { m with step := 1, interval := 2 })] }
    let fresh := { softmax with mats := [(2, { m with step := 0, interval := 2 })] }
    let ecc := { softmax with mats := [(2, { m with step := 3 })], badElse := [.tile (teamKey 0 0) (48 * 768)] }
    let sick := { softmax with badElse := [.drain 0 64] }
    let acc := fun (x : Word) => softmax.modTeam (teamKey 0 0) fun t => { t with banks := { t.banks with cells := t.banks.cells.put 0 x } }
    let trap := { acc 0x7F800001 with mats := [(2, { m with fpctl := 0xFF1 })] }
    let tm := { m with fpctl := 0xFF1 }
    (softmax.matHead m && State.draining m && !(softmax.ctx 1).stop && (State.blockStop m (softmax.blockRun m)).isNone &&
      decide (m.blk + 1 < regionBlocks m.dw) && decide (regionCol m.dw + 8 * regionBlocks m.dw ≤ 512) &&
      (let l := { m with blk := 1 }
       (State.blockStop l (softmax.blockRun l)).isNone && l.blk + 1 == regionBlocks l.dw) &&
      KV.sorted done.mats && !State.draining { m with dw := m.dw.set 0 0x0003000480800040 } &&
      (run.mats.all fun x => run.matHead x.2 && decide (x.2.step < x.2.steps) && (x.2.step + 1) % x.2.interval == 0) &&
      (fresh.mats.all fun x => fresh.matHead x.2 && (x.2.step + 1) % x.2.interval != 0 && x.2.step + 1 != x.2.steps) &&
      (run.mats.all fun x => !run.stepBad x.2) && (fresh.mats.all fun x => !fresh.stepBad x.2) && !softmax.blockBad m &&
      (ecc.mats.all fun x => ecc.matHead x.2 && decide (x.2.step < x.2.steps) && ecc.stepBad x.2) &&
      sick.matHead m && sick.blockBad m && !trap.blockBad tm && trap.matHead tm && State.draining tm && State.blockStop tm (trap.blockRun tm) == some 0x0B) = true := by decide +kernel

/-- CopyExecution: pieces for a live target and for one that has gone, the last unit of a copy to global memory, an arrival, a
walked command, and commands that meet a page fault, a bad address and an uncorrectable error. -/
theorem witness_copy_execution :
    let cmd : Cmd := { kind := 0, tid := teamKey 0 0, ctx := 1, core := 0, num := 1, issuers := [fid 0], mode := 0, pol := 0, res := 0, srcG := true
                       dst := 0, tile := 0, sbase := 0x20000, dbase := 0x200, shape := spadDwords engine (teamKey 0 0) 0x80 16, entries := []
                       bar := none, actual := 16 }
    let x : CTarget := { member := 0, tid := some (teamKey 0 0), tag := 0, queue := [(0x200, [1, 2, 3, 4]), (0x204, [5, 6, 7, 8])] }
    let has := fun (c : Cmd) => { engine with cmds := [(5, c)] }
    let out := { cmd with srcG := false, dst := 1, sbase := 0x200, dbase := 0x20000, next := 3 }
    let arrive := { cmd with bar := some 0x300, targets := [(0, x)] }
    let barrier := withSpad 0x300 (leBytes 8 (2 ^ 44) ++ leBytes 8 (0x4142 * 2 ^ 44)) (has arrive)
    let walked := { cmd with next := 4, targets := [(0, { x with queue := [] })] }
    let gone := { x with tag := 9 }
    let away := { cmd with sbase := 0x40000 }
    let table := fun (e : Nat) => let s := has away
      { (s.modCtx 1 fun c => { c with root := 0x30000 }) with
        mem := [(0x30000, words64 [0x40001]), (0x40000, words64 [0x50001]), (0x50020, words64 [e])].foldl
          (fun (m : List Host.Cell) (x : Nat × List Byte) => Memory.writes m x.1 x.2) s.mem }
    let broken := { has cmd with badMem := [0x20000 / 4] }
    ((has cmd).targetLive x && !(has cmd).targetLive gone && (has cmd).cmdRuns cmd && (has out).cmdRuns out && out.total == out.next + 1 &&
      out.unit out.next == some (0x20C, 0x2000C, 4) &&
      okWith ((has out).rowPlaces out true true (pagesOf 4 (globalAddr 0x2000C) 4)) (fun s l => l == [.mem 0x2000C 4] && s.badSpad == [] && s.owners == []) &&
      !(barrier.ctx 1).saved && barrier.targetLive x && !barrier.barrierEcc (teamKey 0 0) 0x300 && !(has out).spadBad (teamKey 0 0) 0x20C 4 && (barrierOf (barrier.barrierAt (teamKey 0 0) 0x300)).magic == 0x4142 &&
      !arrivalHeld barrier 5 arrive x && !(has walked).postedWaits walked && !arrivalsHeld (table 0) 5 away && !arrivalsHeld broken 5 cmd &&
      !arrivalsHeld (table 0x100) 5 away && KV.sorted (has walked).cmds && walked.parked == none && decide walked.issuers.Nodup && walked.walked && (table 0x100).cmdRuns away &&
      ((table 0x100).cmdObstacle 5 away).2 == some (.page 0x40000 false) && ((table 0).cmdObstacle 5 away).2 == some .bad &&
      (broken.cmdObstacle 5 cmd).2 == some .ecc) = true := by decide +kernel

/-- OwnershipAndReads: a registration to record and a recorded one, an owned word to write back and to withdraw, a load to
forward and one to combine, and the walk of `test_page_walk`. -/
theorem witness_ownership :
    let r : Registration := { core := 0, sector := 0x1000, words := [0x8000, 0x8001], fibres := [fid 0], bytes := [0x20001, 0x20004] }
    let line := engine.modCore 0 fun c => { c with l1 := [(0x8000, ⟨7, true⟩)] }
    let s := { line with owners := [(0x8000, 0)], withdrawals := [0x8000] }
    let p : Sys2Proof.Machine.Pending :=
      { fib := fid 0, gid := 1, core := 0, dests := [(.v 0, 0)], load := some (.global 0x20000 true false, 4, false) }
    let t := { s with pending := [(4, p)] }
    let u := { ((one []).modCtx 1 fun c => { c with root := 0x8000 }) with
      mem := [(0x8070, words64 [0x10001]), (0x19048, words64 [0x20001]), (0x21A28, words64 [0x0000001234560047])].foldl
        (fun (m : List Host.Cell) (x : Nat × List Byte) => Memory.writes m x.1 x.2) [] }
    let newer := { s with registrations := [(6, r)] }
    let taken := { newer with owners := [(0x8000, 1)], cores := newer.cores.put 1 { l1 := [(0x8000, ⟨9, true⟩)] } }
    let mine := { line with registrations := [(6, r)] }
    (!mine.ackPending 0 0x8000 && mine.unrecorded 0 0x8000 == some r && mine.owners == [] && !mine.badWord 0x8000 && !s.badWord 0x8000 &&
      s.unrecorded 0 0x8000 == none && !r.recorded && taken.owners.find 0x8000 == some 1 && KV.sorted (taken.core 1).l1 && { r with recorded := true }.recorded && KV.sorted (s.core 0).l1 && KV.sorted s.owners && !s.ackPending 0 0x8000 && s.badMem == [] && s.withdrawals.contains 0x8000 &&
      s.owners.find 0x8000 == some 0 && ((s.core 0).l1.find 0x8000).isSome && (State.wordsOf 0x20000 4).any (fun w => (t.owners.find w).isSome) &&
      KV.sorted t.pending && t.pending.any (fun x => x.2.load == some (.global 0x20000 true false, 4, false)) && 0x20000 / 64 == 2048 &&
      (u.contexts.find 1).isSome && (match (u.walkFill 0 1 0x3A4123456789 .write true).2 with
        | .ok _ => true
        | _ => false)) = true := by decide +kernel

/-- ControlRegisters: every selector of GETC, outside a handler and in one; every SETC, with the bounds of RM. -/
theorem witness_control_registers :
    let s := squad [(0, [])] [(9, 5), (10, 1), (11, 6), (12, 0)] []
    let h := s.modFibre (fid 0) fun f => { f with handler := some ⟨1, 0x16, 7, false, 0⟩ }
    let two := (duo.modFibre (fid 0) fun f => { f with handler := some ⟨1, 0x16, 7, false, 0⟩ }).modFibre (fid 1) fun f =>
      { f with handler := some ⟨2, 0x17, 7, false, 1⟩ }
    let get := (upto 12).map fun n => Instr.getc (xs (.g 63) .none .none (BitVec.ofNat 20 n))
    let beyond := xs (.g 63) .none .none 12
    let set := fun (g : BitVec 8) => ([(.setcFpctl, 0), (.setcFpflags, 1), (.setcBfflags, 2), (.setcIssuepol, 3), (.setcTrapvec, 4), (.setcFaultq, 5),
      (.setcLkstat, 6), (.setcStatclr, 7), (.setcTrapinfo, 10), (.setcTrapva, 11)] : List ((XS → Instr) × BitVec 20)).map fun p =>
        p.1 (xs .none (.g g) .none p.2)
    (clearAll s 1 (get ++ set 9 ++ set 10 ++ set 11 ++ set 12) && clearAll h 1 (get ++ set 9) && clearAll two 2 (get.drop 10) &&
      ([false, true].all fun va => trapImage two (fid 0) va != trapImage two (fid 1) va) && s.srcG (issueOf 1) (.g 9) == 5 &&
      s.srcG (issueOf 1) (.g 10) == 1 && s.srcG (issueOf 1) (.g 11) == 6 && s.srcG (issueOf 1) (.g 12) == 0 &&
      (s.fibre (fid 0)).handler.isNone && (h.fibre (fid 0)).handler.isSome && decide (0xB < beyond.imm.toNat)) = true := by decide +kernel

/-- EngineStatus: both registers with and without a stopped operation, and every value of ACT that the rules name. -/
theorem witness_engine_status :
    let m := (softmax.mats.map (·.2)).headD { tid := 0, ctx := 0, core := 0, issuers := [], dw := [] }
    let stp := { (softmax.modTeam (teamKey 0 0) fun t => { t with mx := { t.mx with err := true, stp := true, ecause := 0x0B } }) with
      mats := [(2, { m with stopped := true })] }
    let reg := fun (s : State) (x : Dword) => s.modTeam (teamKey 0 0) fun t => { t with g := t.g.set 9 x }
    let all : List Instr := [.setcMxstat (xs .none (.g 9) .none 9), .mxstatResume (xs .none (.imm 5) .none 9),
      .mxstatResumeIgnoring (xs .none (.imm 9) .none 9), .mxstatAbandon (xs .none (.imm 17) .none 9)]
    (clearAll (one []) 1 (all ++ [.cpstatClearErr (xs .none (.imm 1) .none 8), .cpstatClearDrop (xs .none (.lit 0x10000) .none 8)]) &&
      clearAll stp 1 all && ([0, 4, 8, 12, 16, 20, 28].all fun x => clearAll (reg stp x) 1 [.setcMxstat (xs .none (.g 9) .none 9)] &&
        (reg stp x).srcG (issueOf 1) (.g 9) == x) && ([0, 4, 8, 12, 16, 20, 28].map fun x => bits x 4 2) == [0, 1, 2, 3, 4, 5, 7] &&
      (stp.team (teamKey 0 0)).mx.stp && !((one []).team (teamKey 0 0)).mx.stp && (stp.mats.all fun x => x.2.tid == teamKey 0 0 && x.2.stopped)) =
      true := by decide +kernel

/-- A fault record of context 1. -/
def record (recov held : Bool) : FaultRec :=
  { cause := 8, src := 0, recov := recov, wr := false, held := held, dbl := false, detail := 0, core := 0, team := teamKey 0 0, fid := 0, id := 3
    launchId := 0, pc := 4, va := 0, lanes := 1, ctl := 0, ctx := 1, fibres := [fid 0] }

/-- SupervisorAndInstructionLocks: outside and inside a supervisor, each status of the three operations at the bounds of their
operands; lines to lock, with and without room. -/
theorem witness_supervisor_and_locks :
    let sup := fun (g16 g17 g18 : Dword) (r : FaultRec) =>
      (squad [(0, [])] [(16, g16), (17, g17), (18, g18)] []).modCtx 1 fun c => { c with supervisor := true, supervised := [1], records := [(3, r)] }
    let three : List Instr := [.resolve (xs .none .none .none 0x80), .xlinv (xs .none .none .none 0x81), .resume (xs .none .none .none 0x82)]
    let states := [sup 2 3 0 (record true false), sup 1 4 0 (record true false), sup 1 3 0 (record true false), sup 1 3 1 (record true false),
      sup 1 3 2 (record true false), sup 1 3 0 (record false true), sup 1 3 2 (record false true), sup 1 3 3 (record false true),
      sup 1 65535 1 (record true true), sup 1 (2 ^ 48) 1 (record true true), sup 1 65536 0 (record true true),
      sup 1 65536 (2 ^ 32) (record true true), sup 1 (2 ^ 48 - 65536) 1 (record true true), sup 1 0 (2 ^ 32 - 1) (record true true)]
    let code := withCode (squad [(0, [])] [(6, 4)] [])
    let full := code.modCore 0 fun c => { c with locked := (upto 4).map fun i => (1, 0, 128 * i) }
    (clearAll duo 2 three && !(duo.ctx 1).supervisor && (states.all fun s => clearAll s 1 three && (s.ctx 1).supervisor &&
        (s.syncStep 0 (lanes 1)).2) && ((sup 1 3 0 (record true false)).ctx 1).resolved == [] && (record true false).src == 0 &&
      (sup 1 3 0 (record true false)).supervises 1 1 && !(sup 2 3 0 (record true false)).supervises 1 2 &&
      !(sup 1 0 (2 ^ 32 - 1) (record true true)).leasedPage 1 0 (2 ^ 32 - 1) && !((sup 1 3 0 (record true false)).ctx 1).stop &&
      KV.sorted ((sup 1 3 0 (record true false)).ctx 1).records &&
      clearAll code 1 [.locki (xs (.g 20) (.g 6) .none 2), .unlocki (xs .none (.g 6) .none 512)] && code.refCheck 1 4 == none &&
      decide (refOfs 4 / 128 + 2 ≤ (code.codeSlot 1 4).npage * 512) &&
      okWith (code.lockLines (issueOf 1) (refSlot 4) (stepsFrom (refOfs 4 / 128) 1 2) 0) (fun _ k => k == 0) && (code.core 0).locked == [] &&
      okWith (code.fetchWords 0 1 (refSlot 4 * 2 ^ 52 + (0 + 1) * 128) 32) (fun _ _ => true) && (full.core 0).locked.contains (1, 0, 0) &&
      !(full.core 0).locked.contains (1, 0, 512) && !((sup 1 3 0 (record true false)).ctx 1).saved &&
      (full.lockLine 0 (1, 0, 512)).2 == decide (((full.core 0).locked.filter fun x => lineSet full x == lineSet full (1, 0, 512)).length < 4)) = true := by
  decide +kernel

/-- Reordering: lanes that arrive with eight payload registers at the window's end, and a lone fibre whose team has arrived. -/
theorem witness_reordering :
    let r : Instr := .reord (xs .none (.v 5) (.v 56) 7)
    let w := (one []).modFibre (fid 0) fun f => { f with status := .blocked (.reord false false 5 56 8 8) }
    (clearAll duo 2 [r] && !duo.diverged 1 && duo.badReg == [] && ((lanes 2).all fun y => !duo.resultPending y.2) && decide (56 + 8 ≤ (duo.fibre (fid 0)).window) &&
      w.liveFibres (teamKey 0 0) == [fid 0] && !(w.team (teamKey 0 0)).control && decide ((w.fibre (fid 0)).role < 4) &&
      (w.team (teamKey 0 0)).grant == 32 && w.badSump == [] && decide (w.slotsTaken (w.coreOf (fid 0)) [fid 0] < 256) && !(w.ctx 1).stop) = true := by
  decide +kernel

/-- A context whose translation tables map the page of each address listed to itself (06 R145, R146). -/
def tables (pages : List Nat) (s : State) : State :=
  { (s.modCtx 1 fun c => { c with root := 0x30000 }) with
    mem := ((0x30000, words64 [0x40001]) :: (0x40000, words64 [0x50001]) ::
        pages.map fun p => (0x50000 + 8 * (p / 65536), words64 [p + 0xC7])).foldl
      (fun (m : List Host.Cell) (x : Nat × List Byte) => Memory.writes m x.1 x.2) s.mem }

/-- TeamsAndLaunches: a pending team (that of `test_team_start`) and one that is over; a bound queue with a record; a launch
that is over, without a report, with one made through a word, and a completed one; reports to a queue with room and to one
that is full. -/
theorem witness_teams_and_launches :
    let words : List Dword := [0xFFFF0000080000C3, 4, 0x0800400018000020, 0, 0, 0, 0x0100005000000000, 0x0010000000000000]
    let l : Launch := { ctx := 1, words := words, place := [32, 33, 34, 35, 36, 37, 38, 39], params := List.replicate 16 0, phase := 1, unstarted := [5] }
    let s := { State.reset with contexts := [(1, {})], cores := [(37, { clock := 0, widthLimit := 64 })], launches := [(0, l)] }
    let e := (one []).modFibre (fid 0) fun f => { f with status := .exited }
    let block := ((qNew 0x20100 32 2).set 3 1 |>.set 4 1 |>.set 5 3)
    let q := (tables [0x20000] (squad [(0, [])] [] [(0x20000, words64 block), (0x20100, words64 (words.map (·.toNat) ++ List.replicate 8 0))])).modCtx 1
      fun c => { c with queues := [(0x20000, 7)] }
    let done := { one [] with launches := [(0, { loadedLaunch with running := [] })] }
    let word := { tables [0x20000] (one []) with
      launches := [(0, { loadedLaunch with running := [], phase := 2, words := [BitVec.ofNat 64 (0x90 + 2 ^ 24), 0, 0, 0, 0, 0x20008] })] }
    let queue := fun (rtail free : Nat) =>
      let block := (qNew 0x20100 4 2).set 3 rtail |>.set 4 rtail |>.set 5 free
      { tables [0x20000] (squad [(0, [])] [] [(0x20000, words64 block)]) with
        launches := [(0, { loadedLaunch with running := [], phase := 2, words := [BitVec.ofNat 64 (0x10 + 2 ^ 24), 0, 0, 0, 0, 0x20000] })] }
    let offers := fun (s : State) (p : Option Nat → Bool) =>
      let l := s.launch 0
      l.graph.isNone && KV.sorted s.launches && bits (l.words.getD 5 0).toNat 47 0 == 0x20000 && bits (l.words.getD 0 0).toNat 7 7 == 0 &&
        (s.translateRaw 1 0x20000 .write true).2 == .ok 0x20000 && (let s1 := (s.translateRaw 1 0x20000 .write true).1
          !s1.reportSlotBad 1 0x20000 && okWith (s1.qOffer 1 0x20000 16 0 [leBytes 8 l.launchId.toNat ++ leBytes 8 (State.statusWord l).toNat])
            fun _ slot => p slot)
    (offers (queue 0 4) (·.isSome) && offers (queue 4 0) (·.isNone) && 5 < 2 ^ 24 && (s.launch 0).phase == 1 && !(s.ctx 1).saved && !(s.ctx 1).ended && (s.launch 0).unstarted.contains 5 && s.fits l 5 37 &&
      !s.someoneBefore l 5 37 && (e.teams.find (teamKey 0 0)).isSome && !(e.team (teamKey 0 0)).ended && e.liveFibres (teamKey 0 0) == [] && KV.sorted e.pending && !e.issuedOpen (fun f => f.team == teamKey 0 0) && e.cmds == [] && e.mats == [] &&
      q.dispatchChoice 0 == some (1, 0, 0x20000, 7) && (q.freeEntry 0).isSome && (match (q.qTake 1 0x20000 128).2 with
        | .ok (some bs) => bs.length == 128
        | _ => false) &&
      done.launchOver 0 && done.launchReleased 0 && done.graphs == [] && KV.sorted done.launches && ((done.launch 0).graph).isNone &&
      bits ((done.launch 0).words.getD 5 0).toNat 47 0 == 0 && (done.makeReport 0).2 &&
      bits ((word.launch 0).words.getD 5 0).toNat 47 0 == 0x20008 && bits ((word.launch 0).words.getD 0 0).toNat 7 7 == 1 &&
      (word.translateRaw 1 0x20008 .write true).2 == .ok 0x20008 && word.owners == [] && !word.eccBad 0x20008 8 && Memory.wf word.mem && (word.makeReport 0).2) = true := by
  decide +kernel

/-- Graphs: a header of four nodes, one of each kind, whose run may begin, and an activation of each node; a join at its last
predecessor and before it, a while node at its limit and past it. -/
theorem witness_graphs :
    let node := fun (kind ns succ addr n pend : Nat) => words64 [kind + 8 * ns, succ, addr, n + pend * 2 ^ 32, 0, 0, 0, 0]
    let mem := fun (pend count : Nat) => [(0x20000, words64 [0x4B47 + 4 * 2 ^ 16, 0, 0, 0, 0, 0, 0, 0]), (0x20040, node 0 1 1 0x20400 0 0),
      (0x20080, node 1 1 2 0 2 pend), (0x200C0, node 2 2 (1 + 3 * 2 ^ 16) 0x20300 0 0), (0x20100, node 3 2 (1 * 2 ^ 16) 0x20300 4 count),
      (0x20300, words64 [1]), (0x20400, words64 (0x20 :: List.replicate 15 0))]
    let with' := fun (pend count : Nat) (x : Graph) => { tables [0x20000] (squad [(0, [])] [] (mem pend count)) with graphs := [(9, x)] }
    let idle : Graph := { ctx := 1, hdr := 0x20000 }
    let act := fun (n : Nat) => { idle with active := true, pa := 0x20000, nnode := 4, acts := [n] }
    let goes := fun (s : State) (n kind : Nat) => match s.activation 9 n with
      | some (_, .ok dw) => bits (dw.getD 0 0) 2 0 == kind && (State.successors dw).all (· < 4)
      | _ => false
    let s := with' 2 0 idle
    (goes (with' 2 0 (act 0)) 0 0 && goes (with' 2 0 (act 1)) 1 1 && goes (with' 1 0 (act 1)) 1 1 && goes (with' 2 0 (act 2)) 2 2 &&
      goes (with' 2 3 (act 3)) 3 3 && goes (with' 2 4 (act 3)) 3 3 && (s.translateRaw 1 0x20000 .read false).2 == .ok 0x20000 &&
      !s.graphBusy 9 0x20000 && okWith (s.readRaw 1 0x20000 8) (fun t bs => bits (leNat bs) 15 0 == 0x4B47 && bits (leNat bs) 31 16 == 4 &&
        bits (leNat bs) 47 32 == 0 && okWith ({ t with graphs := t.graphs.upd 9 fun x => { x with active := true, pa := 0x20000, nnode := 4 } }.resetNodes
          9 idle 4 0) (fun _ _ => true)) &&
      okWith (s.readRaw 1 0x20300 8) (fun _ bs => leNat bs == 1) && okWith (s.graphWrite 1 (0x20000 + 64 * 2 + 28) [1, 0, 0, 0]) (fun _ _ => true) &&
      okWith (s.graphWrite 1 (0x20000 + 64 * 4 + 28) [1, 0, 0, 0]) (fun _ _ => true) &&
      okWith (s.readRaw 1 0x20400 128) (fun t bs => recVer (dwordsOf bs) != 15 && (t.freeEntry 0).isSome)) = true := by decide +kernel

/-- Graphs, the completion of a node's launch: one with an error and one without, that keeps two successors. -/
theorem witness_graph_completion :
    let run : Graph := { ctx := 1, hdr := 0x20000, active := true, pa := 0x20000, nnode := 4, out := 1 }
    let s := fun (e : Bool) => { one [] with
      graphs := [(9, run)]
      launches := [(0, { loadedLaunch with running := [], graph := some (9, 0), succs := [1, 3], err := e, words := [0x20] })] }
    ([false, true].all fun e => KV.sorted (s e).launches && (s e).launchOver 0 && (s e).launchReleased 0 && ((s e).graphs.find 0).isNone &&
      ((s e).launch 0).graph == some (9, 0) && ((s e).launch 0).err == e && run.err.isNone && ((s e).launch 0).succs.all (· < run.nnode)) =
      true := by decide +kernel

/-- A graph of one join node that waits for two, at 0x20000. -/
def joinGraph : State :=
  { tables [0x20000] (squad [(0, [])] [] [(0x20000, words64 [0x4B47 + 2 ^ 16, 0, 0, 0, 0, 0, 0, 0]),
      (0x20040, words64 [1, 0, 0, 2, 0, 0, 0, 0])]) with graphs := [(9, { ctx := 1, hdr := 0x20000 })] }

/-- Eight bytes of a machine like `joinGraph` but for its PEND word, outside that word. -/
theorem join_home {u : State} (h : LikeButPend joinGraph 1 (fun _ => 0x20040) u) (a : Nat) (ha : a + 8 ≤ 0x2005C ∨ 0x20060 ≤ a) :
    u.home64 a = joinGraph.home64 a := by
  unfold State.home64 State.homeBytes
  rw [List.map_congr_left fun i hi => h.2.2.2.2 (a + i) fun n _ => ?_]
  have := List.mem_range.1 hi
  show a + i < 0x20040 + 28 ∨ 0x20040 + 32 ≤ a + i
  omega

/-- A walk goes through a table entry. -/
theorem walk_table {u : State} {va n level tbl : Nat} {k : WalkKind} {w : Bool} {p : Dword} (hb : u.badMem = [])
    (hp : u.home64 (tbl + 8 * pteIndex va level) = p) (h0 : bit p.toNat 0 = true)
    (hr : (pteReserved p.toNat || leafIllegal p.toNat level) = false) (h1 : bit p.toNat 1 = false) :
    u.walk va k w (n + 1) level tbl = u.walk va k w n (level + 1) (bits p.toNat 46 16 * 2 ^ 16) := by
  rw [State.walk]
  simp only [hp, State.eccBad, hb, h0, hr, h1]
  simp

/-- A walk ends at a leaf with A and D set. -/
theorem walk_leaf {u : State} {va n level tbl : Nat} {k : WalkKind} {w : Bool} {p : Dword} (hb : u.badMem = [])
    (hp : u.home64 (tbl + 8 * pteIndex va level) = p) (h0 : bit p.toNat 0 = true)
    (hr : (pteReserved p.toNat || leafIllegal p.toNat level) = false) (h1 : bit p.toNat 1 = true)
    (hf : leafFault p.toNat u.spread k w = none) (hq : p ||| 0x40#64 ||| (if w then 0x80#64 else 0#64) = p) :
    u.walk va k w (n + 1) level tbl = (u, .ok (p, level == 2)) := by
  rw [State.walk]
  simp only [hp, State.eccBad, hb, h0, hr, h1, hf, BitVec.ofNat_toNat, BitVec.setWidth_eq, hq]
  simp

/-- The page of `joinGraph` translates in every such machine, which stays as it is. -/
theorem join_translates {u : State} (h : LikeButPend joinGraph 1 (fun _ => 0x20040) u) (va : Nat) (k : WalkKind) (w : Bool)
    (hf : leafFault 0x200C7 joinGraph.spread k w = none) (h1 : pteIndex va 1 = 0) (h2 : pteIndex va 2 = 0)
    (h3 : pteIndex va 3 = 2) (hv : ¬2 ^ 48 ≤ va) : u.translateRaw 1 va k w = (u, leafTarget 0x200C7 va false) := by
  have r : (u.ctx 1).root = 0x30000 := by
    rw [State.ctx, h.1]; decide +kernel
  have e1 : u.home64 (0x30000 + 8 * pteIndex va 1) = 0x40001 := by
    rw [h1, join_home h _ (by omega)]; decide +kernel
  have e2 : u.home64 (0x40000 + 8 * pteIndex va 2) = 0x50001 := by
    rw [h2, join_home h _ (by omega)]; decide +kernel
  have e3 : u.home64 (0x50000 + 8 * pteIndex va 3) = 0x200C7 := by
    rw [h3, join_home h _ (by omega)]; decide +kernel
  have b : u.badMem = [] := h.2.2.2.1
  have walked : u.walk va k w 3 1 0x30000 = (u, .ok (0x200C7, false)) :=
    (walk_table b e1 (by decide) (by decide) (by decide)).trans ((walk_table b e2 (by decide) (by decide) (by decide)).trans
      (walk_leaf b e3 (by decide) (by decide) (by decide) (by rw [h.2.1]; exact hf) (by cases w <;> decide)))
  rw [State.translateRaw, if_neg hv, r, walked]
  rfl

/-- GraphStart: its header and its node translate in every machine that differs only in the PEND word. -/
theorem witness_graph_start :
    let s := joinGraph
    let h := leNat (s.homeBytes 0x20000 8)
    (s.owners = [] ∧ s.badMem = [] ∧ bits h 15 0 = 0x4B47 ∧ bits h 47 32 < bits h 31 16 ∧ bits h 31 16 = 1 ∧
      s.translateRaw 1 0x20000 .read false = (s, .ok 0x20000) ∧ s.graphBusy 9 0x20000 = false ∧ (s.ctx 1).saved = false ∧
      (s.graphs.find 9).isSome = true) ∧
    ∀ u, LikeButPend s 1 (fun _ => 0x20040) u → u.translateRaw 1 0x20000 .read false = (u, .ok 0x20000) ∧
      ∀ n < 1, u.translateRaw 1 (0x20000 + 64 * (n + 1)) .read false = (u, .ok 0x20040) ∧
        u.translateRaw 1 (0x20000 + 64 * (n + 1) + 28) .write true = (u, .ok (0x20040 + 28)) := by
  have q : ∀ u, LikeButPend joinGraph 1 (fun _ => 0x20040) u → u.translateRaw 1 0x20000 .read false = (u, .ok 0x20000) := fun u h =>
    join_translates h 0x20000 .read false (by decide +kernel) (by decide) (by decide) (by decide) (by decide)
  refine ⟨⟨by decide +kernel, by decide +kernel, by decide +kernel, by decide +kernel, by decide +kernel,
    q _ ⟨rfl, rfl, by decide +kernel, by decide +kernel, fun _ _ => rfl⟩, by decide +kernel, by decide +kernel, by decide +kernel⟩,
    fun u h => ⟨q u h, fun n hn => ?_⟩⟩
  obtain rfl : n = 0 := by omega
  exact ⟨join_translates h 0x20040 .read false (by decide +kernel) (by decide) (by decide) (by decide) (by decide),
    join_translates h 0x2005C .write true (by decide +kernel) (by decide) (by decide) (by decide) (by decide)⟩

/-- ContextSteps: a record to offer to a fault queue with room; a stop, a settled context, and one that can be restored. -/
theorem witness_context_steps :
    let block := qNew 0x20100 16 2
    let s := (tables [0x20000] (squad [(0, [])] [] [(0x20000, words64 block)])).modCtx 1 fun c => { c with faultq := 0x20000, waiting := [record true false] }
    let stopping := ((one []).modCtx 1 fun c => { c with stop := true }).modFibre (fid 0) fun f => { f with status := .blocked .stopped }
    let saved := ((one []).modCtx 1 fun c => { c with saved := true, stop := true }).modFibre (fid 0) fun f => { f with status := .blocked .stopped }
    let saved := { saved with groups := [] }
    let gone := saved.modCtx 1 fun c => { c with recorded := [(5, [7], 1)] }
    let kept := saved.modCtx 1 fun c => { c with recorded := c.slots.map fun x => (x.1, x.2.hash, 2) }
    let map := upto 48
    ((s.ctx 1).faultq % 64 == 0 && (s.translateRaw 1 0x20000 .write true).2 == .ok 0x20000 &&
      okWith (s.qOffer 1 0x20000 64 0 [State.recordBytes (record true false)]) (fun _ i => i.isSome) &&
      (one []).running 1 && !((one []).ctx 1).stop && stopping.running 1 && stopping.settled 1 && ((stopping.ctx 1).saver).isNone &&
      gone.mapOk 1 map && gone.restoreFits 1 map && ((gone.ctx 1).slots.getD 5 {}).state == 0 && gone.restoreRefused 1 &&
      kept.mapOk 1 map && kept.restoreFits 1 map && !kept.restoreRefused 1 &&
      saved.mapOk 1 map && !saved.restoreRefused 1 && saved.restoreFits 1 map && (saved.ctx 1).resolved == []) = true := by decide +kernel

/-- ContextSteps, the page-hash check: a page that waits for it translates, and holds no error. -/
theorem witness_hash_check :
    let s := tables [0x20000] ((one []).modCtx 1 fun c => { c with slots := [(0, { loadedSlot with laddr := 0x20000, vbm := [] })] })
    let s := { s with hashWait := [(1, 0, 0)], mem := Memory.writes s.mem 0x50010 (words64 [0x2004B]) }
    s.hashWait.contains (1, 0, 0) && ((s.ctx 1).slots.find 0).isSome && s.hashWaiters 1 0 0 == [] &&
      (s.translateRaw 1 0x20000 .fetch false).2 == .ok 0x20000 && !s.eccBad 0x20000 65536 = true := by decide +kernel

/-- BringUpAndPower: each stage reached with no failure, before and after the unclonable function was read; images that
are not readable and not signed; readings at the ends of the ranges that enter and leave each thermal state. -/
theorem witness_bring_up :
    let at' := fun (n : Nat) => { State.reset with dev := { State.reset.dev with power := true, stage := n } }
    let on : State := { one [] with dev := { (one []).dev with cfg := [BitVec.ofNat 64 (1000 * 2 ^ 9 + 3 * 2 ^ 7)], ports := [(0, { up := true })] } }
    let img : CfgImage := { readable := true, dws := [], rsaKey := [], slhKey := [], rsaSig := [], slhSig := [] }
    let r : HealthSample := { die := [0, 1000, 1, 999], days := 1, temp := 2, volt := 3, active := 4 }
    let th := fun (j h before : Nat) => State.thermalState 1000 ⟨j, h, 970⟩ (State.passedNow 1000 ⟨j, h, 970⟩ before)
    (!State.reset.dev.power && ([1, 2, 3, 4, 5].all fun n => (at' n).dev.power && (at' n).dev.fail == 0 && (at' n).dev.stage == n) &&
      ((at' 2).dev.puf).isNone && (match exec (.builtInSelfTest true (2 ^ 256 - 1)) (at' 2) with
        | .next t => t.dev.puf == some (2 ^ 256 - 1) && (at' 3).dev.fail == 0
        | _ => false) &&
      img.readable && !{ img with readable := false }.readable && sha384 img.rsaKey != (at' 5).dev.ownerKeys.take 48 &&
      on.dev.ready && on.powerCap == 1000 && decide (100 * 970 ≤ 97 * on.powerCap) &&
      ([(110, 95, 31), (110, 90, 0), (109, 94, 0), (105, 90, 0), (104, 94, 8), (101, 90, 8), (104, 94, 0), (100, 90, 16), (99, 94, 4), (96, 90, 4),
          (99, 94, 0), (95, 90, 16), (109, 95, 0), (60, 95, 0), (90, 90, 31), (0, 0, 0)].map fun x => th x.1 x.2.1 x.2.2) ==
        [4, 4, 3, 3, 3, 3, 2, 2, 2, 2, 1, 1, 3, 3, 0, 0] &&
      State.thermalState on.powerCap ⟨95, 90, 970⟩ (State.passedNow on.powerCap ⟨95, 90, 970⟩ (on.dev.passed.getD 3 0)) != 4 &&
      r.die.length == 4 && r.die.all (fun d => decide (d ≤ 1000)) && (on.dev.ports.find 0).isSome && on.dev.health.die.length == 4) = true := by
  decide +kernel

/-- A configured device with both ports up: port 0 has 10.0.0.2/24 and fe80::2, priority 5 for pauses. -/
def network : State :=
  let cfg : List Dword := [BitVec.ofNat 64 (1000 * 2 ^ 9 + 3 * 2 ^ 7 + 6635 * 2 ^ 20), 0, 0, 0, 0, 0, 0, 5, 0, 0, 0x0A000002, 0x0A000001,
    BitVec.ofNat 64 (24 + 64 * 2 ^ 16), 0x80FE, 0x0200000000000000, 0, 0, 0]
  let s := tables [0x20000] (one [])
  { (s.modCtx 1 fun c => { c with regions := [(8, ⟨0x20000, 65536, true, true⟩)] }) with
    dev := { s.dev with cfg := cfg, ports := [(0, { up := true, hops4 := [(0x0A000003, 77)] }), (1, { up := true })] }
    qps := [(2, { ctx := 1, port := 0, ip := 0x0A000003, rqpn := 9, rpsn := 4, rate := 800 })] }

/-- PortsAndRemoteMemory: packets for the port and not for it, a paused priority, a resolution waited for, and requests that
a registration serves, at its last bytes, and does not serve. -/
theorem witness_ports :
    let p : NetPkt := { port := 0, vid := none, v6 := false, src := 0x0A000003, dst := 0x0A000002, mac := 7, prio := 5, quanta := 1, data := [1] }
    let p6 := { p with v6 := true, dst := network.portIp6 0 }
    let waits := { network with dev := { network.dev with ports := network.dev.ports.upd 0 fun x => { x with
      hops4 := [], out := [{ hop := some (false, 0x0A000003), pkt := .ack 9 4 }] } } }
    let r : RdmaReq := { port := 0, vid := none, src := 0x0A000003, dst := 0x0A000002, psn := 4, qpn := 2, rkey := 8, va := 0x2FFFC,
                          len := 4, data := [1, 2, 3, 4], ce := false }
    let ready := fun (s : State) (n : Nat) => s.portLive n && decide ((s.port n).paused ≤ s.clockOf 0) && (s.port n).out == []
    let way := fun (s : State) => match s.nextHop 0 false 0x0A000003 with
      | some hop => State.resolved (s.port 0) (some (false, hop))
      | none => false
    (network.dev.power && network.heard p && ready network 0 && network.configured && network.ownIp 0 false p.dst && network.ownIp 0 true p6.dst &&
      !network.ownIp 0 false 0x0A000009 && way network && network.portIp6 0 != 0 && network.cfgField 7 2 0 == 5 && waits.heard p &&
      (waits.port 0).out == [{ hop := some (false, 0x0A000003), pkt := .ack 9 4 }] && network.served r true 4 && network.served r false 4 &&
      !network.served { r with rkey := 9 } true 4 && network.requestHeard r && !network.requestHeard { r with qpn := 3 } &&
      !network.requestHeard { r with vid := some 1 } && (network.psnBehind r, network.psnBehind { r with psn := 3 }, network.psnBehind { r with psn := 5 }) == (0, 1, 2 ^ 24 - 1) && decide (r.va % 65536 + 4 ≤ 65536) &&
      (network.translateRaw 1 r.va .write true).2 == .ok 0x2FFFC && (network.translateRaw 1 r.va .read false).2 == .ok 0x2FFFC &&
      ready (network.translateRaw 1 r.va .write true).1 0 && way (network.translateRaw 1 r.va .write true).1 &&
      Memory.wf (network.translateRaw 1 r.va .write true).1.mem) = true := by decide +kernel

/-- Management: the owner's session, a frame in turn, one without a session, ones with a wrong version, port and TAG, a
remote enqueue in turn, a held frame whose number is next; numbers ahead, far ahead and repeated. -/
theorem witness_management :
    let me : Sender := ⟨0x0A000003, 2⟩
    let e : Session := { sender := me, port := 0, key := [1], owner := true, skey := [2], next := [(0, 5), (1, 6)], kept := [(0, 4, 0x11, [7])] }
    let s := { network with dev := { network.dev with sessions := [(3, e)] } }
    let frame := fun (kind ctx seq : Nat) (payload : List Byte) (from_ : Sender) => ({ port := 0, vid := none, sender := from_, dst := 0x0A000002
                                                                                       dport := 6635, ver := 1, rsv := 0, kind := kind
                                                                                       ctxid := ctx, seq := seq, len := payload.length
                                                                                       tag := frameTag [2] kind ctx seq payload.length payload
                                                                                       payload := payload } : Frame)
    let ops := [0x01, 0x02, 0x03, 0x04, 0x10, 0x11, 0x12, 0x13, 0x14, 0x15, 0x16, 0x17, 0x18, 0x20, 0x21, 0x30]
    let f := fun (op : Nat) => frame 0x10 0 5 (leBytes 8 op) me
    let held := { s with dev := { s.dev with sessions := [(3, { e with held := [f 1] })] } }
    let enq := frame 1 1 6 (words64 [0x20000, 4 + 2 ^ 16] ++ [1, 0, 0, 0]) me
    (ops.all (fun op => s.frameOk (f op) && State.opOf (f op) == op) && (s.sessionOf me).isSome && (f 1).seq == e.next.getD 0 0 &&
      (s.sessionOf ⟨0x0A000009, 9⟩).isNone && s.frameOk (frame 0x10 0 5 (leBytes 8 3) ⟨0x0A000009, 9⟩) && !s.frameOk { f 1 with ver := 2 } &&
      !s.frameOk { f 1 with dport := 4791 } && !s.frameOk { f 1 with dst := 0x0A000001 } &&
      ({ f 1 with tag := 0 }).tag != frameTag e.skey 0x10 0 5 8 (leBytes 8 1) && s.frameOk enq && s.named 1 && s.reach e 1 &&
      enq.seq == e.next.getD 1 0 && !s.enqueueWaits enq && (held.dev.sessions.find 3).isSome &&
      (held.dev.sessions.all fun x => (x.2.held.find? fun f => f.ctxid == 0 && f.seq == x.2.next.getD 0 0).isSome) && held.frameOk (f 1) &&
      (e.kept.filter fun k => k.1 == 0 && k.2.1 == (e.next.getD 0 0 + (2 ^ 32 - 1)) % 2 ^ 32).length == 1 && e.held == []) = true := by
  decide +kernel

/-- Management: legal payloads of the operations over contexts, at the ends of their fields' ranges. -/
theorem witness_management_payloads :
    let s := network
    let z := fun (n : Nat) => List.replicate n (0 : Byte)
    let ok := fun (op : Nat) (body : List Byte) (n : Nat) (fields : List (Nat × Nat)) => fieldsOk (leBytes 8 op ++ body) n fields
    (ok 1 [] 8 [] && !ok 1 [1] 8 [] && ok 2 (z 34) 42 [(8, 34)] && ok 4 (z 48 ++ [63, 1, 16] ++ z 5 ++ z 32) 96 [(8, 51), (64, 32)] &&
      ok 0x10 (z 8 ++ leBytes 2 5 ++ [0, 0] ++ z 4 ++ z 24 ++ leBytes 8 (16 * 2 ^ 20)) 56 [(8, 12), (24, 32), (56, 0)] &&
      ok 0x11 (leBytes 2 1) 10 [(8, 2)] && ok 0x12 (leBytes 2 1 ++ [7, 0] ++ z 4 ++ leBytes 8 0x20000) 24 [(8, 3), (16, 8)] &&
      ok 0x13 (leBytes 2 1 ++ leBytes 2 4095 ++ [1] ++ z 3 ++ z 16) 32 [(8, 5), (16, 16)] && ok 0x14 (leBytes 2 1 ++ z 6 ++ z 16) 32 [(8, 2), (16, 16)] &&
      ok 0x15 (leBytes 2 1 ++ z 6 ++ z 56) 72 [(8, 2), (16, 56)] && ok 0x16 (leBytes 2 1 ++ [3, 0] ++ z 4 ++ z 16) 32 [(8, 3), (12, 4), (16, 16)] &&
      ok 0x17 (leBytes 2 1 ++ z 6 ++ z 23) 39 [(8, 7), (16, 19), (36, 3)] &&
      ok 0x18 (leBytes 2 1 ++ z 2 ++ leBytes 3 0xFFFFFF ++ z 1 ++ z 24) 40 [(8, 7), (16, 4), (24, 16)] && ok 0x21 (leBytes 2 600) 10 [(8, 2)] &&
      ok 0x30 (leBytes 2 1 ++ [7, 1] ++ z 4 ++ z 8) 24 [(8, 4), (16, 8)] && s.named 1 && s.cfgField 0 19 9 == 1000 && (s.qps.find 2).isSome &&
      KV.sorted (s.ctx 1).slots && KV.sorted (s.ctx 1).endpoints && KV.sorted (s.ctx 1).breaks && s.contexts.length == 1 &&
      ok 3 (z 904) 912 [(8, 97), (112, 800)] && ok 4 (z 48 ++ [0, 1, 0]) 59 [(8, 51), (64, 0)] && ok 0x17 (leBytes 2 1 ++ [0, 128] ++ [2, 0, 0] ++ z 24) 39 [(8, 7), (16, 19), (36, 3)] &&
      !(s.ctx 1).saved && ((s.ctx 1).saver).isNone && (s.ctx 1).queues == []) = true := by decide +kernel

/-- Management, illegal requests: for each operation a payload with a byte too many or too few, and fields out of their
ranges. -/
theorem witness_illegal_requests :
    let s := network
    let z := fun (n : Nat) => List.replicate n (0 : Byte)
    let odd := fun (op : Nat) (body : List Byte) (n : Nat) (fields : List (Nat × Nat)) => !fieldsOk (leBytes 8 op ++ body) n fields
    let at' := fun (n : Nat) (bs : List Byte) => leBytes 8 1 ++ z (n - 8) ++ bs
    (odd 1 [1] 8 [] && odd 2 (z 33) 42 [(8, 34)] && !s.named (pf (at' 40 [9, 0]) 40 2) && odd 3 (z 903) 912 [(8, 97), (112, 800)] &&
      odd 4 (z 50) 59 [(8, 51), (64, 0)] && decide (63 < pf (at' 56 [64]) 56 1) && decide (1 < pf (at' 57 [2]) 57 1) &&
      decide (16 < pf (at' 58 [17]) 58 1) && decide (2 ^ 48 ≤ pf (at' 8 (leBytes 8 (2 ^ 48))) 8 8) && decide (pf (at' 16 [4, 0]) 16 2 < 5) &&
      decide (2000 < pf (at' 16 (leBytes 2 2001)) 16 2) && pf (at' 24 [1]) 24 8 % 64 != 0 && decide (pf (at' 48 (leBytes 8 (16 * 2 ^ 20 - 1))) 48 8 < 16 * 2 ^ 20) &&
      !s.named 0 && bits (pf (at' 10 [8]) 10 1) 6 3 != 0 && decide (4095 < pf (at' 10 [0, 16]) 10 2) && pf (at' 24 (leBytes 8 32768)) 24 8 % 65536 != 0 &&
      bits (pf (at' 10 [4]) 10 1) 6 2 != 0 && (s.ctx 1).regions.find 7 == none && decide (2 ^ 48 < 2 ^ 48 - 1 + 2) && s.qps.find 3 == none &&
      (match s.qps.find 2 with
        | some q => q.ctx == 1
        | none => false) && decide (599 < 600) && decide (s.cfgField 0 19 9 < 1001) && decide (7 < pf (at' 10 [8]) 10 1)) = true := by decide +kernel

/-- A modulus of RSA-3072 and the RSASSA-PSS signature (SHA-384, salt of 48 bytes) that OpenSSL 3.0 makes with its private
exponent over `attachBody`. -/
def rsaModulus : Nat :=
  0xB204C2E5945F85F3F88A047DC75F53C40F603AE07D1016EFF2A6D9EF2778418BC9B3F4EB41AB8FC882BCC5893ACCD6CA696ECC16344D4D5F2A7BF3692CC9E5FE0B3D9FAC03F5C4F99885C37F47466EDB532C684BEA97D132B70C952CD099627A8164F4EFD4FEB57B364DEFDFEE7BC95A267FE06839DD376FBD22BB86952E90DF7B62B97298F7BA3EEADEA5A809E8D86D13B80853A8176BFC64AEBC9B8CCB097165346494194C9B726E7044BA29B9EAE1B3D203C63D3803DD0874E1D4CD78103A7BF973F1FB51E1584425628F5FDF58DB32DC5AFEC8BDD338494E336E6B7C012BD03D68DC40B0AC3DA02DAF8F1440987C178304A3B1ED5921FF069237F90426C6E4917A0957BC421366A8C494973DD30092D3EB11FFBAAE02919D7A00C60B82ECFD15F9BE2C55088673DFCF608BB2B7727462C062F9138845EE0D4FC985C8AABD170DB40E97A91F81A9CC06F9654FE2C8B990D9F941832BB1D13A72DFE5CEF2530A9E031C6B3D066505B4607224800FDEA8D1A010B6F5A398EEEBDA54A43DD72B
def rsaSignature : Nat :=
  0x373C79357E9FB6702E9B5007391A154DB9A667B66E37DBC53135C20CDEDBD624775E70299453C8D7ADEEF13BB3FCBD61ABE1CCA3B3F043F128E4C0352F42BBD26534F582EF513FA8392CBE7D7EF8D836C910801E646CAFD32CA388F9753972A991A1D5C755C13FD481DAEDAE6967DF50F860AB55F7FE0EE08BA215C81AFFCB3E76E5CF043B81A93E5B531B4BA13873F39D8CAD53445C890E45B66F054711061C7F4BFC65B2C3F0C3B75605A3A7AD3CBA13ECC022406220CF8968E82755F5D8E9C9D3E6E48EE1E595E2516F2FDC138832942E941FCD3FB07F3B2EFB4FFE34D1C54BA1C9FE3B1746E943DD8BF33F6281F4114E005CCC223D59132583148B7B317F8F41F8F2B4ADBF2EA607BEBE507673A48A57C8785F20CEA36FFDA6D1F9080C5002595C171810E24BF46238DA1162F204E4F1D07999714591A63E3CB50E4DFF0F2C90A97DA1642ED869B9C0EE9E2E3E1FCD062FC68A2455B9622200F0B5437152FE18122208B19B36458302DA310E2AB9474D0BD9E456D5A62102D0F41CFFCEBD

/-- The signed bytes of an ATTACH payload: the host key is the base point of P-384. -/
def attachBody : List Byte :=
  leBytes 8 3 ++ sec1 (some p384Base) ++ List.replicate 7 0 ++ List.replicate 32 1 ++ beBytes 384 rsaModulus

/-- Attach: the signature of an unknown and of a known key verifies, another does not; the reserved bytes are zero, and the host
key is a point of the curve. -/
theorem witness_attach :
    let p := attachBody ++ beBytes 384 rsaSignature
    let bad := attachBody ++ beBytes 384 (rsaSignature + 1)
    let key := beBytes 384 rsaModulus
    let s := { network with dev := { network.dev with peers := [(0, (sha384 key, [1]))] } }
    (fieldsOk p 912 [(8, 97), (112, 800)] && (p.drop 144).take 384 == key && pssVerify key (p.take 528) ((p.drop 528).take 384) &&
      !pssVerify key (bad.take 528) ((bad.drop 528).take 384) && s.dev.peers.any (fun x => x.2.1 == sha384 key) &&
      !network.dev.peers.any (fun x => x.2.1 == sha384 key) && sha384 key != network.ownerHash &&
      (sec1Point ((p.drop 8).take 97)).isSome && (ecdh384 1 ((p.drop 8).take 97)).isSome) = true := by decide +kernel

/-- Attach: a host key whose point is not on the curve is refused with every secret. -/
theorem witness_attach_off_curve (d : Nat) :
    let off := sec1 (some p384Base) |>.set 96 0
    ecdh384 d off = none ∧ off.length = 97 := by
  have h : sec1Point (sec1 (some p384Base) |>.set 96 0) = none := by decide +kernel
  exact ⟨by rw [ecdh384, h], by decide +kernel⟩

/-- Progress: a group unissued for 128 clocks, a slot with a lifted ready group, a counter at 16 and a demotion that is over. -/
theorem witness_progress :
    let g := fun (f : Group → Group) => let s := { one [] with issue := none }; s.modGroup 1 f
    let spin : Spin := { lanes := [fid 0], due := true, branches := [(false, [])] }
    let full : Spin := { lanes := [fid 0], count := 15, branches := [(false, []), (false, [4])] }
    let old : Spin := { lanes := [fid 0], demotedUntil := some 100 }
    let lifted := g fun x => { x with lifted := true }
    (((g fun x => { x with waited := 128 }).group 1).waited == 128 && (lifted.chooseGroup 0 0).isSome && (lifted.readyGroups 0 0).any (fun y => y.2.lifted) &&
      (g fun x => { x with spins := [spin] }).spinAt 1 4 State.spinDue == some spin && (State.spinUpdate full).due && !full.due && (State.spinUpdate { spin with due := false }).count == 1 &&
      (g fun x => { x with spins := [old] }).spinAt 1 4 (State.spinOver 100) == some old) = true := by decide +kernel

/-- StepRunsDecoded: the state that withFetchWord lays out: the port is free, the group is chosen, its subset stands at the
instruction, and the step runs it; also that the word is fetched and decoded there. POPC of v3 = 0 gives 0 in v2, pc 8. -/
theorem witness_step :
    let s := State.reset.withFetchWord 32 0x00308900
    let f : FibreId := ⟨teamKey 0 0, 0⟩
    let woken := { s with agenda := [] }.wakeAll
    (s.agenda == [.issue 0 0] && woken.portFree 0 0 && (woken.chooseGroup 0 0).isSome &&
      (woken.eligible 1).map (·.2) == [.run (.popc (bu 2 3)) 1] && s.refCheck 1 4 == none && okWith (s.codeWord 0 1 4) (fun t w => w == 0x00308900 &&
        okWith (t.codeWords 0 1 4 1) fun _ ws => ws == [0x00308900]) &&
      recEntry (s.launch (s.team (s.leadTeam 1)).launch).words != 4 && recEntry [0, 4] == 4 && okWith (s.codeWord 0 1 (4 - BitVec.ofNat 64 (4 * 1))) (fun _ h =>
        h.getLsbD 1 && h.getLsbD 0) && woken.groups.all (fun x => x.2.spins.isEmpty) && s.instrAt 0 1 4 == some (.popc (bu 2 3), 1) &&
      (match step s with
        | .next t => (t.fibre f).pc == 8 && Memory.wf t.mem
        | _ => false)) = true := by decide +kernel

/-- ListsKept: states that are listed, right after reset and with two teams and a pending result. -/
theorem witness_lists : State.reset.Listed ∧
    { pair with pending := [(1, { fib := fid 0, gid := 1, core := 0, dests := [(.v 0, 1)] })], nextId := 3 }.Listed := by
  constructor <;> constructor <;> decide +kernel

/-- MemoryKept holds of a state that writes: its HBM has the form before. EncodeDecode: a well-formed instruction of a word.
MinorsOfXTAndXC: a word whose minor is no instruction parses, and is refused where a fetch meets it. -/
theorem witness_invariant_and_encoding :
    let s := { one [] with mem := Memory.writes [] 65536 (words32 ([7, 0x0E62, 9, 0])) }
    (Memory.wf s.mem && Memory.wf State.reset.mem && !(Instr.add (br 1 2 3)).isStep && (Instr.add (br 1 2 3)).wf &&
      (match parse [0x0E62, 9, 0] with
        | .ok (e, _) => (ofEnc e).isNone
        | _ => false) &&
      s.refCheck 1 4 == none && okWith (s.codeWord 0 1 4) (fun t w => w == 0x0E62 && okWith (t.codeWords 0 1 4 3) fun _ ws =>
        ws == [0x0E62, 9, 0] && isNot ws)) = true := by decide +kernel

end Sys2Proof.Tests
end

section
/-! The statement on barriers and widths. Its claim on the gallery barrier asks that the teams be listed in rising order, but
not that each team's fibres are (`State.Listed.fibres`). Where a team lists a later fibre before an earlier one, writing the
earlier one back lists it a second time, and the phase then expects a fibre more than have arrived. -/

namespace Sys2Proof.Machine.Misordered

/-- The fibre that arrives last. -/
def last : FibreId := ⟨teamKey 0 0, 0⟩

/-- The fibre that waits for it. -/
def early : FibreId := ⟨teamKey 0 0, 1⟩

/-- The issue of the last fibre, in lane 0 of group 1. -/
def issue : Issue := { gid := 1, core := 0, ctx := 1, pc := 4, next := 8, lanes := [(0, last)], atEnd := false }

/-- GBAR, guarded by k0. -/
def gbar : XS := ⟨⟨0, false⟩, ⟨0, false⟩, .none, .none, .none, .none, 0⟩

/-- A gallery of one team of two fibres: fibre 1 waits at the gallery barrier, fibre 0 issues its GBAR. The team lists fibre
1 before fibre 0. -/
def machine : State :=
  { State.reset with
    issue := some issue
    nextId := 2
    contexts := [(1, {})]
    launches := [(0, { loadedLaunch with galleries := [(0, { phase := 0, arrived := [early] })] })]
    teams := [(teamKey 0 0, { loadedTeam with
      nfib := 2
      fibres := [(1, { loadedFibre with status := .blocked (.gbar 0 8) }), (0, loadedFibre)] })]
    groups := [(1, { loadedGroup with members := [last, early] })] }

/-- No check stands in the way of the last fibre's GBAR. -/
theorem clear : machine.Clear (.gbar gbar) issue [(0, last)] where
  issue := rfl
  guarded := by decide +kernel
  some' := by simp
  inside := rfl
  window := by decide +kernel
  streams := by decide +kernel
  uniform := by decide +kernel
  guards := by decide +kernel
  pops := by decide +kernel
  sources := by decide +kernel

/-- Its release waits for nothing. -/
theorem released : Released machine issue.core [(0, last)] := by
  refine ⟨fun x hx => ?_, by decide +kernel⟩
  rw [List.mem_singleton.1 hx]
  decide +kernel

/-- It is the last that the phase expects. -/
theorem arrived_all_but_last :
    let g := machine.homeGallery last
    (machine.galleryArrived g.1 g.2).length + 1 = machine.galleryExpected g.1 g.2 := by decide +kernel

/-- An instruction leaves a fibre parked in phase 0 of its gallery barrier. -/
def parks (f : FibreId) : Host.Outcome State Fault Refusal → Bool
  | .next t => (t.fibre f).status == .blocked (.gbar 0 8)
  | _ => false

/-- Its GBAR parks it all the same. -/
theorem gbar_parks_last : parks last (exec (.gbar gbar) machine) = true := by decide +kernel

end Sys2Proof.Machine.Misordered

open Sys2Proof Sys2Proof.Machine

/-- Refutes O32 by the first clause of its claim on the gallery barrier: in `Misordered.machine`, whose team lists its fibres
out of order, the GBAR of the last fibre expected parks and does not complete the phase. -/
theorem not_barriersAndWidth : ¬ Obligations.BarriersAndWidth := by
  rintro ⟨_, gallery, _⟩
  obtain ⟨completes, _⟩ := gallery Misordered.gbar Misordered.machine Misordered.issue (0, Misordered.last) rfl
    Misordered.released (by decide +kernel) (by decide +kernel) (by decide +kernel) (by simp [Misordered.machine, State.reset])
    (by decide +kernel) (by decide +kernel)
  obtain ⟨t, ran, ready, _⟩ := completes Misordered.clear Misordered.arrived_all_but_last (by decide +kernel)
  have parked := Misordered.gbar_parks_last
  simp [ran, Misordered.parks, ready] at parked

end

section
namespace Sys2Proof.Machine

/-! How listed writes read (04 R89). -/

theorem lateRead_append (l m : List Late) (r : Reg) (done : Late → Bool) :
    lateRead (l ++ m) r done = (lateRead m r done).or (lateRead l r done) := by
  simp [lateRead, List.filter_append, Option.map_or]

@[simp] theorem lateRead_nil (r : Reg) (done : Late → Bool) : lateRead [] r done = none := rfl

theorem lateRead_singleton (l : Late) (r : Reg) (done : Late → Bool) :
    lateRead [l] r done = if l.reg = r ∧ done l = true then some l.val else none := by
  by_cases h : l.reg = r ∧ done l = true <;> simp [lateRead, h]

/-- The last of the writes is the one that reads, where it is readable. -/
theorem lateRead_concat (ls : List Late) (l : Late) (r : Reg) (done : Late → Bool) :
    lateRead (ls ++ [l]) r done = if l.reg = r ∧ done l = true then some l.val else lateRead ls r done := by
  rw [lateRead_append, lateRead_singleton]
  split <;> rfl

/-- Two readings of which each listed write to the register sees the same give the same. -/
theorem lateRead_congr {ls : List Late} {r : Reg} {d e : Late → Bool} (h : ∀ l ∈ ls, l.reg = r → d l = e l) :
    lateRead ls r d = lateRead ls r e := by
  unfold lateRead
  congr 2
  refine List.filter_congr fun l hl => ?_
  by_cases hr : l.reg = r
  · simp [hr, h l hl hr]
  · simp [hr]

/-- Writes that a list loses are not missed by a register that they are not to. -/
theorem lateRead_filter {ls : List Late} {r : Reg} {done p : Late → Bool}
    (h : ∀ l ∈ ls, l.reg = r → done l = true → p l = true) : lateRead (ls.filter p) r done = lateRead ls r done := by
  unfold lateRead
  rw [List.filter_filter]
  congr 2
  refine List.filter_congr fun l hl => ?_
  by_cases hr : l.reg = r <;> by_cases hd : done l = true
  · simp [hr, hd, h l hl hr hd]
  all_goals simp [hr, hd]

/-- A list without writes to a register reads as none. -/
theorem lateRead_eq_none {ls : List Late} {r : Reg} {done : Late → Bool} (h : ∀ l ∈ ls, l.reg = r → done l = false) :
    lateRead ls r done = none := by
  simp only [lateRead, Option.map_eq_none_iff, List.getLast?_eq_none_iff, List.filter_eq_nil_iff, Bool.and_eq_true,
    decide_eq_true_eq, not_and, Bool.not_eq_true]
  exact h

/-- A list is read behind the writes of it that have landed. -/
theorem lateRead_takeWhile_dropWhile (ls : List Late) (r : Reg) {p done : Late → Bool}
    (h : ∀ l, p l = true → done l = true) :
    lateRead ls r done = (lateRead (ls.dropWhile p) r done).or (lateRead (ls.takeWhile p) r fun _ => true) := by
  conv_lhs => rw [← List.takeWhile_append_dropWhile (p := p) (l := ls)]
  rw [lateRead_append]
  congr 1
  refine lateRead_congr fun l hl _ => ?_
  exact h l (List.mem_takeWhile_imp hl)

namespace Fibre

@[simp] theorem land_late (f : Fibre) (r : Reg) (x : Dword) : (f.land r x).late = f.late := by
  unfold land; split <;> try rfl
  split <;> rfl

@[simp] theorem land_window (f : Fibre) (r : Reg) (x : Dword) : (f.land r x).window = f.window := by
  unfold land window; split <;> simp
  split <;> rfl

/-- A landed value is all that a v register reads as, and other registers are as before. -/
theorem land_v (f : Fibre) (r : Reg) (x : Dword) {n : Nat} (h : n < f.window) :
    (f.land r x).v.getD n 0 = if r = .v n then x.setWidth 32 else f.v.getD n 0 := by
  unfold land
  split
  · rename_i m
    by_cases hm : m = n
    · subst hm; simp [List.getD, window] at h ⊢; simp [h]
    · simp [List.getD, hm]
  · split <;> simp
  all_goals simp

/-- So with k1 to k7. -/
theorem land_k (f : Fibre) (r : Reg) (x : Dword) {n : Nat} (h1 : 1 ≤ n) (h8 : r = .k n → n < 8) :
    (f.land r x).k.getLsbD n = if r = .k n then x.getLsbD 0 else f.k.getLsbD n := by
  unfold land
  split
  case h_2 m =>
    by_cases hm : m = n
    · subst hm
      have : m ≠ 0 := by omega
      cases hx : x.getLsbD 0 <;> simp [this, h8 rfl]
    · by_cases h0 : m = 0
      · simp [h0]; omega
      · by_cases h : n < 8
        · cases hx : x.getLsbD 0 <;> simp [h0, hm, h] <;> omega
        · have : f.k.getLsbD n = false := BitVec.getLsbD_of_ge _ _ (by omega)
          cases hx : x.getLsbD 0 <;> simp [h0, hm, h, this]
  all_goals simp

/-- Writes land one after the other. -/
def landAll (f : Fibre) (ls : List Late) : Fibre := ls.foldl (fun x l => x.land l.reg l.val) f

theorem landAll_concat (f : Fibre) (ls : List Late) (l : Late) :
    f.landAll (ls ++ [l]) = (f.landAll ls).land l.reg l.val := by simp [landAll]

@[simp] theorem landAll_late (f : Fibre) (ls : List Late) : (f.landAll ls).late = f.late := by
  induction ls using List.reverseRecOn with
  | nil => rfl
  | append_singleton ls l ih => simp [landAll_concat, ih]

@[simp] theorem landAll_window (f : Fibre) (ls : List Late) : (f.landAll ls).window = f.window := by
  induction ls using List.reverseRecOn with
  | nil => rfl
  | append_singleton ls l ih => simp [landAll_concat, ih]

/-- Once writes have landed, a v register holds what reading them gave. -/
theorem landAll_v (f : Fibre) (ls : List Late) {n : Nat} (h : n < f.window) :
    (f.landAll ls).v.getD n 0 = ((lateRead ls (.v n) fun _ => true).map fun x => x.setWidth 32).getD (f.v.getD n 0) := by
  induction ls using List.reverseRecOn with
  | nil => rfl
  | append_singleton ls l ih =>
    rw [landAll_concat, land_v _ _ _ (by simpa using h), lateRead_concat, ih]
    by_cases hl : l.reg = .v n <;> simp [hl]

theorem landAll_k (f : Fibre) (ls : List Late) {n : Nat} (h1 : 1 ≤ n) (h8 : n < 8) :
    (f.landAll ls).k.getLsbD n = ((lateRead ls (.k n) fun _ => true).map fun x => x.getLsbD 0).getD (f.k.getLsbD n) := by
  induction ls using List.reverseRecOn with
  | nil => rfl
  | append_singleton ls l ih =>
    rw [landAll_concat, land_k _ _ _ h1 fun _ => h8, lateRead_concat, ih]
    by_cases hl : l.reg = .k n <;> simp [hl]

theorem vAt_eq (f : Fibre) (c n : Nat) :
    f.vAt c n = ((lateRead f.late (.v n) (Late.readyBy c)).map fun x => x.setWidth 32).getD (f.v.getD n 0) := by
  unfold vAt; split <;> simp [*]

theorem kAt_eq (f : Fibre) (c : Nat) {n : Nat} (h : 1 ≤ n) :
    f.kAt c n = ((lateRead f.late (.k n) (Late.readyBy c)).map fun x => x.getLsbD 0).getD (f.k.getLsbD n) := by
  have : (n == 0) = false := by simpa using Nat.ne_of_gt h
  unfold kAt; rw [this, Bool.false_or]; split <;> simp [*]

@[simp] theorem kAt_zero (f : Fibre) (c : Nat) : f.kAt c 0 = true := by simp [kAt]

/-- A fixed-latency write behind the writes that were readable already. -/
theorem writeLate_eq (f : Fibre) (clock : Nat) (r : Reg) (x : Dword) :
    f.writeLate clock r x = { f.landAll (f.late.takeWhile (Late.readyBy clock)) with
      late := f.late.dropWhile (Late.readyBy clock) ++ [{ reg := r, val := x, ready := clock + 4 }] } := rfl

@[simp] theorem writeLate_window (f : Fibre) (clock : Nat) (r : Reg) (x : Dword) :
    (f.writeLate clock r x).window = f.window := landAll_window f _

/-- What readyBy holds of at a clock it holds of later. -/
theorem readyBy_mono {l : Late} {c d : Nat} (h : c ≤ d) (hl : l.readyBy c = true) : l.readyBy d = true := by
  simp only [Late.readyBy, decide_eq_true_eq] at hl ⊢; omega

/-- From the clock of a fixed-latency write on, each v register reads the write from the fourth clock on, if it is its
destination, and else as before (04 R89). -/
theorem writeLate_vAt (f : Fibre) {clock c n : Nat} (r : Reg) (x : Dword) (hc : clock ≤ c) (h : n < f.window) :
    (f.writeLate clock r x).vAt c n = if r = .v n ∧ clock + 4 ≤ c then x.setWidth 32 else f.vAt c n := by
  rw [vAt_eq, vAt_eq, writeLate_eq]
  dsimp only
  rw [lateRead_concat, landAll_v f _ h, lateRead_takeWhile_dropWhile f.late (.v n) fun l => readyBy_mono (l := l) hc]
  by_cases hr : r = .v n ∧ clock + 4 ≤ c
  · simp [hr, Late.readyBy]
  · have : ¬ (r = .v n ∧ Late.readyBy c ⟨r, x, clock + 4, 0, 0⟩ = true) := by simpa [Late.readyBy] using hr
    rw [if_neg this, if_neg hr]
    cases lateRead (f.late.dropWhile (Late.readyBy clock)) (.v n) (Late.readyBy c) <;> simp

theorem writeLate_kAt (f : Fibre) {clock c n : Nat} (r : Reg) (x : Dword) (hc : clock ≤ c) (h1 : 1 ≤ n) (h8 : n < 8) :
    (f.writeLate clock r x).kAt c n = if r = .k n ∧ clock + 4 ≤ c then x.getLsbD 0 else f.kAt c n := by
  rw [kAt_eq _ _ h1, kAt_eq _ _ h1, writeLate_eq]
  dsimp only
  rw [lateRead_concat, landAll_k f _ h1 h8, lateRead_takeWhile_dropWhile f.late (.k n) fun l => readyBy_mono (l := l) hc]
  by_cases hr : r = .k n ∧ clock + 4 ≤ c
  · simp [hr, Late.readyBy]
  · have : ¬ (r = .k n ∧ Late.readyBy c ⟨r, x, clock + 4, 0, 0⟩ = true) := by simpa [Late.readyBy] using hr
    rw [if_neg this, if_neg hr]
    cases lateRead (f.late.dropWhile (Late.readyBy clock)) (.k n) (Late.readyBy c) <;> simp

/-- A write that lands now is what its register reads as at every clock, and every other v register is as before. -/
theorem writeNow_vAt (f : Fibre) (c : Nat) {n : Nat} (r : Reg) (x : Dword) (h : r = .v n → n < f.window) :
    (f.writeNow r x).vAt c n = if r = .v n then x.setWidth 32 else f.vAt c n := by
  rw [vAt_eq, vAt_eq]
  unfold writeNow
  dsimp only
  by_cases hr : r = .v n
  · rw [lateRead_eq_none (by simp +contextual [hr])]
    subst hr
    rw [Option.map_none, Option.getD_none, land_v f _ x (h rfl), if_pos rfl, if_pos rfl]
  · rw [lateRead_filter (fun l _ hl _ => by simpa [hl] using Ne.symm hr), if_neg hr]
    congr 1
    unfold land
    split
    · rename_i m
      have : m ≠ n := fun e => hr (e ▸ rfl)
      simp [List.getD, this]
    · split <;> rfl
    · rfl
    · rfl

theorem writeNow_kAt (f : Fibre) (c : Nat) {n : Nat} (r : Reg) (x : Dword) (h1 : 1 ≤ n) (h8 : r = .k n → n < 8) :
    (f.writeNow r x).kAt c n = if r = .k n then x.getLsbD 0 else f.kAt c n := by
  rw [kAt_eq _ _ h1, kAt_eq _ _ h1]
  unfold writeNow
  dsimp only
  rw [land_k f r x h1 h8]
  by_cases hr : r = .k n
  · rw [lateRead_eq_none (by simp +contextual [hr])]
    simp [hr]
  · rw [lateRead_filter (fun l _ hl _ => by simpa [hl] using Ne.symm hr), if_neg hr, if_neg hr]

end Fibre
end Sys2Proof.Machine

open Sys2Proof Sys2Proof.Machine

/-- Settles O1, by what a write that lands now makes of each register. -/
theorem predicateRegisters : Obligations.PredicateRegisters := by
  intro f c x
  refine ⟨Fibre.kAt_zero f c, rfl, fun n hn => ?_, fun n => ?_, fun n h1 h8 => ⟨?_, fun m hm hmn => ?_, fun m => ?_⟩⟩
  · rcases Nat.eq_zero_or_pos n with rfl | h
    · simp
    · rw [Fibre.writeNow_kAt f c _ x h fun _ => hn, if_neg]
      rintro ⟨⟩; exact absurd h (Nat.lt_irrefl 0)
  · simp [Fibre.writeNow_vAt]
  · simp [Fibre.writeNow_kAt f c _ x h1 fun _ => h8]
  · rcases Nat.eq_zero_or_pos m with rfl | h
    · simp
    · rw [Fibre.writeNow_kAt f c _ x h fun _ => hm, if_neg]
      rintro ⟨⟩; exact hmn rfl
  · simp [Fibre.writeNow_vAt]

end

section
namespace Sys2Proof.Machine

/-! What a list of updates makes of what is observed. -/

/-- What no update of a list changes is what it was. -/
theorem foldl_obs_same {σ α β : Type} {Q : σ → Prop} {ob : σ → β} {step : σ → α → σ} {l : List α}
    (h : ∀ y, ∀ d ∈ l, Q y → Q (step y d) ∧ ob (step y d) = ob y) {y : σ} (hy : Q y) :
    Q (l.foldl step y) ∧ ob (l.foldl step y) = ob y := by
  induction l generalizing y with
  | nil => exact ⟨hy, rfl⟩
  | cons d l ih =>
    obtain ⟨h1, h2⟩ := h y d (by simp) hy
    obtain ⟨h3, h4⟩ := ih (fun y d hd => h y d (List.mem_cons_of_mem _ hd)) h1
    exact ⟨h3, h4.trans h2⟩

/-- Where each update of a list of writes is seen only by its own register, the list is seen as its write to it. -/
theorem foldl_obs_write {σ α β : Type} {Q : σ → Prop} {ob : σ → β} {r : α} {w : Dword → β}
    {step : σ → α × Dword → σ} {l : List (α × Dword)} [DecidableEq α]
    (h : ∀ y, ∀ d ∈ l, Q y → Q (step y d) ∧ ob (step y d) = if d.1 = r then w d.2 else ob y)
    (nd : (l.map (·.1)).Nodup) {x : Dword} (hx : (r, x) ∈ l) {y : σ} (hy : Q y) : ob (l.foldl step y) = w x := by
  induction l generalizing y with
  | nil => cases hx
  | cons d l ih =>
    obtain ⟨h1, h2⟩ := h y d (by simp) hy
    obtain ⟨hd, hl⟩ := List.nodup_cons.1 nd
    rcases List.mem_cons.1 hx with rfl | hx
    · rw [if_pos rfl] at h2
      refine (foldl_obs_same (Q := Q) (ob := ob) (fun y e he hq => ?_) h1).2.trans h2
      obtain ⟨g1, g2⟩ := h y e (List.mem_cons_of_mem _ he) hq
      exact ⟨g1, g2.trans (if_neg fun e' => hd (List.mem_map.2 ⟨e, he, e'⟩))⟩
    · exact ih (fun y d hd => h y d (List.mem_cons_of_mem _ hd)) hl hx h1

/-- Of a list without repeats in some key, an element alone has its own. -/
theorem filter_key_eq {α κ : Type} [DecidableEq κ] {l : List α} {k : α → κ} (nd : (l.map k).Nodup) {x : α} (hx : x ∈ l) :
    (l.filter fun y => decide (k y = k x)) = [x] := by
  induction l with
  | nil => cases hx
  | cons y l ih =>
    obtain ⟨hy, hl⟩ := List.nodup_cons.1 nd
    rcases List.mem_cons.1 hx with rfl | hx
    · rw [List.filter_cons_of_pos (by simp), List.filter_eq_nil_iff.2]
      intro z hz
      simp only [decide_eq_true_eq]
      exact fun e => hy (e ▸ List.mem_map_of_mem hz)
    · rw [List.filter_cons_of_neg, ih hl hx]
      simp only [decide_eq_true_eq]
      exact fun e => hy (e ▸ List.mem_map_of_mem hx)

namespace State

/-- What a list of updates of fibres makes of one of them: what those that name it make. -/
theorem fibre_each {α : Type} {P : State → Prop} {k : α → FibreId} {g : α → Fibre → Fibre} {step : State → α → State}
    {l : List α} (h : ∀ s, ∀ x ∈ l, P s → P (step s x) ∧
      ∀ f, (step s x).fibre f = if k x = f then g x (s.fibre f) else s.fibre f)
    {s : State} (hs : P s) : P (s.each l step) ∧
      ∀ f, (s.each l step).fibre f = (l.filter fun x => decide (k x = f)).foldl (fun y x => g x y) (s.fibre f) := by
  induction l generalizing s with
  | nil => exact ⟨hs, fun _ => rfl⟩
  | cons x l ih =>
    obtain ⟨h1, h2⟩ := h s x (by simp) hs
    obtain ⟨h3, h4⟩ := ih (fun s y hy => h s y (List.mem_cons_of_mem _ hy)) h1
    refine ⟨h3, fun f => (h4 f).trans ?_⟩
    rw [h2 f]
    by_cases hx : k x = f <;> simp [hx]

theorem modFibre_fibre (s : State) (i : FibreId) (g : Fibre → Fibre) (f : FibreId) :
    (s.modFibre i g).fibre f = if i = f then g (s.fibre f) else s.fibre f := by
  split
  · subst_vars; simp
  · exact fibre_modFibre_other s g (Ne.symm ‹_›)

end State

theorem SameButRegisters.refl (s : State) : SameButRegisters s s := ⟨rfl, fun _ h => h, fun _ h => h, fun _ => rfl⟩

theorem SameButRegisters.trans {s t u : State} (h : SameButRegisters s t) (k : SameButRegisters t u) :
    SameButRegisters s u := by
  obtain ⟨h1, h2, h3, h4⟩ := h
  obtain ⟨k1, k2, k3, k4⟩ := k
  refine ⟨?_, fun x hx => h2 x (k2 x hx), fun x hx => h3 x (k3 x hx), fun n => ?_⟩
  · rw [← k1] at h1; exact h1
  · have h4 := h4 n
    rw [← k4 n] at h4; exact h4

theorem SameButFibres.registers {s t : State} (h : SameButFibres s t) : SameButRegisters s t := by
  obtain ⟨h1, h2⟩ := h
  have hb : t.badReg = s.badReg := by rw [← h1]
  have he : t.badElse = s.badElse := by rw [← h1]
  exact ⟨by rw [← hb, ← he]; exact h1, fun x hx => hb ▸ hx, fun x hx => he ▸ hx, h2⟩

theorem SameButRegisters.clockOf {s t : State} (h : SameButRegisters s t) (c : Nat) : t.clockOf c = s.clockOf c := by
  rw [← h.1]; rfl

theorem SameButRegisters.group {s t : State} (h : SameButRegisters s t) (g : Nat) : t.group g = s.group g := by
  rw [← h.1]; rfl

/-- All but the fibres of a team that reading it depends on. -/
theorem SameButRegisters.team {s t : State} (h : SameButRegisters s t) (n : Nat) :
    (t.team n).num = (s.team n).num ∧ (t.team n).fpctl = (s.team n).fpctl ∧ (t.team n).g = (s.team n).g ∧
      (t.team n).late = (s.team n).late := by
  have h := h.2.2.2 n
  refine ⟨?_, ?_, ?_, ?_⟩ <;> rw [← h]

theorem SameButRegisters.lead {s t : State} (h : SameButRegisters s t) (g : Nat) : t.lead g = s.lead g := by
  unfold State.lead
  have hn : ∀ n, (t.team n).num = (s.team n).num := fun n => (h.team n).1
  simp only [h.group, hn]

theorem SameButRegisters.leadTeam {s t : State} (h : SameButRegisters s t) (g : Nat) : t.leadTeam g = s.leadTeam g := by
  unfold State.leadTeam; rw [h.lead]

theorem SameButRegisters.fpctl {s t : State} (h : SameButRegisters s t) (iss : Issue) : t.fpctl iss = s.fpctl iss := by
  unfold State.fpctl; rw [h.leadTeam, (h.team _).2.1]

theorem SameButRegisters.enabled {s t : State} (h : SameButRegisters s t) (iss : Issue)
    (rs : List ((Nat × FibreId) × LaneRes)) : t.enabled iss rs = s.enabled iss rs := by
  unfold State.enabled; rw [h.fpctl]

namespace State

/-! Flags, results, pops and the move: what each part of `finish` makes of a fibre. -/

/-- A fibre with its flags set. -/
def withFlags (x : LaneRes) (f : Fibre) : Fibre :=
  { f with fpflags := f.fpflags ||| x.fl, bfflags := f.bfflags ||| x.bf }

theorem setFlags_fibre (s : State) (rs : List ((Nat × FibreId) × LaneRes)) : SameButFibres s (s.setFlags rs) ∧
    ∀ f, (s.setFlags rs).fibre f =
      (rs.filter fun x => decide (x.1.2 = f)).foldl (fun y x => withFlags x.2 y) (s.fibre f) := by
  refine fibre_each (P := SameButFibres s) (fun t x _ ht => ?_) (SameButFibres.refl s)
  by_cases hx : (x.2.fl == 0 && x.2.bf == 0) = true
  · rw [if_pos hx]
    refine ⟨ht, fun f => ?_⟩
    simp only [Bool.and_eq_true, beq_iff_eq] at hx
    simp [withFlags, hx]
  · rw [if_neg hx]
    exact ⟨ht.trans (modFibre_frame t _ _), fun f => modFibre_fibre t _ _ f⟩

theorem mendReg_frame (s : State) (f : FibreId) (gid tid : Nat) (r : Reg) :
    SameButRegisters s (s.mendReg f gid tid r) := by
  unfold mendReg
  split
  · exact ⟨rfl, fun x hx => (List.mem_filter.1 hx).1, fun _ h => h, fun _ => rfl⟩
  · exact ⟨rfl, fun _ h => h, fun x hx => (List.mem_filter.1 hx).1, fun _ => rfl⟩
  · exact ⟨rfl, fun _ h => h, fun x hx => (List.mem_filter.1 hx).1, fun _ => rfl⟩
  · exact SameButRegisters.refl s

@[simp] theorem mendReg_fibre (s : State) (f : FibreId) (gid tid : Nat) (r : Reg) (x : FibreId) :
    (s.mendReg f gid tid r).fibre x = s.fibre x := by
  unfold mendReg; split <;> rfl

/-- A fixed-latency write to a register of a fibre (04 R89). -/
theorem writeFixed_eq (s : State) (iss : Issue) (f : FibreId) {r : Reg} (x : Dword) (h : isG r = false) :
    s.writeFixed iss f r x = (s.mendReg f iss.gid (s.leadTeam iss.gid) r).modFibre f fun t =>
      t.writeLate (s.clockOf iss.core) r x := by
  have hc := (mendReg_frame s f iss.gid (s.leadTeam iss.gid) r).clockOf iss.core
  unfold writeFixed
  cases r <;> simp_all [isG]

/-- The fixed-latency writes of an instruction of one fibre. -/
def writes (clock : Nat) (ds : List (Reg × Dword)) (f : Fibre) : Fibre :=
  ds.foldl (fun y d => y.writeLate clock d.1 d.2) f

theorem writeFixed_fibre {s t : State} (iss : Issue) (x : (Nat × FibreId) × LaneRes)
    (h : ∀ d ∈ x.2.dests, isG d.1 = false) (ht : SameButRegisters s t) :
    let u := t.each x.2.dests fun s d => s.writeFixed iss x.1.2 d.1 d.2
    SameButRegisters s u ∧
      ∀ f, u.fibre f = if x.1.2 = f then writes (s.clockOf iss.core) x.2.dests (t.fibre f) else t.fibre f := by
  have key := fibre_each (P := SameButRegisters s) (k := fun _ : Reg × Dword => x.1.2)
    (g := fun d y => y.writeLate (s.clockOf iss.core) d.1 d.2) (l := x.2.dests)
    (step := fun s d => s.writeFixed iss x.1.2 d.1 d.2) (fun u d hd hu => by
      rw [writeFixed_eq u iss x.1.2 d.2 (h d hd), hu.clockOf]
      refine ⟨(hu.trans (mendReg_frame _ _ _ _ _)).trans (modFibre_frame _ _ _).registers, fun f => ?_⟩
      rw [modFibre_fibre, mendReg_fibre]) ht
  refine ⟨key.1, fun f => (key.2 f).trans ?_⟩
  by_cases hf : x.1.2 = f <;> simp [hf, writes]

/-- All results of a fixed-latency unit, written. -/
def writeAll (s : State) (iss : Issue) (rs : List ((Nat × FibreId) × LaneRes)) : State :=
  s.each rs fun s x => s.each x.2.dests fun s d => s.writeFixed iss x.1.2 d.1 d.2

theorem writeAll_fibre (s : State) (iss : Issue) {rs : List ((Nat × FibreId) × LaneRes)}
    (h : ∀ x ∈ rs, ∀ d ∈ x.2.dests, isG d.1 = false) : SameButRegisters s (s.writeAll iss rs) ∧
    ∀ f, (s.writeAll iss rs).fibre f = (rs.filter fun x => decide (x.1.2 = f)).foldl
      (fun y x => writes (s.clockOf iss.core) x.2.dests y) (s.fibre f) :=
  fibre_each (P := SameButRegisters s) (fun _ x hx ht => writeFixed_fibre iss x (h x hx) ht) (SameButRegisters.refl s)

/-- An instruction of a fixed-latency unit whose flags raise no trap (04 R89; 05 R108). -/
theorem finish_fixed {s : State} {iss : Issue} {i : Instr} {rs : List ((Nat × FibreId) × LaneRes)}
    (hu : unitOf i = .alu ∨ unitOf i = .fma) (he : s.enabled iss rs = 0) (act : List (Nat × FibreId)) :
    s.finish iss act i rs = (((s.setFlags rs).writeAll iss rs).popStreams act (usesOf i)).advance iss := by
  have hen : (s.setFlags rs).enabled iss rs = 0 := ((setFlags_fibre s rs).1.registers.enabled iss rs).trans he
  have hfix : (unitOf i == .alu || unitOf i == .fma) = true := by rcases hu with h | h <;> rw [h] <;> rfl
  unfold finish
  simp only [hen, hfix, bne_self_eq_false, Bool.false_eq_true, if_false, if_true]
  unfold writeAll
  congr 4
  funext t x
  split
  · rename_i hx
    rw [List.isEmpty_iff.1 hx]; rfl
  · rfl

/-- The streams after pops of some of them, each popped once. -/
def popEach (qs : List Nat) (l : List Stream) : List Stream :=
  qs.foldl (fun l n => modAt l n fun q => { q with ahead := q.ahead.tail, cursor := q.cursor + 1 }) l

/-- The streams of a fibre after the pops of an instruction (09 R208). -/
def popped (act : List (Nat × FibreId)) (u : Uses) (f : FibreId) (l : List Stream) : List Stream :=
  if u.qr.isEmpty then l else (act.filter fun x => decide (x.2 = f)).foldl (fun l _ => popEach (nub u.qr) l) l

theorem popStreams_fibre (s : State) (act : List (Nat × FibreId)) (u : Uses) : SameButFibres s (s.popStreams act u) ∧
    ∀ f, (s.popStreams act u).fibre f = { s.fibre f with streams := popped act u f (s.fibre f).streams } := by
  unfold popStreams popped
  split
  · exact ⟨SameButFibres.refl s, fun _ => rfl⟩
  · have key := fibre_each (P := SameButFibres s) (k := fun x : Nat × FibreId => x.2)
      (g := fun _ y => { y with streams := popEach (nub u.qr) y.streams }) (l := act)
      (fun t x _ ht => ⟨ht.trans (modFibre_frame t x.2 _), modFibre_fibre t x.2 fun y => { y with
        streams := popEach (nub u.qr) y.streams }⟩) (SameButFibres.refl s)
    refine ⟨key.1, fun f => (key.2 f).trans ?_⟩
    exact List.foldl_hom (g₁ := fun l _ => popEach (nub u.qr) l)
      (g₂ := fun y _ => { y with streams := popEach (nub u.qr) y.streams })
      (fun l => { s.fibre f with streams := l }) fun _ _ => rfl

end State

namespace Fibre

/-- What two fibres share that differ in registers, in writes to them and in a refill alone. -/
def sameButRegisters (f g : Fibre) : Prop := { g with v := f.v, k := f.k, late := f.late, refill := f.refill } = f

theorem sameButRegisters.refl (f : Fibre) : f.sameButRegisters f := rfl

theorem sameButRegisters.trans {f g h : Fibre} (a : f.sameButRegisters g) (b : g.sameButRegisters h) :
    f.sameButRegisters h := by
  unfold sameButRegisters at *
  rw [← b] at a; exact a

theorem land_frame (f : Fibre) (r : Reg) (x : Dword) : f.sameButRegisters (f.land r x) := by
  unfold land sameButRegisters
  split
  · rfl
  · split <;> rfl
  · rfl
  · rfl

theorem landAll_frame (f : Fibre) (ls : List Late) : f.sameButRegisters (f.landAll ls) := by
  induction ls using List.reverseRecOn with
  | nil => rfl
  | append_singleton ls l ih => rw [landAll_concat]; exact ih.trans (land_frame _ _ _)

theorem writeLate_frame (f : Fibre) (clock : Nat) (r : Reg) (x : Dword) :
    f.sameButRegisters (f.writeLate clock r x) :=
  (landAll_frame f (f.late.takeWhile (Late.readyBy clock))).trans rfl

theorem writeNow_frame (f : Fibre) (r : Reg) (x : Dword) : f.sameButRegisters (f.writeNow r x) :=
  (land_frame f r x).trans rfl

/-- What a register reads as is a matter of vAt and kAt. -/
theorem reads.congr {f g : Fibre} {c : Nat} {r : Reg} {x : Dword} (h : f.reads c r x) (hv : ∀ n, g.vAt c n = f.vAt c n)
    (hk : ∀ n, g.kAt c n = f.kAt c n) : g.reads c r x := by
  unfold reads at *
  cases r <;> simp_all

theorem moved.vAt {f g : Fibre} (h : f.moved g) (c n : Nat) : g.vAt c n = f.vAt c n := by
  unfold moved at h; rw [← h]; rfl

theorem moved.kAt {f g : Fibre} (h : f.moved g) (c n : Nat) : g.kAt c n = f.kAt c n := by
  unfold moved at h; rw [← h]; rfl

end Fibre

namespace State

section
variable (clock : Nat) (ds : List (Reg × Dword)) (f : Fibre)

theorem writes_frame : f.sameButRegisters (writes clock ds f) := by
  induction ds using List.reverseRecOn with
  | nil => rfl
  | append_singleton ds d ih =>
    simp only [writes, List.foldl_append] at ih ⊢
    exact ih.trans (Fibre.writeLate_frame _ _ _ _)

theorem writes_window : (writes clock ds f).window = f.window :=
  (foldl_obs_same (Q := fun _ => True) (ob := Fibre.window) (fun _ _ _ _ => ⟨trivial, Fibre.writeLate_window _ _ _ _⟩)
    trivial).2

/-- A v register that is no destination, or at any of the four clocks, reads as without the writes (04 R89). -/
theorem writes_vAt_same {c n : Nat} (hc : clock ≤ c) (hn : n < f.window) (h : c < clock + 4 ∨ .v n ∉ ds.map (·.1)) :
    (writes clock ds f).vAt c n = f.vAt c n := by
  refine (foldl_obs_same (Q := fun y : Fibre => n < y.window) (ob := fun y : Fibre => y.vAt c n) (fun y d hd hy => ⟨?_, ?_⟩) hn).2
  · simpa using hy
  · rw [Fibre.writeLate_vAt _ _ _ hc hy, if_neg]
    rintro ⟨hr, hl⟩
    rcases h with h | h
    · omega
    · exact h (List.mem_map.2 ⟨d, hd, hr⟩)

theorem writes_kAt_same {c n : Nat} (hc : clock ≤ c) (hn : n < 8) (h : c < clock + 4 ∨ .k n ∉ ds.map (·.1)) :
    (writes clock ds f).kAt c n = f.kAt c n := by
  rcases Nat.eq_zero_or_pos n with rfl | h1
  · simp
  refine (foldl_obs_same (Q := fun _ => True) (ob := fun y : Fibre => y.kAt c n) (fun y d hd _ => ⟨trivial, ?_⟩) trivial).2
  rw [Fibre.writeLate_kAt _ _ _ hc h1 hn, if_neg]
  rintro ⟨hr, hl⟩
  rcases h with h | h
  · omega
  · exact h (List.mem_map.2 ⟨d, hd, hr⟩)

/-- From the fourth clock on each destination reads its result (04 R89). -/
theorem writes_reads (nd : (ds.map (·.1)).Nodup) (has : ∀ d ∈ ds, f.has d.1) :
    ∀ d ∈ ds, (writes clock ds f).reads (clock + 4) d.1 d.2 := by
  rintro ⟨r, x⟩ hd
  have hr := has _ hd
  cases r with
  | v n =>
    refine foldl_obs_write (Q := fun y : Fibre => n < y.window) (ob := fun y : Fibre => y.vAt (clock + 4) n)
      (w := fun x => x.setWidth 32) (fun y d _ hy => ⟨by simpa using hy, ?_⟩) nd hd hr
    rw [Fibre.writeLate_vAt _ _ _ (by omega) hy]
    simp
  | k n =>
    refine foldl_obs_write (Q := fun _ => True) (ob := fun y : Fibre => y.kAt (clock + 4) n)
      (w := fun x => x.getLsbD 0) (fun y d _ _ => ⟨trivial, ?_⟩) nd hd trivial
    rw [Fibre.writeLate_kAt _ _ _ (by omega) hr.1 hr.2]
    simp
  | g n => exact hr.elim
  | ret => exact hr.elim

end

/-- What the results of an instruction of a fixed-latency unit make of a fibre. -/
def withResults (clock : Nat) (rs : List ((Nat × FibreId) × LaneRes)) (f : FibreId) (y : Fibre) : Fibre :=
  let mine := rs.filter fun x => decide (x.1.2 = f)
  mine.foldl (fun y x => writes clock x.2.dests y) (mine.foldl (fun y x => withFlags x.2 y) y)

theorem withResults_other (clock : Nat) {rs : List ((Nat × FibreId) × LaneRes)} {f : FibreId} (y : Fibre)
    (h : ∀ x ∈ rs, x.1.2 ≠ f) : withResults clock rs f y = y := by
  have : (rs.filter fun x => decide (x.1.2 = f)) = [] := List.filter_eq_nil_iff.2 (by simpa using h)
  simp [withResults, this]

theorem withResults_lane (clock : Nat) {rs : List ((Nat × FibreId) × LaneRes)} (y : Fibre)
    (nd : (rs.map fun x => x.1.2).Nodup) {x : (Nat × FibreId) × LaneRes} (hx : x ∈ rs) :
    withResults clock rs x.1.2 y = writes clock x.2.dests (withFlags x.2 y) := by
  have := filter_key_eq (k := fun x : (Nat × FibreId) × LaneRes => x.1.2) nd hx
  simp [withResults, this]

/-- Results change registers, writes to them, a refill and flags. -/
theorem withResults_frame (clock : Nat) (rs : List ((Nat × FibreId) × LaneRes)) (f : FibreId) (y : Fibre) :
    { withResults clock rs f y with v := y.v, k := y.k, late := y.late, refill := y.refill, fpflags := y.fpflags
                                    bfflags := y.bfflags } = y := by
  let ob := fun z : Fibre => { z with
    v := y.v, k := y.k, late := y.late, refill := y.refill, fpflags := y.fpflags, bfflags := y.bfflags }
  have flags : ∀ (l : List ((Nat × FibreId) × LaneRes)) (z : Fibre),
      ob (l.foldl (fun y x => withFlags x.2 y) z) = ob z := fun l z =>
    (foldl_obs_same (Q := fun _ => True) (ob := ob) (step := fun y (x : (Nat × FibreId) × LaneRes) => withFlags x.2 y)
      (fun _ _ _ _ => ⟨trivial, rfl⟩) trivial).2
  have written : ∀ (l : List ((Nat × FibreId) × LaneRes)) (z : Fibre),
      ob (l.foldl (fun y x => writes clock x.2.dests y) z) = ob z := fun l z => by
    refine (foldl_obs_same (Q := fun _ => True) (ob := ob) (fun u x _ _ => ⟨trivial, ?_⟩) trivial).2
    have h := writes_frame clock x.2.dests u
    unfold Fibre.sameButRegisters at h
    exact (congrArg ob h :)
  exact (written _ _).trans (flags _ y)

section
variable {s : State} {iss : Issue} {i : Instr} {rs : List ((Nat × FibreId) × LaneRes)}

/-- A fibre once the results are in and the streams popped, before its subset moves on. -/
def finished (s : State) (iss : Issue) (act : List (Nat × FibreId)) (i : Instr)
    (rs : List ((Nat × FibreId) × LaneRes)) (f : FibreId) : Fibre :=
  { withResults (s.clockOf iss.core) rs f (s.fibre f) with streams := ((s.popStreams act (usesOf i)).fibre f).streams }

/-- The machine after an instruction of a fixed-latency unit with results for fibres (04 R89). -/
theorem finish_fixed_fibre (hu : unitOf i = .alu ∨ unitOf i = .fma) (he : s.enabled iss rs = 0)
    (hg : ∀ x ∈ rs, ∀ d ∈ x.2.dests, isG d.1 = false) (act : List (Nat × FibreId)) :
    let t := s.finish iss act i rs
    SameButRegisters s t ∧ WentOn iss t ∧ (∀ f, Fibre.moved (s.finished iss act i rs f) (t.fibre f)) ∧
      ∀ f, f ∉ iss.lanes.map (·.2) → t.fibre f = s.finished iss act i rs f := by
  intro t
  obtain ⟨flags, flagged⟩ := setFlags_fibre s rs
  obtain ⟨results, written⟩ := writeAll_fibre (s.setFlags rs) iss hg
  obtain ⟨pops, pops'⟩ := popStreams_fibre ((s.setFlags rs).writeAll iss rs) act (usesOf i)
  have ht : t = (((s.setFlags rs).writeAll iss rs).popStreams act (usesOf i)).advance iss := finish_fixed hu he act
  have before : ∀ f, (((s.setFlags rs).writeAll iss rs).popStreams act (usesOf i)).fibre f =
      s.finished iss act i rs f := by
    intro f
    have hw : ((s.setFlags rs).writeAll iss rs).fibre f = withResults (s.clockOf iss.core) rs f (s.fibre f) := by
      rw [written, flagged, flags.registers.clockOf]; rfl
    have hq : (withResults (s.clockOf iss.core) rs f (s.fibre f)).streams = (s.fibre f).streams := by
      conv_rhs => rw [← withResults_frame (s.clockOf iss.core) rs f (s.fibre f)]
    rw [pops', hw, hq]
    simp only [finished, (popStreams_fibre s act (usesOf i)).2]
  rw [ht]
  refine ⟨?_, advance_goes _ iss, fun f => ?_, fun f hf => ?_⟩
  · exact flags.registers.trans (results.trans (pops.registers.trans (advance_frame _ iss).registers))
  · rw [← before]; exact advance_moved _ iss f
  · rw [advance_other _ iss hf, before]

end

end State
end Sys2Proof.Machine

open Sys2Proof Sys2Proof.Machine Sys2Proof.Machine.State

theorem fixedLatencyFibreResult : Claims.FixedLatencyFibreResult := by
  intro s iss act i rs hu he nd sub has t u clock
  have hg : ∀ x ∈ rs, ∀ d ∈ x.2.dests, isG d.1 = false := by
    intro x hx d hd
    have := (has x hx).2 d hd
    cases h : d.1 <;> rw [h] at this <;> first | rfl | exact this.elim
  obtain ⟨frame, went, moved, other⟩ := finish_fixed_fibre (s := s) (iss := iss) hu he hg act
  have streams : ∀ f, { s.fibre f with streams := (u.fibre f).streams } = u.fibre f := fun f => by
    rw [(popStreams_fibre s act (usesOf i)).2]
  have lane : ∀ x ∈ rs, ∀ c n, (t.fibre x.1.2).vAt c n =
        (writes clock x.2.dests (withFlags x.2 (s.fibre x.1.2))).vAt c n ∧
      (t.fibre x.1.2).kAt c n = (writes clock x.2.dests (withFlags x.2 (s.fibre x.1.2))).kAt c n := by
    intro x hx c n
    rw [(moved x.1.2).vAt, (moved x.1.2).kAt, ← withResults_lane clock (s.fibre x.1.2) nd hx]
    exact ⟨rfl, rfl⟩
  have unchanged : ∀ f, (∀ x ∈ rs, x.1.2 ≠ f) → Fibre.moved (u.fibre f) (t.fibre f) := fun f hf => by
    have := moved f
    unfold finished at this
    rwa [withResults_other _ _ hf, streams] at this
  refine ⟨fun x hx d hd => ?_, fun f c h1 h4 => ?_, fun x hx c hc => ⟨fun n hn hd => ?_, fun n hn hd => ?_⟩,
    fun x hx => ?_, went, unchanged, fun f hf => ?_, fun f => ?_, frame⟩
  · obtain ⟨nd', has'⟩ := has x hx
    exact (writes_reads clock x.2.dests (withFlags x.2 (s.fibre x.1.2)) nd' has' d hd).congr
      (fun n => (lane x hx _ n).1) fun n => (lane x hx _ n).2
  · by_cases hf : ∃ x ∈ rs, x.1.2 = f
    · obtain ⟨x, hx, rfl⟩ := hf
      refine ⟨fun n hn => ?_, fun n hn => ?_⟩
      · exact (lane x hx c n).1.trans (writes_vAt_same _ _ _ h1 hn (.inl h4))
      · exact (lane x hx c n).2.trans (writes_kAt_same _ _ _ h1 hn (.inl h4))
    · have := unchanged f fun x hx e => hf ⟨x, hx, e⟩
      refine ⟨fun n _ => ?_, fun n _ => ?_⟩
      · rw [this.vAt, ← streams]; rfl
      · rw [this.kAt, ← streams]; rfl
  · exact (lane x hx c n).1.trans (writes_vAt_same _ _ _ hc hn (.inr hd))
  · exact (lane x hx c n).2.trans (writes_kAt_same _ _ _ hc hn (.inr hd))
  · have hm := moved x.1.2
    have hw := writes_frame clock x.2.dests (withFlags x.2 (s.fibre x.1.2))
    unfold Fibre.moved finished at hm
    unfold Fibre.sameButRegisters at hw
    rw [withResults_lane _ _ nd hx] at hm
    have h1 := congrArg Fibre.fpflags hm
    have h2 := congrArg Fibre.bfflags hm
    have h3 := congrArg Fibre.fpflags hw
    have h4 := congrArg Fibre.bfflags hw
    exact ⟨h1.trans h3, h2.trans h4⟩
  · rw [other f hf]
    unfold finished
    rw [withResults_other, streams]
    intro x hx e
    exact hf (List.mem_map.2 ⟨x.1, sub x hx, e⟩)
  · have hm := moved f
    unfold Fibre.moved at hm
    have hw := withResults_frame clock rs f (s.fibre f)
    let ob := fun z : Fibre => { z with
      pc := (u.fibre f).pc, again := (u.fibre f).again, refill := (u.fibre f).refill, relWait := (u.fibre f).relWait
      v := (u.fibre f).v, k := (u.fibre f).k, late := (u.fibre f).late, fpflags := (u.fibre f).fpflags
      bfflags := (u.fibre f).bfflags }
    calc ob (t.fibre f) = ob (s.finished iss act i rs f) := (congrArg ob hm :)
      _ = ob { s.fibre f with streams := (u.fibre f).streams } :=
          (congrArg (fun z : Fibre => ob { z with streams := (u.fibre f).streams }) hw :)
      _ = ob (u.fibre f) := congrArg ob (streams f)

end

section
namespace Sys2Proof.Machine

theorem modAt_eq_modify {α : Type} (l : List α) (i : Nat) (f : α → α) : modAt l i f = l.modify i f := by
  induction l generalizing i with
  | nil => cases i <;> rfl
  | cons a r ih => cases i <;> simp [modAt, ih]

theorem mem_nub {l : List Nat} {x : Nat} : x ∈ nub l ↔ x ∈ l := by
  induction l with
  | nil => rfl
  | cons y r ih =>
    by_cases h : x = y <;> simp [nub, ih, h]

theorem nodup_nub (l : List Nat) : (nub l).Nodup := by
  induction l with
  | nil => exact List.nodup_nil
  | cons y r ih => exact List.nodup_cons.2 ⟨by simp, ih.filter _⟩

namespace State

/-- Each named stream loses its next element, and the others keep theirs (09 R208). -/
theorem popEach_getElem? {qs : List Nat} (nd : qs.Nodup) (l : List Stream) (n : Nat) :
    (popEach qs l)[n]? =
      l[n]?.map fun q => if n ∈ qs then { q with ahead := q.ahead.tail, cursor := q.cursor + 1 } else q := by
  induction qs generalizing l with
  | nil => simp [popEach]
  | cons m qs ih =>
    obtain ⟨hm, hqs⟩ := List.nodup_cons.1 nd
    refine (ih hqs _).trans ?_
    dsimp only
    rw [modAt_eq_modify, List.getElem?_modify]
    by_cases h : m = n
    · subst h; simp [hm, Function.comp_def]
    · have : n ≠ m := Ne.symm h
      cases l[n]? <;> simp [h, this]

/-! g registers. -/

theorem length_gLand (regs : List Dword) (ls : List Late) (base : Nat) : (gLand regs ls base).length = regs.length := by
  unfold gLand
  refine (foldl_obs_same (Q := fun _ => True) (ob := List.length (α := Dword)) (fun y l _ _ => ⟨trivial, ?_⟩) trivial).2
  split
  · split <;> simp
  · rfl

/-- Once writes of g registers have landed, a register holds what reading them gave. -/
theorem gLand_getD (regs : List Dword) (ls : List Late) {base m : Nat} (hb : base ≤ m) (hm : m - base < regs.length) :
    (gLand regs ls base).getD (m - base) 0 = (lateRead ls (.g m) fun _ => true).getD (regs.getD (m - base) 0) := by
  induction ls using List.reverseRecOn with
  | nil => rfl
  | append_singleton ls l ih =>
    rw [lateRead_concat]
    have hl : m - base < (gLand regs ls base).length := by rw [length_gLand]; exact hm
    simp only [gLand, List.foldl_append, List.foldl_cons, List.foldl_nil] at ih hl ⊢
    rcases hr : l.reg with k | k | k | _
    all_goals simp only [Reg.g.injEq, reduceCtorEq, false_and, if_false]
    all_goals try exact ih
    by_cases hk : k = m
    · subst hk; simp [hb, List.getD, hl]
    · simp only [hk, false_and, if_false]
      rw [← ih]
      split
      · have : k - base ≠ m - base := by omega
        simp [List.getD, this]
      · rfl

theorem gRead_eq (regs : List Dword) (late : List Late) (base n : Nat) (done : Late → Bool) :
    gRead regs late base n done = (lateRead late (.g n) done).getD (regs.getD (n - base) 0) := by
  unfold gRead; split <;> simp [*]

/-- A write listed behind those that were readable, which land (02 R41). -/
theorem gRead_late (regs : List Dword) (late : List Late) (w : Late) {base m : Nat} {p done : Late → Bool}
    (hp : ∀ l, p l = true → done l = true) (hb : base ≤ m) (hm : m - base < regs.length) :
    gRead (gLand regs (late.takeWhile p) base) (late.dropWhile p ++ [w]) base m done =
      if w.reg = .g m ∧ done w = true then w.val else gRead regs late base m done := by
  rw [gRead_eq, gRead_eq, lateRead_concat, gLand_getD _ _ hb hm, lateRead_takeWhile_dropWhile late (.g m) hp]
  split
  · rfl
  · cases lateRead (late.dropWhile p) (.g m) done <;> rfl

end State

theorem SameButRegisters.gAt {s t : State} (h : SameButRegisters s t) (gid n d : Nat) : t.gAt gid n d = s.gAt gid n d := by
  obtain ⟨-, -, hg, hl⟩ := h.team (s.leadTeam gid)
  unfold State.gAt
  simp only [h.clockOf, h.leadTeam, h.group, hg, hl]

namespace State

/-- What finding the lead fibre depends on. -/
theorem lead_congr {s t : State} {gid : Nat} (hm : (t.group gid).members = (s.group gid).members)
    (hn : ∀ n, (t.team n).num = (s.team n).num) : t.lead gid = s.lead gid := by
  unfold lead; simp only [hm, hn]

theorem leadTeam_congr {s t : State} {gid : Nat} (hm : (t.group gid).members = (s.group gid).members)
    (hn : ∀ n, (t.team n).num = (s.team n).num) : t.leadTeam gid = s.leadTeam gid := by
  unfold leadTeam; rw [lead_congr hm hn]

/-- A field that an update of a team leaves is what it was in every team. -/
theorem team_modTeam_same {β : Type} (s : State) (n : Nat) {f : Team → Team} {π : Team → β} (h : ∀ t, π (f t) = π t)
    (m : Nat) : π ((s.modTeam n f).team m) = π (s.team m) := by
  by_cases hm : m = n
  · subst hm; rw [team_modTeam, h]
  · rw [team_modTeam_other s f hm]

theorem group_modGroup_same {β : Type} (s : State) (n : Nat) {f : Group → Group} {π : Group → β} (h : ∀ t, π (f t) = π t)
    (m : Nat) : π ((s.modGroup n f).group m) = π (s.group m) := by
  by_cases hm : m = n
  · subst hm; rw [group_modGroup, h]
  · rw [group_modGroup_other s f hm]

/-- A fixed-latency write of a g register, as it is listed (02 R41; 04 R89). -/
def gLate (s : State) (gid n : Nat) (x : Dword) : Late :=
  ⟨.g n, x, s.clockOf (s.group gid).core + 4, (s.group gid).core, gid⟩

/-- A write listed in a team's copy of g0 to g15, behind those that are readable. -/
def listTeam (s : State) (w : Late) (t : Team) : Team :=
  { t with g := gLand t.g (t.late.takeWhile s.lateDone) 0, late := t.late.dropWhile s.lateDone ++ [w] }

/-- A write listed among a group's g16 to g63. -/
def listGroup (s : State) (w : Late) (t : Group) : Group :=
  { t with g := gLand t.g (t.late.takeWhile s.lateDone) 16, late := t.late.dropWhile s.lateDone ++ [w] }

theorem gWriteLate_eq (s : State) (gid n : Nat) (x : Dword) : s.gWriteLate gid n x =
    if n < 16 then s.modTeam (s.leadTeam gid) (s.listTeam (s.gLate gid n x))
    else s.modGroup gid (s.listGroup (s.gLate gid n x)) := rfl

/-- A g write changes a team or a group. -/
theorem gWriteLate_frame (s : State) (gid n : Nat) (x : Dword) :
    { s.gWriteLate gid n x with teams := s.teams, groups := s.groups } = s := by
  rw [gWriteLate_eq]; split <;> rfl

/-- A g write leaves the fibres. -/
theorem gWriteLate_fibre (s : State) (gid n : Nat) (x : Dword) (f : FibreId) :
    (s.gWriteLate gid n x).fibre f = s.fibre f := by
  rw [gWriteLate_eq]
  split
  · exact congrArg (fun m : KV Fibre => m.getD f.fid noFibre) 
      (team_modTeam_same s _ (f := s.listTeam (s.gLate gid n x)) (π := Team.fibres) (fun _ => rfl) _)
  · rfl

/-- A g write leaves who leads each group. -/
theorem gWriteLate_leadTeam (s : State) (gid n : Nat) (x : Dword) (g : Nat) :
    (s.gWriteLate gid n x).leadTeam g = s.leadTeam g := by
  rw [gWriteLate_eq]
  split
  · exact leadTeam_congr rfl fun k => 
      team_modTeam_same s _ (f := s.listTeam (s.gLate gid n x)) (π := Team.num) (fun _ => rfl) k
  · exact leadTeam_congr (group_modGroup_same s gid (f := s.listGroup (s.gLate gid n x)) (π := Group.members) (fun _ => rfl) g) fun _ => rfl

/-- A fixed-latency write of a g register is read from the fourth clock on, and no other register of the group by it (02
R41; 04 R89). -/
theorem gWriteLate_gAt (s : State) {gid n m : Nat} (x : Dword) (d : Nat) (hm : m < 64)
    (hg : (s.group gid).g.length = 48) (ht : (s.team (s.leadTeam gid)).g.length = 16) :
    (s.gWriteLate gid n x).gAt gid m d = if n = m ∧ 4 ≤ d then x else s.gAt gid m d := by
  have mono : ∀ l : Late, s.lateDone l = true → l.readyBy (s.clockOf l.core + d) = true := fun l =>
    Fibre.readyBy_mono (Nat.le_add_right _ d)
  have ready : (s.gLate gid n x).readyBy (s.clockOf (s.gLate gid n x).core + d) = true ↔ 4 ≤ d := by
    simp [gLate, Late.readyBy]
  have named : (s.gLate gid n x).reg = .g m ↔ n = m := by simp [gLate]
  unfold gAt
  rw [gWriteLate_leadTeam, gWriteLate_eq]
  by_cases hn : n < 16 <;> by_cases h16 : m < 16
  · have := gRead_late (s.team (s.leadTeam gid)).g (s.team (s.leadTeam gid)).late (s.gLate gid n x) (base := 0) mono
      (Nat.zero_le m) (by omega)
    simp only [named, ready] at this
    simp only [hn, h16, if_true, team_modTeam]
    exact this
  · have : n ≠ m := by omega
    simp [hn, h16, this, clockOf]
  · have : n ≠ m := by omega
    simp [hn, h16, this, clockOf]
  · have := gRead_late (s.group gid).g (s.group gid).late (s.gLate gid n x) (base := 16) mono (by omega : 16 ≤ m) (by omega)
    simp only [named, ready] at this
    simp only [hn, h16, if_false, group_modGroup]
    exact this

end State

end Sys2Proof.Machine

open Sys2Proof Sys2Proof.Machine Sys2Proof.Machine.State

theorem streamPops : Claims.StreamPops := by
  intro s act u nd
  obtain ⟨frame, pops⟩ := popStreams_fibre s act u
  refine ⟨fun h => by simp [popStreams, h], frame, fun f => by rw [pops], fun f hf => ?_, fun x hx n => ?_⟩
  · have : (act.filter fun x => decide (x.2 = f)) = [] :=
      List.filter_eq_nil_iff.2 fun x hx h => hf (List.mem_map.2 ⟨x, hx, of_decide_eq_true h⟩)
    rw [pops]; simp [popped, this]
  · rw [pops]
    unfold popped
    dsimp only
    rw [filter_key_eq (k := fun x : Nat × FibreId => x.2) nd hx]
    split
    · rename_i h
      simp [List.isEmpty_iff.1 h]
    · rw [List.foldl_cons, List.foldl_nil]
      simpa only [mem_nub] using popEach_getElem? (nodup_nub u.qr) _ n

theorem fixedLatencyGroupResult : Claims.FixedLatencyGroupResult := by
  intro s iss act i x n val hu hn hc hg ht t
  have he : s.enabled iss [(x, { dests := [(.g n, val)] })] = 0 := by simp [enabled]
  have mended := mendReg_frame s x.2 iss.gid (s.leadTeam iss.gid) (.g n)
  let m := s.mendReg x.2 iss.gid (s.leadTeam iss.gid) (.g n)
  obtain ⟨pops, popped⟩ := popStreams_fibre (m.gWriteLate iss.gid n val) act (usesOf i)
  have done : t = ((m.gWriteLate iss.gid n val).popStreams act (usesOf i)).advance iss := finish_fixed hu he act
  have after : SameButFibres (m.gWriteLate iss.gid n val) t := by
    rw [done]; exact pops.trans (advance_frame _ iss)
  have group : ∀ g, t.group g = (m.gWriteLate iss.gid n val).group g := after.registers.group
  have reads : ∀ k < 64, ∀ d, t.gAt iss.gid k d = if n = k ∧ 4 ≤ d then val else s.gAt iss.gid k d := fun k hk d => by
    rw [after.registers.gAt, gWriteLate_gAt m val d hk, mended.gAt]
    · rw [mended.group]; exact hg
    · rw [mended.leadTeam, (mended.team _).2.2.1]; exact ht
  refine ⟨?_, fun k hk d hd => ?_, fun k hk hkn d => ?_, ?_, fun f => ?_, ?_, ?_, ?_⟩
  · rw [reads n hn 4, if_pos ⟨rfl, Nat.le_refl 4⟩]
  · rw [reads k hk d, if_neg (by omega)]
  · rw [reads k hk d, if_neg (by omega)]
  · rw [done]; exact advance_goes _ iss
  · have : (s.popStreams act (usesOf i)).fibre f = ((m.gWriteLate iss.gid n val).popStreams act (usesOf i)).fibre f := by
      rw [popped, gWriteLate_fibre, mendReg_fibre, (popStreams_fibre s act (usesOf i)).2]
    rw [this, done]; exact advance_moved _ iss f
  · let ob := fun z : State => { z with teams := s.teams, groups := s.groups, badElse := s.badElse }
    calc ob t = ob (m.gWriteLate iss.gid n val) := (congrArg ob after.1 :)
      _ = ob m := (congrArg ob (gWriteLate_frame m iss.gid n val) :)
  · have h1 : t.badElse = (m.gWriteLate iss.gid n val).badElse := (congrArg State.badElse after.1 :)
    have h2 : (m.gWriteLate iss.gid n val).badElse = m.badElse :=
      (congrArg State.badElse (gWriteLate_frame m iss.gid n val) :)
    rw [h1, h2]
    exact mended.2.2.1
  · intro g hgid
    rw [group, gWriteLate_eq]
    split
    · exact mended.group g
    · rw [group_modGroup_other _ _ hgid]; exact mended.group g

/-- Settles O2: what a fixed-latency result makes of the fibres and of the group, and what a pop makes of the streams. -/
theorem fixedLatencyResult : Obligations.FixedLatencyResult :=
  ⟨fixedLatencyFibreResult, streamPops, fixedLatencyGroupResult⟩

end

section
namespace Sys2Proof.Machine

/-- Only fibres, g registers and the errors in registers may differ. -/
structure SameButLanded (s t : State) : Prop where
  rest : { t with teams := s.teams, groups := s.groups, badReg := s.badReg, badElse := s.badElse } = s
  team : ∀ n, { t.team n with fibres := (s.team n).fibres, g := (s.team n).g, late := (s.team n).late } = s.team n
  group : ∀ n, { t.group n with g := (s.group n).g, late := (s.group n).late } = s.group n

namespace SameButLanded

variable {s t u : State}

theorem refl (s : State) : SameButLanded s s := ⟨rfl, fun _ => rfl, fun _ => rfl⟩

theorem trans (h : SameButLanded s t) (k : SameButLanded t u) : SameButLanded s u := by
  refine ⟨?_, fun n => ?_, fun n => ?_⟩
  · have h := h.rest; rw [← k.rest] at h; exact h
  · have h := h.team n; rw [← k.team n] at h; exact h
  · have h := h.group n; rw [← k.group n] at h; exact h

theorem registers (h : SameButRegisters s t) : SameButLanded s t := by
  refine ⟨?_, fun n => ?_, fun n => ?_⟩
  · rw [← h.1]
  · rw [← h.2.2.2 n]
  · rw [h.group]

theorem errors (h : { t with badReg := s.badReg, badElse := s.badElse } = s) : SameButLanded s t := by
  have team : ∀ n, t.team n = s.team n := fun n => (congrArg (fun z : State => z.team n) h :)
  have group : ∀ n, t.group n = s.group n := fun n => (congrArg (fun z : State => z.group n) h :)
  exact ⟨(congrArg (fun z : State => { z with teams := s.teams, groups := s.groups }) h :), fun n => by rw [team],
    fun n => by rw [group]⟩

theorem modTeam (s : State) (n : Nat) {f : Team → Team}
    (h : ∀ t, { f t with fibres := t.fibres, g := t.g, late := t.late } = t) : SameButLanded s (s.modTeam n f) := by
  refine ⟨rfl, fun m => ?_, fun _ => rfl⟩
  by_cases hm : m = n
  · subst hm; rw [State.team_modTeam]; exact h _
  · rw [State.team_modTeam_other s f hm]

theorem modGroup (s : State) (n : Nat) {f : Group → Group} (h : ∀ t, { f t with g := t.g, late := t.late } = t) :
    SameButLanded s (s.modGroup n f) := by
  refine ⟨rfl, fun _ => rfl, fun m => ?_⟩
  by_cases hm : m = n
  · subst hm; rw [State.group_modGroup]; exact h _
  · rw [State.group_modGroup_other s f hm]

theorem lateDone (h : SameButLanded s t) : t.lateDone = s.lateDone := by
  funext l
  unfold State.lateDone State.clockOf State.core
  rw [show t.cores = s.cores by rw [← h.rest]]

theorem leadTeam (h : SameButLanded s t) (g : Nat) : t.leadTeam g = s.leadTeam g :=
  State.leadTeam_congr (by rw [← h.group g]) fun n => by rw [← h.team n]

end SameButLanded

namespace State

/-- One destination of a result is written (02 R41, R42; 06 R150). -/
def landOne (s : State) (f : FibreId) (gid tid : Nat) (d : Reg × Dword) : State :=
  let s := s.mendReg f gid tid d.1
  match d.1 with
  | .g n =>
    if n < 16 then if (s.teams.find tid).isSome then s.teamGNow tid gid n d.2 else s
    else if (s.groups.find gid).isSome then s.gWriteNow gid n d.2 else s
  | _ => s.modFibre f fun t => t.writeNow d.1 d.2

theorem landResult_eq (s : State) (f : FibreId) (gid tid : Nat) (ds : List (Reg × Dword)) :
    s.landResult f gid tid ds = s.each ds fun s d => s.landOne f gid tid d := by
  unfold landResult
  congr 1

/-- A g register of a group written, over every listed write of it. -/
def putGroup (n : Nat) (x : Dword) (t : Group) : Group :=
  { t with g := t.g.set (n - 16) x, late := t.late.filter fun l => decide (l.reg ≠ .g n) }

/-- A g register of a team written by a group, over the listed writes of it that are not another group's to come. -/
def putTeam (s : State) (gid n : Nat) (x : Dword) (t : Team) : Team :=
  { t with
    g := t.g.set n x
    late := t.late.filter fun l => decide (l.reg ≠ .g n) || (decide (l.gid ≠ gid) && !s.lateDone l) }

theorem gRead_set_other (regs : List Dword) (late : List Late) (x : Dword) {base m n : Nat} {p : Late → Bool}
    (done : Late → Bool) (hm : base ≤ m) (hn : base ≤ n) (h : n ≠ m) (hp : ∀ l, l.reg = .g n → p l = true) :
    gRead (regs.set (m - base) x) (late.filter p) base n done = gRead regs late base n done := by
  have : m - base ≠ n - base := by omega
  rw [gRead_eq, gRead_eq, lateRead_filter fun l _ hl _ => hp l hl]
  simp [List.getD, this]

theorem gRead_set_self (regs : List Dword) (late : List Late) (x : Dword) {base n : Nat} {p done : Late → Bool}
    (hn : n - base < regs.length) (hp : ∀ l, l.reg = .g n → done l = true → p l = false) :
    gRead (regs.set (n - base) x) (late.filter p) base n done = x := by
  rw [gRead_eq, lateRead_eq_none]
  · simp [List.getD, hn]
  · intro l hl hr
    obtain ⟨_, hl⟩ := List.mem_filter.1 hl
    by_contra hd
    rw [hp l hr (by simpa using hd)] at hl
    cases hl

section
variable (s : State) (f : FibreId) (gid tid : Nat)

theorem landOne_fibre_reg {r : Reg} (x : Dword) (h : isG r = false) :
    s.landOne f gid tid (r, x) = (s.mendReg f gid tid r).modFibre f fun t => t.writeNow r x := by
  cases r <;> first | rfl | cases h

theorem landOne_team {n : Nat} (x : Dword) (h : n < 16) : s.landOne f gid tid (.g n, x) =
    if (s.teams.find tid).isSome then (s.mendReg f gid tid (.g n)).modTeam tid (s.putTeam gid n x)
    else s.mendReg f gid tid (.g n) := by
  simp only [landOne, h, if_true]; rfl

/-- The machine with the error in a g register of a group gone. -/
def mendGroup (n : Nat) : State :=
  { s.mendReg f gid tid (.g n) with
    badElse := (s.mendReg f gid tid (.g n)).badElse.filter fun x => x != Place.groupG gid n }

theorem landOne_group {n : Nat} (x : Dword) (h : ¬ n < 16) : s.landOne f gid tid (.g n, x) =
    if (s.groups.find gid).isSome then (s.mendGroup f gid tid n).modGroup gid (putGroup n x)
    else s.mendReg f gid tid (.g n) := by
  simp only [landOne, h, if_false, gWriteNow, gPlace]; rfl

theorem mendGroup_frame (n : Nat) : SameButRegisters s (s.mendGroup f gid tid n) := by
  obtain ⟨_, _, h, _⟩ := mendReg_frame s f gid tid (.g n)
  exact ⟨rfl, fun _ h => h, fun x hx => h x (List.mem_filter.1 hx).1, fun _ => rfl⟩

/-- What one destination written can be. -/
theorem landOne_cases (d : Reg × Dword) :
    (isG d.1 = false ∧ s.landOne f gid tid d = (s.mendReg f gid tid d.1).modFibre f fun t => t.writeNow d.1 d.2) ∨
    ∃ n m, d.1 = .g n ∧ SameButRegisters s m ∧ m.teams = s.teams ∧ m.badReg = s.badReg ∧
      ((n < 16 ∧ (s.teams.find tid).isSome = true ∧ s.landOne f gid tid d = m.modTeam tid (s.putTeam gid n d.2)) ∨
        (n < 16 ∧ (s.teams.find tid).isSome = false ∧ s.landOne f gid tid d = m) ∨
        (¬ n < 16 ∧ (s.groups.find gid).isSome = true ∧ s.landOne f gid tid d = m.modGroup gid (putGroup n d.2)) ∨
        (¬ n < 16 ∧ (s.groups.find gid).isSome = false ∧ s.landOne f gid tid d = m)) := by
  obtain ⟨r, x⟩ := d
  cases hr : isG r
  · exact .inl ⟨rfl, landOne_fibre_reg s f gid tid x hr⟩
  · obtain ⟨n, rfl⟩ : ∃ n, r = .g n := by cases r <;> first | exact ⟨_, rfl⟩ | cases hr
    have mended := mendReg_frame s f gid tid (.g n)
    refine .inr ⟨n, ?_⟩
    by_cases hn : n < 16
    · refine ⟨_, rfl, mended, rfl, rfl, ?_⟩
      rw [landOne_team s f gid tid x hn]
      cases h : (s.teams.find tid).isSome <;> simp [hn]
    · rw [landOne_group s f gid tid x hn]
      cases h : (s.groups.find gid).isSome
      · exact ⟨_, rfl, mended, rfl, rfl, by simp [hn]⟩
      · exact ⟨_, rfl, mendGroup_frame s f gid tid n, rfl, rfl, by simp [hn]⟩

theorem landOne_frame (d : Reg × Dword) : SameButLanded s (s.landOne f gid tid d) := by
  rcases landOne_cases s f gid tid d with
    ⟨_, h⟩ | ⟨n, m, _, hm, _, _, ⟨_, _, h⟩ | ⟨_, _, h⟩ | ⟨_, _, h⟩ | ⟨_, _, h⟩⟩ <;> rw [h]
  · exact .registers ((mendReg_frame s f gid tid d.1).trans (modFibre_frame _ _ _).registers)
  · exact .trans (.registers hm) (.modTeam _ _ fun _ => rfl)
  · exact .registers hm
  · exact .trans (.registers hm) (.modGroup _ _ fun _ => rfl)
  · exact .registers hm

theorem landOne_fibre (d : Reg × Dword) (x : FibreId) : (s.landOne f gid tid d).fibre x =
    if isG d.1 = false ∧ f = x then (s.fibre x).writeNow d.1 d.2 else s.fibre x := by
  have same : ∀ m : State, m.teams = s.teams → m.fibre x = s.fibre x := fun m h => by simp [fibre, team, h]
  rcases landOne_cases s f gid tid d with
    ⟨hg, h⟩ | ⟨n, m, hn, hm, ht, _, ⟨_, _, h⟩ | ⟨_, _, h⟩ | ⟨_, _, h⟩ | ⟨_, _, h⟩⟩ <;> rw [h]
  · rw [modFibre_fibre, mendReg_fibre]; simp [hg]
  all_goals rw [if_neg (by simp [hn, isG])]
  · refine (congrArg (fun l : KV Fibre => l.getD x.fid noFibre) ?_).trans (same m ht)
    exact team_modTeam_same m tid (f := s.putTeam gid n d.2) (π := Team.fibres) (fun _ => rfl) x.team
  · exact same m ht
  · exact same m ht
  · exact same m ht

theorem isSome_find_put {β : Type} (l : KV β) (a b : Nat) (v : β) (h : (l.find b).isSome = true) :
    ((l.put a v).find b).isSome = true := by
  by_cases e : b = a
  · subst e; simp
  · rw [KV.find_put_other l e]; exact h

/-- Teams and groups that are listed stay so. -/
theorem landOne_listed (d : Reg × Dword) :
    (∀ n, (s.teams.find n).isSome = true → ((s.landOne f gid tid d).teams.find n).isSome = true) ∧
      ∀ n, (s.groups.find n).isSome = true → ((s.landOne f gid tid d).groups.find n).isSome = true := by
  rcases landOne_cases s f gid tid d with
    ⟨_, h⟩ | ⟨n, m, _, hm, ht, _, ⟨_, _, h⟩ | ⟨_, _, h⟩ | ⟨_, _, h⟩ | ⟨_, _, h⟩⟩ <;> rw [h]
  all_goals try have hg : m.groups = s.groups := by rw [← hm.1]
  · refine ⟨fun n hn => isSome_find_put _ _ _ _ ?_, fun n hn => ?_⟩ <;> unfold mendReg <;> split <;> exact hn
  · exact ⟨fun n hn => isSome_find_put _ _ _ _ (ht ▸ hn), fun n hn => hg ▸ hn⟩
  · exact ⟨fun n hn => ht ▸ hn, fun n hn => hg ▸ hn⟩
  · exact ⟨fun n hn => ht ▸ hn, fun n hn => isSome_find_put _ _ _ _ (hg ▸ hn)⟩
  · exact ⟨fun n hn => ht ▸ hn, fun n hn => hg ▸ hn⟩

/-- A g register reads as before a write to another register, in every team and group. -/
theorem landOne_read_other (d : Reg × Dword) {n : Nat} (hd : d.1 ≠ .g n) :
    (∀ k, gRead ((s.landOne f gid tid d).team k).g ((s.landOne f gid tid d).team k).late 0 n s.lateDone =
        gRead (s.team k).g (s.team k).late 0 n s.lateDone) ∧
      (16 ≤ n → ∀ k, gRead ((s.landOne f gid tid d).group k).g ((s.landOne f gid tid d).group k).late 16 n s.lateDone =
        gRead (s.group k).g (s.group k).late 16 n s.lateDone) := by
  have same : ∀ m : State, SameButRegisters s m →
      (∀ k, gRead (m.team k).g (m.team k).late 0 n s.lateDone = gRead (s.team k).g (s.team k).late 0 n s.lateDone) ∧
      (16 ≤ n → ∀ k, gRead (m.group k).g (m.group k).late 16 n s.lateDone =
        gRead (s.group k).g (s.group k).late 16 n s.lateDone) := by
    intro m hm
    refine ⟨fun k => ?_, fun _ k => ?_⟩
    · obtain ⟨_, _, h1, h2⟩ := hm.team k
      rw [h1, h2]
    · rw [hm.group]
  rcases landOne_cases s f gid tid d with
    ⟨_, h⟩ | ⟨i, m, hi, hm, _, _, ⟨_, _, h⟩ | ⟨_, _, h⟩ | ⟨h16, _, h⟩ | ⟨_, _, h⟩⟩ <;> rw [h]
  · exact same _ ((mendReg_frame s f gid tid d.1).trans (modFibre_frame _ _ _).registers)
  · have hin : n ≠ i := fun e => hd (e ▸ hi)
    refine ⟨fun k => ?_, (same m hm).2⟩
    rw [← (same m hm).1 k]
    by_cases hk : k = tid
    · subst hk
      rw [team_modTeam]
      refine gRead_set_other (base := 0) _ _ _ _ (Nat.zero_le _) (Nat.zero_le _) hin fun l hl => ?_
      simp [hl, hin]
    · rw [team_modTeam_other _ _ hk]
  · exact same m hm
  · have hin : n ≠ i := fun e => hd (e ▸ hi)
    refine ⟨(same m hm).1, fun hn k => ?_⟩
    rw [← (same m hm).2 hn k]
    by_cases hk : k = gid
    · subst hk
      rw [group_modGroup]
      refine gRead_set_other (base := 16) _ _ _ _ (by omega) hn hin fun l hl => ?_
      simp [hl, hin]
    · rw [group_modGroup_other _ _ hk]
  · exact same m hm

/-- A g register of the team that the result was issued for reads its value. -/
theorem landOne_read_team {n : Nat} (x : Dword) (hn : n < 16) (listed : (s.teams.find tid).isSome = true)
    (hl : n < (s.team tid).g.length) :
    gRead ((s.landOne f gid tid (.g n, x)).team tid).g ((s.landOne f gid tid (.g n, x)).team tid).late 0 n s.lateDone
      = x := by
  obtain ⟨_, _, h1, h2⟩ := (mendReg_frame s f gid tid (.g n)).team tid
  rw [landOne_team s f gid tid x hn, if_pos listed, team_modTeam]
  refine gRead_set_self (base := 0) _ _ _ (by rw [h1]; exact hl) fun l hr hd => ?_
  simp [hr, hd]

/-- A g register of the group's own reads its value. -/
theorem landOne_read_group {n : Nat} (x : Dword) (hn : 16 ≤ n) (listed : (s.groups.find gid).isSome = true)
    (hl : n - 16 < (s.group gid).g.length) :
    gRead ((s.landOne f gid tid (.g n, x)).group gid).g ((s.landOne f gid tid (.g n, x)).group gid).late 16 n s.lateDone
      = x := by
  have hm := mendGroup_frame s f gid tid n
  rw [landOne_group s f gid tid x (by omega), if_pos listed, group_modGroup, hm.group]
  refine gRead_set_self (base := 16) _ _ _ hl fun l hr _ => ?_
  simp [hr]

theorem landOne_gLength (d : Reg × Dword) (k : Nat) :
    ((s.landOne f gid tid d).team k).g.length = (s.team k).g.length ∧
      ((s.landOne f gid tid d).group k).g.length = (s.group k).g.length := by
  have same : ∀ m : State, SameButRegisters s m → (m.team k).g.length = (s.team k).g.length ∧
      (m.group k).g.length = (s.group k).g.length := fun m hm => by
    rw [(hm.team k).2.2.1, hm.group]; exact ⟨rfl, rfl⟩
  rcases landOne_cases s f gid tid d with
    ⟨_, h⟩ | ⟨i, m, _, hm, _, _, ⟨_, _, h⟩ | ⟨_, _, h⟩ | ⟨_, _, h⟩ | ⟨_, _, h⟩⟩ <;> rw [h]
  · exact same _ ((mendReg_frame s f gid tid d.1).trans (modFibre_frame _ _ _).registers)
  · refine ⟨(team_modTeam_same m tid (π := fun t : Team => t.g.length) (fun t => ?_) k).trans (same m hm).1, (same m hm).2⟩
    simp [putTeam]
  · exact same m hm
  · refine ⟨(same m hm).1, (group_modGroup_same m gid (π := fun t : Group => t.g.length) (fun t => ?_) k).trans (same m hm).2⟩
    simp [putGroup]
  · exact same m hm

/-- An error in a v register goes with the write to it, and no error comes (06 R150). -/
theorem landOne_errors (d : Reg × Dword) :
    (∀ x ∈ (s.landOne f gid tid d).badReg, x ∈ s.badReg ∧ ∀ n, d.1 = .v n → x ≠ (f, n)) ∧
      ∀ x ∈ (s.landOne f gid tid d).badElse, x ∈ s.badElse := by
  have other : ∀ m : State, SameButRegisters s m → (∀ n, d.1 ≠ .v n) →
      (∀ x ∈ m.badReg, x ∈ s.badReg ∧ ∀ n, d.1 = .v n → x ≠ (f, n)) ∧ ∀ x ∈ m.badElse, x ∈ s.badElse :=
    fun m hm hd => ⟨fun x hx => ⟨hm.2.1 x hx, fun n e => absurd e (hd n)⟩, hm.2.2.1⟩
  rcases landOne_cases s f gid tid d with
    ⟨_, h⟩ | ⟨i, m, hi, hm, _, _, ⟨_, _, h⟩ | ⟨_, _, h⟩ | ⟨_, _, h⟩ | ⟨_, _, h⟩⟩ <;> rw [h]
  · by_cases hv : ∃ n, d.1 = .v n
    · obtain ⟨n, hn⟩ := hv
      rw [hn]
      simp only [modFibre_badReg, modFibre_badElse, mendReg, List.mem_filter, bne_iff_ne, Reg.v.injEq]
      refine ⟨fun x hx => ⟨hx.1, fun k e => e ▸ hx.2⟩, fun _ h => h⟩
    · exact other _ ((mendReg_frame s f gid tid d.1).trans (modFibre_frame _ _ _).registers) fun n e => hv ⟨n, e⟩
  all_goals exact other m hm fun n e => by rw [hi] at e; cases e

/-- The g destinations apart, the results of a fibre written one after the other. -/
def landFibre (ds : List (Reg × Dword)) (y : Fibre) : Fibre :=
  ds.foldl (fun y d => if isG d.1 = false then y.writeNow d.1 d.2 else y) y

section
variable (ds : List (Reg × Dword))

theorem landResult_frame : SameButLanded s (s.landResult f gid tid ds) := by
  rw [landResult_eq]
  exact each_keeps (P := SameButLanded s) (.refl s) fun t d h => h.trans (landOne_frame t f gid tid d)

theorem landResult_fibre (x : FibreId) :
    (s.landResult f gid tid ds).fibre x = if f = x then landFibre ds (s.fibre x) else s.fibre x := by
  rw [landResult_eq]
  have key := fibre_each (P := fun _ => True) (k := fun _ : Reg × Dword => f) (l := ds)
    (g := fun d y => if isG d.1 = false then y.writeNow d.1 d.2 else y) (step := fun s d => s.landOne f gid tid d)
    (fun t d _ _ => ⟨trivial, fun x => by rw [landOne_fibre]; split <;> split <;> simp_all⟩) (s := s) trivial
  rw [key.2]
  by_cases h : f = x <;> simp [h, landFibre]

/-- A g register that is no destination reads as before in every group. -/
theorem landResult_gReg_other {n : Nat} (g : Nat) (h : .g n ∉ ds.map (·.1)) :
    (s.landResult f gid tid ds).gReg g n = s.gReg g n := by
  rw [landResult_eq]
  refine (foldl_obs_same (Q := fun _ => True) (ob := fun t : State => t.gReg g n) (fun t d hd _ => ⟨trivial, ?_⟩)
    trivial).2
  obtain ⟨teams, groups⟩ := landOne_read_other t f gid tid d (n := n) fun e => h (List.mem_map.2 ⟨d, hd, e⟩)
  have frame := landOne_frame t f gid tid d
  unfold gReg
  rw [frame.leadTeam, frame.lateDone]
  split
  · exact teams _
  · exact groups (by omega) _

variable {ds} (nd : (ds.map (·.1)).Nodup)
include nd

theorem landResult_team {n : Nat} {x : Dword} (hx : (.g n, x) ∈ ds) (hn : n < 16)
    (listed : (s.teams.find tid).isSome = true) (hl : (s.team tid).g.length = 16) :
    let t := s.landResult f gid tid ds
    gRead (t.team tid).g (t.team tid).late 0 n s.lateDone = x := by
  rw [landResult_eq]
  refine foldl_obs_write (w := fun x => x) (ob := fun t : State => gRead (t.team tid).g (t.team tid).late 0 n s.lateDone)
    (Q := fun t => SameButLanded s t ∧ (t.teams.find tid).isSome = true ∧ (t.team tid).g.length = 16)
    (fun t d _ ⟨h1, h2, h3⟩ => ⟨⟨h1.trans (landOne_frame t f gid tid d), (landOne_listed t f gid tid d).1 _ h2,
      ((landOne_gLength t f gid tid d tid).1.trans h3)⟩, ?_⟩) nd hx ⟨.refl s, listed, hl⟩
  rw [← h1.lateDone]
  split
  case isTrue h =>
    obtain ⟨r, y⟩ := d
    subst h
    exact landOne_read_team t f gid tid y hn h2 (by omega)
  case isFalse h => exact (landOne_read_other t f gid tid d h).1 tid

theorem landResult_group {n : Nat} {x : Dword} (hx : (.g n, x) ∈ ds) (hn : 16 ≤ n) (h64 : n < 64)
    (listed : (s.groups.find gid).isSome = true) (hl : (s.group gid).g.length = 48) :
    (s.landResult f gid tid ds).gReg gid n = x := by
  have h16 : ¬ n < 16 := by omega
  rw [landResult_eq]
  refine foldl_obs_write (w := fun x => x) (ob := fun t : State => t.gReg gid n)
    (Q := fun t => (t.groups.find gid).isSome = true ∧ (t.group gid).g.length = 48)
    (fun t d _ ⟨h2, h3⟩ => ⟨⟨(landOne_listed t f gid tid d).2 _ h2,
      ((landOne_gLength t f gid tid d gid).2.trans h3)⟩, ?_⟩) nd hx ⟨listed, hl⟩
  unfold gReg
  simp only [h16, if_false]
  rw [(landOne_frame t f gid tid d).lateDone]
  split
  case isTrue h =>
    obtain ⟨r, y⟩ := d
    subst h
    exact landOne_read_group t f gid tid y hn h2 (by omega)
  case isFalse h => exact (landOne_read_other t f gid tid d h).2 hn gid

/-- A v or k destination of the fibre reads its value at every clock. -/
theorem landFibre_reads {y : Fibre} {d : Reg × Dword} (hd : d ∈ ds) (has : y.has d.1) (c : Nat) :
    (landFibre ds y).reads c d.1 d.2 := by
  obtain ⟨r, x⟩ := d
  cases r with
  | v n =>
    refine foldl_obs_write (w := fun x => x.setWidth 32) (ob := fun y : Fibre => y.vAt c n)
      (Q := fun y : Fibre => n < y.window) (fun y d _ hy => ?_) nd hd has
    split
    · refine ⟨lt_of_lt_of_eq hy (Fibre.land_window y d.1 d.2).symm, Fibre.writeNow_vAt y c d.1 d.2 fun _ => hy⟩
    · refine ⟨hy, (if_neg fun e => ?_).symm⟩
      simp [e, isG] at *
  | k n =>
    refine foldl_obs_write (w := fun x => x.getLsbD 0) (ob := fun y : Fibre => y.kAt c n)
      (Q := fun y : Fibre => True) (fun y d _ hy => ?_) nd hd trivial
    split
    · exact ⟨trivial, Fibre.writeNow_kAt y c d.1 d.2 has.1 fun _ => has.2⟩
    · refine ⟨trivial, (if_neg fun e => ?_).symm⟩
      simp [e, isG] at *
  | g n => exact has.elim
  | ret => exact has.elim

omit nd

theorem landFibre_vAt_other {n : Nat} (y : Fibre) (c : Nat) (h : .v n ∉ ds.map (·.1)) :
    (landFibre ds y).vAt c n = y.vAt c n := by
  refine (foldl_obs_same (Q := fun _ => True) (ob := fun y : Fibre => y.vAt c n) (fun y d hd _ => ⟨trivial, ?_⟩)
    trivial).2
  have hr : d.1 ≠ .v n := fun e => h (List.mem_map.2 ⟨d, hd, e⟩)
  split
  · exact (Fibre.writeNow_vAt y c d.1 d.2 fun e => absurd e hr).trans (if_neg hr)
  · rfl

theorem landFibre_kAt_other {n : Nat} (y : Fibre) (c : Nat) (h : .k n ∉ ds.map (·.1)) :
    (landFibre ds y).kAt c n = y.kAt c n := by
  refine (foldl_obs_same (Q := fun _ => True) (ob := fun y : Fibre => y.kAt c n) (fun y d hd _ => ⟨trivial, ?_⟩)
    trivial).2
  have hr : d.1 ≠ .k n := fun e => h (List.mem_map.2 ⟨d, hd, e⟩)
  split
  · rcases Nat.eq_zero_or_pos n with rfl | h1
    · simp
    · exact (Fibre.writeNow_kAt y c d.1 d.2 h1 fun e => absurd e hr).trans (if_neg hr)
  · rfl

/-- Results for v, k and g registers change v, k and what is listed for them. -/
theorem landFibre_frame (y : Fibre) (h : ∀ d ∈ ds, d.1 ≠ .ret) :
    { landFibre ds y with v := y.v, k := y.k, late := y.late } = y := by
  refine (foldl_obs_same (Q := fun _ => True) (ob := fun z : Fibre => { z with v := y.v, k := y.k, late := y.late })
    (fun z d hd _ => ⟨trivial, ?_⟩) trivial).2
  have hr := h d hd
  split
  · unfold Fibre.writeNow Fibre.land
    cases hd1 : d.1 with
    | v n => rfl
    | k n => dsimp only; split <;> rfl
    | g n => rfl
    | ret => exact absurd hd1 hr
  · rfl

theorem landResult_errors :
    (∀ x ∈ (s.landResult f gid tid ds).badReg, x ∈ s.badReg ∧ ∀ n, .v n ∈ ds.map (·.1) → x ≠ (f, n)) ∧
      ∀ x ∈ (s.landResult f gid tid ds).badElse, x ∈ s.badElse := by
  rw [landResult_eq]
  induction ds generalizing s with
  | nil => exact ⟨fun x hx => ⟨hx, by simp⟩, fun _ h => h⟩
  | cons d ds ih =>
    obtain ⟨h1, h2⟩ := landOne_errors s f gid tid d
    obtain ⟨i1, i2⟩ := ih (s.landOne f gid tid d)
    refine ⟨fun x hx => ?_, fun x hx => h2 x (i2 x hx)⟩
    obtain ⟨j1, j2⟩ := i1 x hx
    refine ⟨(h1 x j1).1, fun n hn => ?_⟩
    rcases List.mem_cons.1 hn with e | hn
    · exact (h1 x j1).2 n e.symm
    · exact j2 n hn

end
end

/-- Registers that a result spoils hold an error (06 R150; log 9), and nothing else of the machine changes. -/
theorem spoil_frame (s : State) (p : Sys2Proof.Machine.Pending) :
    { s.spoil p with badReg := s.badReg, badElse := s.badElse } = s := by
  unfold spoil
  refine each_same (g := fun t : State => { t with badReg := s.badReg, badElse := s.badElse }) s fun t d => ?_
  split <;> rfl

/-- What an update of one element gives and every update keeps holds after all of them. -/
theorem each_reaches {α : Type} {P : State → Prop} {l : List α} {f : State → α → State}
    (hk : ∀ s x, P s → P (f s x)) {x : α} (hx : x ∈ l) (hp : ∀ s, P (f s x)) (s : State) : P (s.each l f) := by
  induction l generalizing s with
  | nil => cases hx
  | cons y l ih =>
    rcases List.mem_cons.1 hx with rfl | hx
    · exact each_keeps (P := P) (l := l) (s := f s x) (hp s) hk
    · exact ih hx _

theorem mem_badReg_spoil (s : State) (p : Sys2Proof.Machine.Pending) {n : Nat} (h : .v n ∈ p.dests.map (·.1)) :
    (p.fib, n) ∈ (s.spoil p).badReg := by
  obtain ⟨d, hd, hn⟩ := List.mem_map.1 h
  refine each_reaches (P := fun t => (p.fib, n) ∈ t.badReg) (fun t d ht => ?_) hd (fun t => ?_) s
  · split <;> simp [ht]
  · rw [hn]; simp

/-- Fibres that counted a result count one fewer (04 R93). -/
def uncount (s : State) (fs : List FibreId) : State := s.each fs fun s c => s.modFibre c fun f => { f with ldc := f.ldc - 1 }

theorem uncount_fibre (s : State) {fs : List FibreId} (nd : fs.Nodup) : SameButFibres s (s.uncount fs) ∧
    ∀ f, (s.uncount fs).fibre f = if f ∈ fs then { s.fibre f with ldc := (s.fibre f).ldc - 1 } else s.fibre f := by
  have key := fibre_each (P := SameButFibres s) (k := fun c : FibreId => c) (l := fs)
    (g := fun _ f => { f with ldc := f.ldc - 1 }) (step := fun s c => s.modFibre c fun f => { f with ldc := f.ldc - 1 })
    (fun t c _ h => ⟨h.trans (modFibre_frame t c _), modFibre_fibre t c _⟩) (SameButFibres.refl s)
  refine ⟨key.1, fun f => (key.2 f).trans ?_⟩
  by_cases hf : f ∈ fs
  · rw [filter_key_eq (k := fun c : FibreId => c) (by simpa using nd) hf, if_pos hf]; rfl
  · rw [List.filter_eq_nil_iff.2, if_neg hf]
    · rfl
    · rintro x hx h; exact hf (of_decide_eq_true h ▸ hx)

theorem writeResult_eq {s : State} {id : Nat} {p : Sys2Proof.Machine.Pending} (h : s.pending.find id = some p) :
    s.writeResult id =
      let t := ({ s with pending := s.pending.del id } : State).landResult p.fib p.gid p.tid p.dests
      (if p.bad then t.spoil p else t).uncount p.count := by
  unfold writeResult; rw [h]; rfl

end State
end Sys2Proof.Machine

open Sys2Proof Sys2Proof.Machine Sys2Proof.Machine.State

/-- Settles O5: what the destinations, the errors and the counts become of a result that is written. -/
theorem resultWriteback : Obligations.ResultWriteback := by
  intro s id p hp sorted ready nd has ndc
  let s1 : State := { s with pending := s.pending.del id }
  let landed := s1.landResult p.fib p.gid p.tid p.dests
  let u := if p.bad then landed.spoil p else landed
  have spoilt : { u with badReg := landed.badReg, badElse := landed.badElse } = landed := by
    simp only [u]; split
    · exact spoil_frame landed p
    · rfl
  have frame : SameButLanded s1 landed := landResult_frame s1 p.fib p.gid p.tid p.dests
  obtain ⟨counts, counted⟩ := uncount_fibre u ndc
  let t := u.uncount p.count
  have done : exec (.resultWriteback id) s = .next t := by
    show execResultWriteback id s = _
    unfold execResultWriteback
    rw [hp]; dsimp only; rw [ready]; dsimp only
    rw [writeResult_eq hp]
  have whole : SameButLanded s1 t := frame.trans (.trans (.errors spoilt) (.registers counts.registers))
  have fibre : ∀ f, t.fibre f =
      if f ∈ p.count then { landed.fibre f with ldc := (landed.fibre f).ldc - 1 } else landed.fibre f := fun f => by
    have : u.fibre f = landed.fibre f := (congrArg (fun z : State => z.fibre f) spoilt :)
    rw [counted, this]
  have gReg : ∀ g n, t.gReg g n = landed.gReg g n := fun g n =>
    (counts.registers.gAt g n 0).trans (congrArg (fun z : State => z.gReg g n) spoilt :)
  have noRet : ∀ d ∈ p.dests, d.1 ≠ .ret := by
    intro d hd e
    rcases has d hd with h | ⟨n, _, h⟩ <;> rw [e] at h <;> cases h
  have same : ∀ f n c, (t.fibre f).vAt c n = (landed.fibre f).vAt c n ∧ (t.fibre f).kAt c n = (landed.fibre f).kAt c n :=
    fun f n c => by rw [fibre]; split <;> exact ⟨rfl, rfl⟩
  have landedFibre : ∀ f, landed.fibre f = if p.fib = f then landFibre p.dests (s.fibre f) else s.fibre f :=
    landResult_fibre s1 p.fib p.gid p.tid p.dests
  have mine : landed.fibre p.fib = landFibre p.dests (s.fibre p.fib) := by rw [landedFibre, if_pos rfl]
  have ldc : ∀ f, (landed.fibre f).ldc = (s.fibre f).ldc := fun f => by
    rw [landedFibre]
    split
    · exact (congrArg Fibre.ldc (landFibre_frame (s.fibre f) noRet) :)
    · rfl
  obtain ⟨bad, badElse⟩ := landResult_errors s1 p.fib p.gid p.tid (ds := p.dests)
  have badT : t.badReg = u.badReg ∧ t.badElse = u.badElse :=
    ⟨(congrArg State.badReg counts.1 :), (congrArg State.badElse counts.1 :)⟩
  refine ⟨t, done, fun d hd c => ?_, fun n x hx => ⟨fun hn listed hl => ?_, fun hn listed hl => ?_⟩, ?_,
    fun r hr c => ⟨fun n hn => ?_, fun n hn => ?_, fun n gid hn _ => ?_⟩, fun f hf => ?_, fun f hf => ?_, fun f hf => ?_,
    ?_, whole.team, whole.group, ?_, fun hb => ⟨fun x hx => ?_, fun x hx => ?_⟩, fun hb n hn => ?_⟩
  · rcases has d hd with h | ⟨n, _, h⟩
    · refine (landFibre_reads nd hd h c).congr (fun n => ?_) fun n => ?_
      · rw [(same _ _ _).1, mine]
      · rw [(same _ _ _).2, mine]
    · rw [h]; trivial
  · have h := landResult_team s1 p.fib p.gid p.tid nd hx hn listed hl
    have hu : u.team p.tid = landed.team p.tid := (congrArg (fun z : State => z.team p.tid) spoilt :)
    obtain ⟨_, _, hg, hlate⟩ := counts.registers.team p.tid
    rw [hg, hlate, hu]
    exact h
  · obtain ⟨n', h64, hn'⟩ : ∃ m < 64, Reg.g n = .g m := by
      rcases has _ hx with h | h
      · exact h.elim
      · exact h
    rw [gReg]
    exact landResult_group s1 p.fib p.gid p.tid nd hx hn (by simp at hn'; omega) listed hl
  · have : t.pending = s.pending.del id := (congrArg State.pending whole.rest :)
    rw [this]; exact KV.find_del sorted
  · subst hn; rw [(same _ _ _).1, mine, landFibre_vAt_other _ _ hr]
  · subst hn; rw [(same _ _ _).2, mine, landFibre_kAt_other _ _ hr]
  · subst hn; rw [gReg]; exact landResult_gReg_other s1 p.fib p.gid p.tid p.dests gid hr
  · rw [fibre, if_pos hf]; exact congrArg (· - 1) (ldc f)
  · rw [fibre, if_neg hf, ldc]
  · have : landed.fibre f = s.fibre f := by rw [landedFibre, if_neg (Ne.symm hf)]
    rw [fibre, this]; split <;> rfl
  · have h := landFibre_frame (s.fibre p.fib) noRet
    rw [← mine] at h
    let ob := fun z : Fibre => { z with ldc := (s.fibre p.fib).ldc }
    rw [fibre]; split <;> exact (congrArg ob h :)
  · exact (congrArg (fun z : State => { z with pending := s.pending }) whole.rest :)
  · rw [badT.1] at hx
    simp only [u, hb] at hx
    obtain ⟨h1, h2⟩ := bad x hx
    exact ⟨h1, fun n e1 e2 hn => h2 n hn (by rw [← e1, ← e2])⟩
  · rw [badT.2] at hx
    simp only [u, hb] at hx
    exact badElse x hx
  · rw [badT.1]
    simp only [u, hb]
    exact mem_badReg_spoil landed p hn

end

section
namespace Sys2Proof.Machine

/-- What the update of one key gives and those of the others keep holds after a list of updates without repeats. -/
theorem foldl_establishes {σ α κ : Type} {I P : σ → Prop} {step : σ → α → σ} {l : List α} {k : α → κ}
    (nd : (l.map k).Nodup) {x : α} (hx : x ∈ l) (inv : ∀ y d, I y → I (step y d)) (gives : ∀ y, I y → P (step y x))
    (keeps : ∀ y, ∀ d ∈ l, k d ≠ k x → I y → P y → P (step y d)) {y : σ} (hy : I y) : P (l.foldl step y) := by
  induction l generalizing y with
  | nil => cases hx
  | cons d l ih =>
    obtain ⟨hd, hl⟩ := List.nodup_cons.1 nd
    rcases List.mem_cons.1 hx with rfl | hx
    · have kept : ∀ (m : List α) (y : σ), (∀ d ∈ m, d ∈ l) → I y → P y → P (m.foldl step y) := by
        intro m
        induction m with
        | nil => exact fun _ _ _ h => h
        | cons e m im =>
          intro y hm hi hy
          have he := hm e (by simp)
          refine im _ (fun d hd => hm d (List.mem_cons_of_mem _ hd)) (inv y e hi) ?_
          exact keeps y e (List.mem_cons_of_mem _ he) (fun h => hd (List.mem_map.2 ⟨e, he, h⟩)) hi hy
      exact kept l _ (fun _ h => h) (inv y x hy) (gives y hy)
    · exact ih hl hx (fun y d hd => keeps y d (List.mem_cons_of_mem _ hd)) (inv y d hy)

/-- A listed write stands first among what is not readable, and reads at some clock. -/
def Stands (p done : Late → Bool) (r : Reg) (x : Dword) (late : List Late) : Prop :=
  lateRead late r done = some x ∧ late.dropWhile p = late

theorem dropWhile_listed {p : Late → Bool} {w : Late} (late : List Late) (hw : p w = false) :
    (late.dropWhile p ++ [w]).dropWhile p = late.dropWhile p ++ [w] := by
  cases h : late.dropWhile p with
  | nil => simp [hw]
  | cons a l =>
    have : p a = false := by
      have := List.head?_dropWhile_not p late
      rw [h] at this; simpa using this
    simp [this]

theorem Stands.listed {p done : Late → Bool} {w : Late} (late : List Late) (hw : p w = false) (hd : done w = true) :
    Stands p done w.reg w.val (late.dropWhile p ++ [w]) := by
  refine ⟨?_, dropWhile_listed late hw⟩
  rw [lateRead_concat, if_pos ⟨rfl, hd⟩]

theorem Stands.other {p done : Late → Bool} {w : Late} {r : Reg} {x : Dword} {late : List Late}
    (h : Stands p done r x late) (hw : p w = false) (hr : w.reg ≠ r) :
    Stands p done r x (late.dropWhile p ++ [w]) := by
  refine ⟨?_, dropWhile_listed late hw⟩
  rw [h.2, lateRead_concat, if_neg fun e => hr e.1]
  exact h.1

namespace State

/-- A v or k register of a fibre that a write has been listed for reads it at the fourth clock from then (04 R89). -/
def fStands (s : State) (clock : Nat) (f : FibreId) (r : Reg) (x : Dword) : Prop :=
  Stands (Late.readyBy clock) (Late.readyBy (clock + 4)) r x (s.fibre f).late

theorem fStands.reads {s : State} {clock : Nat} {f : FibreId} {r : Reg} {x : Dword} (h : s.fStands clock f r x)
    (h0 : r ≠ .k 0) : (s.fibre f).reads (clock + 4) r x := by
  cases r with
  | v n => unfold Fibre.reads; dsimp only; rw [Fibre.vAt_eq, h.1]; rfl
  | k n =>
    have : 1 ≤ n := Nat.one_le_iff_ne_zero.2 fun e => h0 (e ▸ rfl)
    unfold Fibre.reads; dsimp only; rw [Fibre.kAt_eq _ _ this, h.1]; rfl
  | g n => trivial
  | ret => trivial

/-- A g register that a write has been listed for reads it four clocks on. -/
def gStands (s : State) (gid n : Nat) (x : Dword) : Prop :=
  Stands s.lateDone (fun l => l.readyBy (s.clockOf l.core + 4)) (.g n) x
    (if n < 16 then (s.team (s.leadTeam gid)).late else (s.group gid).late)

theorem gStands.gAt {s : State} {gid n : Nat} {x : Dword} (h : s.gStands gid n x) : s.gAt gid n 4 = x := by
  have h1 := h.1
  unfold State.gAt
  by_cases hn : n < 16 <;> simp only [hn, if_true, if_false] at h1 ⊢ <;> rw [gRead_eq, h1] <;> rfl

theorem gStands.congr {s t : State} {gid n : Nat} {x : Dword} (h : s.gStands gid n x) (hf : SameButRegisters s t) :
    t.gStands gid n x := by
  have hl : t.lateDone = s.lateDone := by funext l; unfold lateDone; rw [hf.clockOf]
  unfold gStands at *
  simp only [hl, hf.clockOf, hf.leadTeam, (hf.team _).2.2.2, hf.group]
  exact h

theorem gWriteLate_stands (s : State) (gid n : Nat) (x : Dword) : (s.gWriteLate gid n x).gStands gid n x := by
  have late := Stands.listed (p := s.lateDone) (done := fun l => l.readyBy (s.clockOf l.core + 4)) (w := s.gLate gid n x)
    (if n < 16 then (s.team (s.leadTeam gid)).late else (s.group gid).late)
    (by simp [gLate, lateDone, Late.readyBy]) (by simp [gLate, Late.readyBy])
  unfold gStands
  rw [gWriteLate_leadTeam, gWriteLate_eq]
  by_cases hn : n < 16
  · simp only [hn, if_true, team_modTeam] at late ⊢; exact late
  · simp only [hn, if_false, group_modGroup] at late ⊢; exact late

theorem gStands.gWriteLate {s : State} {gid n : Nat} {x : Dword} (h : s.gStands gid n x) {m : Nat} (y : Dword)
    (hm : m ≠ n) : (s.gWriteLate gid m y).gStands gid n x := by
  have late := Stands.other (w := s.gLate gid m y) h (by simp [gLate, lateDone, Late.readyBy]) (by simpa [gLate] using hm)
  unfold gStands at h ⊢
  rw [gWriteLate_leadTeam, gWriteLate_eq]
  by_cases hn : n < 16 <;> by_cases h16 : m < 16
  · simp only [hn, h16, if_true, team_modTeam] at late ⊢; exact late
  · simp only [hn, h16, if_true, if_false, team_modGroup] at h ⊢; exact h
  · simp only [hn, h16, if_true, if_false, group_modTeam] at h ⊢; exact h
  · simp only [hn, h16, if_false, group_modGroup] at late ⊢; exact late

theorem writeFixed_g (s : State) (iss : Issue) (f : FibreId) (n : Nat) (x : Dword) : s.writeFixed iss f (.g n) x =
    (s.mendReg f iss.gid (s.leadTeam iss.gid) (.g n)).gWriteLate iss.gid n x := rfl

theorem writeFixed_clockOf (s : State) (iss : Issue) (f : FibreId) (r : Reg) (x : Dword) (c : Nat) :
    (s.writeFixed iss f r x).clockOf c = s.clockOf c := by
  cases hg : isG r
  · rw [writeFixed_eq s iss f x hg]
    exact ((mendReg_frame _ _ _ _ _).trans (modFibre_frame _ _ _).registers).clockOf c
  · obtain ⟨m, rfl⟩ : ∃ m, r = .g m := by cases r <;> first | exact ⟨_, rfl⟩ | cases hg
    rw [writeFixed_g, gWriteLate_eq]
    split <;> rfl

/-- What a fixed-latency write makes of a fibre. -/
theorem writeFixed_fibre_any (s : State) (iss : Issue) (f : FibreId) (r : Reg) (x : Dword) (g : FibreId) :
    (s.writeFixed iss f r x).fibre g =
      if isG r = false ∧ f = g then (s.fibre g).writeLate (s.clockOf iss.core) r x else s.fibre g := by
  cases hg : isG r
  · rw [writeFixed_eq s iss f x hg, modFibre_fibre, mendReg_fibre]; simp
  · obtain ⟨m, rfl⟩ : ∃ m, r = .g m := by cases r <;> first | exact ⟨_, rfl⟩ | cases hg
    rw [writeFixed_g, gWriteLate_fibre, mendReg_fibre, if_neg (by simp)]

/-- A fixed-latency write leaves what stands listed for another register. -/
theorem fStands.writeFixed {s : State} {iss : Issue} {f : FibreId} {r : Reg} {x : Dword}
    (h : s.fStands (s.clockOf iss.core) f r x) (g : FibreId) (d : Reg × Dword) (hr : g = f → d.1 ≠ r) :
    (s.writeFixed iss g d.1 d.2).fStands (s.clockOf iss.core) f r x := by
  unfold fStands
  rw [writeFixed_fibre_any]
  split
  · rename_i hg
    exact h.other (w := ⟨d.1, d.2, s.clockOf iss.core + 4, 0, 0⟩) (by simp [Late.readyBy]) (hr hg.2)
  · exact h

theorem fStands_writeFixed (s : State) (iss : Issue) (f : FibreId) {r : Reg} (x : Dword) (hg : isG r = false) :
    (s.writeFixed iss f r x).fStands (s.clockOf iss.core) f r x := by
  unfold fStands
  rw [writeFixed_fibre_any, if_pos ⟨hg, rfl⟩]
  exact Stands.listed (w := ⟨r, x, s.clockOf iss.core + 4, 0, 0⟩) _ (by simp [Late.readyBy]) (by simp [Late.readyBy])

theorem gStands.writeFixed {s : State} {iss : Issue} {n : Nat} {x : Dword} (h : s.gStands iss.gid n x) (f : FibreId)
    (d : Reg × Dword) (hd : d.1 ≠ .g n) : (s.writeFixed iss f d.1 d.2).gStands iss.gid n x := by
  obtain ⟨r, y⟩ := d
  cases hg : isG r
  · dsimp only
    rw [writeFixed_eq s iss f y hg]
    exact h.congr ((mendReg_frame _ _ _ _ _).trans (modFibre_frame _ _ _).registers)
  · obtain ⟨m, rfl⟩ : ∃ m, r = .g m := by cases r <;> first | exact ⟨_, rfl⟩ | cases hg
    exact (h.congr (mendReg_frame s f iss.gid (s.leadTeam iss.gid) (.g m))).gWriteLate y fun e => hd (by rw [e])

section
variable (iss : Issue) {x : (Nat × FibreId) × LaneRes} (nd : (x.2.dests.map (·.1)).Nodup) {r : Reg} {v : Dword}
  (hd : (r, v) ∈ x.2.dests)
include nd hd

/-- Each v or k destination of a lane stands listed once the lane's results are written. -/
theorem each_writeFixed_fStands (hg : isG r = false) {clock : Nat} {s : State} (hc : s.clockOf iss.core = clock) :
    (s.each x.2.dests fun s d => s.writeFixed iss x.1.2 d.1 d.2).fStands clock x.1.2 r v := by
  refine foldl_establishes (I := fun t : State => t.clockOf iss.core = clock)
    (P := fun t : State => t.fStands clock x.1.2 r v) nd hd (fun t d h => ?_) (fun t h => ?_) (fun t d _ hr h ht => ?_) hc
  · rw [writeFixed_clockOf, h]
  · subst h; exact fStands_writeFixed t iss _ v hg
  · subst h; exact ht.writeFixed _ d fun _ => hr

/-- So does each g destination. -/
theorem each_writeFixed_gStands {n : Nat} (hn : r = .g n) (s : State) :
    (s.each x.2.dests fun s d => s.writeFixed iss x.1.2 d.1 d.2).gStands iss.gid n v := by
  subst hn
  refine foldl_establishes (I := fun _ => True) (P := fun t : State => t.gStands iss.gid n v) nd hd (fun _ _ _ => trivial)
    (fun t _ => ?_) (fun t d _ hr _ ht => ?_) trivial
  · exact gWriteLate_stands _ _ _ _
  · exact ht.writeFixed _ d hr

end

section
variable (iss : Issue) {rs : List ((Nat × FibreId) × LaneRes)} (nd : (rs.map fun x => x.1.2).Nodup)
  {x : (Nat × FibreId) × LaneRes} (hx : x ∈ rs) (nd' : (x.2.dests.map (·.1)).Nodup) {r : Reg} {v : Dword}
  (hd : (r, v) ∈ x.2.dests)
include nd hx nd' hd

/-- Each v or k destination stands listed once the results of all lanes are written. -/
theorem writeAll_fStands (s : State) (hg : isG r = false) :
    (s.writeAll iss rs).fStands (s.clockOf iss.core) x.1.2 r v := by
  have clocks : ∀ (t : State) (y : (Nat × FibreId) × LaneRes) c,
      (t.each y.2.dests fun s d => s.writeFixed iss y.1.2 d.1 d.2).clockOf c = t.clockOf c := fun t y c =>
    each_same (g := fun t : State => t.clockOf c) t fun t (d : Reg × Dword) => writeFixed_clockOf t iss y.1.2 d.1 d.2 c
  refine foldl_establishes (I := fun t : State => t.clockOf iss.core = s.clockOf iss.core)
    (P := fun t : State => t.fStands (s.clockOf iss.core) x.1.2 r v) nd hx (fun t y h => (clocks t y _).trans h)
    (fun t h => each_writeFixed_fStands iss nd' hd hg h) (fun t y _ hy h ht => ?_) rfl
  refine (each_keeps (P := fun t : State => t.clockOf iss.core = s.clockOf iss.core ∧
    t.fStands (s.clockOf iss.core) x.1.2 r v) ⟨h, ht⟩ fun u d ⟨h1, h2⟩ => ⟨?_, ?_⟩).2
  · rw [writeFixed_clockOf, h1]
  · rw [← h1] at h2 ⊢
    exact h2.writeFixed _ d fun e => absurd e hy

/-- So does each g destination of the one lane that has results. -/
theorem writeAll_gStands (s : State) {n : Nat} (hn : r = .g n) (one : ∀ y ∈ rs, y.1.2 = x.1.2) :
    (s.writeAll iss rs).gStands iss.gid n v :=
  foldl_establishes (I := fun _ => True) (P := fun t : State => t.gStands iss.gid n v) nd hx (fun _ _ _ => trivial)
    (fun t _ => each_writeFixed_gStands iss nd' hd hn t) (fun _ y hy hyx => absurd (one y hy) hyx) trivial

end

theorem writeAll_clockOf (s : State) (iss : Issue) (rs : List ((Nat × FibreId) × LaneRes)) (c : Nat) :
    (s.writeAll iss rs).clockOf c = s.clockOf c :=
  each_same (g := fun t : State => t.clockOf c) s fun t x =>
    each_same (g := fun t : State => t.clockOf c) t fun u (d : Reg × Dword) => writeFixed_clockOf u iss x.1.2 d.1 d.2 c

/-! The end of an instruction whose flags raise no trap. -/

/-- No enable of FPCTL that is set meets a flag. -/
theorem enabled_of_fpctl {s : State} {iss : Issue} (rs : List ((Nat × FibreId) × LaneRes))
    (h : bits (s.fpctl iss) 11 4 = 0) : s.enabled iss rs = 0 := by
  have h1 : bits (s.fpctl iss) 8 4 = 0 := by unfold bits at *; omega
  have h2 : bits (s.fpctl iss) 11 9 = 0 := by unfold bits at *; omega
  simp [enabled, h1, h2]

/-- A result of a unit of variable latency, of one lane. -/
def addResult (s : State) (iss : Issue) (x : (Nat × FibreId) × LaneRes) : State :=
  if x.2.dests.isEmpty then s else s.addPending iss x.1.2 x.2.dests [] none

/-- An instruction of a unit of variable latency whose flags raise no trap (04 R90). -/
theorem finish_variable {s : State} {iss : Issue} {i : Instr} {rs : List ((Nat × FibreId) × LaneRes)}
    (ha : unitOf i ≠ .alu) (hf : unitOf i ≠ .fma) (he : s.enabled iss rs = 0) (act : List (Nat × FibreId)) :
    s.finish iss act i rs =
      (((s.setFlags rs).each rs fun s x => s.addResult iss x).popStreams act (usesOf i)).advance iss := by
  have hen : (s.setFlags rs).enabled iss rs = 0 := ((setFlags_fibre s rs).1.registers.enabled iss rs).trans he
  have hfix : (unitOf i == .alu || unitOf i == .fma) = false := by simp [ha, hf]
  unfold finish
  simp only [hen, hfix, bne_self_eq_false, Bool.false_eq_true, if_false]
  rfl

/-- What is pending already, under an earlier number, and what a pending result is of (04 R90). -/
theorem addResult_spec (s : State) (iss : Issue) (x : (Nat × FibreId) × LaneRes) :
    (∀ f, (s.addResult iss x).fibre f = s.fibre f) ∧ s.nextId ≤ (s.addResult iss x).nextId ∧
      (∀ id < s.nextId, (s.addResult iss x).pending.find id = s.pending.find id) ∧
      (x.2.dests ≠ [] → ∃ id p, id < (s.addResult iss x).nextId ∧ (s.addResult iss x).pending.find id = some p ∧
        p.fib = x.1.2 ∧ p.dests = x.2.dests ∧ p.load = none) := by
  unfold addResult
  split
  case isTrue h => exact ⟨fun _ => rfl, le_rfl, fun _ _ => rfl, fun hx => absurd (List.isEmpty_iff.1 h) hx⟩
  case isFalse h =>
    refine ⟨fun _ => rfl, Nat.le_succ _, fun id hid => KV.find_put_other _ (Nat.ne_of_lt hid), fun _ => ?_⟩
    exact ⟨s.nextId, _, Nat.lt_succ_self _, KV.find_put _ _ _, rfl, rfl, rfl⟩

/-- A lane's result is on its way, under a number that has been given out. -/
def onItsWay (x : (Nat × FibreId) × LaneRes) (t : State) : Prop :=
  ∃ id p, id < t.nextId ∧ t.pending.find id = some p ∧ p.fib = x.1.2 ∧ p.dests = x.2.dests ∧ p.load = none

theorem each_addResult_arrives (s : State) (iss : Issue) {rs : List ((Nat × FibreId) × LaneRes)}
    {x : (Nat × FibreId) × LaneRes} (hx : x ∈ rs) (hd : x.2.dests ≠ []) :
    onItsWay x (s.each rs fun s x => s.addResult iss x) := by
  refine each_reaches (P := onItsWay x) (fun t y ht => ?_) hx (fun t => (addResult_spec t iss x).2.2.2 hd) s
  obtain ⟨id, p, hid, hp, h⟩ := ht
  obtain ⟨_, hn, hf, _⟩ := addResult_spec t iss y
  exact ⟨id, p, Nat.lt_of_lt_of_le hid hn, (hf id hid).trans hp, h⟩

/-- Flags that a fibre has after those of its lane are set. -/
theorem setFlags_lane (s : State) {rs : List ((Nat × FibreId) × LaneRes)} (nd : (rs.map fun x => x.1.2).Nodup)
    {x : (Nat × FibreId) × LaneRes} (hx : x ∈ rs) : (s.setFlags rs).fibre x.1.2 = withFlags x.2 (s.fibre x.1.2) := by
  rw [(setFlags_fibre s rs).2, filter_key_eq (k := fun x : (Nat × FibreId) × LaneRes => x.1.2) nd hx]
  rfl

/-- Writing results leaves flags. -/
theorem writeAll_flags (s : State) (iss : Issue) (rs : List ((Nat × FibreId) × LaneRes)) (f : FibreId) :
    ((s.writeAll iss rs).fibre f).fpflags = (s.fibre f).fpflags ∧
      ((s.writeAll iss rs).fibre f).bfflags = (s.fibre f).bfflags := by
  have flags : ∀ (y : Fibre) clock r x, (y.writeLate clock r x).fpflags = y.fpflags ∧
      (y.writeLate clock r x).bfflags = y.bfflags := fun y clock r x =>
    ⟨(congrArg Fibre.fpflags (Fibre.writeLate_frame y clock r x) :),
      (congrArg Fibre.bfflags (Fibre.writeLate_frame y clock r x) :)⟩
  refine Prod.mk.inj (each_same (g := fun t : State => ((t.fibre f).fpflags, (t.fibre f).bfflags)) s fun t x => ?_)
  refine each_same (g := fun t : State => ((t.fibre f).fpflags, (t.fibre f).bfflags)) t fun u d => ?_
  rw [writeFixed_fibre_any]
  split
  · rw [(flags _ _ _ _).1, (flags _ _ _ _).2]
  · rfl

/-- The pops and the move leave flags, what is listed for registers, and all but fibres. -/
theorem popped_advanced (s : State) (act : List (Nat × FibreId)) (u : Uses) (iss : Issue) :
    SameButFibres s ((s.popStreams act u).advance iss) ∧ ∀ f,
      (((s.popStreams act u).advance iss).fibre f).fpflags = (s.fibre f).fpflags ∧
      (((s.popStreams act u).advance iss).fibre f).bfflags = (s.fibre f).bfflags ∧
      (((s.popStreams act u).advance iss).fibre f).late = (s.fibre f).late := by
  obtain ⟨pops, popped⟩ := popStreams_fibre s act u
  refine ⟨pops.trans (advance_frame _ iss), fun f => ?_⟩
  have h := advance_moved (s.popStreams act u) iss f
  unfold Fibre.moved at h
  rw [popped] at h
  exact ⟨(congrArg Fibre.fpflags h :), (congrArg Fibre.bfflags h :), (congrArg Fibre.late h :)⟩

end State

/-- An instruction that ends with results for its lanes completes: each register once in a lane, and a g register in one
lane alone. -/
theorem completes_of_finish {i : Instr} {s : State} {iss : Issue} {act : List (Nat × FibreId)}
    {rs : List ((Nat × FibreId) × LaneRes)} (run : exec i s = .next (s.finish iss act i rs))
    (lanes : (iss.lanes.map (·.2)).Nodup → (rs.map fun x => x.1.2).Nodup)
    (once : ∀ x ∈ rs, (x.2.dests.map (·.1)).Nodup)
    (one : ∀ x ∈ rs, (∃ d ∈ x.2.dests, isG d.1 = true) → ∀ y ∈ rs, y.1.2 = x.1.2) : Completes i s iss act rs := by
  refine ⟨run, fun quiet ndl _ => ?_⟩
  have he : s.enabled iss rs = 0 := quiet.elim (State.enabled_of_fpctl rs) id
  have nd := lanes ndl
  by_cases hu : unitOf i = .alu ∨ unitOf i = .fma
  · have done := State.finish_fixed hu he act
    obtain ⟨frame, kept⟩ := State.popped_advanced ((s.setFlags rs).writeAll iss rs) act (usesOf i) iss
    rw [done] at run
    let t := (((s.setFlags rs).writeAll iss rs).popStreams act (usesOf i)).advance iss
    refine ⟨t, run, State.advance_goes _ iss, fun x hx => ⟨?_, ?_, fun _ d hd => ?_, fun ha hf => ?_⟩⟩
    · rw [(kept _).1, (State.writeAll_flags _ iss rs _).1, State.setFlags_lane s nd hx]; rfl
    · rw [(kept _).2.1, (State.writeAll_flags _ iss rs _).2, State.setFlags_lane s nd hx]; rfl
    · obtain ⟨r, v⟩ := d
      have clock : t.clockOf iss.core = s.clockOf iss.core := by
        rw [frame.registers.clockOf, State.writeAll_clockOf, (State.setFlags_fibre s rs).1.registers.clockOf]
      cases hg : isG r
      · have stands := State.writeAll_fStands iss nd hx (once x hx) hd (s.setFlags rs) hg
        have reads : r ≠ .k 0 → (t.fibre x.1.2).reads (t.clockOf iss.core + 4) r v := by
          refine State.fStands.reads ?_
          unfold State.fStands at stands ⊢
          rw [(kept _).2.2, clock, ← (State.setFlags_fibre s rs).1.registers.clockOf]
          exact stands
        cases r with
        | v n => exact reads (by simp)
        | k n =>
          cases n with
          | zero => trivial
          | succ n => exact reads (by simp)
        | g n => cases hg
        | ret => trivial
      · obtain ⟨n, rfl⟩ : ∃ n, r = .g n := by cases r <;> first | exact ⟨_, rfl⟩ | cases hg
        exact ((State.writeAll_gStands iss nd hx (once x hx) hd (s.setFlags rs) rfl
          (one x hx ⟨_, hd, rfl⟩)).congr frame.registers).gAt
    · exact absurd hu (not_or.2 ⟨ha, hf⟩)
  · obtain ⟨ha, hf⟩ := not_or.1 hu
    have done := State.finish_variable ha hf he act
    obtain ⟨frame, kept⟩ := State.popped_advanced ((s.setFlags rs).each rs fun s x => s.addResult iss x) act (usesOf i) iss
    have fibre : ∀ f, ((s.setFlags rs).each rs fun s x => s.addResult iss x).fibre f = (s.setFlags rs).fibre f := fun f =>
      State.each_same (g := fun t : State => t.fibre f) _ fun t x => (State.addResult_spec t iss x).1 f
    rw [done] at run
    refine ⟨_, run, State.advance_goes _ iss, fun x hx => ⟨?_, ?_, fun h => absurd h hu, fun _ _ hd => ?_⟩⟩
    · rw [(kept _).1, fibre, State.setFlags_lane s nd hx]; rfl
    · rw [(kept _).2.1, fibre, State.setFlags_lane s nd hx]; rfl
    · obtain ⟨id, p, _, hp, h⟩ := State.each_addResult_arrives (s.setFlags rs) iss hx hd
      exact ⟨id, p, frame.pending ▸ hp, h⟩

/-- So it does with one destination a lane, of fibres. -/
theorem completes_of_map {i : Instr} {s : State} {iss : Issue} {act ls : List (Nat × FibreId)}
    {res : Nat × FibreId → LaneRes}
    (run : exec i s = .next (s.finish iss act i (ls.map fun x => (x, res x))))
    (lanes : (iss.lanes.map (·.2)).Nodup → (ls.map (·.2)).Nodup)
    (once : ∀ x ∈ ls, ((res x).dests.map (·.1)).Nodup) (fibres : ∀ x ∈ ls, ∀ d ∈ (res x).dests, isG d.1 = false) :
    Completes i s iss act (ls.map fun x => (x, res x)) := by
  refine completes_of_finish run (fun h => ?_) (fun x hx => ?_) fun x hx ⟨d, hd, hg⟩ => ?_
  · rw [List.map_map]; exact lanes h
  · obtain ⟨y, hy, rfl⟩ := List.mem_map.1 hx
    exact once y hy
  · obtain ⟨y, hy, rfl⟩ := List.mem_map.1 hx
    rw [fibres y hy d hd] at hg; cases hg

/-- So it does with results for one lane. -/
theorem completes_of_one {i : Instr} {s : State} {iss : Issue} {act : List (Nat × FibreId)} {x : Nat × FibreId}
    {res : LaneRes} (run : exec i s = .next (s.finish iss act i [(x, res)])) (once : (res.dests.map (·.1)).Nodup) :
    Completes i s iss act [(x, res)] :=
  completes_of_finish run (fun _ => by simp) (fun y hy => List.mem_singleton.1 hy ▸ once)
    fun y hy _ z hz => by rw [List.mem_singleton.1 hy, List.mem_singleton.1 hz]

/-- Guarded lanes are lanes. -/
theorem State.Clear.sublist {s : State} {i : Instr} {iss : Issue} {act : List (Nat × FibreId)} (h : s.Clear i iss act) :
    act.Sublist iss.lanes := h.guarded ▸ List.filter_sublist

theorem State.Clear.nodup {s : State} {i : Instr} {iss : Issue} {act : List (Nat × FibreId)} (h : s.Clear i iss act)
    (nd : (iss.lanes.map (·.2)).Nodup) : (act.map (·.2)).Nodup := (h.sublist.map _).nodup nd

/-- The six flags of STATUS, each in its bit (02 R48). -/
theorem status_bits (a b c d e g : Bool) :
    let x : Dword := BitVec.ofNat 64 (b2n a + 2 * b2n b + 4 * b2n c + 8 * b2n d + 16 * b2n e + 32 * b2n g)
    x.getLsbD 0 = a ∧ x.getLsbD 1 = b ∧ x.getLsbD 2 = c ∧ x.getLsbD 3 = d ∧ x.getLsbD 4 = e ∧ x.getLsbD 5 = g ∧
      x.toNat < 64 := by
  revert a b c d e g; decide

end Sys2Proof.Machine

open Sys2Proof Sys2Proof.Machine

/-- Settles O9: MOVS is `agree` of the special register, whose value each selector gives. -/
theorem specialRegisters : Obligations.SpecialRegisters := by
  intro o sel s iss act ha hsel clear
  have run : exec (.movs o) s = .next (agree (.movs o) s iss act o.d (special s iss sel.toNat)) := by
    show execMovs o s = _
    unfold execMovs
    rw [issued_clear clear false rfl, ha]
  refine ⟨special s iss sel.toNat, fun n hd _ _ _ => ?_, fun n c hd hc => ?_, fun n hd hne => ?_, fun x hx => ?_⟩
  · unfold agree at run
    rw [hd] at run ⊢
    exact completes_of_map run clear.nodup (fun _ _ => by simp [res1]) fun _ _ d h => by
      simp only [res1, List.mem_singleton] at h; rw [h]; rfl
  · have head : special s iss sel.toNat (act.headD (0, ⟨0, 0⟩)) = c := by
      cases h : act with
      | nil => exact absurd h clear.some'
      | cons x r => exact hc x (by simp [h])
    unfold agree at run
    rw [hd] at run ⊢
    dsimp only at run
    rw [head, if_neg (by simpa using hc)] at run
    exact completes_of_one run (by simp [res1])
  · obtain ⟨x, hx, y, hy, hxy⟩ := hne
    unfold agree at run
    rw [run, hd]
    dsimp only
    rw [if_pos]
    · rfl
    · rw [List.any_eq_true]
      by_contra h
      push Not at h
      have same : ∀ z ∈ act, special s iss sel.toNat z = special s iss sel.toNat (act.headD (0, ⟨0, 0⟩)) := fun z hz => by
        simpa using h z hz
      exact hxy ((same x hx).trans (same y hy).symm)
  · refine ⟨?_, ?_, ?_, ?_, ?_, ?_, ?_, ?_, ?_, ?_, ?_, ?_, ?_, ?_⟩ <;> rintro rfl
    case refine_11 => exact status_bits _ _ _ _ _ _
    all_goals rfl

end

section
namespace Sys2Proof.Machine

/-- Of the ALU, the FMA unit and the special-function units (04 R84). -/
def ofValueUnit (i : Instr) : Bool :=
  match unitOf i with
  | .alu | .fma | .sfu => true
  | _ => false

/-- What an instruction comes to when it makes the checks of `issuedMem` before its meaning, none of its own and none left
out. -/
def ChecksFirst (i : Instr) (s : State) (r : Host.Outcome State Fault Refusal) : Prop :=
  ∃ body, r = issuedMem i s false legal body

section
variable (i : Instr) (s : State)

theorem issued_checksFirst (body : Issue → List (Nat × FibreId) → State) :
    ChecksFirst i s (issued i s false legal body) := ⟨_, rfl⟩

theorem intInstr_checksFirst (d a b c : Opnd) (op : Nat → Nat → Nat → Nat → Nat) :
    ChecksFirst i s (intInstr i s d a b c op) := issued_checksFirst i s _

theorem fpInstr_checksFirst (rnd : Nat) (d a b c : Opnd) (op : Float.Env → Nat → Nat → Nat → Float.Res) :
    ChecksFirst i s (fpInstr i s rnd d a b c op) := issued_checksFirst i s _

theorem halfInstr_checksFirst (fmt rnd : Nat) (d a b c : Opnd) (op : Float.Env → Nat → Nat → Nat → Float.Res) :
    ChecksFirst i s (halfInstr i s fmt rnd d a b c op) := issued_checksFirst i s _

theorem cmpInstr_checksFirst (kd : Nat) (u : Bool) (cc : Nat) (a b : Opnd) :
    ChecksFirst i s (cmpInstr i s kd u cc a b) := issued_checksFirst i s _

theorem fcmpInstr_checksFirst (kd cc : Nat) (a b : Opnd) : ChecksFirst i s (fcmpInstr i s kd cc a b) :=
  issued_checksFirst i s _

end

/-- Every instruction of those units but BDOT makes those checks. -/
theorem exec_checksFirst {i : Instr} (hu : ofValueUnit i = true) (hb : ∀ o, i ≠ .bdot o) (s : State) :
    ChecksFirst i s (exec i s) := by
  delta exec
  cases i
  case bdot o => exact absurd rfl (hb o)
  case nop | nopX | movX | fclass | fcvt | sel | plop | movs | bcvt | lea => exact issued_checksFirst _ s _
  case cmp | cmpX => exact cmpInstr_checksFirst _ s _ _ _ _ _
  case fcmp | fcmpX => exact fcmpInstr_checksFirst _ s _ _ _ _
  case hadd2 | hadd2X | hmul2 | hmul2X | hfma2 | hfma2X => exact halfInstr_checksFirst _ s _ _ _ _ _ _ _
  case fadd | faddX | fsub | fsubX | fmul | fmulX | fmin | fminX | fmax | fmaxX | fma | fmaX | fdiv | fsqrt | fsqrtX | frnd
      | frcp | frcpX | frsq | frsqX | fexp2 | fexp2X | flog2 | flog2X | fsin | fcos =>
    exact fpInstr_checksFirst _ s _ _ _ _ _ _
  case add | addX | sub | subX | mul | mulX | mulh | mulhX | mad | madX | and | andX | or | orX | xor | xorX | andn | andnX
      | min | minX | max | maxX | shl | shlX | shr | shrX | rol | rolX | mov | li | liX | abs | absX | neg | negX | clz
      | clzX | popc | popcX | brev | brevX | div | rem | bfx | bfi =>
    exact intInstr_checksFirst _ s _ _ _ _ _
  all_goals exact absurd hu Bool.false_ne_true

/-- The checks in their order (04 R100), where an instruction has none of its own. -/
theorem issuedMem_order {i : Instr} {s : State} {iss : Issue} (hi : s.issue = some iss)
    (body : Issue → List (Nat × FibreId) → State) :
    let r := issuedMem i s false legal body
    let act := s.active iss (guardOf i)
    let bad := s.beyondWindow iss (usesOf i) || s.badStream act (usesOf i)
    (bad = true → r = .next (s.raise iss 0x01 0 0)) ∧
      (bad = false → s.unifBad iss act (usesOf i) = true → r = .next (s.raise iss 0x03 0 0)) ∧
      (bad = false → s.unifBad iss act (usesOf i) = false → iss.atEnd = true →
        r = .next (s.raise iss 0x06 0 iss.next.toNat)) ∧
      (bad = false → s.unifBad iss act (usesOf i) = false → iss.atEnd = false → s.badGuard iss (guardOf i) = true →
        r = .next (s.raise iss 0x0A 0 0)) ∧
      (bad = false → iss.atEnd = false → s.badGuard iss (guardOf i) = false → act = [] → r = .next (s.advance iss)) := by
  intro r act bad
  have hr : r = if bad then .next (s.raise iss cILLEGAL 0 0)
      else if s.unifBad iss act (usesOf i) then .next (s.raise iss cUNIF 0 0)
      else if iss.atEnd then .next (s.raise iss cCFI 0 iss.next.toNat)
      else if s.badGuard iss (guardOf i) then .next (s.raise iss cECC 0 0)
      else if act.isEmpty then .next (s.advance iss)
      else match s.popState act (usesOf i) with
        | some none => .next (s.stall iss)
        | some (some (c, va)) => .next (if c == cPAGE then (s.forgetFault act (usesOf i)).parkPage iss va false
            else s.raise iss c 0 va)
        | none => .next (body iss act) := by
    simp only [r, issuedMem, hi, legal, Bool.or_false, Bool.not_false, Bool.and_true, act, bad] <;> rfl
  rw [hr]
  refine ⟨fun h => ?_, fun h hu => ?_, fun h hu he => ?_, fun h hu he hg => ?_, fun h he hg ha => ?_⟩
  · rw [if_pos h]; rfl
  · rw [if_neg (by simp [h]), if_pos hu]; rfl
  · rw [if_neg (by simp [h]), if_neg (by simp [hu]), if_pos he]; rfl
  · rw [if_neg (by simp [h]), if_neg (by simp [hu]), if_neg (by simp [he]), if_pos hg]; rfl
  · have hu : s.unifBad iss act (usesOf i) = false := by simp [State.unifBad, ha]
    rw [if_neg (by simp [h]), if_neg (by simp [hu]), if_neg (by simp [he]), if_neg (by simp [hg]), if_pos (by simp [ha])]

end Sys2Proof.Machine

open Sys2Proof Sys2Proof.Machine

/-- Settles O14: the instructions of those units make the checks of `issuedMem` and no others before their meaning. -/
theorem orderOfCauses : Obligations.OrderOfCauses := by
  intro i s iss hi hu hb
  have hv : ofValueUnit i = true := by
    unfold ofValueUnit
    rcases hu with h | h | h <;> rw [h]
  obtain ⟨body, run⟩ := exec_checksFirst hv hb s
  rw [run]
  exact issuedMem_order hi body

end

section
namespace Sys2Proof.Machine.State

/-- A slot with a lifted ready group chooses among the lifted ones (02 R50). -/
theorem chooseGroup_lifted {s : State} {core slot : Nat} {x : Nat × Group} (h : s.chooseGroup core slot = some x)
    (some' : ∃ y ∈ s.readyGroups core slot, y.2.lifted = true) : isLifted x.2 = true := by
  obtain ⟨y, hy, hl⟩ := some'
  have mem : y ∈ (s.readyGroups core slot).filter fun x => isLifted x.2 :=
    List.mem_filter.2 ⟨hy, by simp [isLifted, hl]⟩
  have lifted : ((s.readyGroups core slot).filter fun x => isLifted x.2).isEmpty = false := by
    cases h : (s.readyGroups core slot).filter fun x => isLifted x.2 with
    | nil => rw [h] at mem; cases mem
    | cons _ _ => rfl
  unfold chooseGroup at h
  simp only [lifted, Bool.not_false, if_true] at h
  exact (List.mem_filter.1 (List.mem_of_find?_eq_some h)).2

theorem spinUpdate_lanes (r : Spin) : (spinUpdate r).lanes = r.lanes := by
  unfold spinUpdate; split <;> rfl

/-- SPIN of some fibres is marked, and nothing but fibres changes (02 R48). -/
theorem markSpin_frame (s : State) (fs : List FibreId) (b : Bool) : SameButFibres s (s.markSpin fs b) :=
  each_keeps (P := SameButFibres s) (SameButFibres.refl s) fun t f h => by
    split
    · exact h
    · exact h.trans (modFibre_frame t f _)

theorem markSpin_spin (s : State) (fs : List FibreId) (b : Bool) : ∀ f ∈ fs, ((s.markSpin fs b).fibre f).spin = b := by
  intro f hf
  refine each_reaches (P := fun t : State => (t.fibre f).spin = b) (fun t g ht => ?_) hf (fun t => ?_) s
  · split
    · exact ht
    · rw [modFibre_fibre]; split <;> simp [ht]
  · split
    · rename_i h; exact eq_of_beq h
    · simp

/-- A counter put in the place of that of its lanes is among the group's. -/
theorem putSpin_mem {s : State} {gid : Nat} {q r : Spin} (hq : q ∈ (s.group gid).spins) (hl : q.lanes = r.lanes) :
    r ∈ ((s.putSpin gid r).group gid).spins := by
  unfold putSpin
  rw [group_modGroup]
  exact List.mem_map.2 ⟨q, hq, by simp [hl]⟩

/-- A counter put and its lanes' SPIN marked. -/
theorem putSpin_markSpin {s : State} {gid : Nat} {q r : Spin} (hq : q ∈ (s.group gid).spins) (hl : q.lanes = r.lanes)
    (b : Bool) :
    let t := (s.putSpin gid r).markSpin q.lanes b
    r ∈ (t.group gid).spins ∧ (∀ f ∈ q.lanes, (t.fibre f).spin = b) ∧ { t with groups := s.groups, teams := s.teams } = s := by
  have frame := markSpin_frame (s.putSpin gid r) q.lanes b
  refine ⟨?_, markSpin_spin _ _ b, ?_⟩
  · rw [frame.registers.group]; exact putSpin_mem hq hl
  · exact (congrArg (fun t : State => { t with groups := s.groups }) frame.1 :)

theorem spinAt_mem {s : State} {gid : Nat} {pc : Dword} {p : Spin → Bool} {r : Spin} (h : s.spinAt gid pc p = some r) :
    r ∈ (s.group gid).spins := List.mem_of_find?_eq_some h

end Sys2Proof.Machine.State

open Sys2Proof Sys2Proof.Machine Sys2Proof.Machine.State

/-- Settles O54: ageing, the choice, the counter and the demotion, each from its own definition. -/
theorem progress : Obligations.Progress := by
  refine ⟨fun s gid g hg hl hw => ?_, fun s core slot x h some' => chooseGroup_lifted h some',
    fun r dirty rest hd => ⟨fun hb h => ?_, fun hb h => ?_⟩, fun s gid pc r => ⟨fun h => ?_, fun h => ?_⟩⟩
  · refine ⟨s.setGroup gid { g with lifted := true }, ?_, group_setGroup s gid _, rfl⟩
    show execAgeingLift gid s = _
    unfold execAgeingLift
    rw [hg]
    simp [hl, hw]
  · have : (!dirty && decide (15 ≤ r.count)) = false := by rcases h with h | h <;> simp [h]
    simp [spinUpdate, spinUpdate.go, hd, hb, this]
  · simp [spinUpdate, spinUpdate.go, hd, hb, h]
  · refine ⟨s.demote gid r, ?_, putSpin_markSpin (spinAt_mem h)
      (r := spinUpdate { r with due := false, demotedUntil := some (s.clockOf (s.group gid).core + 256) })
      (by rw [spinUpdate_lanes]) true⟩
    show execSpinDemotion gid pc s = _
    unfold execSpinDemotion; rw [h]
  · refine ⟨s.undemote gid r, ?_, putSpin_markSpin (spinAt_mem h) (r := { r with demotedUntil := none }) rfl false⟩
    show execSpinDemotionEnd gid pc s = _
    unfold execSpinDemotionEnd; rw [h]

end

section
namespace Sys2Proof.Machine

/-- What a decoded instruction has passed (15 R336). -/
theorem wf_of_decode {ws : List Word} {i : Instr} {n : Nat} (h : decode ws = .ok (i, n)) : i.wf = true := by
  unfold decode at h
  split at h
  · cases h
  · split at h
    · cases h
    · split at h
      · rename_i hw
        simp only [Except.ok.injEq, Prod.mk.injEq] at h
        exact h.1 ▸ hw
      · cases h

theorem getc_selector {o : XS} (h : (Instr.getc o).wf = true) : o.imm.toNat < 12 := by
  have h : xsOk [.g] [.none] [.none] 12 o = true := h
  simp only [xsOk, Bool.and_eq_true, decide_eq_true_eq] at h
  exact h.2

/-- No SETC has a selector beyond 0x0B (23 R456). -/
theorem ofSetc_beyond {o : XS} (h : 0xB < o.imm.toNat) : ofSetc o = none := by
  unfold ofSetc
  split <;> first | rfl | omega

/-- A number in 64 bits is what it is, modulo 2^64. -/
theorem bits_ofNat (x hi lo : Nat) (h : hi < 64) (hl : lo ≤ hi) : bits (BitVec.ofNat 64 x).toNat hi lo = bits x hi lo := by
  unfold bits
  refine Nat.eq_of_testBit_eq fun i => ?_
  simp only [BitVec.toNat_ofNat, Nat.testBit_mod_two_pow, Nat.testBit_div_two_pow]
  by_cases hi : i < hi + 1 - lo
  · have : i + lo < 64 := by omega
    simp [hi, this]
  · simp [hi]

theorem getLsbD_ofNat (x i : Nat) (h : i < 64) : (BitVec.ofNat 64 x).getLsbD i = decide (x / 2 ^ i % 2 = 1) := by
  rw [BitVec.getLsbD_ofNat, Nat.testBit_eq_decide_div_mod_eq]
  simp [h]

theorem lkWord_fields (s : State) (core ctx : Nat) : (lkWord s core ctx).getLsbD 0 = (s.ctx ctx).lost ∧
    (lkWord s core ctx).toNat / 2 ^ 32 = ((s.core core).locked.filter fun l => l.1 == ctx).length % 2 ^ 32 := by
  unfold lkWord
  rw [getLsbD_ofNat _ _ (by omega)]
  cases (s.ctx ctx).lost <;> simp [b2n] <;> omega

theorem cpWord_fields (t : Team) : (cpWord t).getLsbD 0 = t.cpErr ∧ bits (cpWord t).toNat 15 8 = t.cpCause % 256 ∧
    bits (cpWord t).toNat 31 16 = t.cpDrop % 65536 := by
  unfold cpWord
  rw [getLsbD_ofNat _ _ (by omega), bits_ofNat _ _ _ (by omega) (by omega), bits_ofNat _ _ _ (by omega) (by omega)]
  unfold bits
  cases t.cpErr <;> simp only [b2n] <;> refine ⟨?_, ?_, ?_⟩ <;> simp <;> omega

theorem trapWord_fields (h : Handler) : bits (trapWord h).toNat 7 0 = h.cause % 256 ∧
    bits (trapWord h).toNat 23 8 = h.detail % 65536 ∧ (trapWord h).getLsbD 24 = h.skip := by
  unfold trapWord
  rw [getLsbD_ofNat _ _ (by omega), bits_ofNat _ _ _ (by omega) (by omega), bits_ofNat _ _ _ (by omega) (by omega)]
  unfold bits
  cases h.skip <;> simp only [b2n] <;> refine ⟨?_, ?_, ?_⟩ <;> simp <;> omega

theorem mxWord_fields (m : MxStat) : (mxWord m).getLsbD 0 = m.err ∧ (mxWord m).getLsbD 1 = m.stp ∧
    bits (mxWord m).toNat 15 8 = m.ecause % 256 ∧ bits (mxWord m).toNat 20 16 = m.flg.toNat ∧
    bits (mxWord m).toNat 23 21 = m.bflg.toNat ∧ bits (mxWord m).toNat 31 24 = m.srow % 256 ∧
    bits (mxWord m).toNat 37 32 = m.sblk % 64 ∧ (mxWord m).getLsbD 38 = m.sph := by
  have h5 := m.flg.isLt
  have h3 := m.bflg.isLt
  unfold mxWord
  simp (disch := omega) only [getLsbD_ofNat, bits_ofNat]
  unfold bits
  cases m.err <;> cases m.stp <;> cases m.sph <;> simp only [b2n] <;> refine ⟨?_, ?_, ?_, ?_, ?_, ?_, ?_, ?_⟩ <;> simp <;> omega

/-- GETC of the registers that are not a handler's. -/
theorem getc_shared {o : XS} {s : State} {iss : Issue} {act : List (Nat × FibreId)} (h : s.Clear (.getc o) iss act)
    (hs : o.imm.toNat ≠ 0xA) (hs' : o.imm.toNat ≠ 0xB) :
    Completes (.getc o) s iss act [(act.headD (0, ⟨0, 0⟩), res1 o.d (creg s iss act o.imm.toNat))] := by
  refine completes_of_one ?_ (by simp [res1])
  show execGetc o s = _
  unfold execGetc
  rw [issued_clear h false rfl]
  simp [hs, hs']

/-- GETC of TRAPINFO or TRAPVA. -/
theorem getc_trap {o : XS} {s : State} {iss : Issue} {act : List (Nat × FibreId)} (h : s.Clear (.getc o) iss act)
    {va : Bool} (hs : o.imm.toNat = if va then 0xB else 0xA) :
    exec (.getc o) s = .next
      (let xs := act.map fun a => trapImage s a.2 va
        if xs.any (·.isNone) then s.raise iss cPRIV 0 0
        else if xs.any (· != xs.headD none) then s.raise iss cUNIF 0 0
        else s.finish iss act (.getc o) [(act.headD (0, ⟨0, 0⟩), res1 o.d ((xs.headD none).getD 0))]) := by
  show execGetc o s = _
  unfold execGetc
  rw [issued_clear h false rfl]
  have h1 : (o.imm.toNat == 0xA || o.imm.toNat == 0xB) = true := by cases va <;> simp [hs]
  have h2 : (o.imm.toNat == 0xB) = va := by cases va <;> simp [hs]
  dsimp only
  rw [if_pos h1, h2]

theorem trapImage_eq_none {s : State} {f : FibreId} {va : Bool} : trapImage s f va = none ↔ (s.fibre f).handler = none := by
  simp [trapImage]

end Sys2Proof.Machine

open Sys2Proof Sys2Proof.Machine

theorem controlReads : Claims.ControlReads := by
  refine ⟨fun o ws n h => ⟨ofSetc_beyond h, fun hd => ?_⟩, fun o s iss act clear => ?_⟩
  · have := getc_selector (wf_of_decode hd)
    omega
  intro sel t c gives
  have shared : sel ≠ 0xA → sel ≠ 0xB → gives (creg s iss act sel) := getc_shared clear
  refine ⟨fun h => ?_, fun h => ?_, fun h => ?_, fun h => ?_, fun h => ?_, fun h => ?_, fun h => ?_, fun h => ?_,
    fun h => ?_, fun h => ?_, fun va h => ⟨fun hn => ?_, fun hh hne => ?_, fun hd ha hall => ?_⟩⟩
  case refine_1 | refine_2 | refine_3 | refine_4 | refine_5 | refine_6 | refine_7 =>
    rw [h] at shared
    exact shared (by omega) (by omega)
  case refine_8 =>
    rw [h] at shared
    exact ⟨_, shared (by omega) (by omega), lkWord_fields s iss.core iss.ctx⟩
  case refine_9 =>
    rw [h] at shared
    exact ⟨_, shared (by omega) (by omega), cpWord_fields t⟩
  case refine_10 =>
    rw [h] at shared
    exact ⟨_, shared (by omega) (by omega), mxWord_fields t.mx⟩
  all_goals have run := getc_trap clear h
  · obtain ⟨x, hx, hn⟩ := hn
    rw [run]
    dsimp only
    rw [if_pos]
    · rfl
    · exact List.any_eq_true.2 ⟨_, List.mem_map.2 ⟨x, hx, rfl⟩, by simp [trapImage_eq_none.2 hn]⟩
  · obtain ⟨x, hx, y, hy, hxy⟩ := hne
    rw [run]
    dsimp only
    rw [if_neg, if_pos]
    · rfl
    · rw [List.any_eq_true]
      by_contra hall
      push Not at hall
      have same : ∀ z ∈ act, trapImage s z.2 va = (act.map fun a => trapImage s a.2 va).headD none := fun z hz => by
        simpa using hall _ (List.mem_map.2 ⟨z, hz, rfl⟩)
      exact hxy ((same x hx).trans (same y hy).symm)
    · simp only [List.any_map, List.any_eq_true, Function.comp_apply, not_exists, not_and, Option.isNone_iff_eq_none]
      exact fun z hz e => hh z hz (trapImage_eq_none.1 e)
  · have image : ∀ z ∈ act, trapImage s z.2 va = some (if va then hd.va else trapWord hd) := fun z hz => by
      simp [trapImage, hall z hz]
    have head : (act.map fun a => trapImage s a.2 va).headD none = some (if va then hd.va else trapWord hd) := by
      cases ha' : act with
      | nil => exact absurd ha' ha
      | cons x r => exact image x (by simp [ha'])
    refine ⟨if va then hd.va else trapWord hd, completes_of_one ?_ (by simp [res1]), fun h => by simp [h], fun h => ?_⟩
    · rw [run]
      dsimp only
      rw [head, if_neg, if_neg]
      · rfl
      · simp only [List.any_map, List.any_eq_true, Function.comp_apply, not_exists, not_and, bne_iff_ne, ne_eq, not_not]
        exact image
      · simp only [List.any_map, List.any_eq_true, Function.comp_apply, not_exists, not_and, Option.isNone_iff_eq_none]
        exact fun z hz e => by rw [image z hz] at e; cases e
    · rw [h]; exact trapWord_fields hd

end

section
/-! Memory operations: home slices, L1, translation and the fetch of code leave everything but memory as it is. -/

namespace Sys2Proof.Machine

theorem KV.mem_of_find {β : Type} {m : KV β} {a : Nat} {v : β} (h : m.find a = some v) : (a, v) ∈ m := by
  induction m with
  | nil => cases h
  | cons x r ih =>
    obtain ⟨k, w⟩ := x
    unfold KV.find at h
    split at h
    · next e => cases h; subst e; exact List.mem_cons_self
    · exact List.mem_cons_of_mem _ (ih h)

theorem KV.find_of_mem {β : Type} {m : KV β} (sorted : m.sorted = true) {a : Nat} {v : β} (h : (a, v) ∈ m) :
    m.find a = some v := by
  induction m with
  | nil => cases h
  | cons x r ih =>
    obtain ⟨k, w⟩ := x
    obtain ⟨above, sorted⟩ := KV.sorted_cons.1 sorted
    unfold KV.find
    rcases List.mem_cons.1 h with e | h
    · cases e; rw [if_pos rfl]
    · rw [if_neg (show ¬a = k from (Nat.ne_of_lt (above _ h)).symm)]; exact ih sorted h

/-- A property of all listed values, the default's too, holds of the value at every key. -/
theorem KV.getD_of_all {β : Type} {P : β → Prop} {m : KV β} {d : β} (h : ∀ x ∈ m, P x.2) (hd : P d) (a : Nat) :
    P (m.getD a d) := by
  unfold KV.getD
  cases e : m.find a with
  | none => exact hd
  | some v => exact h _ (mem_of_find e)

/-- The lists of memory that stand in rising keys. -/
structure State.MemoryListed (s : State) : Prop where
  owners : KV.sorted s.owners = true
  l2 : KV.sorted s.l2 = true
  cores : KV.sorted s.cores = true
  l1 : ∀ x ∈ s.cores, KV.sorted x.2.l1 = true

/-- Only memory, the cores' caches and TLBs and the fresh names may differ. The lists of memory stay in rising keys, and a
name that was given out stays so. -/
structure SameButMemory (s t : State) : Prop where
  rest : { t with
    mem := s.mem, l2 := s.l2, owners := s.owners, guests := s.guests, l2lines := s.l2lines, l2stamp := s.l2stamp,
    stlb := s.stlb, registrations := s.registrations, nextId := s.nextId, cores := s.cores, badMem := s.badMem,
    badWritten := s.badWritten } = s
  ids : s.nextId ≤ t.nextId
  lists : s.MemoryListed → t.MemoryListed

namespace SameButMemory

variable {s t u : State}

theorem refl (s : State) : SameButMemory s s := ⟨rfl, Nat.le_refl _, id⟩

theorem trans (h : SameButMemory s t) (h' : SameButMemory t u) : SameButMemory s u where
  rest := by
    have e := congrArg (fun z : State => { z with
      mem := s.mem, l2 := s.l2, owners := s.owners, guests := s.guests, l2lines := s.l2lines, l2stamp := s.l2stamp,
      stlb := s.stlb, registrations := s.registrations, nextId := s.nextId, cores := s.cores, badMem := s.badMem,
      badWritten := s.badWritten }) h'.rest
    exact e.trans h.rest
  ids := h.ids.trans h'.ids
  lists := h'.lists ∘ h.lists

theorem foldEach {α : Type} {step : State → α → State} (l : List α) (h : ∀ s x, SameButMemory s (step s x)) (s : State) :
    SameButMemory s (s.each l step) := by
  induction l generalizing s with
  | nil => exact refl s
  | cons x l ih => exact (h s x).trans (ih _)

/-- An update of a core that keeps its L1 in rising keys. -/
theorem modCore (s : State) (n : Nat) {f : Core → Core}
    (h : KV.sorted (s.core n).l1 = true → KV.sorted (f (s.core n)).l1 = true) : SameButMemory s (s.modCore n f) := by
  refine ⟨rfl, Nat.le_refl _, fun k => ⟨k.owners, k.l2, KV.sorted_put _ _ k.cores, fun x hx => ?_⟩⟩
  rcases KV.mem_put hx with rfl | hx
  · exact h (KV.getD_of_all (P := fun c : Core => KV.sorted c.l1 = true) k.l1 rfl n)
  · exact k.l1 _ hx

/-- What changes no listed part of memory. -/
theorem of_lists (rest : { t with
    mem := s.mem, l2 := s.l2, owners := s.owners, guests := s.guests, l2lines := s.l2lines, l2stamp := s.l2stamp,
    stlb := s.stlb, registrations := s.registrations, nextId := s.nextId, cores := s.cores, badMem := s.badMem,
    badWritten := s.badWritten } = s) (ids : s.nextId ≤ t.nextId) (owners : t.owners = s.owners) (l2 : t.l2 = s.l2)
    (cores : t.cores = s.cores) : SameButMemory s t :=
  ⟨rest, ids, fun k => ⟨owners ▸ k.owners, l2 ▸ k.l2, cores ▸ k.cores, cores ▸ k.l1⟩⟩

end SameButMemory

namespace State

open SameButMemory

variable (s : State)

theorem dropGuests_memory (line : Nat) : SameButMemory s (s.dropGuests line) :=
  .of_lists rfl (Nat.le_refl _) rfl rfl rfl

theorem l1Drop_memory (core w : Nat) : SameButMemory s (s.l1Drop core w) := .modCore s core (KV.sorted_del w)

theorem l1Put_memory (core w : Nat) (x : L1Word) : SameButMemory s (s.l1Put core w x) :=
  .modCore s core (KV.sorted_put w x)

theorem l2Touch_memory (line : Nat) : SameButMemory s (s.l2Touch line) := .of_lists rfl (Nat.le_refl _) rfl rfl rfl

theorem l2Hint_memory (pa res : Nat) : SameButMemory s (s.l2Hint pa res) := .of_lists rfl (Nat.le_refl _) rfl rfl rfl

theorem l2Put_memory (pa : Nat) (b : Byte) : SameButMemory s { s with l2 := s.l2.put pa b } :=
  ⟨rfl, Nat.le_refl _, fun k => { k with l2 := KV.sorted_put pa b k.l2 }⟩

theorem slicePut_memory (pa : Nat) (bs : List Byte) : SameButMemory s (s.slicePut pa bs) :=
  (foldEach _ (fun s (x : Nat × Byte) => l2Put_memory s (pa + x.1) x.2) s).trans (foldEach _ l2Touch_memory _)

theorem unregister_memory (core w : Nat) : SameButMemory s (s.unregister core w) :=
  .of_lists rfl (Nat.le_refl _) rfl rfl rfl

theorem registrations_memory (l : KV Registration) : SameButMemory s { s with registrations := l } :=
  .of_lists rfl (Nat.le_refl _) rfl rfl rfl

theorem discard_memory (core w : Nat) : SameButMemory s (s.discard core w) :=
  (registrations_memory s _).trans (l1Drop_memory _ core w)

theorem mergeWord_memory (core w : Nat) : SameButMemory s (s.mergeWord core w) := by
  unfold mergeWord
  split
  · split
    · exact .modCore s core (KV.sorted_put w _)
    · exact .refl s
  · exact .refl s

theorem badWritten_memory (l : List Nat) : SameButMemory s { s with badWritten := l } :=
  .of_lists rfl (Nat.le_refl _) rfl rfl rfl

theorem ownersDel_memory (w : Nat) : SameButMemory s { s with owners := s.owners.del w } :=
  ⟨rfl, Nat.le_refl _, fun k => { k with owners := KV.sorted_del w k.owners }⟩

/-- A write-back of an owned word, from the discard of the former owner's copy on. -/
theorem writeBack1_memory (core w : Nat) : SameButMemory s (s.writeBack1 core w) := by
  have ending (u : State) (bs : List Byte) : SameButMemory u
      ((State.slicePut { (u.unregister core w).dropGuests (w / 16) with
        owners := ((u.unregister core w).dropGuests (w / 16)).owners.del w } (4 * w) bs).l1Drop core w) :=
    ((((unregister_memory u core w).trans (dropGuests_memory _ _)).trans (ownersDel_memory _ w)).trans
      (slicePut_memory _ _ _)).trans (l1Drop_memory _ core w)
  have told (u : State) (b : Bool) : SameButMemory u (if b then { u with badWritten := u.badWritten ++ [w] } else u) := by
    split
    · exact badWritten_memory u _
    · exact .refl u
  have former (u : State) : SameButMemory u (match u.owners.find w with
      | some c => if c == core then u else u.discard c w
      | none => u) := by
    split
    · split
      · exact .refl u
      · exact discard_memory u _ w
    · exact .refl u
  unfold writeBack1
  split
  · split
    · exact ((told s (s.badWord w)).trans (former _)).trans (ending _ _)
    · exact .refl s
  · exact .refl s

theorem writeBack_memory (core w : Nat) : SameButMemory s (s.writeBack core w) := by
  unfold writeBack
  dsimp only
  split <;> split
  · exact (writeBack1_memory s core w).trans (writeBack1_memory _ core _)
  · exact writeBack1_memory s core w
  · contradiction
  · exact writeBack1_memory s core w

theorem withdraw_memory (w : Nat) : SameButMemory s (s.withdraw w) := by
  unfold withdraw
  split
  · next c _ =>
    have h := writeBack_memory s c w
    exact ⟨h.rest, h.ids, fun k => { h.lists k with owners := KV.sorted_del w k.owners }⟩
  · exact .refl s

theorem repair_memory (pa n : Nat) : SameButMemory s (s.repair pa n) := by
  unfold repair
  split
  · exact .refl s
  · exact .of_lists rfl (Nat.le_refl _) rfl rfl rfl

theorem homeWrite_memory (pa : Nat) (bs : List Byte) : SameButMemory s (s.homeWrite pa bs) :=
  ((foldEach _ (fun s w => (withdraw_memory s w).trans (dropGuests_memory _ _)) s).trans (repair_memory _ _ _)).trans
    (slicePut_memory _ _ _)

theorem homeWrite64_memory (pa : Nat) (x : Dword) : SameButMemory s (s.homeWrite64 pa x) := homeWrite_memory s _ _

theorem flushByte_memory (a : Nat) : SameButMemory s (match s.l2.find a with
    | some b => { s with mem := Memory.write s.mem a b, l2 := s.l2.del a }
    | none => s) := by
  split
  · exact ⟨rfl, Nat.le_refl _, fun k => { k with l2 := KV.sorted_del a k.l2 }⟩
  · exact .refl s

theorem flushSectors_memory (pa n : Nat) : SameButMemory s (s.flushSectors pa n) := by
  refine foldEach _ (fun s q => ?_) s
  refine ((foldEach (stepsFrom (4 * q) 1 4) withdraw_memory s).trans ?_).trans (foldEach _ flushByte_memory _)
  split
  · exact .refl _
  · exact badWritten_memory _ _

theorem sysRead_memory (pa n : Nat) : SameButMemory s (s.sysRead pa n).2 := flushSectors_memory s pa n

theorem sysWrite_memory (pa : Nat) (bs : List Byte) : SameButMemory s (s.sysWrite pa bs) :=
  (homeWrite_memory s pa bs).trans (flushSectors_memory _ _ _)

theorem remoteWrite_memory (pa : Nat) (bs : List Byte) : SameButMemory s (s.remoteWrite pa bs) :=
  (foldEach _ (fun s _ => dropGuests_memory s _) s).trans (.of_lists rfl (Nat.le_refl _) rfl rfl rfl)

theorem l2Evict_memory (line : Nat) : SameButMemory s (s.l2Evict line) :=
  ⟨rfl, Nat.le_refl _, fun k => { k with l2 := KV.sorted_filter _ k.l2 }⟩

theorem l2Fit_memory (w : Nat × Nat) : SameButMemory s (s.l2Fit w) := by
  unfold l2Fit
  dsimp only
  split
  · exact .refl s
  · split
    · exact l2Evict_memory s _
    · exact .of_lists rfl (Nat.le_refl _) rfl rfl rfl
    · exact .refl s

theorem l2Trim_memory : SameButMemory s s.l2Trim := by
  have out := foldEach (s.l2lines.filter (·.2.out)) (fun s x => l2Evict_memory s x.1) s
  unfold l2Trim
  dsimp only
  split
  · exact out
  · exact out.trans ((foldEach _ (fun s _ => l2Fit_memory s _) _).trans (foldEach _ (fun s _ => l2Fit_memory s _) _))

/-! L1. -/

theorem evictLine_memory (core line : Nat) : SameButMemory s (s.evictLine core line) := by
  unfold evictLine
  exact (foldEach _ (fun s w => (writeBack_memory s core w).trans (l1Drop_memory _ core w)) s).trans (.modCore _ core id)

theorem evictSome_memory (core : Nat) (o : Option Nat) : SameButMemory s (match o with
    | some v => s.evictLine core v
    | none => s) := by
  split
  · exact evictLine_memory s core _
  · exact .refl s

theorem touchLine_memory (core line : Nat) (st ef el : Bool) : SameButMemory s (s.touchLine core line st ef el) := by
  unfold touchLine
  exact ((evictSome_memory s core _).trans (evictSome_memory _ core _)).trans (.modCore _ core id)

theorem guestPut_memory (core line : Nat) (bs : List Byte) : SameButMemory s (s.guestPut core line bs) :=
  .of_lists rfl (Nat.le_refl _) rfl rfl rfl

theorem guestAdd_memory (core line : Nat) : SameButMemory s (s.guestAdd core line) := by
  unfold guestAdd
  split
  · exact .refl s
  · exact guestPut_memory s core line _

theorem readHome_memory (core pa n : Nat) : SameButMemory s (s.readHome core pa n).2 := by
  refine foldEach _ (fun s line => ?_) s
  split
  · exact guestPut_memory s core line _
  · exact (l2Touch_memory s line).trans (guestAdd_memory _ core line)

theorem fillWord_memory (core w : Nat) (x : L1Word) : SameButMemory s (match (s.core core).l1.find w with
    | some y => if y.owned then s else s.l1Put core w x
    | none => s.l1Put core w x) := by
  split
  · split
    · exact .refl s
    · exact l1Put_memory s core w x
  · exact l1Put_memory s core w x

theorem l1Fill_memory (core sector : Nat) : SameButMemory s (s.l1Fill core sector) := by
  refine SameButMemory.trans ?_ ((readHome_memory _ core _ 16).trans (foldEach _ (fun s w => fillWord_memory s core w _) _))
  split
  · exact .refl s
  · exact touchLine_memory s core _ _ _ _

theorem register_memory (core sector : Nat) (ws bytes : List Nat) (fibs : List FibreId) :
    SameButMemory s (s.register core sector ws bytes fibs) := by
  unfold register
  split
  · exact registrations_memory s _
  · exact .of_lists rfl (Nat.le_succ _) rfl rfl rfl

theorem l1Store_memory (core : Nat) (fib : FibreId) (pa : Nat) (bs : List Byte) (st ef el : Bool) :
    SameButMemory s (s.l1Store core fib pa bs st ef el) := by
  have fill (u : State) (b : Bool) (q : Nat) : SameButMemory u (if b then u else u.l1Fill core q) := by
    split
    · exact .refl u
    · exact l1Fill_memory u core q
  refine ((((foldEach _ (fun s q => (touchLine_memory s core _ _ _ _).trans (fill _ _ q)) s).trans
    (foldEach _ (fun s w => writeBack_memory s core w) _)).trans (repair_memory _ _ _)).trans
    (foldEach _ (fun s w => l1Put_memory s core w _) _)).trans (foldEach _ (fun s q => register_memory s core q _ _ _) _)

theorem l1Acquire_memory (core : Nat) : SameButMemory s (s.l1Acquire core) :=
  (SameButMemory.modCore s core (KV.sorted_filter _)).trans (foldEach _ (fun s w => mergeWord_memory s core w) _)

theorem cleanOwn_memory (core : Nat) (ws : List Nat) : SameButMemory s (s.cleanOwn core ws) :=
  foldEach _ (fun s w => (writeBack_memory s core w).trans (l1Drop_memory _ core w)) s

theorem staleDrop_memory (core : Nat) (ws : List Nat) : SameButMemory s (s.staleDrop core ws) := by
  refine foldEach _ (fun s w => ?_) s
  split
  · split
    · exact .refl s
    · exact l1Drop_memory s core w
  · exact .refl s

/-! Translation and the fetch of code. -/

theorem markEntry_memory (a p : Nat) (q : Dword) :
    SameButMemory s (if q.toNat == p then s else s.homeWrite64 a q) := by
  split
  · exact .refl s
  · exact homeWrite64_memory s a q

theorem walk_memory (va : Nat) (kind : WalkKind) (write : Bool) (n level tbl : Nat) :
    SameButMemory s (s.walk va kind write n level tbl).1 := by
  induction n generalizing level tbl with
  | zero => exact .refl s
  | succ n ih =>
    unfold walk
    dsimp only
    split
    · exact .refl s
    · split
      · exact .refl s
      · split
        · exact .refl s
        · split
          · split
            · exact .refl s
            · exact markEntry_memory s _ _ _
          · exact ih _ _

theorem stlb_memory (l : KV (List TlbEntry)) : SameButMemory s { s with stlb := l } :=
  .of_lists rfl (Nat.le_refl _) rfl rfl rfl

theorem walkFill_memory (core ctx va : Nat) (kind : WalkKind) (write : Bool) :
    SameButMemory s (s.walkFill core ctx va kind write).1 := by
  have h := walk_memory s va kind write 3 1 (s.ctx ctx).root
  unfold walkFill
  split
  · next e => rw [e] at h; exact h
  · next e =>
    rw [e] at h
    exact (h.trans (.modCore _ core id)).trans (stlb_memory _ _)

theorem translate_memory (core ctx va : Nat) (kind : WalkKind) (write : Bool) :
    SameButMemory s (s.translate core ctx va kind write).1 := by
  have h := walkFill_memory s core ctx va kind write
  unfold translate
  dsimp only
  split
  · exact .refl s
  · split
    · split <;> exact .refl s
    · split
      · next e => rw [e] at h; exact h
      · next e => rw [e] at h; exact h

theorem translateRaw_memory (ctx va : Nat) (kind : WalkKind) (write : Bool) :
    SameButMemory s (s.translateRaw ctx va kind write).1 := by
  have h := walk_memory s va kind write 3 1 (s.ctx ctx).root
  unfold translateRaw
  split
  · exact .refl s
  · split
    · next e => rw [e] at h; exact h
    · next e => rw [e] at h; exact h

theorem codeFill_memory (core : Nat) (x : CodeLine) : SameButMemory s (s.codeFill core x) := .modCore s core id

theorem codeTouch_memory (core : Nat) (x : CodeLine) : SameButMemory s (s.codeTouch core x) := .modCore s core id

theorem codeWord_memory (core ctx : Nat) (r : Dword) : SameButMemory s (s.codeWord core ctx r).1 := by
  have h := translate_memory s core ctx ((s.codeSlot ctx r).laddr + refOfs r) .fetch false
  unfold codeWord
  dsimp only
  split
  · next u _ e =>
    rw [e] at h
    split
    · split <;> exact h
    · split
      · exact h.trans (codeTouch_memory u core _)
      · split
        · exact h
        · dsimp only
          split
          · exact h
          · exact h.trans (codeFill_memory u core _)
  all_goals next e => rw [e] at h; exact h

theorem targetCheck_memory (core ctx : Nat) (r : Dword) (call : Bool) :
    SameButMemory s (s.targetCheck core ctx r call).1 := by
  have h := codeWord_memory s core ctx (r - BitVec.ofNat 64 (refOfs r % 128))
  unfold targetCheck
  split
  · exact .refl s
  · dsimp only
    split
    · next e => rw [e] at h; exact h
    · next e =>
      rw [e] at h
      split <;> exact h

end State
end Sys2Proof.Machine
end

section
/-! Delivery of a trap to the handler: the settling of a group's writes leaves contexts, and of fibres all but registers and counts. -/

namespace Sys2Proof.Machine

/-- A fibre but for its registers, what is listed for them, and its counts of loads and stores. -/
def Fibre.settled (x y : Fibre) : Prop :=
  { y with v := x.v, k := x.k, late := x.late, refill := x.refill, ldc := x.ldc, stc := x.stc } = x

theorem Fibre.settled.refl (x : Fibre) : Fibre.settled x x := rfl

theorem Fibre.settled.trans {x y z : Fibre} (h : Fibre.settled x y) (k : Fibre.settled y z) : Fibre.settled x z := by
  unfold Fibre.settled at h k ⊢
  exact (congrArg (fun f : Fibre => { f with
    v := x.v, k := x.k, late := x.late, refill := x.refill, ldc := x.ldc, stc := x.stc }) k).trans h

/-- The contexts are the same, and every fibre but for what the settling of register writes may change. -/
structure SettlesOnly (s t : State) : Prop where
  contexts : t.contexts = s.contexts
  fibre : ∀ f, Fibre.settled (s.fibre f) (t.fibre f)

namespace SettlesOnly

variable {s t u : State}

theorem refl (s : State) : SettlesOnly s s := ⟨rfl, fun _ => .refl _⟩

theorem trans (h : SettlesOnly s t) (k : SettlesOnly t u) : SettlesOnly s u :=
  ⟨k.contexts.trans h.contexts, fun f => (h.fibre f).trans (k.fibre f)⟩

theorem handler (h : SettlesOnly s t) (f : FibreId) : (t.fibre f).handler = (s.fibre f).handler :=
  (congrArg Fibre.handler (h.fibre f) :)

theorem rstack (h : SettlesOnly s t) (f : FibreId) : (t.fibre f).rstack = (s.fibre f).rstack :=
  (congrArg Fibre.rstack (h.fibre f) :)

theorem foldEach {α : Type} {step : State → α → State} (l : List α) (h : ∀ s x, SettlesOnly s (step s x)) (s : State) :
    SettlesOnly s (s.each l step) :=
  State.each_keeps (P := SettlesOnly s) (refl s) fun t x k => k.trans (h t x)

theorem of_teams (c : t.contexts = s.contexts) (h : t.teams = s.teams) : SettlesOnly s t := by
  refine ⟨c, fun f => ?_⟩
  unfold State.fibre State.team
  rw [h]
  exact .refl _

theorem memory (h : SameButMemory s t) : SettlesOnly s t :=
  of_teams (congrArg State.contexts h.rest :) (congrArg State.teams h.rest :)

theorem modFibre (s : State) (f : FibreId) {g : Fibre → Fibre} (h : ∀ x, Fibre.settled x (g x)) :
    SettlesOnly s (s.modFibre f g) := by
  refine ⟨rfl, fun x => ?_⟩
  rw [State.modFibre_fibre]
  split
  · exact h _
  · exact .refl _

theorem modTeam (s : State) (n : Nat) {g : Team → Team} (h : ∀ t, (g t).fibres = t.fibres) : SettlesOnly s (s.modTeam n g) := by
  refine ⟨rfl, fun x => ?_⟩
  unfold State.fibre
  by_cases e : x.team = n
  · rw [e, State.team_modTeam, h]; exact .refl _
  · rw [State.team_modTeam_other s g e]; exact .refl _

end SettlesOnly

namespace Fibre

theorem land_settles (f : Fibre) (r : Reg) (x : Dword) : settled f (f.land r x) := by
  unfold land
  cases r with
  | k n => dsimp only; split <;> rfl
  | v n => rfl
  | g n => rfl
  | ret => rfl

theorem flush_settles (f : Fibre) (clock : Nat) : settled f (f.flush clock) := by
  have lands : ∀ (l : List Late) (x : Fibre), settled x (l.foldl (fun x l => x.land l.reg l.val) x) := by
    intro l
    induction l with
    | nil => exact .refl
    | cons y l ih => exact fun x => (land_settles x _ _).trans (ih _)
  exact (lands _ f).trans rfl

theorem writeNow_settles (f : Fibre) (r : Reg) (x : Dword) : settled f (f.writeNow r x) := (land_settles f r x).trans rfl

end Fibre

namespace State

open SettlesOnly

variable (s : State)

theorem settleLate_settles (gid : Nat) : SettlesOnly s (s.settleLate gid) := by
  have flushed (u : State) (f : FibreId) :
      SettlesOnly u (if (u.fibre f).late.isEmpty then u else u.modFibre f (·.flush (2 ^ 64))) := by
    split
    · exact .refl u
    · exact .modFibre u f fun x => Fibre.flush_settles x _
  have ending (u : State) (b : Bool) {g : Group → Group} : SettlesOnly u (if b then u else u.modGroup gid g) := by
    split
    · exact .refl u
    · exact .of_teams rfl rfl
  unfold settleLate
  exact ((foldEach _ flushed s).trans (.modTeam _ _ (by exact fun _ => rfl))).trans (ending _ _)

theorem spadWrite_settles (tid ofs : Nat) (bs : List Byte) : SettlesOnly s (s.spadWrite tid ofs bs) := by
  unfold spadWrite
  refine SettlesOnly.trans ?_ (.modTeam _ tid (by exact fun _ => rfl))
  exact .of_teams rfl rfl

theorem landPacket_settles (id : Nat) : SettlesOnly s (s.landPacket id) := by
  unfold landPacket
  split
  · exact .refl s
  · next p _ =>
    have landed : SettlesOnly s (State.each { s with packets := s.packets.del id } p.count fun s f =>
        s.modFibre f fun x => { x with stc := x.stc - 1 }) :=
      (of_teams rfl rfl : SettlesOnly s { s with packets := s.packets.del id }).trans
        (foldEach _ (fun s f => .modFibre s f (by exact fun _ => rfl)) _)
    dsimp only
    split
    · exact landed.trans (spadWrite_settles _ _ _ _)
    · exact landed.trans (.modTeam _ _ (by exact fun _ => rfl))

theorem streamPerform_settles (id : Nat) : SettlesOnly s (s.streamPerform id) := by
  unfold streamPerform
  split
  · split
    · exact .of_teams rfl rfl
    · exact .refl s
  · exact landPacket_settles s id

theorem deliver_settles (id : Nat) (p : Sys2Proof.Machine.Pending) (size : Nat) (sx : Bool) (bs : List Byte) (bad : Bool) :
    SettlesOnly s (s.deliver id p size sx bs bad) := .of_teams rfl rfl

/-- The read of a load's bytes where it is performed. -/
theorem performLoad_memory (core pa size : Nat) (sys l1 : Bool) :
    SameButMemory s (if sys then s.sysRead pa size
      else if l1 then
        let s := s.each (sectorsOf pa size) fun s q => s.l1Fill core q
        (s.l1Bytes core pa size, s)
      else s.readHome core pa size).2 := by
  split
  · exact sysRead_memory s pa size
  · split
    · exact SameButMemory.foldEach _ (fun s q => l1Fill_memory s core q) s
    · exact readHome_memory s core pa size

theorem answer_settles (id : Nat) : SettlesOnly s (s.answer id) := by
  unfold answer
  split
  · exact .refl s
  · next p _ =>
    split
    · exact .refl s
    · next pa l1 sys size sx _ =>
      have dropped (u : State) : SameButMemory u (if l1 then u else u.staleDrop p.core (wordsOf pa size)) := by
        split
        · exact .refl u
        · exact staleDrop_memory u _ _
      exact (memory ((performLoad_memory s p.core pa size sys l1).trans (dropped _))).trans (deliver_settles _ _ _ _ _ _ _)
    · exact (foldEach _ streamPerform_settles s).trans (streamPerform_settles _ id)
    · exact .refl s

theorem landOne_settles (f : FibreId) (gid tid : Nat) (d : Reg × Dword) : SettlesOnly s (s.landOne f gid tid d) := by
  refine ⟨(congrArg State.contexts (landOne_frame s f gid tid d).rest :), fun x => ?_⟩
  rw [landOne_fibre]
  split
  · exact Fibre.writeNow_settles _ _ _
  · exact .refl _

theorem writeResult_settles (id : Nat) : SettlesOnly s (s.writeResult id) := by
  cases h : s.pending.find id with
  | none => unfold writeResult; rw [h]; exact .refl s
  | some p =>
    have landed : SettlesOnly s (({ s with pending := s.pending.del id } : State).landResult p.fib p.gid p.tid p.dests) := by
      rw [landResult_eq]
      exact (of_teams rfl rfl : SettlesOnly s { s with pending := s.pending.del id }).trans
        (foldEach _ (fun s d => landOne_settles s p.fib p.gid p.tid d) _)
    have spoilt (u : State) : SettlesOnly u (if p.bad then u.spoil p else u) := by
      split
      · exact .of_teams (congrArg State.contexts (spoil_frame u p) :) (congrArg State.teams (spoil_frame u p) :)
      · exact .refl u
    rw [writeResult_eq h]
    exact (landed.trans (spoilt _)).trans (foldEach _ (fun s c => .modFibre s c (by exact fun _ => rfl)) _)

theorem settle_settles (gid : Nat) : SettlesOnly s (s.settle gid) :=
  (settleLate_settles s gid).trans (foldEach _ (fun s i => (answer_settles s i).trans (writeResult_settles _ i)) _)

variable {s}

/-- A fibre with room on its stack pushes without a check. -/
theorem pushAllCheck_room {core ctx : Nat} {ls : List (Nat × FibreId)} (h : ∀ x ∈ ls, (s.fibre x.2).rstack.length < 4) :
    s.pushAllCheck core ctx ls = (s, .ok) := by
  induction ls with
  | nil => rfl
  | cons x ls ih =>
    have one : s.pushCheck core ctx x.2 = (s, .ok) := by unfold pushCheck; exact if_pos (h x List.mem_cons_self)
    obtain ⟨n, f⟩ := x
    unfold pushAllCheck
    rw [one]
    exact ih fun y hy => h y (List.mem_cons_of_mem _ hy)

theorem spillWaits_room {core ctx : Nat} {f : FibreId} (h : (s.fibre f).rstack.length < 4) : s.spillWaits core ctx f = false := by
  have : decide (4 ≤ (s.fibre f).rstack.length) = false := decide_eq_false (by omega)
  unfold spillWaits
  dsimp only
  rw [this, Bool.false_and]

/-- A fibre that has entered the handler (12 R257, R258). -/
def inTrap (iss : Issue) (cause detail : Nat) (va href : Dword) (f : Fibre) : Fibre :=
  { f with
    rstack := iss.pc :: f.rstack
    handler := some ⟨{ f with rstack := iss.pc :: f.rstack }.depth, cause, detail, false, va⟩
    pc := href
    again := none
    refill := none
    relWait := none }

/-- A lane enters the handler. -/
def enterLane (iss : Issue) (cause detail : Nat) (va href : Dword) (s : State) (f : FibreId) : State :=
  (s.push iss.core iss.ctx f iss.pc).modFibre f fun x => { x with
    handler := some ⟨x.depth, cause, detail, false, va⟩
    pc := href
    again := none
    refill := none
    relWait := none }

section
variable (iss : Issue) (cause detail : Nat) (va href : Dword)

theorem enterLane_fibre {f : FibreId} (room : (s.fibre f).rstack.length < 4) (g : FibreId) :
    (s.enterLane iss cause detail va href f).fibre g =
      if f = g then inTrap iss cause detail va href (s.fibre g) else s.fibre g := by
  unfold enterLane push
  dsimp only
  rw [if_pos room, modFibre_fibre, modFibre_fibre]
  split <;> rfl

theorem enterLanes_fibre {l : List FibreId} (nd : l.Nodup) (room : ∀ f ∈ l, (s.fibre f).rstack.length < 4) (g : FibreId) :
    (s.each l fun s f => s.enterLane iss cause detail va href f).fibre g =
      if g ∈ l then inTrap iss cause detail va href (s.fibre g) else s.fibre g := by
  induction l generalizing s with
  | nil => rfl
  | cons f l ih =>
    obtain ⟨hf, nd⟩ := List.nodup_cons.1 nd
    have one := enterLane_fibre iss cause detail va href (room f List.mem_cons_self)
    have rest : ∀ h ∈ l, (s.enterLane iss cause detail va href f).fibre h = s.fibre h := fun h hh => by
      rw [one, if_neg]; rintro rfl; exact hf hh
    refine (ih nd fun h hh => ?_).trans ?_
    · rw [rest h hh]; exact room h (List.mem_cons_of_mem _ hh)
    · rw [one]
      by_cases e : f = g
      · subst e; simp [hf]
      · simp [e, Ne.symm e]

end

/-- Entry to the handler of lanes with room on their stacks. -/
theorem enterHandler_fibre {iss : Issue} (cause detail va : Nat) (apart : (iss.lanes.map (·.2)).Nodup)
    (room : ∀ x ∈ iss.lanes, (s.fibre x.2).rstack.length < 4) {x : Nat × FibreId} (hx : x ∈ iss.lanes) :
    ∃ f : Fibre, f.rstack = (s.fibre x.2).rstack ∧ (s.enterHandler iss cause detail va).fibre x.2 =
      inTrap iss cause detail (BitVec.ofNat 64 va) (s.ctx iss.ctx).trapvec f := by
  let hs := iss.lanes.map (·.2)
  let u := s.each ((s.liveLanes iss.gid).filter fun x => !hs.contains x.2) fun s x =>
    s.modFibre x.2 fun f => { f with heldBy := f.heldBy ++ hs }
  have held (y : FibreId) : (u.fibre y).rstack = (s.fibre y).rstack := by
    refine each_same (g := fun t : State => (t.fibre y).rstack) s fun t z => ?_
    rw [modFibre_fibre]
    split <;> rfl
  have entered := enterLanes_fibre (s := u) iss cause detail (BitVec.ofNat 64 va) (s.ctx iss.ctx).trapvec apart
    (fun f hf => by obtain ⟨y, hy, rfl⟩ := List.mem_map.1 hf; rw [held y.2]; exact room y hy) x.2
  rw [if_pos (List.mem_map_of_mem hx)] at entered
  exact ⟨u.fibre x.2, held x.2, entered⟩

/-- Where a trap can be delivered, a cause that goes to handlers makes its lanes enter the handler. -/
theorem raise_enters {s1 : State} {iss : Issue} {cause : Nat} (detail va : Nat) (hc : toHandler cause = true)
    (h : Deliverable s s1 iss) : Entered s (s.raise iss cause detail va) iss cause detail (BitVec.ofNat 64 va) := by
  obtain ⟨handler, _, apart, free, performed, checked⟩ := h
  have settled := settle_settles s iss.gid
  have there := targetCheck_memory (s.settle iss.gid) iss.core iss.ctx (s.ctx iss.ctx).trapvec true
  rw [checked] at there
  have same : SettlesOnly s s1 := settled.trans (memory there)
  have room : ∀ x ∈ iss.lanes, (s1.fibre x.2).rstack.length < 4 := fun x hx => by
    rw [same.rstack x.2]; exact (free x hx).2
  have out : (iss.lanes.any fun x => (s.settle iss.gid).inHandler x.2) = false := by
    rw [List.any_eq_false]
    intro x hx
    simp [inHandler, settled.handler x.2, (free x hx).1]
  have spills : (iss.lanes.any fun x => s1.spillWaits iss.core iss.ctx x.2) = false := by
    rw [List.any_eq_false]
    intro x hx
    simp [spillWaits_room (room x hx)]
  have vec : ((s.settle iss.gid).ctx iss.ctx).trapvec = (s.ctx iss.ctx).trapvec := by unfold ctx; rw [settled.contexts]
  have vec1 : (s1.ctx iss.ctx).trapvec = (s.ctx iss.ctx).trapvec := by unfold ctx; rw [same.contexts]
  have nonzero : ((s.ctx iss.ctx).trapvec != 0) = true := bne_iff_ne.2 handler
  have run : s.raise iss cause detail va = s1.enterHandler iss cause detail va := by
    unfold raise
    simp only [performed, out, vec, hc, nonzero, checked, spills, pushAllCheck_room room, Bool.false_eq_true, if_false,
      Bool.not_false, Bool.and_self, if_true]
  intro x hx
  obtain ⟨f, hf, e⟩ := enterHandler_fibre cause detail va apart room hx
  rw [run, e]
  exact ⟨vec1, congrArg (iss.pc :: ·) (hf.trans (same.rstack x.2)), rfl⟩

end State
end Sys2Proof.Machine
end

section
namespace Sys2Proof.Machine

/-! SETC. -/

section
variable {i : Instr} {o : XS} {s : State} {iss : Issue} {act : List (Nat × FibreId)} (h : s.Clear i iss act)
  {illegal : Dword → Bool} {f : State → Issue → List (Nat × FibreId) → Dword → State}
include h

/-- A legal value is written, and the subset goes on (23 R456). -/
theorem setc_legal (hl : illegal (s.srcG iss o.a) = false) :
    setc i o s illegal f = .next ((f s iss act (s.srcG iss o.a)).advance iss) := by
  unfold setc
  rw [issued_clear h false]
  simp [whenActive, hl]

theorem setc_illegal (hl : illegal (s.srcG iss o.a) = true) : setc i o s illegal f = .next (s.raise iss 0x01 0 0) := by
  have hg := h.guarded
  have ha : act.isEmpty = false := by
    cases hact : act with
    | nil => exact absurd hact h.some'
    | cons _ _ => rfl
  unfold setc issued issuedMem
  rw [h.issue]
  dsimp only
  rw [← hg, if_pos]
  · rfl
  · simp [whenActive, hl, ha]

end

/-- What holds between a fibre and its update, once or more than once, holds in every lane that is updated. -/
theorem State.lanes_rel (s : State) (ls : List (Nat × FibreId)) (g : Fibre → Fibre) {R : Fibre → Fibre → Prop}
    (hg : ∀ y z, z = y ∨ R y z → R y (g z)) :
    ∀ x ∈ ls, R (s.fibre x.2) ((s.each ls fun s x => s.modFibre x.2 g).fibre x.2) := by
  intro x hx
  have key := fibre_each (P := fun _ => True) (k := fun x : Nat × FibreId => x.2) (g := fun _ y => g y) (l := ls)
    (step := fun s x => s.modFibre x.2 g) (fun t x _ _ => ⟨trivial, modFibre_fibre t x.2 g⟩) (s := s) trivial
  rw [key.2]
  have more : ∀ (l : List (Nat × FibreId)) z, z = s.fibre x.2 ∨ R (s.fibre x.2) z →
      (l.foldl (fun y _ => g y) z = s.fibre x.2 ∨ R (s.fibre x.2) (l.foldl (fun y _ => g y) z)) := by
    intro l
    induction l with
    | nil => exact fun _ h => h
    | cons _ _ ih => exact fun z hz => ih _ (.inr (hg _ _ hz))
  have mem : x ∈ ls.filter fun y => decide (y.2 = x.2) := List.mem_filter.2 ⟨hx, by simp⟩
  cases hl : ls.filter fun y => decide (y.2 = x.2) with
  | nil => rw [hl] at mem; cases mem
  | cons y l =>
    rw [List.foldl_cons]
    induction l using List.reverseRecOn with
    | nil => exact hg _ _ (.inl rfl)
    | append_singleton l z _ =>
      rw [List.foldl_append]
      exact hg _ _ (more l _ (.inr (hg _ _ (.inl rfl))))

section
variable {c : Instr} {s : State} {iss : Issue}

/-- An update of lanes before the subset goes on. -/
theorem passes_lanes {act : List (Nat × FibreId)} {g : Fibre → Fibre} {R : Fibre → Fibre → Prop}
    (run : exec c s = .next ((s.each act fun s a => s.modFibre a.2 g).advance iss))
    (hg : ∀ y z, z = y ∨ R y z → R y (g z)) (hm : ∀ y z w, R y z → Fibre.moved z w → R y w) :
    Passes c s iss fun t => (∀ a ∈ act, R (s.fibre a.2) (t.fibre a.2)) ∧ SameButFibres s t :=
  ⟨_, run, State.advance_goes _ iss, fun a ha => hm _ _ _ (State.lanes_rel s act g hg a ha) (State.advance_moved _ iss a.2),
    (State.lanes_frame s act g).trans (State.advance_frame _ iss)⟩

/-- An update of a context before the subset goes on. -/
theorem passes_ctx {n : Nat} {g : Context → Context} {u : State} (run : exec c s = .next (u.advance iss))
    (hn : u.ctx n = g (s.ctx n)) (hu : { u with contexts := s.contexts } = s) :
    Passes c s iss fun t => t.ctx n = g (s.ctx n) ∧ { t with teams := s.teams, contexts := s.contexts } = s := by
  have frame := State.advance_frame u iss
  have teams : u.teams = s.teams := (congrArg State.teams hu :)
  refine ⟨_, run, State.advance_goes u iss, ?_, ?_⟩
  · rw [← hn]
    unfold State.ctx
    rw [frame.contexts]
  · have h := congrArg (fun z : State => { z with contexts := s.contexts }) frame.1
    rw [← teams]
    exact h.trans hu

end

/-- A handler's writes need a handler in every lane (23 R456). -/
theorem any_not_inHandler {s : State} {act : List (Nat × FibreId)} :
    (act.any fun a => !s.inHandler a.2) = true ↔ ∃ a ∈ act, (s.fibre a.2).handler = none := by
  simp [State.inHandler]

/-! The writes of each selector. -/

section
variable (o : XS) (s : State)

theorem exec_setcFpctl : exec (.setcFpctl o) s =
    setc (.setcFpctl o) o s (fun x => x.toNat % 8 == 0 || 6 ≤ x.toNat % 8) fun s iss _ x =>
      s.modTeam (s.leadTeam iss.gid) fun t => { t with fpctl := x &&& 0xFFF } := rfl

theorem exec_setcFpflags : exec (.setcFpflags o) s = setc (.setcFpflags o) o s anyValue fun s _ act x =>
    s.each act fun s a => s.modFibre a.2 fun f => { f with fpflags := f.fpflags &&& ~~~(x.setWidth 5) } := rfl

theorem exec_setcBfflags : exec (.setcBfflags o) s = setc (.setcBfflags o) o s anyValue fun s _ act x =>
    s.each act fun s a => s.modFibre a.2 fun f => { f with bfflags := f.bfflags &&& ~~~(x.setWidth 3) } := rfl

theorem exec_setcIssuepol : exec (.setcIssuepol o) s = setc (.setcIssuepol o) o s anyValue fun s iss _ x =>
    s.modCtx iss.ctx fun c => { c with issuepol := x.getLsbD 0 } := rfl

theorem exec_setcTrapvec : exec (.setcTrapvec o) s = setc (.setcTrapvec o) o s anyValue fun s iss _ x =>
    s.modCtx iss.ctx fun c => { c with trapvec := x } := rfl

theorem exec_setcLkstat : exec (.setcLkstat o) s = setc (.setcLkstat o) o s anyValue fun s iss _ x =>
    if x.getLsbD 0 then s.modCtx iss.ctx fun c => { c with lost := false } else s := rfl

theorem exec_setcStatclr : exec (.setcStatclr o) s = setc (.setcStatclr o) o s anyValue fun s _ act x =>
    s.each act fun s a => s.modFibre a.2 fun f => { f with rsl := f.rsl && !x.getLsbD 0, mx := f.mx && !x.getLsbD 1 } := rfl

variable {o s} {iss : Issue} {act : List (Nat × FibreId)}

theorem exec_setcTrapinfo (h : s.Clear (.setcTrapinfo o) iss act) : exec (.setcTrapinfo o) s = .next
    (if act.any fun a => !s.inHandler a.2 then s.raise iss 0x02 0 0
      else (s.each act fun t a => t.modFibre a.2 fun f => { f with
        handler := f.handler.map fun h => { h with skip := (s.srcG iss o.a).getLsbD 24 } }).advance iss) := by
  show execSetcTrapinfo o s = _
  unfold execSetcTrapinfo
  rw [issued_clear h false rfl]
  rfl

theorem exec_setcTrapva (h : s.Clear (.setcTrapva o) iss act) : exec (.setcTrapva o) s = .next
    (if act.any fun a => !s.inHandler a.2 then s.raise iss 0x02 0 0 else s.advance iss) := by
  show execSetcTrapva o s = _
  unfold execSetcTrapva
  rw [issued_clear h false rfl]
  rfl

theorem exec_setcFaultq (h : s.Clear (.setcFaultq o) iss act) : exec (.setcFaultq o) s = .next (s.raise iss 0x02 0 0) := by
  show execSetcFaultq o s = _
  unfold execSetcFaultq
  rw [issued_clear h false rfl]
  rfl

end

end Sys2Proof.Machine

open Sys2Proof Sys2Proof.Machine Sys2Proof.Machine.State

theorem controlWrites : Claims.ControlWrites := by
  intro o s iss act x tid lanes context
  refine ⟨fun h => ⟨fun hx => ?_, fun h1 h5 => ?_⟩, fun h => ?_, fun h => ?_, fun h => ?_, fun h => ?_,
    fun h => ⟨?_, fun s1 hd => ?_⟩, fun h => ?_, fun h => ?_, fun hn => ⟨fun h => ?_, fun h => ?_⟩,
    fun hh => ⟨fun h => ?_, fun h => ?_⟩⟩
  · refine (exec_setcFpctl o s).trans (setc_illegal h ?_)
    simp only [Bool.or_eq_true, beq_iff_eq, decide_eq_true_eq]; exact hx
  · have run := (exec_setcFpctl o s).trans (setc_legal h (by
      simp only [Bool.or_eq_false_iff, beq_eq_false_iff_ne, decide_eq_false_iff_not]
      simp only [x] at h1 h5
      omega))
    obtain ⟨f1, f2⟩ := State.advance_frame (s.modTeam tid fun t => { t with fpctl := x &&& 0xFFF }) iss
    have fpctl : ∀ n, (((s.modTeam tid fun t => { t with fpctl := x &&& 0xFFF }).advance iss).team n).fpctl =
        ((s.modTeam tid fun t => { t with fpctl := x &&& 0xFFF }).team n).fpctl := fun n => by rw [← f2 n]
    refine ⟨_, run, advance_goes _ iss, ?_, fun n hn => ?_, (congrArg (fun z : State => { z with teams := s.teams }) f1 :)⟩
    · exact (fpctl tid).trans (congrArg Team.fpctl (team_modTeam s tid _))
    · exact (fpctl n).trans (congrArg Team.fpctl (team_modTeam_other s _ hn))
  · refine passes_lanes (R := fun f g => g.fpflags = f.fpflags &&& ~~~(x.setWidth 5))
      ((exec_setcFpflags o s).trans (setc_legal h rfl)) (fun y z hz => ?_) fun y z w hz hw => ?_
    · rcases hz with rfl | hz
      · rfl
      · simp [hz, x, BitVec.and_assoc]
    · exact ((congrArg Fibre.fpflags hw :) : w.fpflags = z.fpflags).trans hz
  · refine passes_lanes (R := fun f g => g.bfflags = f.bfflags &&& ~~~(x.setWidth 3))
      ((exec_setcBfflags o s).trans (setc_legal h rfl)) (fun y z hz => ?_) fun y z w hz hw => ?_
    · rcases hz with rfl | hz
      · rfl
      · simp [hz, x, BitVec.and_assoc]
    · exact ((congrArg Fibre.bfflags hw :) : w.bfflags = z.bfflags).trans hz
  · exact passes_ctx (g := fun c => { c with issuepol := x.getLsbD 0 }) ((exec_setcIssuepol o s).trans (setc_legal h rfl)) (ctx_modCtx s _ _) rfl
  · exact passes_ctx (g := fun c => { c with trapvec := x }) ((exec_setcTrapvec o s).trans (setc_legal h rfl)) (ctx_modCtx s _ _) rfl
  · exact exec_setcFaultq h
  · exact ⟨_, exec_setcFaultq h, raise_enters 0 0 rfl hd⟩
  · refine passes_ctx (g := fun c => { c with lost := c.lost && !x.getLsbD 0 }) ((exec_setcLkstat o s).trans (setc_legal h rfl)) ?_ ?_
    · split <;> rename_i hx
      · simp only [ctx_modCtx, x, hx, Bool.not_true, Bool.and_false]
      · simp only [x, Bool.eq_false_iff.2 hx, Bool.not_false, Bool.and_true]
    · split <;> rfl
  · refine passes_lanes (R := fun f g => g.rsl = (f.rsl && !x.getLsbD 0) ∧ g.mx = (f.mx && !x.getLsbD 1))
      ((exec_setcStatclr o s).trans (setc_legal h rfl)) (fun y z hz => ?_) fun y z w hz hw => ?_
    · rcases hz with rfl | hz
      · exact ⟨rfl, rfl⟩
      · simp [hz, x]
    · have h1 : w.rsl = z.rsl := (congrArg Fibre.rsl hw :)
      have h2 : w.mx = z.mx := (congrArg Fibre.mx hw :)
      rw [h1, h2]; exact hz
  · rw [exec_setcTrapinfo h, if_pos (any_not_inHandler.2 hn)]
  · rw [exec_setcTrapva h, if_pos (any_not_inHandler.2 hn)]
  · have run := exec_setcTrapinfo h
    rw [if_neg (fun e => by obtain ⟨a, ha, hn⟩ := any_not_inHandler.1 e; exact hh a ha hn)] at run
    refine passes_lanes (R := fun f g => g.handler = f.handler.map fun h => { h with skip := x.getLsbD 24 }) run (fun y z hz => ?_) fun y z w hz hw => ?_
    · rcases hz with rfl | hz
      · rfl
      · simp [hz, x, Function.comp_def]
    · exact ((congrArg Fibre.handler hw :) : w.handler = z.handler).trans hz
  · rw [exec_setcTrapva h, if_neg]
    exact fun e => by obtain ⟨a, ha, hn⟩ := any_not_inHandler.1 e; exact hh a ha hn

/-- Settles O44: what GETC reads and SETC writes, selector by selector. -/
theorem controlRegisters : Obligations.ControlRegisters := ⟨controlReads, controlWrites⟩

end

section
/-! Which fibres a trap or the end of a collective may move. -/

namespace Sys2Proof.Machine

/-- A fibre stands as another did: status, PC, return stack, streams and open batch. -/
def Fibre.standsAs (x y : Fibre) : Prop :=
  y.status = x.status ∧ y.pc = x.pc ∧ y.rstack = x.rstack ∧ y.streams = x.streams ∧ y.openBatch = x.openBatch

theorem Fibre.standsAs.trans {x y z : Fibre} (h : x.standsAs y) (k : y.standsAs z) : x.standsAs z := by
  obtain ⟨h1, h2, h3, h4, h5⟩ := h
  obtain ⟨k1, k2, k3, k4, k5⟩ := k
  exact ⟨k1.trans h1, k2.trans h2, k3.trans h3, k4.trans h4, k5.trans h5⟩

theorem Fibre.standsAs.live {x y : Fibre} (h : x.standsAs y) : y.live = x.live := by unfold Fibre.live; rw [h.1]

theorem Fibre.settled.standsAs {x y : Fibre} (h : Fibre.settled x y) : x.standsAs y :=
  ⟨(congrArg Fibre.status h :), (congrArg Fibre.pc h :), (congrArg Fibre.rstack h :), (congrArg Fibre.streams h :),
    (congrArg Fibre.openBatch h :)⟩

/-- The same fibres are live, and only some of them may have moved. -/
structure MovesOnly (A : FibreId → Prop) (s t : State) : Prop where
  live : ∀ f, (t.fibre f).live = (s.fibre f).live
  still : ∀ f, ¬A f → (s.fibre f).standsAs (t.fibre f)

namespace MovesOnly

variable {A B : FibreId → Prop} {s t u : State}

theorem refl (A : FibreId → Prop) (s : State) : MovesOnly A s s := ⟨fun _ => rfl, fun _ _ => ⟨rfl, rfl, rfl, rfl, rfl⟩⟩

theorem trans (h : MovesOnly A s t) (k : MovesOnly A t u) : MovesOnly A s u :=
  ⟨fun f => (k.live f).trans (h.live f), fun f hf => (h.still f hf).trans (k.still f hf)⟩

theorem mono (h : MovesOnly A s t) (ab : ∀ f, A f → B f) : MovesOnly B s t :=
  ⟨h.live, fun f hf => h.still f fun ha => hf (ab f ha)⟩

/-- No fibre moves. -/
theorem of_still (h : ∀ f, (s.fibre f).standsAs (t.fibre f)) : MovesOnly A s t := ⟨fun f => (h f).live, fun f _ => h f⟩

theorem of_teams (h : t.teams = s.teams) : MovesOnly A s t := by
  refine of_still fun f => ?_
  unfold State.fibre State.team
  rw [h]
  exact ⟨rfl, rfl, rfl, rfl, rfl⟩

theorem memory (h : SameButMemory s t) : MovesOnly A s t := of_teams (congrArg State.teams h.rest :)

theorem settles (h : SettlesOnly s t) : MovesOnly A s t := of_still fun f => (h.fibre f).standsAs

theorem foldEach {α : Type} {step : State → α → State} {l : List α} (h : ∀ s, ∀ x ∈ l, MovesOnly A s (step s x))
    (s : State) : MovesOnly A s (s.each l step) := by
  induction l generalizing s with
  | nil => exact refl A s
  | cons x l ih => exact (h s x List.mem_cons_self).trans (ih (fun s y hy => h s y (List.mem_cons_of_mem _ hy)) _)

/-- An update that moves no fibre. -/
theorem keepFibre (s : State) (f : FibreId) {g : Fibre → Fibre}
    (h : ∀ x : Fibre, x.standsAs (g x) := by exact fun _ => ⟨rfl, rfl, rfl, rfl, rfl⟩) :
    MovesOnly A s (s.modFibre f g) := by
  refine of_still fun x => ?_
  rw [State.modFibre_fibre]
  split
  · exact h _
  · exact ⟨rfl, rfl, rfl, rfl, rfl⟩

/-- An update of a fibre that may move. -/
theorem moveFibre (s : State) {f : FibreId} (hf : A f) {g : Fibre → Fibre} (h : (g (s.fibre f)).live = (s.fibre f).live) :
    MovesOnly A s (s.modFibre f g) := by
  refine ⟨fun x => ?_, fun x hx => ?_⟩ <;> rw [State.modFibre_fibre]
  · split
    · next e => subst e; exact h
    · rfl
  · rw [if_neg]
    · exact ⟨rfl, rfl, rfl, rfl, rfl⟩
    · rintro rfl; exact hx hf

theorem keepTeam (s : State) (n : Nat) {g : Team → Team} (h : ∀ t, (g t).fibres = t.fibres := by exact fun _ => rfl) : MovesOnly A s (s.modTeam n g) :=
  settles (.modTeam s n h)

end MovesOnly

namespace State

open MovesOnly

variable {A : FibreId → Prop} {s : State} {iss : Issue}

theorem stall_moves : MovesOnly A s (s.stall iss) := foldEach (fun s _ _ => keepFibre s _) s

theorem waitHash_moves (slot page : Nat) : MovesOnly A s (s.waitHash iss slot page) := by
  unfold waitHash
  dsimp only
  refine MovesOnly.trans (of_teams ?_) stall_moves
  split <;> rfl

theorem addRecord_moves (ctx : Nat) (r : FaultRec) : MovesOnly A s (s.addRecord ctx r).2 := of_teams rfl

/-- A fibre that is live takes another status under which it is live. -/
theorem setStatus_moves {f : FibreId} (hf : A f ∧ (s.fibre f).live = true) {st : Status} (hs : st ≠ .exited) :
    MovesOnly A s (s.modFibre f fun x => { x with status := st }) := by
  refine moveFibre s hf.1 ?_
  rw [hf.2]
  simp [Fibre.live, hs]

/-- Updates of fibres that may move, each of which keeps the live ones live. -/
theorem foldLive {α : Type} {step : State → α → State} {l : List α} {k : α → FibreId}
    (h : ∀ s, ∀ x ∈ l, (s.fibre (k x)).live = true → MovesOnly A s (step s x)) {s : State}
    (hl : ∀ x ∈ l, (s.fibre (k x)).live = true) : MovesOnly A s (s.each l step) := by
  induction l generalizing s with
  | nil => exact .refl A s
  | cons x l ih =>
    have one := h s x List.mem_cons_self (hl x List.mem_cons_self)
    exact one.trans (ih (fun s y hy => h s y (List.mem_cons_of_mem _ hy)) fun y hy => by
      rw [one.live]; exact hl y (List.mem_cons_of_mem _ hy))

theorem parkPage_moves (hA : ∀ x ∈ iss.lanes, A x.2) (hl : ∀ x ∈ iss.lanes, (s.fibre x.2).live = true) (va : Nat) (wr : Bool) :
    MovesOnly A s (s.parkPage iss va wr) := by
  have first : MovesOnly A s ((s.settleLate iss.gid).addRecord iss.ctx
      ((s.settleLate iss.gid).groupRecord iss cPAGE 0 va true wr false false)).2 :=
    (settles (settleLate_settles s iss.gid)).trans (addRecord_moves _ _)
  refine first.trans (foldLive (k := fun x : Nat × FibreId => x.2) (fun s x hx hs => ?_) fun x hx => ?_)
  · exact setStatus_moves ⟨hA x hx, hs⟩ Status.noConfusion
  · rw [first.live]; exact hl x hx

theorem raiseCodeHash_moves : MovesOnly A s (s.raiseCodeHash iss) := by
  refine (settles (settle_settles s iss.gid)).trans ?_
  exact of_teams rfl

theorem holdGroup_moves (cause detail va : Nat) (dbl : Bool) : MovesOnly A s (s.holdGroup iss cause detail va dbl) := by
  have kept (s : State) (x : FibreId) (id : Nat) :
      MovesOnly A s (if (s.fibre x).firm.contains id then s else s.modFibre x fun f => { f with firm := f.firm ++ [id] }) := by
    split
    · exact .refl A s
    · exact keepFibre s x
  exact ((addRecord_moves _ _).trans (foldEach (fun s _ _ => keepFibre s _) _)).trans
    (foldEach (fun s x _ => kept s x _) _)

theorem pushCheck_memory (core ctx : Nat) (f : FibreId) : SameButMemory s (s.pushCheck core ctx f).1 := by
  have h := translate_memory s core ctx ((s.fibre f).stack - 8).toNat .write true
  unfold pushCheck
  dsimp only
  split
  · exact .refl s
  · split
    · exact .refl s
    · split
      · next e => rw [e] at h; split <;> exact h
      all_goals next e => rw [e] at h; exact h

theorem pushAllCheck_memory (core ctx : Nat) (ls : List (Nat × FibreId)) : SameButMemory s (s.pushAllCheck core ctx ls).1 := by
  induction ls generalizing s with
  | nil => exact .refl s
  | cons x ls ih =>
    obtain ⟨n, f⟩ := x
    have h := pushCheck_memory (s := s) core ctx f
    unfold pushAllCheck
    split
    · next e => rw [e] at h; exact h.trans ih
    · next e => rw [e] at h; exact h

theorem accessDone_moves (core : Nat) (fs : List FibreId) : MovesOnly A s (s.accessDone core fs) := by
  refine foldEach (fun s f _ => ?_) s
  split
  · exact (memory (l1Acquire_memory s core)).trans (keepFibre _ f)
  · exact .refl A s

/-- The store of a spill where its address translates. -/
theorem spill_memory (core ctx : Nat) (f : FibreId) (va : Nat) (bs : List Byte) :
    SameButMemory s (match s.translate core ctx va .write true with
      | (s, .ok pa) => s.l1Store core f pa bs false false false
      | (s, _) => s) := by
  have h := translate_memory s core ctx va .write true
  split
  · next e => rw [e] at h; exact h.trans (l1Store_memory _ core f _ bs _ _ _)
  · next e => rw [e] at h; exact h

theorem push_moves {f : FibreId} (hf : A f) (core ctx : Nat) (ref : Dword) : MovesOnly A s (s.push core ctx f ref) := by
  unfold push
  dsimp only
  split
  · exact moveFibre s hf rfl
  · exact ((accessDone_moves core [f]).trans (memory (spill_memory _ _ _ _ _))).trans (moveFibre _ hf rfl)

theorem enterHandler_moves (hA : ∀ x ∈ iss.lanes, A x.2) (cause detail va : Nat) :
    MovesOnly A s (s.enterHandler iss cause detail va) := by
  refine MovesOnly.trans (foldEach (fun s _ _ => keepFibre s _) s)
    (foldEach (fun s f hf => ?_) _)
  obtain ⟨x, hx, rfl⟩ := List.mem_map.1 hf
  exact (push_moves (hA x hx) _ _ _).trans (moveFibre _ (hA x hx) rfl)

/-- A trap moves no fibre but the lanes that take it. -/
theorem raise_moves (hA : ∀ x ∈ iss.lanes, A x.2) (hl : ∀ x ∈ iss.lanes, (s.fibre x.2).live = true) (cause detail va : Nat) :
    MovesOnly A s (s.raise iss cause detail va) := by
  have settled : MovesOnly A s (s.settle iss.gid) := settles (settle_settles s iss.gid)
  have there := targetCheck_memory (s.settle iss.gid) iss.core iss.ctx ((s.settle iss.gid).ctx iss.ctx).trapvec true
  unfold raise
  dsimp only
  split
  · exact stall_moves
  · refine settled.trans ?_
    split
    · split
      · next e =>
        rw [e] at there
        exact (memory there).trans (waitHash_moves _ _)
      · next e =>
        rw [e] at there
        have moved : MovesOnly A _ _ := memory there
        exact moved.trans (parkPage_moves hA (fun x hx => by rw [moved.live, settled.live]; exact hl x hx) _ _)
      · next e =>
        rw [e] at there
        refine MovesOnly.trans (memory there) ?_
        split
        · exact raiseCodeHash_moves
        · exact holdGroup_moves _ _ _ _
      · next u e =>
        rw [e] at there
        have pushes := pushAllCheck_memory (s := u) iss.core iss.ctx iss.lanes
        refine MovesOnly.trans (memory there) ?_
        split
        · exact stall_moves
        · split
          · next e =>
            rw [e] at pushes
            exact (memory pushes).trans (enterHandler_moves hA _ _ _)
          · next e =>
            rw [e] at pushes
            exact (memory pushes).trans (holdGroup_moves _ _ _ _)
    · exact holdGroup_moves _ _ _ _

end State

/-- Every parked fibre is among those that may move. -/
def CoversBlocked (A : FibreId → Prop) (s : State) : Prop := ∀ f w, (s.fibre f).status = .blocked w → A f

theorem MovesOnly.covers {A : FibreId → Prop} {s t : State} (h : MovesOnly A s t) (hA : CoversBlocked A s) :
    CoversBlocked A t := by
  intro f w hf
  by_contra ha
  exact ha (hA f w ((h.still f ha).1.symm.trans hf))

/-- Updates under a property that such updates keep. -/
theorem MovesOnly.foldUnder {A : FibreId → Prop} {P : State → Prop} {α : Type} {step : State → α → State} {l : List α}
    (h : ∀ s x, P s → MovesOnly A s (step s x)) (hP : ∀ s t, MovesOnly A s t → P s → P t) {s : State} (hs : P s) :
    MovesOnly A s (s.each l step) := by
  induction l generalizing s with
  | nil => exact .refl A s
  | cons x l ih => exact (h s x hs).trans (ih (hP _ _ (h s x hs) hs))

theorem MovesOnly.foldCovers {A : FibreId → Prop} {α : Type} {step : State → α → State} {l : List α}
    (h : ∀ s x, CoversBlocked A s → MovesOnly A s (step s x)) {s : State} (hA : CoversBlocked A s) :
    MovesOnly A s (s.each l step) := foldUnder h (fun _ _ => MovesOnly.covers) hA

theorem live_of_blocked {x : Fibre} {w : Wake} (h : x.status = .blocked w) : x.live = true := by
  unfold Fibre.live; rw [h]; rfl

namespace State

open MovesOnly

variable {A : FibreId → Prop} {s : State}

theorem acquire_memory (s : State) (fs : List FibreId) : SameButMemory s (s.acquire fs) :=
  SameButMemory.foldEach _ (fun s c => l1Acquire_memory s c) s

theorem wake_moves {f : FibreId} (hf : A f) (hl : (s.fibre f).live = true) : MovesOnly A s (s.wake f) := by
  unfold wake
  refine moveFibre s hf ?_
  rw [hl]
  unfold Fibre.live
  dsimp only
  split <;> rfl

theorem wakeTo_moves {f : FibreId} (hf : A f) (hl : (s.fibre f).live = true) (ref : Dword) : MovesOnly A s (s.wakeTo f ref) :=
  (wake_moves hf hl).trans (moveFibre _ hf rfl)

theorem checkBar_moves (hA : CoversBlocked A s) (tid : Nat) : MovesOnly A s (s.checkBar tid) := by
  have woken (u : State) (f : FibreId) (hu : CoversBlocked A u) : MovesOnly A u (match (u.fibre f).status with
      | .blocked (.bar n) => u.wakeTo f n
      | _ => u) := by
    split
    · next h => exact wakeTo_moves (hu f _ h) (live_of_blocked h) _
    · exact .refl A u
  unfold checkBar
  dsimp only
  split
  · exact .refl A s
  · have counted : MovesOnly A s (s.modTeam tid fun t => { t with barPhase := t.barPhase + 1 }) := keepTeam s tid
    exact (counted.trans (foldCovers woken (counted.covers hA))).trans (memory (acquire_memory _ _))

theorem modGallery_frame (s : State) (launch n : Nat) (f : Gallery → Gallery) :
    { s.modGallery launch n f with launches := s.launches } = s := by
  unfold modGallery
  split <;> rfl

theorem checkGallery_moves (hA : CoversBlocked A s) (launch n : Nat) : MovesOnly A s (s.checkGallery launch n) := by
  have woken (u : State) (f : FibreId) (hu : CoversBlocked A u) : MovesOnly A u (match (u.fibre f).status with
      | .blocked (.gbar _ r) => u.wakeTo f r
      | _ => u) := by
    split
    · next h => exact wakeTo_moves (hu f _ h) (live_of_blocked h) _
    · exact .refl A u
  unfold checkGallery
  dsimp only
  split
  · exact .refl A s
  · have counted (g : Gallery → Gallery) : MovesOnly A s (s.modGallery launch n g) :=
      of_teams (congrArg State.teams (modGallery_frame s launch n g) :)
    exact ((counted _).trans (foldCovers woken ((counted _).covers hA))).trans (memory (acquire_memory _ _))

theorem leaveGroup_moves (fs : List FibreId) (gid : Nat) : MovesOnly A s (s.leaveGroup fs gid) := by
  unfold leaveGroup
  split
  · exact .refl A s
  · dsimp only
    split
    · refine MovesOnly.trans ?_ (foldEach (fun s _ _ => keepFibre s _) _)
      exact of_teams rfl
    · exact of_teams rfl

theorem makeGroup_moves (ctx core grant : Nat) (control zero : Bool) (fs : List FibreId) :
    MovesOnly A s (s.makeGroup ctx core grant control zero fs) := by
  unfold makeGroup
  dsimp only
  refine MovesOnly.trans ?_ (foldEach (fun s _ _ => keepFibre s _) _)
  split <;> exact of_teams rfl

theorem formTeam_moves (tid : Nat) (zero : Bool) : MovesOnly A s (s.formTeam tid zero) := by
  unfold formTeam
  exact MovesOnly.trans (foldEach (fun s _ _ => leaveGroup_moves _ _) s)
    (foldEach (fun s _ _ => makeGroup_moves _ _ _ _ _ _) _)

theorem teamGNow_moves (tid gid n : Nat) (x : Dword) : MovesOnly A s (s.teamGNow tid gid n x) := by
  unfold teamGNow
  exact keepTeam s tid

theorem gWriteNow_moves (gid n : Nat) (x : Dword) : MovesOnly A s (s.gWriteNow gid n x) := by
  unfold gWriteNow
  dsimp only
  split
  · refine MovesOnly.trans ?_ (teamGNow_moves _ gid n x)
    exact of_teams rfl
  · exact of_teams rfl

theorem issueFor_lanes {gid : Nat} {fs : List FibreId} {next : Dword} {x : Nat × FibreId}
    (hx : x ∈ (s.issueFor gid fs next).lanes) : x.2 ∈ fs := by
  simpa using (List.mem_filter.1 hx).2

theorem trapArrivals_moves {fs : List FibreId} (hA : ∀ f ∈ fs, A f) (hl : ∀ f ∈ fs, (s.fibre f).live = true) (cause : Nat) :
    MovesOnly A s (s.trapArrivals fs cause) := by
  have readied : MovesOnly A s (s.each fs fun s f => s.modFibre f fun x => { x with status := .ready }) :=
    foldLive (k := id) (fun s f hf hs => setStatus_moves ⟨hA f hf, hs⟩ Status.noConfusion) hl
  refine readied.trans (foldUnder (P := fun t => ∀ f ∈ fs, (t.fibre f).live = true) (fun t gid ht => ?_)
    (fun t u h ht f hf => (h.live f).trans (ht f hf)) fun f hf => (readied.live f).trans (hl f hf))
  have mine (p q : FibreId → Bool) : ∀ x ∈ (t.issueFor gid ((fs.filter p).filter q) 0).lanes, x.2 ∈ fs := fun x hx =>
    (List.mem_filter.1 (List.mem_filter.1 (issueFor_lanes hx)).1).1
  dsimp only
  split
  · exact .refl A t
  · exact raise_moves (fun x hx => hA _ (mine _ _ x hx)) (fun x hx => ht _ (mine _ _ x hx)) _ _ _

/-- The arrivals at SETW are of live fibres of the team that are parked there. -/
theorem setwArrivals_blocked {tid : Nat} {x : FibreId × Nat × Bool × Nat × Dword} (hx : x ∈ s.setwArrivals tid) :
    (s.fibre x.1).status = .blocked (.setw x.2.1 x.2.2.1 x.2.2.2.1 x.2.2.2.2) := by
  obtain ⟨f, _, hf⟩ := List.mem_filterMap.1 hx
  split at hf
  · next h => cases hf; exact h
  · cases hf

/-- Where every live fibre of a team has arrived at SETW, they are all parked. -/
theorem setwArrivals_all {tid : Nat} (h : (s.setwArrivals tid).length = (s.liveFibres tid).length) {f : FibreId}
    (hf : f ∈ s.liveFibres tid) : ∃ w, (s.fibre f).status = .blocked w := by
  have found := List.filterMap_length_eq_length.1 h f hf
  split at found
  · next e => exact ⟨_, e⟩
  · cases found

theorem checkSetw_moves (hA : CoversBlocked A s) (tid : Nat) : MovesOnly A s (s.checkSetw tid) := by
  have woken : MovesOnly A s (s.each (s.setwArrivals tid) fun s x => s.wakeTo x.1 x.2.2.2.2) := by
    refine foldLive (k := fun x : FibreId × Nat × Bool × Nat × Dword => x.1) (fun t x hx ht => ?_) fun x hx => ?_
    · exact wakeTo_moves (hA _ _ (setwArrivals_blocked hx)) ht _
    · exact live_of_blocked (setwArrivals_blocked hx)
  unfold checkSetw
  dsimp only
  split
  · exact .refl A s
  · split
    · exact .refl A s
    · next full =>
      split
      · have all : ∀ f ∈ s.liveFibres tid, ∃ w, (s.fibre f).status = .blocked w := fun f hf =>
          setwArrivals_all (by simp at full; exact full.1) hf
        refine trapArrivals_moves (fun f hf => ?_) (fun f hf => ?_) _
        · obtain ⟨w, hw⟩ := all f hf; exact hA f w hw
        · obtain ⟨w, hw⟩ := all f hf; exact live_of_blocked hw
      · split
        · exact .refl A s
        · generalize (if (s.team tid).control = true then 1 else min _ _) = grant
          split
          · exact .refl A s
          · refine MovesOnly.trans ?_ (memory (acquire_memory _ _))
            refine MovesOnly.trans ?_ (foldEach (fun _ _ _ => gWriteNow_moves _ _ _) _)
            refine MovesOnly.trans ?_ (formTeam_moves _ _)
            exact woken.trans (keepTeam _ _)

theorem checkCollectives_moves (hA : CoversBlocked A s) (tid : Nat) : MovesOnly A s (s.checkCollectives tid) := by
  have bar := checkBar_moves hA tid
  have setw := checkSetw_moves (bar.covers hA) tid
  have both := bar.trans setw
  exact both.trans (checkGallery_moves (both.covers hA) _ _)

end State
end Sys2Proof.Machine
end

section
/-! The end of fibres: what the completion of barriers wakes (02 R29; 17 R362; 19 R393; 20 R406). -/

namespace Sys2Proof.Machine

/-- What a fibre's status says of where it goes on once its barrier completes. -/
def Fibre.waits (x : Fibre) : Option Dword :=
  match x.status with
  | .blocked (.bar n) | .blocked (.gbar _ n) => some n
  | _ => none

/-- A fibre whose barrier has completed, with a stop request pending or not (02 R54, R495). -/
def Fibre.woken (stop : Bool) (n : Dword) (x : Fibre) : Fibre :=
  { x with status := if stop then .blocked .stopped else .ready, pc := n, again := none }

theorem Fibre.waits_woken (stop : Bool) (n : Dword) (x : Fibre) : (x.woken stop n).waits = none := by
  cases stop <;> rfl

/-- Barriers have completed: of some fibres those that waited have been woken, and but for them only cores, the phases of
barriers and galleries differ. -/
structure Wakes (P : FibreId → Fibre → Prop) (s t : State) : Prop where
  rest : { t with teams := s.teams, cores := s.cores, launches := s.launches } = s
  team : ∀ n, { t.team n with fibres := (s.team n).fibres, barPhase := (s.team n).barPhase } = s.team n
  sorted : ∀ n, KV.sorted (s.team n).fibres = true → KV.sorted (t.team n).fibres = true
  fibre : ∀ g, t.fibre g = s.fibre g ∨ P g (s.fibre g) ∧ ∃ n, (s.fibre g).waits = some n ∧
    t.fibre g = (s.fibre g).woken (s.ctx (s.team g.team).ctx).stop n

namespace Wakes

variable {P Q : FibreId → Fibre → Prop} {s t u : State}

theorem refl (P : FibreId → Fibre → Prop) (s : State) : Wakes P s s := ⟨rfl, fun _ => rfl, fun _ h => h, fun _ => .inl rfl⟩

theorem mono (h : Wakes P s t) (pq : ∀ g x, P g x → Q g x) : Wakes Q s t :=
  ⟨h.rest, h.team, h.sorted, fun g => (h.fibre g).imp_right fun ⟨hp, k⟩ => ⟨pq g _ hp, k⟩⟩

theorem stop (h : Wakes P s t) (n : Nat) : (t.ctx (t.team n).ctx).stop = (s.ctx (s.team n).ctx).stop := by
  have contexts : t.contexts = s.contexts := (congrArg State.contexts h.rest :)
  have ctx : (t.team n).ctx = (s.team n).ctx := (congrArg Team.ctx (h.team n) :)
  unfold State.ctx
  rw [contexts, ctx]

theorem trans (h : Wakes P s t) (k : Wakes P t u) : Wakes P s u where
  rest := (congrArg (fun z : State => { z with teams := s.teams, cores := s.cores, launches := s.launches }) k.rest).trans h.rest
  team n := (congrArg (fun z : Team => { z with fibres := (s.team n).fibres, barPhase := (s.team n).barPhase })
    (k.team n)).trans (h.team n)
  sorted n hn := k.sorted n (h.sorted n hn)
  fibre g := by
    have kg := k.fibre g
    rw [h.stop] at kg
    rcases h.fibre g with e | ⟨hp, n, hw, e⟩
    · rw [e] at kg; exact kg
    · rcases kg with e' | ⟨_, m, hm, _⟩
      · exact .inr ⟨hp, n, hw, e'.trans e⟩
      · rw [e, Fibre.waits_woken] at hm; cases hm

/-- Nothing but cores or launches has changed. -/
theorem of_fibres (rest : { t with cores := s.cores, launches := s.launches } = s) : Wakes P s t := by
  have teams : t.teams = s.teams := (congrArg State.teams rest :)
  have team (n : Nat) : t.team n = s.team n := by unfold State.team; rw [teams]
  refine ⟨?_, fun n => by rw [team], fun n => by rw [team]; exact id, fun g => .inl ?_⟩
  · exact (congrArg (fun z : State => { z with teams := s.teams }) rest :)
  · unfold State.fibre; rw [team]

theorem foldEach {α : Type} {step : State → α → State} (l : List α) (h : ∀ s x, Wakes P s (step s x)) (s : State) :
    Wakes P s (s.each l step) :=
  State.each_keeps (P := Wakes P s) (refl P s) fun t x k => k.trans (h t x)

/-- A fibre that does not wait stays as it is. -/
theorem same (h : Wakes P s t) {g : FibreId} (hg : (s.fibre g).waits = none) : t.fibre g = s.fibre g := by
  rcases h.fibre g with e | ⟨_, n, hn, _⟩
  · exact e
  · rw [hg] at hn; cases hn

theorem live (h : Wakes P s t) (g : FibreId) : (t.fibre g).live = (s.fibre g).live := by
  rcases h.fibre g with e | ⟨_, n, hn, e⟩
  · rw [e]
  · have before : (s.fibre g).live = true := by
      unfold Fibre.waits at hn
      split at hn
      · next h => exact live_of_blocked h
      · next h => exact live_of_blocked h
      · cases hn
    rw [e, before]
    unfold Fibre.woken Fibre.live
    dsimp only
    split <;> rfl

end Wakes

namespace State

open Wakes

variable {P : FibreId → Fibre → Prop} {s : State}

theorem l1Acquire_frame (s : State) (core : Nat) : { s.l1Acquire core with cores := s.cores } = s := by
  refine (each_same (g := fun t : State => { t with cores := s.cores }) _ fun t w => ?_).trans rfl
  unfold mergeWord
  split
  · split <;> rfl
  · rfl

theorem l1Acquire_wakes (s : State) (core : Nat) : Wakes P s (s.l1Acquire core) :=
  of_fibres (congrArg (fun z : State => { z with launches := s.launches }) (l1Acquire_frame s core))

theorem acquire_wakes (s : State) (fs : List FibreId) : Wakes P s (s.acquire fs) := foldEach _ l1Acquire_wakes s

/-- A fibre that waits is woken. -/
theorem wakeTo_wakes {f : FibreId} {n : Dword} (hp : P f (s.fibre f)) (hw : (s.fibre f).waits = some n) :
    Wakes P s (s.wakeTo f n) := by
  have sorted (u : State) (g : Fibre → Fibre) (m : Nat) (h : KV.sorted (u.team m).fibres = true) :
      KV.sorted ((u.modFibre f g).team m).fibres = true := by
    by_cases e : m = f.team
    · subst e; simp only [modFibre, setFibre, team_modTeam]; exact KV.sorted_put _ _ h
    · simp only [modFibre, setFibre, team_modTeam_other _ _ e]; exact h
  have frame := (modFibre_frame s f _).trans (modFibre_frame (s.wake f) f fun x => { x with pc := n, again := none })
  refine ⟨?_, fun m => ?_, fun m h => sorted _ _ m (sorted _ _ m h), fun g => ?_⟩
  · exact (congrArg (fun z : State => { z with cores := s.cores, launches := s.launches }) frame.1 :)
  · exact (congrArg (fun z : Team => { z with barPhase := (s.team m).barPhase }) (frame.2 m) :)
  · unfold wakeTo wake
    rw [modFibre_fibre, modFibre_fibre]
    by_cases e : f = g
    · subst e; rw [if_pos rfl, if_pos rfl]; exact .inr ⟨hp, n, hw, rfl⟩
    · rw [if_neg e, if_neg e]; exact .inl rfl

/-- A fibre of a team that waits at BAR is woken. -/
def wakeBar (s : State) (f : FibreId) : State :=
  match (s.fibre f).status with
  | .blocked (.bar n) => s.wakeTo f n
  | _ => s

/-- A fibre waits at BAR. -/
def atBar (f : Fibre) : Bool :=
  match f.status with
  | .blocked (.bar _) => true
  | _ => false

theorem atBar_iff {x : Fibre} : atBar x = true ↔ ∃ n, x.status = .blocked (.bar n) := by
  unfold atBar
  split
  · next n h => exact ⟨fun _ => ⟨n, h⟩, fun _ => rfl⟩
  · next h => exact ⟨fun e => Bool.noConfusion e, fun ⟨n, e⟩ => absurd e (h n)⟩

theorem wakeBar_wakes {f : FibreId} (hp : atBar (s.fibre f) = true → P f (s.fibre f)) : Wakes P s (s.wakeBar f) := by
  unfold wakeBar
  split
  · next n h =>
    have hw : (s.fibre f).waits = some n := by unfold Fibre.waits; rw [h]
    exact wakeTo_wakes (hp (atBar_iff.2 ⟨n, h⟩)) hw
  · exact .refl P s

/-- A team's barrier enters its next phase. -/
def nextBar (t : Team) : Team := { t with barPhase := t.barPhase + 1 }

theorem checkBar_eq (s : State) (tid : Nat) : s.checkBar tid =
    if (s.liveFibres tid).isEmpty || ((s.liveFibres tid).filter fun f => atBar (s.fibre f)).length != (s.liveFibres tid).length
    then s
    else ((s.modTeam tid nextBar).each (s.liveFibres tid) wakeBar).acquire (s.liveFibres tid) := rfl

theorem liveFibres_team {s : State} {tid : Nat} {f : FibreId} (h : f ∈ s.liveFibres tid) : f.team = tid := by
  obtain ⟨x, _, rfl⟩ := List.mem_map.1 h
  rfl

theorem nextBar_fibre (s : State) (tid : Nat) (g : FibreId) : (s.modTeam tid nextBar).fibre g = s.fibre g := by
  unfold fibre
  rw [show ((s.modTeam tid nextBar).team g.team).fibres = (s.team g.team).fibres from
    team_modTeam_same s tid (f := nextBar) (π := Team.fibres) (fun _ => rfl) g.team]

theorem nextBar_wakes (s : State) (tid : Nat) : Wakes P s (s.modTeam tid nextBar) := by
  refine ⟨rfl, fun m => ?_, fun m h => ?_, fun g => .inl (nextBar_fibre s tid g)⟩
  · exact team_modTeam_same s tid (f := nextBar) (fun _ => rfl)
      (π := fun t => { t with fibres := (s.team m).fibres, barPhase := (s.team m).barPhase }) m
  · rw [show ((s.modTeam tid nextBar).team m).fibres = (s.team m).fibres from
      team_modTeam_same s tid (f := nextBar) (π := Team.fibres) (fun _ => rfl) m]
    exact h

/-- The fibres of a team that wait at BAR. -/
def barOf (tid : Nat) (g : FibreId) (x : Fibre) : Prop := g.team = tid ∧ atBar x = true

theorem checkBar_wakes (s : State) (tid : Nat) : Wakes (barOf tid) s (s.checkBar tid) := by
  have fold (l : List FibreId) (hl : ∀ f ∈ l, f.team = tid) (u : State) : Wakes (barOf tid) u (u.each l wakeBar) := by
    induction l generalizing u with
    | nil => exact .refl _ u
    | cons f l ih =>
      exact (wakeBar_wakes fun h => ⟨hl f List.mem_cons_self, h⟩).trans
        (ih (fun g hg => hl g (List.mem_cons_of_mem _ hg)) _)
  rw [checkBar_eq]
  split
  · exact .refl _ s
  · exact ((nextBar_wakes s tid).trans (fold _ (fun _ => liveFibres_team) _)).trans (acquire_wakes _ _)

/-- The fibres that wait at a gallery barrier. -/
def gbarOf (_ : FibreId) (x : Fibre) : Prop := ∃ p n, x.status = .blocked (.gbar p n)

theorem checkGallery_wakes (s : State) (launch n : Nat) : Wakes gbarOf s (s.checkGallery launch n) := by
  have woken (u : State) (f : FibreId) : Wakes gbarOf u (match (u.fibre f).status with
      | .blocked (.gbar _ r) => u.wakeTo f r
      | _ => u) := by
    split
    · next p r h =>
      have hw : (u.fibre f).waits = some r := by unfold Fibre.waits; rw [h]
      exact wakeTo_wakes ⟨p, r, h⟩ hw
    · exact .refl _ u
  have counted (g : Gallery → Gallery) : Wakes gbarOf s (s.modGallery launch n g) :=
    of_fibres (congrArg (fun z : State => { z with cores := s.cores }) (modGallery_frame s launch n g) :)
  unfold checkGallery
  dsimp only
  split
  · exact .refl _ s
  · exact ((counted _).trans (foldEach _ woken _)).trans (acquire_wakes _ _)

theorem atBar_woken (stop : Bool) (n : Dword) (x : Fibre) : atBar (x.woken stop n) = false := by
  cases stop <;> rfl

theorem wakes_notAtBar {t : State} (h : Wakes P s t) {g : FibreId} (hg : atBar (s.fibre g) = false) :
    atBar (t.fibre g) = false := by
  rcases h.fibre g with e | ⟨_, n, _, e⟩ <;> rw [e]
  · exact hg
  · exact atBar_woken _ _ _

theorem wakeBar_notAtBar (s : State) (g : FibreId) : atBar ((s.wakeBar g).fibre g) = false := by
  by_cases h : atBar (s.fibre g) = true
  · obtain ⟨n, hn⟩ := atBar_iff.1 h
    have run : s.wakeBar g = s.wakeTo g n := by unfold wakeBar; rw [hn]
    rw [run]
    unfold wakeTo wake
    rw [fibre_modFibre, fibre_modFibre]
    exact atBar_woken _ n _
  · have same := wakeBar_wakes (P := fun _ _ => False) (s := s) (f := g) fun e => h e
    rcases same.fibre g with e | ⟨no, _⟩
    · rw [e]; exact Bool.eq_false_iff.2 h
    · exact no.elim

/-- Where every live fibre of a team waits at BAR, none of them waits after it. -/
theorem checkBar_completes {tid : Nat} (h : ∀ f ∈ s.liveFibres tid, atBar (s.fibre f) = true) {g : FibreId}
    (hg : g ∈ s.liveFibres tid) : atBar ((s.checkBar tid).fibre g) = false := by
  have some : (s.liveFibres tid).isEmpty = false := by
    cases e : s.liveFibres tid with
    | nil => rw [e] at hg; cases hg
    | cons _ _ => rfl
  have full : ((s.liveFibres tid).filter fun f => atBar (s.fibre f)) = s.liveFibres tid := List.filter_eq_self.2 h
  rw [checkBar_eq, some, full, if_neg (by simp)]
  refine wakes_notAtBar (P := fun _ _ => True) (acquire_wakes _ _) ?_
  exact each_reaches (f := wakeBar) (P := fun t => atBar (t.fibre g) = false)
    (fun t f ht => wakes_notAtBar (P := fun _ _ => True) (wakeBar_wakes fun _ => trivial) ht) hg
    (fun t => wakeBar_notAtBar t g) _

/-! SETW has no part where no fibre of the team waits there. -/

/-- No fibre of a team waits at SETW. -/
def noSetw (s : State) (tid : Nat) : Prop :=
  ∀ f : FibreId, f.team = tid → ∀ r e d n, (s.fibre f).status ≠ .blocked (.setw r e d n)

theorem mem_liveFibres_of_live {f : FibreId} (h : (s.fibre f).live = true) : f ∈ s.liveFibres f.team := by
  unfold fibre KV.getD at h
  cases e : (s.team f.team).fibres.find f.fid with
  | none => rw [e] at h; exact Bool.noConfusion h
  | some x =>
    rw [e] at h
    exact List.mem_map.2 ⟨(f.fid, x), List.mem_filter.2 ⟨KV.mem_of_find e, h⟩, rfl⟩

theorem noSetw_of_arrivals {tid : Nat} (h : s.setwArrivals tid = []) : s.noSetw tid := by
  intro f hf r e d n hs
  have mem : f ∈ s.liveFibres tid := hf ▸ mem_liveFibres_of_live (live_of_blocked hs)
  have := List.filterMap_eq_nil_iff.1 h f mem
  rw [hs] at this
  cases this

theorem arrivals_of_noSetw {tid : Nat} (h : s.noSetw tid) : s.setwArrivals tid = [] := by
  refine List.filterMap_eq_nil_iff.2 fun f hf => ?_
  split
  · next e => exact absurd e (h f (liveFibres_team hf) _ _ _ _)
  · rfl

theorem checkSetw_noSetw {tid : Nat} (h : s.noSetw tid) : s.checkSetw tid = s := by
  unfold checkSetw
  rw [arrivals_of_noSetw h]

theorem wakes_noSetw {t : State} (h : Wakes P s t) {tid : Nat} (hs : s.noSetw tid) : t.noSetw tid := by
  intro f hf r e d n ht
  rcases h.fibre f with same | ⟨_, m, _, woken⟩
  · rw [same] at ht; exact hs f hf r e d n ht
  · rw [woken] at ht
    unfold Fibre.woken at ht
    dsimp only at ht
    split at ht <;> cases ht

/-- What the end of fibres of a team may wake where none of them waits at SETW. -/
def barOrGallery (tid : Nat) (g : FibreId) (x : Fibre) : Prop := barOf tid g x ∨ gbarOf g x

theorem checkCollectives_wakes {tid : Nat} (h : s.noSetw tid) : Wakes (barOrGallery tid) s (s.checkCollectives tid) := by
  have bar := (checkBar_wakes s tid).mono (Q := barOrGallery tid) fun _ _ => .inl
  unfold checkCollectives
  dsimp only
  rw [checkSetw_noSetw (wakes_noSetw bar h)]
  exact bar.trans ((checkGallery_wakes _ _ _).mono fun _ _ => .inr)

theorem checkCollectives_completes {tid : Nat} (hn : s.noSetw tid) (h : ∀ f ∈ s.liveFibres tid, atBar (s.fibre f) = true)
    {g : FibreId} (hg : g ∈ s.liveFibres tid) : atBar ((s.checkCollectives tid).fibre g) = false := by
  have bar := (checkBar_wakes s tid).mono (Q := barOrGallery tid) fun _ _ => .inl
  unfold checkCollectives
  dsimp only
  rw [checkSetw_noSetw (wakes_noSetw bar hn)]
  exact wakes_notAtBar (checkGallery_wakes _ _ _) (checkBar_completes h hg)

/-- What the end of fibres of some teams may wake where none of them waits at SETW. -/
def barsOrGallery (l : List Nat) (g : FibreId) (x : Fibre) : Prop := (g.team ∈ l ∧ atBar x = true) ∨ gbarOf g x

theorem collectives_wakes {l : List Nat} (h : ∀ n ∈ l, s.noSetw n) :
    Wakes (barsOrGallery l) s (s.each l fun s t => s.checkCollectives t) := by
  induction l generalizing s with
  | nil => exact .refl _ s
  | cons n l ih =>
    have one := (checkCollectives_wakes (h n List.mem_cons_self)).mono (Q := barsOrGallery (n :: l))
      fun g _ k => k.imp_left fun ⟨e, b⟩ => ⟨e ▸ List.mem_cons_self, b⟩
    exact one.trans ((ih fun m hm => wakes_noSetw one (h m (List.mem_cons_of_mem _ hm))).mono
      fun g _ k => k.imp_left fun ⟨e, b⟩ => ⟨List.mem_cons_of_mem _ e, b⟩)

/-- The live fibres of a team whose fibres stand in rising FID. -/
theorem live_of_mem {tid : Nat} (sorted : KV.sorted (s.team tid).fibres = true) {f : FibreId} (hf : f ∈ s.liveFibres tid) :
    (s.fibre f).live = true := by
  obtain ⟨x, hx, rfl⟩ := List.mem_map.1 hf
  obtain ⟨mem, live⟩ := List.mem_filter.1 hx
  have found : (s.team tid).fibres.find x.1 = some x.2 := KV.find_of_mem sorted mem
  unfold fibre KV.getD
  dsimp only
  rw [found]
  exact live

/-- Where all the live fibres of one of some teams wait at BAR, none of them waits after the collectives. -/
theorem collectives_complete {l : List Nat} (nd : l.Nodup) (hn : ∀ n ∈ l, s.noSetw n) {tid : Nat} (ht : tid ∈ l)
    (sorted : KV.sorted (s.team tid).fibres = true) (h : ∀ f : FibreId, f.team = tid → (s.fibre f).live = true →
      atBar (s.fibre f) = true) {g : FibreId} (hg : g.team = tid) (live : (s.fibre g).live = true) :
    atBar ((s.each l fun s t => s.checkCollectives t).fibre g) = false := by
  induction l generalizing s with
  | nil => cases ht
  | cons n l ih =>
    obtain ⟨nl, nd⟩ := List.nodup_cons.1 nd
    have one := checkCollectives_wakes (hn n List.mem_cons_self)
    have hn' : ∀ m ∈ l, (s.checkCollectives n).noSetw m := fun m hm => wakes_noSetw one (hn m (List.mem_cons_of_mem _ hm))
    rcases List.mem_cons.1 ht with rfl | ht
    · refine wakes_notAtBar (collectives_wakes hn') (checkCollectives_completes (hn _ List.mem_cons_self)
        (fun f hf => h f (liveFibres_team hf) (live_of_mem sorted hf)) (hg ▸ mem_liveFibres_of_live live))
    · have same (f : FibreId) (hf : f.team = tid) (hl : (s.fibre f).live = true) :
          (s.checkCollectives n).fibre f = s.fibre f := by
        rcases one.fibre f with e | ⟨hb | ⟨p, m, hb⟩, _⟩
        · exact e
        · exact absurd (hb.1.symm.trans hf) fun e => nl (e ▸ ht)
        · obtain ⟨k, hk⟩ := atBar_iff.1 (h f hf hl)
          rw [hk] at hb; cases hb
      refine ih nd hn' ht (one.sorted tid sorted) (fun f hf hl => ?_) ?_
      · rw [one.live] at hl
        rw [same f hf hl]; exact h f hf hl
      · rw [one.live]; exact live

end State
end Sys2Proof.Machine
end

section
/-! EXIT. -/

namespace Sys2Proof.Machine

/-- A fibre but for the handler lanes that hold it; of those only some that are gone have left. -/
def Fibre.released (gone : FibreId → Prop) (x y : Fibre) : Prop :=
  { y with heldBy := x.heldBy } = x ∧ ∀ h, ¬gone h → h ∈ x.heldBy → h ∈ y.heldBy

namespace Fibre.released

variable {gone gone' : FibreId → Prop} {x y z : Fibre}

theorem refl (gone : FibreId → Prop) (x : Fibre) : released gone x x := ⟨rfl, fun _ _ h => h⟩

theorem trans (h : released gone x y) (k : released gone y z) : released gone x z :=
  ⟨(congrArg (fun f : Fibre => { f with heldBy := x.heldBy }) k.1).trans h.1, fun f hf hx => k.2 f hf (h.2 f hf hx)⟩

theorem mono (h : released gone x y) (sub : ∀ f, gone f → gone' f) : released gone' x y :=
  ⟨h.1, fun f hf => h.2 f fun g => hf (sub f g)⟩

end Fibre.released

/-- A fibre that has ended (02 R29). -/
def Fibre.over (x : Fibre) : Fibre :=
  { x with
    status := .exited, rstack := [], spilled := 0, refill := none, streams := [], openBatch := [], late := [], handler := none
    again := none, relWait := none }

/-- What an ended fibre no longer has (02 R29; 19 R393). -/
def Fibre.isOver (x : Fibre) : Prop := x.status = .exited ∧ x.rstack = [] ∧ x.streams = [] ∧ x.openBatch = []

theorem Fibre.released.isOver {gone : FibreId → Prop} {x y : Fibre} (h : released gone x y) (hx : x.isOver) : y.isOver := by
  obtain ⟨h1, h2, h3, h4⟩ := hx
  exact ⟨(congrArg Fibre.status h.1 :).trans h1, (congrArg Fibre.rstack h.1 :).trans h2,
    (congrArg Fibre.streams h.1 :).trans h3, (congrArg Fibre.openBatch h.1 :).trans h4⟩

/-- No result stays pending for the v and k registers of a fibre, and it counts none (04 R90, R93). -/
def nothingPending (f : FibreId) (p : Sys2Proof.Machine.Pending) : Prop :=
  f ∉ p.count ∧ (p.fib = f → ∀ d ∈ p.dests, ∃ n, d.1 = .g n)

namespace State

/-- Fibres end: what has become of every fibre and of the machine. -/
structure Ends (l : List FibreId) (s t : State) : Prop where
  rest : { t with teams := s.teams, groups := s.groups, pending := s.pending } = s
  team : ∀ n, { t.team n with fibres := (s.team n).fibres } = s.team n
  sorted : ∀ n, KV.sorted (s.team n).fibres = true → KV.sorted (t.team n).fibres = true
  ended : ∀ f ∈ l, (t.fibre f).isOver
  others : ∀ f, f ∉ l → Fibre.released (· ∈ l) (s.fibre f) (t.fibre f)
  pending : ∀ p ∈ t.pending, ∀ f ∈ l, nothingPending f p.2
  keeps : ∀ f, (∀ p ∈ s.pending, nothingPending f p.2) → ∀ p ∈ t.pending, nothingPending f p.2

/-- The handler lanes that hold fibres lose a fibre. -/
structure Releases (f : FibreId) (s t : State) : Prop where
  frame : SameButFibres s t
  sorted : ∀ n, KV.sorted (s.team n).fibres = true → KV.sorted (t.team n).fibres = true
  fibre : ∀ g, Fibre.released (· = f) (s.fibre g) (t.fibre g)

theorem modFibre_sorted (s : State) (f : FibreId) (g : Fibre → Fibre) (n : Nat) (h : KV.sorted (s.team n).fibres = true) :
    KV.sorted ((s.modFibre f g).team n).fibres = true := by
  by_cases e : n = f.team
  · subst e; simp only [modFibre, setFibre, team_modTeam]; exact KV.sorted_put _ _ h
  · simp only [modFibre, setFibre, team_modTeam_other _ _ e]; exact h

theorem Releases.refl (f : FibreId) (s : State) : Releases f s s := ⟨.refl s, fun _ h => h, fun _ => .refl _ _⟩

theorem Releases.trans {f : FibreId} {s t u : State} (h : Releases f s t) (k : Releases f t u) : Releases f s u :=
  ⟨h.frame.trans k.frame, fun n hn => k.sorted n (h.sorted n hn), fun g => (h.fibre g).trans (k.fibre g)⟩

theorem unhold_releases (s : State) (f g : FibreId) : Releases f s
    (if (s.fibre g).heldBy.contains f then s.modFibre g fun x => { x with heldBy := x.heldBy.filter (· != f) } else s) := by
  split
  · refine ⟨modFibre_frame s g _, fun n => modFibre_sorted s g _ n, fun y => ?_⟩
    rw [modFibre_fibre]
    split
    · exact ⟨rfl, fun h hf hx => List.mem_filter.2 ⟨hx, by simpa using hf⟩⟩
    · exact .refl _ _
  · exact .refl f s

theorem releaseHeld_releases (s : State) (f : FibreId) : Releases f s (s.releaseHeld f) :=
  each_keeps (P := Releases f s) (.refl f s) fun _ _ h =>
    each_keeps (P := Releases f s) h fun _ _ k => k.trans (unhold_releases _ f _)

theorem withoutFibre_nothing (f : FibreId) (x : Nat × Sys2Proof.Machine.Pending) : nothingPending f (withoutFibre f x).2 := by
  unfold withoutFibre
  refine ⟨by simp, fun hf d hd => ?_⟩
  have hd : d ∈ x.2.dests.filter fun d => isG d.1 := by simpa [show x.2.fib = f from hf] using hd
  have hg := (List.mem_filter.1 hd).2
  cases e : d.1 with
  | g n => exact ⟨n, rfl⟩
  | v _ | k _ | ret => rw [e] at hg; cases hg

theorem withoutFibre_keeps (f : FibreId) {g : FibreId} {x : Nat × Sys2Proof.Machine.Pending} (h : nothingPending g x.2) :
    nothingPending g (withoutFibre f x).2 := by
  obtain ⟨h1, h2⟩ := h
  refine ⟨fun hg => h1 (List.mem_filter.1 hg).1, fun hf d hd => h2 hf d ?_⟩
  unfold withoutFibre at hd
  dsimp only at hd
  split at hd
  · exact (List.mem_filter.1 hd).1
  · exact hd

theorem exitFibre_ends (s : State) (f : FibreId) : Ends [f] s (s.exitFibre f) := by
  let pend := (s.pending.map (withoutFibre f)).filter fun x => x.2.fib != f || !x.2.dests.isEmpty || !x.2.count.isEmpty
  let s1 : State := { s with pending := pend }
  let s2 := s1.modFibre f Fibre.over
  have frame := modFibre_frame s1 f Fibre.over
  have gone := releaseHeld_releases s2 f
  have run : s.exitFibre f = if ((s2.releaseHeld f).group (s.fibre f).gid).members.any fun x => ((s2.releaseHeld f).fibre x).live
      then s2.releaseHeld f
      else { s2.releaseHeld f with groups := (s2.releaseHeld f).groups.del (s.fibre f).gid } := rfl
  have both := frame.trans gone.frame
  have fibre (g : FibreId) : (s.exitFibre f).fibre g = (s2.releaseHeld f).fibre g := by rw [run]; split <;> rfl
  have team (n : Nat) : (s.exitFibre f).team n = (s2.releaseHeld f).team n := by rw [run]; split <;> rfl
  have pending : (s.exitFibre f).pending = pend := by
    have : (s2.releaseHeld f).pending = pend := both.pending
    rw [← this, run]; split <;> rfl
  have old : ∀ p ∈ pend, ∃ q ∈ s.pending, p = withoutFibre f q := fun p hp => by
    obtain ⟨q, hq, e⟩ := List.mem_map.1 (List.mem_filter.1 hp).1
    exact ⟨q, hq, e.symm⟩
  refine ⟨?_, fun n => ?_, fun n h => ?_, fun g hg => ?_, fun g hg => ?_, fun p hp g hg => ?_, fun g h p hp => ?_⟩
  · have := congrArg (fun z : State => { z with groups := s.groups, pending := s.pending }) both.1
    rw [run]
    split <;> exact this
  · rw [team]; exact both.2 n
  · rw [team]; exact gone.sorted n (modFibre_sorted s1 f _ n h)
  · obtain rfl := List.mem_singleton.1 hg
    rw [fibre]
    refine (gone.fibre g).isOver ?_
    rw [fibre_modFibre]
    exact ⟨rfl, rfl, rfl, rfl⟩
  · rw [fibre]
    have same : s2.fibre g = s.fibre g := fibre_modFibre_other s1 _ fun e => hg (List.mem_singleton.2 e)
    rw [← same]
    exact (gone.fibre g).mono fun h e => List.mem_singleton.2 e
  · rw [pending] at hp
    obtain ⟨q, _, rfl⟩ := old p hp
    obtain rfl := List.mem_singleton.1 hg
    exact withoutFibre_nothing g q
  · rw [pending] at hp
    obtain ⟨q, hq, rfl⟩ := old p hp
    exact withoutFibre_keeps f (h q hq)

theorem Ends.nil (s : State) : Ends [] s s :=
  ⟨rfl, fun _ => rfl, fun _ h => h, fun _ h => (nomatch h), fun _ _ => .refl _ _, fun _ _ _ h => (nomatch h), fun _ h => h⟩

theorem Ends.cons {f : FibreId} {l : List FibreId} {s t u : State} (h : Ends [f] s t) (k : Ends l t u) :
    Ends (f :: l) s u where
  rest := (congrArg (fun z : State => { z with teams := s.teams, groups := s.groups, pending := s.pending }) k.rest).trans h.rest
  team n := (congrArg (fun z : Team => { z with fibres := (s.team n).fibres }) (k.team n)).trans (h.team n)
  sorted n hn := k.sorted n (h.sorted n hn)
  ended g hg := by
    by_cases e : g ∈ l
    · exact k.ended g e
    · have := (List.mem_cons.1 hg).resolve_right e
      exact (k.others g e).isOver (h.ended g (List.mem_singleton.2 this))
  others g hg := by
    obtain ⟨gf, gl⟩ := not_or.1 (List.mem_cons.not.1 hg)
    refine ((h.others g fun e => gf (List.mem_singleton.1 e)).mono fun x hx => ?_).trans
      ((k.others g gl).mono fun x hx => List.mem_cons_of_mem _ hx)
    exact List.mem_cons.2 (.inl (List.mem_singleton.1 hx))
  pending p hp g hg := by
    rcases List.mem_cons.1 hg with rfl | hg
    · exact k.keeps g (fun q hq => h.pending q hq g (List.mem_singleton.2 rfl)) p hp
    · exact k.pending p hp g hg
  keeps g hg := k.keeps g (h.keeps g hg)

theorem exits_end (l : List FibreId) (s : State) : Ends l s (s.each l exitFibre) := by
  induction l generalizing s with
  | nil => exact .nil s
  | cons f l ih => exact (exitFibre_ends s f).cons (ih _)

end State
end Sys2Proof.Machine

open Sys2Proof Sys2Proof.Machine Sys2Proof.Machine.State

/-- Settles O17: the fibres end one after another; the collectives that follow move no fibre that is not parked, and
without an arrival at SETW they only wake what waits at barriers. -/
theorem exits : Obligations.Exits := by
  intro c hc s iss act h apart ready ended
  let u := s.goto (State.others iss act) iss.next
  let v := u.each ended exitFibre
  let t := v.each (nub (ended.map (·.team))) fun s t => s.checkCollectives t
  have off : fallsOff iss (State.others iss act) = false := by unfold fallsOff; rw [h.inside]; rfl
  have run : exec c s = .next t := by
    have lanes : exitLanes s iss act = t := by
      unfold exitLanes
      dsimp only
      rw [off]
      rfl
    rw [← lanes]
    rcases hc with ⟨o, rfl⟩ | ⟨o, rfl⟩
    · exact issued_reached h rfl _
    · exact issued_reached h rfl _
  have goes := goto_frame s (State.others iss act) iss.next
  have moved := goto_moved s (State.others iss act) iss.next
  have ends : Ends ended u v := exits_end ended u
  have inLanes : ∀ x ∈ act, x ∈ iss.lanes := fun x hx => by
    rw [h.guarded] at hx; exact (List.mem_filter.1 hx).1
  have endedLanes : ∀ f ∈ ended, f ∈ iss.lanes.map (·.2) := fun f hf => by
    obtain ⟨x, hx, rfl⟩ := List.mem_map.1 hf; exact List.mem_map_of_mem (inLanes x hx)
  have readyV : ∀ g, g ∉ ended → (v.fibre g).status = (s.fibre g).status := fun g hg =>
    (congrArg Fibre.status (ends.others g hg).1 :).trans (congrArg Fibre.status (moved g) :)
  let A : FibreId → Prop := fun f => ∃ w, (v.fibre f).status = .blocked w
  have moves : MovesOnly A v t := .foldCovers (fun _ _ hs => checkCollectives_moves hs _) fun _ w hf => ⟨w, hf⟩
  have gone : ∀ f ∈ ended, (v.fibre f).standsAs (t.fibre f) := fun f hf =>
    moves.still f fun ⟨w, e⟩ => by rw [(ends.ended f hf).1] at e; cases e
  refine ⟨t, run, fun f => ?_, fun f hf => ?_, fun x hx hact => ?_, fun none => ?_⟩
  · rw [moves.live]
    by_cases hf : f ∈ ended
    · have gone : (v.fibre f).live = false := by unfold Fibre.live; rw [(ends.ended f hf).1]; rfl
      simp [gone, hf]
    · have same : (v.fibre f).live = (s.fibre f).live := by unfold Fibre.live; rw [readyV f hf]
      simp [same, hf]
  · obtain ⟨_, rstack, streams, batch⟩ := ends.ended f hf
    obtain ⟨_, _, rstack', streams', batch'⟩ := gone f hf
    exact ⟨rstack'.trans rstack, streams'.trans streams, batch'.trans batch⟩
  · have stays : x.2 ∉ ended := fun hf => by
      obtain ⟨y, hy, e⟩ := List.mem_map.1 hf
      exact hact (List.inj_on_of_nodup_map apart (inLanes y hy) hx e ▸ hy)
    have pcU : (u.fibre x.2).pc = iss.next := goto_pc s _ _ x (List.mem_filter.2 ⟨hx, by simpa using hact⟩)
    have pcV : (v.fibre x.2).pc = (u.fibre x.2).pc := (congrArg Fibre.pc (ends.others x.2 stays).1 :)
    have still := moves.still x.2 fun ⟨w, e⟩ => by rw [readyV x.2 stays, ready x hx] at e; cases e
    exact still.2.1.trans (pcV.trans pcU)
  · have noneV : ∀ n ∈ nub (ended.map (·.team)), v.noSetw n := fun n hn g hg r e d m hs => by
      obtain ⟨f, hf, rfl⟩ := List.mem_map.1 (mem_nub.1 hn)
      by_cases hgone : g ∈ ended
      · rw [(ends.ended g hgone).1] at hs; cases hs
      · rw [readyV g hgone] at hs; exact noSetw_of_arrivals (none f hf) g hg _ _ _ _ hs
    have wakes := collectives_wakes noneV
    refine ⟨fun p hp f hf => ?_, fun g hg nobar nogbar => ?_, fun f hf _ sorted stop bars g hg n hn => ?_, ?_⟩
    · rw [show t.pending = v.pending from (congrArg State.pending wakes.rest :)] at hp
      exact ends.pending p hp f hf
    · have stays : g ∉ ended := fun hf => hg (endedLanes g hf)
      have same : u.fibre g = s.fibre g := goto_other s _ _ fun hf => by
        obtain ⟨x, hx, e⟩ := List.mem_map.1 hf
        exact hg (List.mem_map.2 ⟨x, (List.mem_filter.1 hx).1, e⟩)
      have idle : (v.fibre g).waits = Option.none := by
        unfold Fibre.waits
        rw [readyV g stays]
        split
        · next e => exact absurd e (nobar _)
        · next e => exact absurd e (nogbar _ _)
        · rfl
      have kept := ends.others g stays
      rw [same] at kept
      rw [show t.fibre g = v.fibre g from wakes.same idle]
      exact kept
    · have stays : g ∉ ended := fun hf => by
        obtain ⟨x, hx, rfl⟩ := List.mem_map.1 hf
        rw [ready x (inLanes x hx)] at hn; cases hn
      have team := liveFibres_team hg
      have hv : (v.fibre g).status = .blocked (.bar n) := (readyV g stays).trans hn
      have sortedU : KV.sorted (u.team f.team).fibres = true :=
        each_keeps (P := fun z => KV.sorted (z.team f.team).fibres = true) sorted fun z x hz => modFibre_sorted z x.2 _ _ hz
      have allAtBar : ∀ h : FibreId, h.team = f.team → (v.fibre h).live = true → atBar (v.fibre h) = true := fun h hh live => by
        have alive : h ∉ ended := fun e => by
          unfold Fibre.live at live; rw [(ends.ended h e).1] at live; cases live
        have before : (s.fibre h).live = true := by unfold Fibre.live at live ⊢; rw [← readyV h alive]; exact live
        obtain ⟨m, hm⟩ := bars h (hh ▸ mem_liveFibres_of_live before) alive
        exact atBar_iff.2 ⟨m, (readyV h alive).trans hm⟩
      have complete := collectives_complete (nodup_nub _) noneV (mem_nub.2 (List.mem_map_of_mem hf))
        (ends.sorted _ sortedU) allAtBar team (live_of_blocked hv)
      have stopV : (v.ctx (v.team g.team).ctx).stop = false := by
        have contexts : v.contexts = s.contexts := (congrArg State.contexts ends.rest :).trans goes.contexts
        have ctx : (v.team g.team).ctx = (s.team f.team).ctx := by
          rw [team]; exact (congrArg Team.ctx (ends.team f.team) :).trans (congrArg Team.ctx (goes.2 f.team) :)
        rw [ctx]; unfold State.ctx; rw [contexts]; exact stop
      rcases wakes.fibre g with e | ⟨_, m, hm, e⟩
      · exact absurd (e ▸ atBar_iff.2 ⟨n, hv⟩) (Bool.eq_false_iff.1 complete)
      · have : m = n := by unfold Fibre.waits at hm; rw [hv] at hm; exact (Option.some.inj hm).symm
        subst this
        rw [show t.fibre g = _ from e, stopV]
        exact ⟨rfl, rfl⟩
    · have toV := congrArg (fun z : State => { z with
        teams := s.teams, groups := s.groups, pending := s.pending, cores := s.cores, launches := s.launches }) wakes.rest
      have toU := congrArg (fun z : State => { z with
        teams := s.teams, groups := s.groups, pending := s.pending, cores := s.cores, launches := s.launches }) ends.rest
      have toS := congrArg (fun z : State => { z with
        groups := s.groups, pending := s.pending, cores := s.cores, launches := s.launches }) goes.1
      exact (toV.trans toU).trans toS

end

section
/-! REORD and the dealing of a lone fibre (11 R239 to R246; 22 R446). -/

namespace Sys2Proof.Machine

/-! Forming and dealing one record. -/

theorem cut_one {n : Nat} (h : 1 ≤ n) (r : Rec) : cut n [r] = [[r]] := by
  obtain ⟨k, rfl⟩ := Nat.exists_eq_add_of_le' h
  simp [cut, State.chunks]

theorem formClass_nil (g : Nat) (mix : Bool) (cls : Nat) : formClass g mix cls [] = [] := by
  unfold formClass
  cases mix <;> simp [runsOf, joinByPc]

theorem joinByPc_one (r : Rec) : joinByPc [[r]] = [[r]] := by simp [joinByPc]

/-- A class of one record forms one group, whole or short. -/
theorem formClass_one {g : Nat} (h : 1 ≤ g) (mix : Bool) {cls : Nat} (hc : cls ≠ 4) (r : Rec) :
    formClass g mix cls [r] = [[r]] := by
  have runs : ((runsOf [r]).map (cut g)).flatten = [[r]] := by simp [runsOf, cut_one h]
  unfold formClass
  rw [if_neg (by simpa using hc), runs]
  cases mix with
  | false => rfl
  | true =>
    by_cases short : 1 < g
    · simp [short, joinByPc_one, cut_one h]
    · simp [short, joinByPc]

theorem dealClass_nil (fuel : Nat) (quota : List Nat) (c : Nat) : dealClass fuel quota c [] = [] := by cases fuel <;> rfl

theorem dealClass_one (fuel : Nat) (r : Rec) : dealClass (fuel + 1) [1] 0 [[r]] = [(0, [r])] := by
  have first : firstFrom [1] 0 (fun q => decide (1 ≤ q)) = some 0 := rfl
  simp [dealClass, first, dealClass_nil]

/-- A core with a free slot keeps the one group that it was dealt. -/
theorem refit_one (w core : Nat) {free : Nat} (h : 1 ≤ free) (d : Dealt) : refit w free core [d] = [d] := by
  have few : ([d].filter fun d => decide (d.cls < 4)).length ≤ free := (List.length_filter_le _ _).trans h
  unfold refit
  exact if_pos few

namespace State

variable {s : State}

/-- The record of an arrival (11 R241). -/
def recOf (s : State) (a : Arrival) : Rec :=
  let f := s.fibre a.fib
  let t := s.team a.fib.team
  let key := (f.vAt (s.clockOf (s.coreOf a.fib)) a.key).toNat
  { fib := a.fib, cls := if t.control then 4 else f.role, key := key
    order := key * 2 ^ 16 + a.fib.fid * 2 ^ 4 + t.member, next := a.next, core := s.coreOf a.fib }

/-- What the classes of some records deal to some cores (11 R244). -/
def dealtAll (cores : List Nat) (g : Nat) (mix : Bool) (recs : List Rec) : List Dealt :=
  ((upto 5).map fun cls =>
    let l := sortBy (·.order) (recs.filter fun r => r.cls == cls)
    let quota := cores.map fun c => (l.filter fun r => r.core == c).length
    (dealClass (2 * l.length + cores.length + 1) quota 0 (formClass g mix cls l)).map fun x =>
      (⟨cores.getD x.1 0, cls, if cls == 4 then 1 else g, x.2⟩ : Dealt)).flatten

theorem dealing_eq (s : State) (as : List Arrival) : s.dealing as =
    let cores := sortBy (fun c : Nat => c) (nub ((as.map s.recOf).map (·.core)))
    let grants := (nub (as.map fun a => a.fib.team)).filterMap fun t => if (s.team t).control then none else some (s.team t).grant
    (cores.map fun c => refit (s.core c).widthLimit (256 - s.slotsTaken c (as.map (·.fib))) c
      ((dealtAll cores (grants.foldl min 64) ((as.map (·.mix)).headD false) (as.map s.recOf)).filter fun d => d.core == c)).flatten :=
  rfl

/-- What a class deals of one record: all of it where it is of the class, else nothing. -/
theorem dealt_class {g : Nat} (hg : 1 ≤ g) (mix : Bool) {r : Rec} (hc : r.cls < 4) (cls : Nat) :
    (let l := sortBy (·.order) ([r].filter fun x => x.cls == cls)
    let quota := [r.core].map fun c => (l.filter fun x => x.core == c).length
    (dealClass (2 * l.length + [r.core].length + 1) quota 0 (formClass g mix cls l)).map fun x =>
      (⟨[r.core].getD x.1 0, cls, if cls == 4 then 1 else g, x.2⟩ : Dealt)) =
      if r.cls = cls then [⟨r.core, r.cls, g, [r]⟩] else [] := by
  by_cases e : r.cls = cls
  · subst e
    simp only [List.filter_cons, beq_self_eq_true, if_true, List.filter_nil, sortBy, sortBy.insertByFront,
      List.map_cons, List.map_nil, List.length_cons, List.length_nil]
    rw [formClass_one hg mix (Nat.ne_of_lt hc), dealClass_one]
    simp [Nat.ne_of_lt hc]
  · simp [e, sortBy, formClass_nil, dealClass_nil]

theorem dealtAll_one {g : Nat} (hg : 1 ≤ g) (mix : Bool) {r : Rec} (hc : r.cls < 4) :
    dealtAll [r.core] g mix [r] = [⟨r.core, r.cls, g, [r]⟩] := by
  unfold dealtAll
  simp only [dealt_class hg mix hc]
  have : r.cls = 0 ∨ r.cls = 1 ∨ r.cls = 2 ∨ r.cls = 3 := by omega
  rcases this with h | h | h | h <;> rw [h] <;> rfl

/-- A lone arrival is dealt to its own core, in a group of its own with its team's grant (11 R243 to R245). -/
theorem dealing_one {a : Arrival} (vector : (s.team a.fib.team).control = false) (role : (s.fibre a.fib).role < 4)
    (low : 1 ≤ (s.team a.fib.team).grant) (high : (s.team a.fib.team).grant ≤ 64)
    (room : s.slotsTaken (s.coreOf a.fib) [a.fib] < 256) :
    s.dealing [a] = [⟨s.coreOf a.fib, (s.fibre a.fib).role, (s.team a.fib.team).grant, [s.recOf a]⟩] := by
  have cls : (s.recOf a).cls = (s.fibre a.fib).role := by unfold recOf; simp [vector]
  have core : (s.recOf a).core = s.coreOf a.fib := rfl
  have grant : min 64 (s.team a.fib.team).grant = (s.team a.fib.team).grant := Nat.min_eq_right high
  have dealt := dealtAll_one low a.mix (cls ▸ role)
  rw [cls, core] at dealt
  rw [dealing_eq]
  simp [nub, sortBy, sortBy.insertByFront, vector, grant, core, dealt,
    refit_one _ _ (show 1 ≤ 256 - s.slotsTaken (s.coreOf a.fib) [a.fib] by omega)]

/-! Leaving groups and forming one. -/

/-- Only groups, undefined values and SPIN of fibres may differ. -/
structure Regroups (s t : State) : Prop where
  rest : { t with teams := s.teams, groups := s.groups, fresh := s.fresh } = s
  team : ∀ n, { t.team n with fibres := (s.team n).fibres } = s.team n
  fibre : ∀ g, { t.fibre g with spin := (s.fibre g).spin } = s.fibre g

theorem Regroups.refl (s : State) : Regroups s s := ⟨rfl, fun _ => rfl, fun _ => rfl⟩

theorem Regroups.trans {s t u : State} (h : Regroups s t) (k : Regroups t u) : Regroups s u :=
  ⟨(congrArg (fun z : State => { z with teams := s.teams, groups := s.groups, fresh := s.fresh }) k.rest).trans h.rest,
    fun n => (congrArg (fun z : Team => { z with fibres := (s.team n).fibres }) (k.team n)).trans (h.team n),
    fun g => (congrArg (fun z : Fibre => { z with spin := (s.fibre g).spin }) (k.fibre g)).trans (h.fibre g)⟩

theorem Regroups.of_groups {s t : State} (h : { t with groups := s.groups, fresh := s.fresh } = s) : Regroups s t := by
  have teams : t.teams = s.teams := (congrArg State.teams h :)
  have team (n : Nat) : t.team n = s.team n := by unfold State.team; rw [teams]
  refine ⟨(congrArg (fun z : State => { z with teams := s.teams }) h :), fun n => by rw [team], fun g => ?_⟩
  unfold State.fibre
  rw [team]

theorem spin_regroups (s : State) (f : FibreId) (b : Bool) : Regroups s (s.modFibre f fun x => { x with spin := b }) := by
  have frame := modFibre_frame s f fun x => { x with spin := b }
  refine ⟨(congrArg (fun z : State => { z with groups := s.groups, fresh := s.fresh }) frame.1 :), frame.2, fun g => ?_⟩
  rw [modFibre_fibre]
  split <;> rfl

theorem leaveGroup_regroups (s : State) (fs : List FibreId) (gid : Nat) : Regroups s (s.leaveGroup fs gid) := by
  unfold leaveGroup
  split
  · exact .refl s
  · dsimp only
    split
    · refine each_keeps (P := Regroups s) ?_ fun t x h => h.trans (spin_regroups t x false)
      exact .of_groups rfl
    · exact .of_groups rfl

theorem leaveGroups_regroups (s : State) (fs : List FibreId) : Regroups s (s.leaveGroups fs) :=
  each_keeps (P := Regroups s) (.refl s) fun t gid h => h.trans (leaveGroup_regroups t fs gid)

/-- A group of one fibre is formed. -/
theorem makeGroup_one (s : State) (ctx core grant : Nat) (control zero : Bool) (f : FibreId) :
    let t := s.makeGroup ctx core grant control zero [f]
    t.fibre f = { s.fibre f with gid := s.nextId, notBefore := 0, spin := false } ∧ (∀ g, g ≠ f → t.fibre g = s.fibre g) ∧
      (t.group s.nextId).members = [f] ∧ (t.group s.nextId).grant = grant ∧ (t.group s.nextId).core = core ∧
      t.mem = s.mem := by
  let g : Group := { ctx := ctx, core := core, slot := s.pickSlot core control, age := (s.core core).nextAge, grant := grant
                     members := [f], g := if zero then List.replicate 48 0 else (s.newId.2.freeRegs 48).1 }
  let u : State := ((if zero then s.newId.2 else (s.newId.2.freeRegs 48).2).modCore core fun c =>
    { c with nextAge := c.nextAge + 1 }).setGroup s.nextId g
  have run : s.makeGroup ctx core grant control zero [f] =
      u.modFibre f fun x => { x with gid := s.nextId, notBefore := 0, spin := false } := by
    cases zero <;> rfl
  have same (x : FibreId) : u.fibre x = s.fibre x := by cases zero <;> rfl
  have mem : u.mem = s.mem := by cases zero <;> rfl
  have group : u.group s.nextId = g := group_setGroup _ _ _
  rw [run]
  refine ⟨?_, fun x hx => ?_, ?_, ?_, ?_, mem⟩
  · rw [fibre_modFibre, same]
  · rw [fibre_modFibre_other _ _ hx, same]
  all_goals rw [group_modFibre, group]

end State
end Sys2Proof.Machine

open Sys2Proof Sys2Proof.Machine Sys2Proof.Machine.State

theorem reord_parks {o : XS} {s : State} {iss : Issue} {act : List (Nat × FibreId)} (h : s.Clear (.reord o) iss act)
    (together : s.diverged iss.gid = false) (all : act = iss.lanes) (sound : s.badReg = [])
    (written : ∀ y ∈ act, s.resultPending y.2 = false)
    (inside : ∀ x ∈ act, opNum o.b + (o.imm.toNat % 8 + 1) ≤ (s.fibre x.2).window) :
    Answers (.reord o) s (ParkedOn s iss
      (.reord (o.imm.getLsbD 3) (o.imm.getLsbD 4) (opNum o.a) (opNum o.b) (o.imm.toNat % 8 + 1) iss.next)) := by
  have count : bits o.imm.toNat 2 0 + 1 = o.imm.toNat % 8 + 1 := by simp [bits]
  have flag (i : Nat) : bit o.imm.toNat i = o.imm.getLsbD i := by
    simp [bit, BitVec.getLsbD, Nat.testBit_eq_decide_div_mod_eq, beq_eq_decide]
  have fits : (act.any fun x => decide ((s.fibre x.2).window < opNum o.b + (o.imm.toNat % 8 + 1))) = false := by
    rw [List.any_eq_false]
    intro x hx
    simpa using inside x hx
  have done : (act.any fun x => s.resultPending x.2) = false := by
    rw [List.any_eq_false]
    intro x hx
    simp [written x hx]
  have run : exec (.reord o) s = .next (s.park iss act
      (.reord (o.imm.getLsbD 3) (o.imm.getLsbD 4) (opNum o.a) (opNum o.b) (o.imm.toNat % 8 + 1) iss.next) none) := by
    show execReord o s = _
    unfold execReord
    rw [issuedMem_clear h false rfl, together, count, flag, flag]
    dsimp only
    rw [fits, sound, done, all]
    simp
  refine ⟨_, run, fun x hx => ⟨(park_blocked s iss act _ none x (all ▸ hx)).1, ?_⟩⟩
  have late : ((s.settleLate iss.gid).fibre x.2).pc = (s.fibre x.2).pc :=
    (congrArg Fibre.pc ((settleLate_settles s iss.gid).fibre x.2) :)
  refine Eq.trans ?_ late
  refine each_same (g := fun t : State => (t.fibre x.2).pc) _ fun t y => ?_
  rw [modFibre_fibre]
  split <;> rfl

theorem lone_dealt {s : State} {f : FibreId} {mix : Bool} {key p n : Nat} {next : Dword} (alone : s.liveFibres f.team = [f])
    (arrived : (s.fibre f).status = .blocked (.reord false mix key p n next)) (vector : (s.team f.team).control = false)
    (role : (s.fibre f).role < 4) (low : 1 ≤ (s.team f.team).grant) (high : (s.team f.team).grant ≤ 64)
    (sound : s.badSump = []) (room : s.slotsTaken (s.coreOf f) [f] < 256) :
    ∃ ctx, exec (.reordDeal f.team) s = .next ((((s.leaveGroups [f]).scramble f p n).wakeTo f next).makeGroup ctx (s.coreOf f)
      (s.team f.team).grant false false [f]) := by
  let a : Arrival := ⟨f, false, mix, key, p, n, next⟩
  have arrivals : s.reordArrivals [f] = [a] := by simp [reordArrivals, arrived, a]
  have scope : s.reordScope f.team = some [f] := by
    unfold reordScope
    simp [alone, arrivals, a]
  have dealt := dealing_one (a := a) vector role low high room
  have here : (s.recOf a).core = s.coreOf a.fib := rfl
  have vec : ((s.fibre a.fib).role == 4) = false := by simpa using Nat.ne_of_lt role
  refine ⟨((((s.leaveGroups [f]).scramble f p n).wakeTo f next).team f.team).ctx, ?_⟩
  show execReordDeal f.team s = _
  unfold execReordDeal
  rw [scope]
  dsimp only
  rw [arrivals, dealt]
  have stays : ([s.recOf a].filter fun r => r.core != s.coreOf a.fib) = [] := by simp [here]
  have kept : ([s.recOf a].any fun r => r.core != s.coreOf a.fib) = false := by simp [here]
  simp only [reordMismatch, sound, List.any_nil, List.contains_nil, List.map_cons, List.map_nil, stays,
    List.flatten_cons, List.flatten_nil, List.append_nil, Bool.false_eq_true, if_false]
  unfold placeDealt departAll
  simp only [State.each, List.foldl_cons, List.foldl_nil, List.map_cons, List.map_nil, kept, vec, Bool.false_eq_true,
    if_false]
  rfl

/-- Settles O47: REORD parks its lanes; the dealing of a lone fibre leaves it in a group of its own. -/
theorem reordering : Obligations.Reordering := by
  refine ⟨fun o s iss act h together all sound written => reord_parks h together all sound written,
    fun s f mix key p n next alone arrived vector role low high sound room stop => ?_⟩
  obtain ⟨ctx, run⟩ := lone_dealt alone arrived vector role low high sound room
  let u := s.leaveGroups [f]
  let v := u.scramble f p n
  let w := v.wakeTo f next
  have left : Regroups s u := leaveGroups_regroups s [f]
  obtain ⟨fibre, others, members, grant, core, mem⟩ := makeGroup_one w ctx (s.coreOf f) (s.team f.team).grant false false f
  have regsU : (u.fibre f).v = (s.fibre f).v := (congrArg Fibre.v (left.fibre f) :)
  have scrambled : v.fibre f = { u.fibre f with v := (upto (u.fibre f).window).map fun i =>
      if p ≤ i && i < p + n then (u.fibre f).v.getD i 0 else (Config.freeValue (u.fresh + i)).setWidth 32 } :=
    fibre_modFibre { u with fresh := u.fresh + (u.fibre f).window } f _
  have going : (v.ctx (v.team f.team).ctx).stop = false := by
    have team : (v.team f.team).ctx = (s.team f.team).ctx :=
      (congrArg Team.ctx ((modFibre_frame { u with fresh := u.fresh + (u.fibre f).window } f _).2 f.team) :).trans
        (congrArg Team.ctx (left.team f.team) :)
    have contexts : v.contexts = s.contexts := (congrArg State.contexts left.rest :)
    rw [team]; unfold State.ctx; rw [contexts]; exact stop
  have woken : w.fibre f = (v.fibre f).woken false next := by
    rw [← going]
    show ((v.wake f).modFibre f _).fibre f = _
    rw [fibre_modFibre]
    unfold wake
    rw [fibre_modFibre]
    rfl
  refine ⟨_, run, ?_, ?_, ?_, fun i low high inside => ?_, ?_, ?_, ?_, fun g hg => ?_, ?_⟩
  · rw [fibre, woken]; rfl
  · rw [fibre, woken]; rfl
  · rw [fibre, woken, scrambled]
    simp [Fibre.window, Fibre.woken, regsU]
  · rw [fibre, woken, scrambled]
    have listed : (upto (s.fibre f).v.length)[i]? = some i := List.getElem?_range inside
    simp [Fibre.window, Fibre.woken, listed, low, high, regsU]
  · rw [fibre]; exact members
  · rw [fibre]; exact grant
  · rw [fibre]; exact core
  · rw [others g hg]
    have same : w.fibre g = u.fibre g := by
      show ((v.wake f).modFibre f _).fibre g = _
      rw [fibre_modFibre_other _ _ hg]
      unfold wake
      rw [fibre_modFibre_other _ _ hg]
      exact fibre_modFibre_other { u with fresh := u.fresh + (u.fibre f).window } _ hg
    rw [same]
    exact left.fibre g
  · exact mem.trans (congrArg State.mem left.rest :)

end

section
/-! Reads of tables and records by agents without a TLB leave HBM and all but memory as they are (03 R58, R65). -/

namespace Sys2Proof.Machine

/-- Memory operations that leave HBM as it is. -/
structure KeepsHbm (s t : State) : Prop where
  frame : SameButMemory s t
  mem : t.mem = s.mem

namespace KeepsHbm

variable {s t u : State}

theorem refl (s : State) : KeepsHbm s s := ⟨.refl s, rfl⟩

theorem trans (h : KeepsHbm s t) (k : KeepsHbm t u) : KeepsHbm s u := ⟨h.frame.trans k.frame, k.mem.trans h.mem⟩

/-- Both branches of a choice leave HBM as it is. -/
theorem ite {α : Type} {c : Prop} [Decidable c] {a b : State × α} (ha : KeepsHbm s a.1) (hb : KeepsHbm s b.1) :
    KeepsHbm s (if c then a else b).1 := by
  split
  · exact ha
  · exact hb

theorem contexts (h : KeepsHbm s t) : t.contexts = s.contexts := (congrArg State.contexts h.frame.rest :)

theorem launches (h : KeepsHbm s t) : t.launches = s.launches := (congrArg State.launches h.frame.rest :)

theorem taken (h : KeepsHbm s t) : t.taken = s.taken := (congrArg State.taken h.frame.rest :)

end KeepsHbm

namespace State

variable (s : State)

theorem mem_homeWrite (pa : Nat) (bs : List Byte) : (s.homeWrite pa bs).mem = s.mem := by
  unfold homeWrite
  refine (mem_slicePut _ _ _).trans ((mem_repair _ _ _).trans ?_)
  exact each_same (g := State.mem) s fun t w => (mem_dropGuests _ _).trans (mem_withdraw t w)

theorem homeWrite_hbm (pa : Nat) (bs : List Byte) : KeepsHbm s (s.homeWrite pa bs) :=
  ⟨homeWrite_memory s pa bs, mem_homeWrite s pa bs⟩

theorem mem_walk (va : Nat) (kind : WalkKind) (write : Bool) (n level tbl : Nat) :
    (s.walk va kind write n level tbl).1.mem = s.mem := by
  induction n generalizing level tbl with
  | zero => rfl
  | succ n ih =>
    have mark (a p : Nat) (q : Dword) : (if q.toNat == p then s else s.homeWrite64 a q).mem = s.mem := by
      split
      · rfl
      · exact mem_homeWrite s _ _
    unfold walk
    dsimp only
    split
    · rfl
    · split
      · rfl
      · split
        · rfl
        · split
          · split
            · rfl
            · exact mark _ _ _
          · exact ih _ _

theorem translateRaw_hbm (ctx va : Nat) (kind : WalkKind) (write : Bool) : KeepsHbm s (s.translateRaw ctx va kind write).1 := by
  refine ⟨translateRaw_memory s ctx va kind write, ?_⟩
  have h := mem_walk s va kind write 3 1 (s.ctx ctx).root
  unfold translateRaw
  split
  · rfl
  · split
    · next e => rw [e] at h; exact h
    · next e => rw [e] at h; exact h

theorem readRaw_go_hbm (ctx : Nat) (l : List (Nat × Nat)) : KeepsHbm s (readRaw.go ctx s l).1 := by
  induction l generalizing s with
  | nil => exact .refl s
  | cons x l ih =>
    obtain ⟨a, m⟩ := x
    have h := translateRaw_hbm s ctx a .read false
    unfold readRaw.go
    split
    · next u _ e =>
      rw [e] at h
      have k := ih u
      split
      · exact h
      · split
        · next e' => rw [e'] at k; exact h.trans k
        · next e' => rw [e'] at k; exact h.trans k
    all_goals next e => rw [e] at h; exact h

theorem readRaw_hbm (ctx va n : Nat) : KeepsHbm s (s.readRaw ctx va n).1 := readRaw_go_hbm s ctx _

theorem readSome_hbm (b : Bool) (ctx va n : Nat) : KeepsHbm s (if b then s.readRaw ctx va n else (s, .ok [])).1 := by
  split
  · exact readRaw_hbm s ctx va n
  · exact .refl s

theorem prepareRest_hbm (ctx : Nat) (l : List Dword) (hdr : Nat) (place : List Nat) :
    KeepsHbm s (s.prepareRest ctx l hdr place).1 := by
  have first : KeepsHbm s
      (if recField l 4 54 48 == 0 then (s, .ok []) else s.readRaw ctx (recField l 4 47 0) (16 * recField l 4 54 48)).1 :=
    .ite (.refl s) (readRaw_hbm s ctx _ _)
  unfold prepareRest
  dsimp only
  refine .ite (.refl s) ?_
  split
  · next e => rw [e] at first; exact first
  · next u _ e =>
    rw [e] at first
    refine first.trans ?_
    have params := readRaw_hbm u ctx (recField l 7 47 0) 64
    split
    · exact .refl u
    · refine .ite (.refl u) (.ite (.refl u) (.ite (.refl u) (.ite (.refl u) (.ite (.refl u) (.ite (.refl u) ?_)))))
      split
      · next e => rw [e] at params; exact params
      · next e => rw [e] at params; exact params

theorem prepare_hbm (ctx : Nat) (l : List Dword) : KeepsHbm s (s.prepare ctx l).1 := by
  have header := readRaw_hbm s ctx (recField l 3 47 0) 8
  unfold prepare
  dsimp only
  refine .ite (.ite (.refl s) (.refl s)) (.ite (.refl s) (.ite (.refl s) (.ite (.refl s) (.ite (.refl s) (.ite (.refl s) ?_)))))
  split
  · next e => rw [e] at header; exact header
  · next u h e =>
    rw [e] at header
    refine header.trans ?_
    have map := readSome_hbm u (bits (leNat h) 2 0 == 0) ctx (recField l 3 47 0 + 8) (recGrid l)
    split
    · next e => rw [e] at map; exact map
    · next v bs e =>
      rw [e] at map
      refine map.trans ?_
      split
      · exact .refl v
      · exact .ite (.refl v) (.ite (.refl v) (prepareRest_hbm v ctx l _ _))

end State
end Sys2Proof.Machine
end

section
/-! The dispatchers and the completion of launches (03 R57, R58, R66, R67). -/

namespace Sys2Proof.Machine

theorem KV.find_upd {β : Type} {m : KV β} {a : Nat} {v : β} (f : β → β) (h : m.find a = some v) :
    (m.upd a f).find a = some (f v) := by
  unfold KV.upd
  rw [h]
  exact KV.find_put m a _

theorem KV.find_upd_other {β : Type} (m : KV β) {a b : Nat} (f : β → β) (h : b ≠ a) : (m.upd a f).find b = m.find b := by
  unfold KV.upd
  split
  · exact KV.find_put_other m h
  · rfl

/-- A launch but for what the checks of its record set (03 R65). -/
def Launch.checked (l x : Launch) : Prop :=
  { x with phase := l.phase, place := l.place, unstarted := l.unstarted, channels := l.channels, params := l.params
           heldBy := l.heldBy, err := l.err, cause := l.cause, detail := l.detail } = l

namespace State

variable {s : State}

theorem modLaunch_find {key : Nat} {l : Launch} (f : Launch → Launch) (h : s.launches.find key = some l) :
    (s.modLaunch key f).launches.find key = some (f l) := KV.find_upd f h

theorem launch_of_find {key : Nat} {l : Launch} (h : s.launches.find key = some l) : s.launch key = l := by
  unfold launch KV.getD
  rw [h]
  rfl

/-- A launch that fails keeps all but its phase, its cause and what it waited for (03 R66). -/
theorem failed_checked (l : Launch) (c d : Nat) :
    l.checked (let l := { l with phase := max l.phase 1, unstarted := [], heldBy := none }
      if l.err then l else { l with err := true, cause := c, detail := d }) := by
  unfold Launch.checked
  dsimp only
  split <;> rfl

/-- The checks of a record leave its launch listed, with what the record and the dispatcher gave it (03 R65). -/
theorem prepareLaunch_launch {key : Nat} {l : Launch} (h : s.launches.find key = some l) :
    (∃ x, (s.prepareLaunch key).launches.find key = some x ∧ l.checked x) ∧ (s.prepareLaunch key).taken = s.taken ∧
      (s.prepareLaunch key).mem = s.mem := by
  have reads := prepare_hbm s (s.launch key).ctx (s.launch key).words
  have listed {u : State} (k : KeepsHbm s u) : u.launches.find key = some l := by rw [k.launches]; exact h
  unfold prepareLaunch
  dsimp only
  split
  · next u c d e =>
    rw [e] at reads
    have found := listed reads
    exact ⟨⟨_, modLaunch_find _ found, failed_checked l c d⟩, reads.taken, reads.mem⟩
  · next u va e =>
    rw [e] at reads
    have found := listed reads
    exact ⟨⟨_, modLaunch_find _ found, rfl⟩, reads.taken, reads.mem⟩
  · next u e =>
    rw [e] at reads
    have found := listed reads
    exact ⟨⟨_, modLaunch_find _ found, rfl⟩, reads.taken, reads.mem⟩
  · next u place ch ps e =>
    rw [e] at reads
    have found := listed reads
    exact ⟨⟨_, modLaunch_find _ found, rfl⟩, reads.taken, reads.mem⟩

/-- The launch that a dispatcher lists for a record of a queue (03 R57, R58). -/
def dispatched (s : State) (die c p : Nat) (words : List Dword) : Launch :=
  { launchId := BitVec.ofNat 64 (die * 2 ^ 62 + s.taken.getD die 0), ctx := c, depth := recField words 0 15 12
    parent := if recVer words == 15 && recField words 0 15 12 == 0 then 0xFFFF else recParent words
    words := words, prio := p, born := s.nextId, succs := [] }

/-- A machine in which a dispatcher has listed a record's launch (03 R57). -/
def listing (s : State) (die e c p : Nat) (words : List Dword) : State :=
  { s with
    nextId := s.nextId + 1
    launches := s.launches.put (die * 16384 + e) (s.dispatched die c p words)
    taken := s.taken.put die (s.taken.getD die 0 + 1) }

theorem takeRecord_eq (s : State) (die e c p : Nat) (words : List Dword) :
    s.takeRecord die e c p words none [] = (s.listing die e c p words).prepareLaunch (die * 16384 + e) := rfl

/-- A taken record is listed in its entry, with what the dispatcher gave it (03 R57). -/
theorem takeRecord_launch (s : State) (die e c p : Nat) (words : List Dword) :
    (∃ l, (s.takeRecord die e c p words none []).launches.find (die * 16384 + e) = some l ∧
      (s.dispatched die c p words).checked l) ∧
      (s.takeRecord die e c p words none []).taken.getD die 0 = s.taken.getD die 0 + 1 ∧
      (s.takeRecord die e c p words none []).mem = s.mem := by
  obtain ⟨listed, taken, mem⟩ :=
    prepareLaunch_launch (s := s.listing die e c p words) (KV.find_put s.launches (die * 16384 + e) _)
  rw [takeRecord_eq]
  refine ⟨listed, ?_, mem⟩
  rw [taken]
  exact congrArg (Option.getD · 0) (KV.find_put s.taken die _)

end State

/-- What a checked launch keeps of the one that was listed (03 R57, R65). -/
theorem Launch.checked_keeps {l x : Launch} (h : l.checked x) :
    x.ctx = l.ctx ∧ x.prio = l.prio ∧ x.words = l.words ∧ x.launchId = l.launchId ∧ x.depth = l.depth := by
  unfold Launch.checked at h
  rw [← h]
  exact ⟨rfl, rfl, rfl, rfl, rfl⟩

theorem dispatchTake_answers {s s1 : State} {die c i pa p e : Nat} {bs : List Byte} (hd : die < 4)
    (choice : s.dispatchChoice die = some (c, i, pa, p)) (free : s.freeEntry die = some e)
    (take : s.qTake c pa 128 = (s1, .ok (some bs))) : Answers (.dispatchTake die) s fun t =>
      (∃ l, t.launches.find (die * 16384 + e) = some l ∧ l.ctx = c ∧ l.prio = p ∧ l.words = dwordsOf bs ∧
        l.launchId = BitVec.ofNat 64 (die * 2 ^ 62 + s1.taken.getD die 0) ∧ l.depth = bits (l.words.getD 0 0).toNat 15 12) ∧
      t.taken.getD die 0 = s1.taken.getD die 0 + 1 ∧ t.mem = s1.mem := by
  obtain ⟨⟨l, listed, same⟩, taken, mem⟩ := State.takeRecord_launch
    { s1 with lastCtx := s1.lastCtx.put die c, lastQueue := s1.lastQueue.put ((die * 65536 + c) * 8 + p) i } die e c p
      (dwordsOf bs)
  obtain ⟨hctx, hprio, hwords, hid, hdepth⟩ := Launch.checked_keeps same
  refine ⟨_, ?_, ⟨l, listed, hctx, hprio, hwords, hid, ?_⟩, taken, mem⟩
  · show execDispatchTake die s = _
    unfold execDispatchTake
    rw [if_neg (by omega), choice, free]
    dsimp only
    rw [take]
  · rw [hdepth, hwords]; rfl

/-- LAUNCH_COMPLETION of a launch without a graph makes its report (03 R67). -/
theorem launchCompletion_exec {s : State} {key : Nat} (listed : (s.launches.find key).isSome = true)
    (isOver : s.launchOver key = true) (released : s.launchReleased key = true) (alone : s.graphs.find key = none) :
    exec (.launchCompletion key) s = .next ((s.modLaunch key fun l => { l with phase := 2 }).makeReport key).1 := by
  have none' : (s.modLaunch key fun l => { l with phase := 2 }).graphs.find key = none := alone
  show execLaunchCompletion key s = _
  unfold execLaunchCompletion
  rw [isOver, released, Option.isNone_eq_false_iff.mpr listed]
  dsimp only [Bool.not_true, Bool.or_self]
  rw [if_neg (by decide), none']

/-- COMPLETION_REPORT of a launch that waits under no record (03 R67). -/
theorem completionReport_exec {s : State} {key : Nat} {l : Launch} (listed : s.launches.find key = some l)
    (phase : l.phase = 2) (free : l.heldBy = none) (made : (s.makeReport key).2 = true) :
    exec (.completionReport key) s = .next (s.makeReport key).1 := by
  show execCompletionReport key s = _
  unfold execCompletionReport
  rw [listed]
  dsimp only
  rw [phase, free, if_neg (by decide)]
  split
  · next e => rw [e]
  · next e => rw [e] at made; cases made

end Sys2Proof.Machine
end

section
/-! A system-scope write reaches HBM (06 R140). -/

namespace Sys2Proof.Machine

theorem stepsFrom_eq_range' (a k n : Nat) : stepsFrom a k n = List.range' a n k := by
  induction n generalizing a with
  | zero => rfl
  | succ n ih => rw [stepsFrom, ih, List.range'_succ]

theorem mem_stepsFrom_one {a n x : Nat} : x ∈ stepsFrom a 1 n ↔ a ≤ x ∧ x < a + n := by
  rw [stepsFrom_eq_range']
  exact List.mem_range'_1

theorem nodup_stepsFrom_one (a n : Nat) : (stepsFrom a 1 n).Nodup := by
  rw [stepsFrom_eq_range']
  exact List.nodup_range'

theorem leBytes_length (n x : Nat) : (leBytes n x).length = n := by
  induction n generalizing x with
  | zero => rfl
  | succ n ih => simp [leBytes, ih]

theorem leBytes_getElem? {n i : Nat} (x : Nat) (h : i < n) : (leBytes n x)[i]? = some (BitVec.ofNat 8 (x / 256 ^ i)) := by
  induction n generalizing i x with
  | zero => omega
  | succ n ih =>
    cases i with
    | zero => simp [leBytes]
    | succ i =>
      rw [leBytes, List.getElem?_cons_succ, ih (x / 256) (by omega), Nat.div_div_eq_div_mul, Nat.pow_succ']

namespace State

/-- HBM is in canonical form, and no core owns a word. -/
structure Quiet (s : State) : Prop where
  owners : s.owners = []
  wf : Memory.wf s.mem = true

/-- A dirty byte goes from L2 to HBM (06 R140). -/
def flushByte (s : State) (a : Nat) : State :=
  match s.l2.find a with
  | some b => { s with mem := Memory.write s.mem a b, l2 := s.l2.del a }
  | none => s

/-- The errors in a sector's dirty words are told to firmware (06 R150). -/
def tellBad (s : State) (q : Nat) : State :=
  let bad := (stepsFrom (4 * q) 1 4).filter fun w =>
    s.badWord w && !s.badWritten.contains w && (upto 4).any fun i => (s.l2.find (4 * w + i)).isSome
  if bad.isEmpty then s else { s with badWritten := s.badWritten ++ bad }

/-- The home writes a sector back to HBM (06 R140). -/
def flushSector (s : State) (q : Nat) : State :=
  let s := s.each (stepsFrom (4 * q) 1 4) fun s w => s.withdraw w
  (s.tellBad q).each (stepsFrom (16 * q) 1 16) flushByte

theorem flushSectors_eq (s : State) (pa n : Nat) : s.flushSectors pa n = s.each (sectorsOf pa n) flushSector := rfl

/-- What the writing back of some addresses leaves: the bytes elsewhere, in HBM and in L2, and what L2 held of theirs, in
HBM. -/
structure Flushes (s t : State) (there : Nat → Prop) : Prop where
  quiet : t.Quiet
  stays : ∀ a, ¬ there a → Memory.read t.mem a = Memory.read s.mem a ∧ t.l2.find a = s.l2.find a
  lands : ∀ a b, there a → s.l2.find a = some b → Memory.read t.mem a = b

variable {s : State}

theorem withdraw_quiet (h : s.Quiet) (w : Nat) : s.withdraw w = s := by
  unfold withdraw
  rw [h.owners]
  rfl

theorem each_withdraw_quiet (h : s.Quiet) (l : List Nat) : s.each l (fun s w => s.withdraw w) = s := by
  induction l with
  | nil => rfl
  | cons w l ih => exact (congrArg (State.each · l _) (withdraw_quiet h w)).trans ih

theorem flushByte_flushes (h : s.Quiet) (a : Nat) : Flushes s (s.flushByte a) (· = a) := by
  unfold flushByte
  split
  · next b e =>
    refine ⟨⟨h.owners, Memory.wf_write a b h.wf⟩, fun c hc => ⟨Memory.read_write_other _ _ hc, KV.find_del_other _ hc⟩, ?_⟩
    rintro _ b' rfl e'
    rw [e, Option.some.injEq] at e'
    exact (Memory.read_write _ b h.wf).trans e'
  · next e => exact ⟨h, fun _ _ => ⟨rfl, rfl⟩, by rintro _ b rfl e'; rw [e] at e'; cases e'⟩

/-- Writing back one thing and then others that have no address in common with it. -/
theorem Flushes.trans {s t u : State} {A B : Nat → Prop} (h : Flushes s t A) (k : Flushes t u B) (apart : ∀ a, A a → ¬ B a) :
    Flushes s u fun a => A a ∨ B a where
  quiet := k.quiet
  stays a ha := by
    obtain ⟨hA, hB⟩ := not_or.1 ha
    exact ⟨(k.stays a hB).1.trans (h.stays a hA).1, (k.stays a hB).2.trans (h.stays a hA).2⟩
  lands a b ha e := by
    by_cases hA : A a
    · exact (k.stays a (apart a hA)).1.trans (h.lands a b hA e)
    · exact k.lands a b (ha.resolve_left hA) ((h.stays a hA).2.trans e)

/-- Each of some things that have no address in common is written back. -/
theorem each_flushes {f : State → Nat → State} {there : Nat → Nat → Prop}
    (step : ∀ s : State, s.Quiet → ∀ x, Flushes s (f s x) (there x)) (apart : ∀ x y a, there x a → there y a → x = y)
    {l : List Nat} (h : s.Quiet) (nodup : l.Nodup) : Flushes s (s.each l f) fun a => ∃ x ∈ l, there x a := by
  induction l generalizing s with
  | nil => exact ⟨h, fun _ _ => ⟨rfl, rfl⟩, fun _ _ ⟨_, hx, _⟩ => nomatch hx⟩
  | cons x l ih =>
    obtain ⟨hx, hl⟩ := List.nodup_cons.1 nodup
    have first := step s h x
    have both := first.trans (ih first.quiet hl) fun a ha ⟨y, hy, hya⟩ => hx (apart x y a ha hya ▸ hy)
    have here (a : Nat) : (∃ y ∈ x :: l, there y a) ↔ there x a ∨ ∃ y ∈ l, there y a := by simp
    simp only [here]
    exact both

theorem tellBad_same (s : State) (q : Nat) :
    (s.tellBad q).owners = s.owners ∧ (s.tellBad q).mem = s.mem ∧ (s.tellBad q).l2 = s.l2 := by
  unfold tellBad
  dsimp only
  split <;> exact ⟨rfl, rfl, rfl⟩

theorem flushSector_flushes (h : s.Quiet) (q : Nat) : Flushes s (s.flushSector q) (· / 16 = q) := by
  unfold flushSector
  rw [each_withdraw_quiet h]
  obtain ⟨howners, hmem, hl2⟩ := tellBad_same s q
  have bytes := each_flushes (fun _ k a => flushByte_flushes k a) (fun _ _ _ e e' => e.symm.trans e')
    (⟨howners.trans h.owners, hmem ▸ h.wf⟩ : (s.tellBad q).Quiet) (nodup_stepsFrom_one (16 * q) 16)
  have there (a : Nat) : (∃ x ∈ stepsFrom (16 * q) 1 16, a = x) ↔ a / 16 = q := by
    simp only [exists_eq_right', mem_stepsFrom_one]
    omega
  simp only [there] at bytes
  exact ⟨bytes.quiet, by simpa only [hmem, hl2] using bytes.stays, by simpa only [hl2] using bytes.lands⟩

theorem flushSectors_flushes (h : s.Quiet) (pa n : Nat) :
    Flushes s (s.flushSectors pa n) fun a => a / 16 ∈ sectorsOf pa n := by
  have nodup : (sectorsOf pa n).Nodup := by
    unfold sectorsOf
    split
    · exact List.nodup_nil
    · exact nodup_stepsFrom_one _ _
  have all := each_flushes (fun _ k q => flushSector_flushes k q) (fun _ _ _ e e' => e.symm.trans e') h nodup
  simp only [exists_eq_right'] at all
  exact all

theorem mem_sectorsOf {pa n i : Nat} (h : i < n) : (pa + i) / 16 ∈ sectorsOf pa n := by
  unfold sectorsOf
  rw [if_neg (by simp; omega), mem_stepsFrom_one]
  omega

/-- Bytes are put in order at the home slice. -/
def putBytes (s : State) (pa : Nat) (l : List (Nat × Byte)) : State := s.each l fun s x => { s with l2 := s.l2.put (pa + x.1) x.2 }

theorem putBytes_find_other {pa k : Nat} {l : List (Nat × Byte)} (h : k ∉ l.map Prod.fst) :
    (s.putBytes pa l).l2.find (pa + k) = s.l2.find (pa + k) := by
  induction l generalizing s with
  | nil => rfl
  | cons x l ih =>
    obtain ⟨hx, hl⟩ := not_or.1 (mt List.mem_cons.2 h)
    exact (ih hl).trans (KV.find_put_other _ (by omega))

theorem putBytes_find {pa : Nat} {l : List (Nat × Byte)} (nodup : (l.map Prod.fst).Nodup) {x : Nat × Byte} (h : x ∈ l) :
    (s.putBytes pa l).l2.find (pa + x.1) = some x.2 := by
  induction l generalizing s with
  | nil => cases h
  | cons y l ih =>
    obtain ⟨hy, hl⟩ := List.nodup_cons.1 nodup
    rcases List.mem_cons.1 h with rfl | h
    · exact (putBytes_find_other hy).trans (KV.find_put _ _ _)
    · exact ih hl h

theorem slicePut_find (s : State) (pa : Nat) {bs : List Byte} {i : Nat} {b : Byte} (h : bs[i]? = some b) :
    (s.slicePut pa bs).l2.find (pa + i) = some b := by
  have hi : i < bs.length := (List.getElem?_eq_some_iff.1 h).1
  have put := putBytes_find (s := s) (pa := pa) (l := (upto bs.length).zip bs) (x := (i, b))
    (by rw [List.map_fst_zip (by simp)]; exact List.nodup_range)
    (List.mem_of_getElem? (i := i) (by rw [List.getElem?_zip_eq_some]; exact ⟨by simp [hi], h⟩))
  exact (congrArg (KV.find · (pa + i)) (each_same (g := State.l2) (f := l2Touch) _ fun _ _ => rfl)).trans put

theorem quiet_of_same {t : State} (h : s.Quiet) (owners : t.owners = s.owners) (mem : t.mem = s.mem) : t.Quiet :=
  ⟨owners.trans h.owners, mem ▸ h.wf⟩

theorem owners_slicePut (s : State) (pa : Nat) (bs : List Byte) : (s.slicePut pa bs).owners = s.owners := by
  unfold slicePut
  refine (each_same (g := State.owners) (f := l2Touch) _ fun _ _ => rfl).trans ?_
  exact each_same (g := State.owners) s fun _ _ => rfl

theorem homeWrite_quiet (h : s.Quiet) (pa : Nat) (bs : List Byte) : (s.homeWrite pa bs).Quiet := by
  have dropped : (s.each (wordsOf pa bs.length) fun s w => (s.withdraw w).dropGuests (w / 16)).Quiet :=
    each_keeps (P := Quiet) h fun t w k => by rw [withdraw_quiet k]; exact quiet_of_same k rfl rfl
  refine quiet_of_same dropped ?_ ((mem_slicePut _ _ _).trans (mem_repair _ _ _))
  refine (owners_slicePut _ _ _).trans ?_
  unfold repair
  split <;> rfl

/-- A system-scope write where no core owns a word reaches HBM (06 R140). -/
theorem sysWrite_read (h : s.Quiet) (pa : Nat) {bs : List Byte} {i : Nat} {b : Byte} (hb : bs[i]? = some b) :
    Memory.read (s.sysWrite pa bs).mem (pa + i) = b :=
  (flushSectors_flushes (homeWrite_quiet h pa bs) pa bs.length).lands (pa + i) b
    (mem_sectorsOf (List.getElem?_eq_some_iff.1 hb).1) (slicePut_find _ pa hb)

end State
end Sys2Proof.Machine
end

section
/-! The report of a launch (03 R67). -/

namespace Sys2Proof.Machine
namespace State

open SameButMemory

variable (s : State)

/-! Control blocks and their slots (08 R172 to R175). -/

theorem qRead_memory (pa : Nat) : SameButMemory s (s.qRead pa).2 := by
  unfold qRead
  dsimp only
  exact foldEach _ withdraw_memory s

theorem qWrite_memory (pa : Nat) (b : QBlock) : SameButMemory s (s.qWrite pa b) := homeWrite_memory s _ _

theorem qTranslate_memory (ctx : Nat) (kind : WalkKind) (write : Bool) (l : List (Nat × Nat)) :
    SameButMemory s (s.qTranslate ctx kind write l).1 := by
  induction l generalizing s with
  | nil => exact .refl s
  | cons x l ih =>
    obtain ⟨va, n⟩ := x
    have first := translateRaw_memory s ctx va kind write
    unfold qTranslate
    dsimp only
    have rest (u : State) (o : Option Nat) : SameButMemory u
        (match u.qTranslate ctx kind write l with
        | (s, .ok l) => (s, (.ok ((va, o, n) :: l) : Except QFail (List (Nat × Option Nat × Nat))))
        | (s, .error e) => (s, .error e)).1 := by
      have k := ih u
      split
      · next e => rw [e] at k; exact k
      · next e => rw [e] at k; exact k
    split
    · next e => rw [e] at first; exact first.trans (rest _ _)
    · next e => rw [e] at first; exact first.trans (rest _ _)
    all_goals next e => rw [e] at first; exact first

theorem qPlaces_memory (ctx : Nat) (b : QBlock) (i n : Nat) (write reads : Bool) :
    SameButMemory s (s.qPlaces ctx b i n write reads).1 := by
  have h := qTranslate_memory s ctx (if write then .write else .read) write
    (stepsFrom i 1 n |>.map fun k => qPieces (qSlot b k) (qEszw b * 4)).flatten
  unfold qPlaces
  split
  · next e => rw [e] at h; exact h
  · next e =>
    rw [e] at h
    dsimp only
    split <;> exact h

theorem qSlots_memory (ctx : Nat) (b : QBlock) (i n : Nat) (write : Bool) :
    SameButMemory s (s.qSlots ctx b i n write).1 := qPlaces_memory s ctx b i n write _

theorem qRemote_memory (pa die : Nat) : SameButMemory s (s.qRemote pa die) := by
  unfold qRemote
  split
  · exact .refl s
  · dsimp only
    split
    · exact qRead_memory s pa
    · exact (qRead_memory s pa).trans (qWrite_memory _ _ _)

end State

theorem SameButMemory.launches {s t : State} (h : SameButMemory s t) : t.launches = s.launches :=
  (congrArg State.launches h.rest :)

namespace State

theorem qReserve_launches (s : State) (pa ctx : Nat) (b : QBlock) (pieces : List (Nat × Nat)) (data : List (List Byte))
    (request core : Option Nat) : (s.qReserve pa ctx b pieces data request core).2.launches = s.launches :=
  (qWrite_memory s.newId.2 pa _).launches

theorem launches_ite {α : Type} {c : Prop} [Decidable c] {a b : State × α} {m : KV Launch} (ha : a.1.launches = m)
    (hb : b.1.launches = m) : (if c then a else b).1.launches = m := by
  split
  · exact ha
  · exact hb

/-- An offer to a queue changes no launch. -/
theorem qOffer_launches (s : State) (ctx pa esz die : Nat) (data : List (List Byte)) :
    (s.qOffer ctx pa esz die data).1.launches = s.launches := by
  have read := (qRead_memory s pa).launches
  unfold qOffer
  generalize s.qRead pa = x at read ⊢
  obtain ⟨b, u⟩ := x
  have slots := (qSlots_memory u ctx b (qRtail b) data.length true).launches
  dsimp only at read ⊢
  refine launches_ite read (launches_ite read (launches_ite read (launches_ite read (launches_ite read ?_))))
  split
  · next e => rw [e] at slots; exact slots.trans read
  · next e =>
    rw [e] at slots
    exact (qRemote_memory _ _ _).launches.trans ((qReserve_launches _ _ _ _ _ _ _ _).trans (slots.trans read))

variable {s : State}

/-- The end of a launch that no graph has activated (03 R67). -/
theorem finishLaunch_alone {key : Nat} {l : Launch} (listed : s.launches.find key = some l)
    (sorted : KV.sorted s.launches = true) (alone : l.graph = none) :
    (s.finishLaunch key).launches = (s.launches.upd l.parent fun p => { p with children := p.children - 1 }).del key ∧
      (s.finishLaunch key).mem = s.mem ∧ (s.finishLaunch key).l2 = s.l2 ∧ (s.finishLaunch key).launches.find key = none := by
  have done (u : State) : u.nodeDone l = u := by
    unfold nodeDone
    rw [alone]
  unfold finishLaunch
  rw [launch_of_find listed]
  dsimp only
  rw [done]
  exact ⟨rfl, rfl, rfl, KV.find_del (KV.sorted_upd _ _ sorted)⟩

end State
end Sys2Proof.Machine
end

section
/-! Where the report of a launch goes (03 R67). -/

namespace Sys2Proof.Machine
namespace State

variable {s s1 s2 : State} {key pa : Nat} {l : Launch}

/-- Without a report address the entry is free at once, and the parent counts one launch fewer (03 R67). -/
theorem makeReport_nowhere (listed : s.launches.find key = some l) (sorted : KV.sorted s.launches = true)
    (alone : l.graph = none) (nowhere : bits (l.words.getD 5 0).toNat 47 0 = 0) :
    (s.makeReport key).2 = true ∧ (s.makeReport key).1.launches.find key = none ∧ (s.makeReport key).1.mem = s.mem ∧
      ∀ q, s.launches.find l.parent = some q → l.parent ≠ key →
        (s.makeReport key).1.launches.find l.parent = some { q with children := q.children - 1 } := by
  obtain ⟨launches, mem, -, gone⟩ := finishLaunch_alone listed sorted alone
  have made : s.makeReport key = (s.finishLaunch key, true) := by
    unfold makeReport recField
    rw [launch_of_find listed]
    dsimp only
    rw [nowhere]
    exact if_pos rfl
  rw [made]
  refine ⟨rfl, gone, mem, fun q parent other => ?_⟩
  rw [launches, KV.find_del_other _ other]
  exact KV.find_upd _ parent

/-- A word report puts the status word in HBM (03 R67). -/
theorem makeReport_word (listed : s.launches.find key = some l) (sorted : KV.sorted s.launches = true)
    (alone : l.graph = none) (somewhere : bits (l.words.getD 5 0).toNat 47 0 ≠ 0)
    (aligned : bits (l.words.getD 5 0).toNat 47 0 % 8 = 0) (word : bits (l.words.getD 0 0).toNat 7 7 = 1)
    (place : s.translateRaw l.ctx (bits (l.words.getD 5 0).toNat 47 0) .write true = (s1, .ok pa)) (owners : s1.owners = [])
    (good : s1.eccBad pa 8 = false) (inv : Inv s) :
    (s.makeReport key).2 = true ∧ (s.makeReport key).1.launches.find key = none ∧
      ∀ i < 8, Memory.read (s.makeReport key).1.mem (pa + i) = BitVec.ofNat 8 ((State.statusWord l).toNat / 256 ^ i) := by
  have placed := translateRaw_hbm s l.ctx (bits (l.words.getD 5 0).toNat 47 0) .write true
  rw [place] at placed
  have quiet : s1.Quiet := ⟨owners, placed.mem ▸ inv⟩
  have made : s.makeReport key = ((s1.sysWrite pa (leBytes 8 (statusWord l).toNat)).finishLaunch key, true) := by
    unfold makeReport recField
    rw [launch_of_find listed]
    dsimp only
    rw [alone, word, if_neg (by simpa using somewhere), if_neg (by simpa using aligned), place]
    dsimp only
    rw [if_neg (by simp [good]), if_pos (by decide)]
  have same : (s1.sysWrite pa (leBytes 8 (statusWord l).toNat)).launches = s.launches :=
    (sysWrite_memory s1 pa _).launches.trans placed.launches
  obtain ⟨-, mem, -, gone⟩ := finishLaunch_alone (by rw [same]; exact listed) (by rw [same]; exact sorted) alone
  rw [made]
  refine ⟨rfl, gone, fun i hi => ?_⟩
  rw [mem]
  exact sysWrite_read quiet pa (leBytes_getElem? _ hi)

/-- A queue report offers LAUNCHID and the status word (03 R67). -/
theorem makeReport_queue {slot : Option Nat} (listed : s.launches.find key = some l) (sorted : KV.sorted s.launches = true)
    (alone : l.graph = none) (somewhere : bits (l.words.getD 5 0).toNat 47 0 ≠ 0)
    (aligned : bits (l.words.getD 5 0).toNat 47 0 % 64 = 0) (queue : bits (l.words.getD 0 0).toNat 7 7 = 0)
    (place : s.translateRaw l.ctx (bits (l.words.getD 5 0).toNat 47 0) .write true = (s1, .ok pa))
    (good : s1.reportSlotBad l.ctx pa = false)
    (offer : s1.qOffer l.ctx pa 16 (key / 16384) [leBytes 8 l.launchId.toNat ++ leBytes 8 (State.statusWord l).toNat] =
      (s2, .ok slot)) :
    (slot = none → s.makeReport key = (s2, false)) ∧
    (slot ≠ none → (s.makeReport key).2 = true ∧ (s.makeReport key).1.launches.find key = none ∧
      (s.makeReport key).1.mem = s2.mem ∧ (s.makeReport key).1.l2 = s2.l2) := by
  have placed := (translateRaw_hbm s l.ctx (bits (l.words.getD 5 0).toNat 47 0) .write true).launches
  rw [place] at placed
  have offered := qOffer_launches s1 l.ctx pa 16 (key / 16384) [leBytes 8 l.launchId.toNat ++ leBytes 8 (statusWord l).toNat]
  rw [offer] at offered
  have same : s2.launches = s.launches := offered.trans placed
  have made : s.makeReport key = slot.elim (s2, false) fun _ => (s2.finishLaunch key, true) := by
    unfold makeReport recField
    rw [launch_of_find listed]
    dsimp only
    rw [alone, queue]
    refine (if_neg (by simpa using somewhere)).trans ((if_neg (by rw [if_neg (by decide), aligned]; decide)).trans ?_)
    rw [place]
    refine (if_neg (by simp [good])).trans ((if_neg (by decide)).trans ?_)
    rw [offer]
    cases slot <;> rfl
  cases slot with
  | none => exact ⟨fun _ => made, fun h => absurd rfl h⟩
  | some i =>
    obtain ⟨-, mem, l2, gone⟩ := finishLaunch_alone (by rw [same]; exact listed) (by rw [same]; exact sorted) alone
    rw [made]
    exact ⟨nofun, fun _ => ⟨rfl, gone, mem, l2⟩⟩

end State

/-- Launches, from the take of a record to its report (03 R57, R58, R66, R67). -/
theorem launches_claims : Claims.Launches :=
  ⟨fun _ _ _ _ _ _ _ _ _ hd choice free take => dispatchTake_answers hd choice free take,
    fun _ _ => launchCompletion_exec, fun _ _ _ => completionReport_exec,
    fun _ _ _ => State.makeReport_nowhere, fun _ _ _ _ _ _ _ => State.makeReport_queue,
    fun _ _ _ _ _ => State.makeReport_word⟩

end Sys2Proof.Machine
end

section
/-! The start of a team (02 R27, R28; 03 R60 to R62, R69). -/

namespace Sys2Proof.Machine

/-- Memory, launches and what teams and fibres are stay as they are: fibres change in group, SPIN and the clock before which
they do not issue, teams in their banks. -/
structure Regrouped (s t : State) : Prop where
  mem : t.mem = s.mem
  launches : t.launches = s.launches
  team : ∀ n, { t.team n with fibres := (s.team n).fibres, banks := (s.team n).banks } = s.team n
  fibre : ∀ g, { t.fibre g with spin := (s.fibre g).spin, gid := (s.fibre g).gid, notBefore := (s.fibre g).notBefore } = s.fibre g

namespace Regrouped

variable {s t u : State}

theorem refl (s : State) : Regrouped s s := ⟨rfl, rfl, fun _ => rfl, fun _ => rfl⟩

theorem trans (h : Regrouped s t) (k : Regrouped t u) : Regrouped s u where
  mem := k.mem.trans h.mem
  launches := k.launches.trans h.launches
  team n := (congrArg (fun z : Team => { z with fibres := (s.team n).fibres, banks := (s.team n).banks }) (k.team n)).trans
    (h.team n)
  fibre g := (congrArg (fun z : Fibre => { z with spin := (s.fibre g).spin, gid := (s.fibre g).gid, notBefore := (s.fibre g).notBefore })
    (k.fibre g)).trans (h.fibre g)

theorem foldEach {α : Type} {step : State → α → State} (l : List α) (h : ∀ s x, Regrouped s (step s x)) (s : State) :
    Regrouped s (s.each l step) := State.each_keeps (P := Regrouped s) (refl s) fun t x k => k.trans (h t x)

theorem of_teams (teams : t.teams = s.teams) (mem : t.mem = s.mem) (launches : t.launches = s.launches) : Regrouped s t := by
  have team (n : Nat) : t.team n = s.team n := by unfold State.team; rw [teams]
  refine ⟨mem, launches, fun n => by rw [team], fun g => ?_⟩
  unfold State.fibre
  rw [team]

theorem of_regroups (h : State.Regroups s t) : Regrouped s t :=
  ⟨(congrArg State.mem h.rest :), (congrArg State.launches h.rest :),
    fun n => (congrArg (fun z : Team => { z with banks := (s.team n).banks }) (h.team n) :),
    fun g => (congrArg (fun z : Fibre => { z with gid := (s.fibre g).gid, notBefore := (s.fibre g).notBefore }) (h.fibre g) :)⟩

end Regrouped

namespace State

variable {s : State}

theorem joinGroup_regrouped (s : State) (gid : Nat) (f : FibreId) :
    Regrouped s (s.modFibre f fun x => { x with gid := gid, notBefore := 0, spin := false }) := by
  refine ⟨rfl, rfl, fun n => ?_, fun g => ?_⟩
  · exact (congrArg (fun z : Team => { z with banks := (s.team n).banks }) (team_modFibre s f _ n) :)
  · rw [modFibre_fibre]
    split <;> rfl

theorem makeGroup_regrouped (s : State) (ctx core grant : Nat) (control zero : Bool) (fs : List FibreId) :
    Regrouped s (s.makeGroup ctx core grant control zero fs) := by
  unfold makeGroup
  dsimp only
  refine Regrouped.trans ?_ (.foldEach fs (fun t f => joinGroup_regrouped t s.newId.1 f) _)
  cases zero <;> exact .of_teams rfl rfl rfl

theorem formTeam_regrouped (s : State) (tid : Nat) (zero : Bool) : Regrouped s (s.formTeam tid zero) := by
  unfold formTeam
  exact (Regrouped.of_regroups (leaveGroups_regroups s _)).trans
    (.foldEach _ (fun t fs => makeGroup_regrouped t _ _ _ _ zero fs) _)

theorem l1Acquire_regrouped (s : State) (core : Nat) : Regrouped s (s.l1Acquire core) := by
  have frame := l1Acquire_frame s core
  exact .of_teams (congrArg State.teams frame :) (congrArg State.mem frame :) (congrArg State.launches frame :)

theorem banks_regrouped (s : State) (tid : Nat) (f : Team → Team) (h : ∀ t : Team, ∃ b, f t = { t with banks := b }) :
    Regrouped s (s.modTeam tid f) := by
  have team (n : Nat) : { (s.modTeam tid f).team n with banks := (s.team n).banks } = s.team n := by
    by_cases e : n = tid
    · subst e
      obtain ⟨b, hb⟩ := h (s.team n)
      rw [team_modTeam, hb]
    · rw [team_modTeam_other _ _ e]
  have fibres (n : Nat) : ((s.modTeam tid f).team n).fibres = (s.team n).fibres := (congrArg Team.fibres (team n) :)
  refine ⟨rfl, rfl, fun n => (congrArg (fun z : Team => { z with fibres := (s.team n).fibres }) (team n) :), fun g => ?_⟩
  unfold State.fibre
  rw [fibres]

theorem takeBanks_regrouped (s : State) (tid first n : Nat) : Regrouped s (s.takeBanks tid first n) :=
  (Regrouped.of_teams rfl rfl rfl : Regrouped s { s with fresh := s.fresh + 1 }).trans
    (banks_regrouped _ tid _ fun _ => ⟨_, rfl⟩)

end State

/-! The fibres of a team that starts. -/

theorem KV.sorted_of_pairwise {β : Type} {m : KV β} (h : (m.map Prod.fst).Pairwise (· < ·)) : m.sorted = true := by
  induction m with
  | nil => rfl
  | cons x m ih =>
    obtain ⟨hx, hm⟩ := List.pairwise_cons.1 h
    exact KV.sorted_cons.2 ⟨fun y hy => hx y.1 (List.mem_map_of_mem hy), ih hm⟩

/-- The list of a list's elements by number. -/
theorem KV.find_numbered {α β : Type} (l : List α) (f : Nat → α → β) {i : Nat} {x : α} (h : l[i]? = some x) :
    KV.find (((upto l.length).zip l).map fun y => (y.1, f y.1 y.2)) i = some (f i x) := by
  have hi : i < l.length := (List.getElem?_eq_some_iff.1 h).1
  refine KV.find_of_mem (KV.sorted_of_pairwise ?_) (List.mem_map.2 ⟨(i, x), List.mem_of_getElem? (i := i) ?_, rfl⟩)
  · have keys : (((upto l.length).zip l).map fun y => (y.1, f y.1 y.2)).map Prod.fst = upto l.length := by
      rw [List.map_map]
      exact List.map_fst_zip (by simp)
    rw [keys]
    exact List.pairwise_lt_range
  · rw [List.getElem?_zip_eq_some]
    exact ⟨by simp [hi], h⟩

theorem vAt_settled {x : Fibre} (h : x.late = []) (c n : Nat) : x.vAt c n = x.v.getD n 0 := by
  unfold Fibre.vAt
  rw [h]
  rfl

theorem kAt_settled {x : Fibre} (h : x.late = []) (c : Nat) {n : Nat} (hn : 1 ≤ n) : x.kAt c n = x.k.getLsbD n := by
  have nonzero : (n == 0) = false := by simp; omega
  unfold Fibre.kAt
  rw [h, nonzero]
  rfl

namespace State

variable {s : State}

/-- The team that starts (03 R61, R62). -/
def startedTeam (s : State) (key num : Nat) : Team :=
  let l := s.launch key
  let core := l.place.getD num 0
  let m := num % recGsize l.words
  let shape := fibreShape l.words m
  { ctx := l.ctx, launch := key, num := num, gallery := num / recGsize l.words, member := m, core := core
    control := recControl l.words m, nfib := shape.length
    fibres := ((upto shape.length).zip shape).map fun x => (x.1, freshFibre l.words num x.1 x.2.1 x.2.2)
    g := l.params, grant := if recControl l.words m then 1 else min 32 (s.core core).widthLimit
    spadBytes := spadNeed l num, ownBytes := 256 * recSpad l.words, tag := (s.core core).nextTag, gen := s.fresh
    trows := recField l.words 5 63 53, tiles := List.replicate 32 {}, views := List.replicate 4 none }

/-- A core whose generation tag has moved on (03 R62). -/
def nextTag (s : State) (core : Nat) : State := s.modCore core fun c => { c with nextTag := c.nextTag + 1 }

/-- A machine with the new team in its place, and none of the errors of an earlier one. -/
def placeTeam (s : State) (tid : Nat) (t : Team) : State :=
  { s with
    fresh := s.fresh + 1
    teams := s.teams.put tid t
    badReg := s.badReg.filter fun x => x.1.team != tid
    badElse := s.badElse.filter fun x => !x.ofTeam tid }

/-- The banks of a team's record are taken (03 R62). -/
def recordBanks (s : State) (core tid banks : Nat) : State :=
  match if banks == 0 then none else s.freeRun core banks with
  | some b => s.takeBanks tid b banks
  | none => s

/-- A launch that counts one more team. -/
def countStart (s : State) (key num : Nat) : State :=
  s.modLaunch key fun l => { l with
    unstarted := l.unstarted.filter (· != num), running := l.running ++ [teamKey key num], started := l.started + 1 }

theorem startTeam_eq (s : State) (key num : Nat) :
    s.startTeam key num =
      let core := (s.launch key).place.getD num 0
      let u := (s.nextTag core).placeTeam (teamKey key num) ((s.nextTag core).startedTeam key num)
      ((((u.recordBanks core (teamKey key num) (recField (s.launch key).words 5 52 48)).countStart key num).formTeam
        (teamKey key num) true).l1Acquire core) := rfl

theorem recordBanks_regrouped (s : State) (core tid banks : Nat) : Regrouped s (s.recordBanks core tid banks) := by
  unfold recordBanks
  split
  · exact takeBanks_regrouped s _ _ _
  · exact .refl s

theorem countStart_regrouped {t : State} (h : Regrouped s t) (key num : Nat) :
    Regrouped (s.countStart key num) (t.countStart key num) :=
  ⟨h.mem, by unfold countStart modLaunch; rw [h.launches], h.team, h.fibre⟩

/-- What the start of a team does but for its banks and its groups (03 R61, R62). -/
def teamPlaced (s : State) (key num : Nat) : State :=
  let core := (s.launch key).place.getD num 0
  ((s.nextTag core).placeTeam (teamKey key num) ((s.nextTag core).startedTeam key num)).countStart key num

theorem startTeam_regrouped (s : State) (key num : Nat) : Regrouped (s.teamPlaced key num) (s.startTeam key num) := by
  rw [startTeam_eq]
  dsimp only
  refine Regrouped.trans ?_ ((formTeam_regrouped _ _ true).trans (l1Acquire_regrouped _ _))
  exact countStart_regrouped (recordBanks_regrouped _ _ _ _) key num

theorem teamPlaced_team (s : State) (key num : Nat) :
    (s.teamPlaced key num).team (teamKey key num) =
      (s.nextTag ((s.launch key).place.getD num 0)).startedTeam key num := team_setTeam s _ _

theorem teamPlaced_fibre (s : State) (key num : Nat) {i : Nat} {x : Nat × Nat}
    (h : (fibreShape (s.launch key).words (num % recGsize (s.launch key).words))[i]? = some x) :
    (s.teamPlaced key num).fibre ⟨teamKey key num, i⟩ = freshFibre (s.launch key).words num i x.1 x.2 := by
  unfold fibre
  rw [teamPlaced_team]
  have found := KV.find_numbered _ (fun i y => freshFibre (s.launch key).words num i y.1 y.2) h
  exact congrArg (Option.getD · noFibre) found

end State

theorem teamStart_answers {s : State} {key num : Nat} (small : num < 2 ^ 24) (phase : (s.launch key).phase = 1)
    (saved : (s.ctx (s.launch key).ctx).saved = false) (ended : (s.ctx (s.launch key).ctx).ended = false)
    (pending : num ∈ (s.launch key).unstarted)
    (fits : s.fits (s.launch key) num ((s.launch key).place.getD num 0) = true)
    (first : s.someoneBefore (s.launch key) num ((s.launch key).place.getD num 0) = false) :
    exec (.teamStart (teamKey key num)) s = .next (s.startTeam key num) := by
  have hkey : teamKey key num / 2 ^ 24 - 1 = key := by unfold teamKey; omega
  have hnum : teamKey key num % 2 ^ 24 = num := by unfold teamKey; omega
  have large : ¬ teamKey key num < 2 ^ 24 := by unfold teamKey; omega
  show execTeamStart (teamKey key num) s = _
  unfold execTeamStart
  have waits : (s.launch key).unstarted.contains num = true := List.contains_iff_mem.2 pending
  rw [hkey, hnum]
  dsimp only
  rw [decide_eq_false large, phase, saved, ended, waits, fits, first]
  rfl

/-- A launch with a team that has not started is listed. -/
theorem State.launch_listed {s : State} {key num : Nat} (h : num ∈ (s.launch key).unstarted) :
    s.launches.find key = some (s.launch key) := by
  unfold State.launch KV.getD at h ⊢
  cases e : s.launches.find key with
  | some l => rfl
  | none => rw [e] at h; cases h

theorem started_team {s : State} {key num : Nat} {t : State} (h : Regrouped (s.teamPlaced key num) t)
    (pending : num ∈ (s.launch key).unstarted) :
    let l := s.launch key
    let tid := teamKey key num
    (t.team tid).core = l.place.getD num 0 ∧ (t.team tid).num = num ∧ (t.team tid).g = l.params ∧
      (t.team tid).nfib = (State.fibreShape l.words (num % recGsize l.words)).length ∧
      (∀ i x, (State.fibreShape l.words (num % recGsize l.words))[i]? = some x →
        (t.fibre ⟨tid, i⟩).pc = recEntry l.words ∧ (t.fibre ⟨tid, i⟩).role = x.1 ∧ (t.fibre ⟨tid, i⟩).window = x.2 ∧
        (t.fibre ⟨tid, i⟩).status = .ready ∧
        ∀ c n, (t.fibre ⟨tid, i⟩).vAt c n = 0 ∧ (1 ≤ n → (t.fibre ⟨tid, i⟩).kAt c n = false)) ∧
      num ∉ (t.launch key).unstarted ∧ tid ∈ (t.launch key).running ∧ (t.launch key).started = l.started + 1 ∧
      t.mem = s.mem := by
  have team := h.team (teamKey key num)
  rw [State.teamPlaced_team] at team
  have launch := State.launch_of_find (State.modLaunch_find (fun l : Launch => { l with
    unstarted := l.unstarted.filter (· != num), running := l.running ++ [teamKey key num], started := l.started + 1 })
    (State.launch_listed pending))
  have counted : t.launch key = _ := (congrArg (fun m : KV Launch => m.getD key {}) h.launches).trans launch
  refine ⟨(congrArg Team.core team :), (congrArg Team.num team :), (congrArg Team.g team :), (congrArg Team.nfib team :),
    fun i x hx => ?_, ?_, ?_, ?_, h.mem⟩
  · have fibre := h.fibre ⟨teamKey key num, i⟩
    rw [State.teamPlaced_fibre s key num hx] at fibre
    have late : (t.fibre ⟨teamKey key num, i⟩).late = [] := (congrArg Fibre.late fibre :)
    have v : (t.fibre ⟨teamKey key num, i⟩).v = List.replicate x.2 0 := (congrArg Fibre.v fibre :)
    have k : (t.fibre ⟨teamKey key num, i⟩).k = 0 := (congrArg Fibre.k fibre :)
    refine ⟨(congrArg Fibre.pc fibre :), (congrArg Fibre.role fibre :), ?_, (congrArg Fibre.status fibre :), fun c n => ⟨?_, fun hn => ?_⟩⟩
    · unfold Fibre.window; rw [v]; exact List.length_replicate
    · rw [vAt_settled late, v]; simp
    · rw [kAt_settled late c hn, k]; simp
  · rw [counted]; simp
  · rw [counted]; simp
  · rw [counted]

end Sys2Proof.Machine
end

section
/-! The end of a team (02 R30; 03 R66; 10 R221). -/

namespace Sys2Proof.Machine

/-- Memory, launches, and which teams are over with what scratchpad stay as they are. -/
structure BanksOnly (s t : State) : Prop where
  mem : t.mem = s.mem
  launches : t.launches = s.launches
  ended : ∀ n, (t.team n).ended = (s.team n).ended
  spad : ∀ n, (t.team n).spad = (s.team n).spad

namespace BanksOnly

variable {s t u : State}

theorem refl (s : State) : BanksOnly s s := ⟨rfl, rfl, fun _ => rfl, fun _ => rfl⟩

theorem trans (h : BanksOnly s t) (k : BanksOnly t u) : BanksOnly s u :=
  ⟨k.mem.trans h.mem, k.launches.trans h.launches, fun n => (k.ended n).trans (h.ended n), fun n => (k.spad n).trans (h.spad n)⟩

theorem of_teams (teams : t.teams = s.teams) (mem : t.mem = s.mem) (launches : t.launches = s.launches) : BanksOnly s t := by
  have team (n : Nat) : t.team n = s.team n := by unfold State.team; rw [teams]
  exact ⟨mem, launches, fun n => by rw [team], fun n => by rw [team]⟩

theorem keepTeam (s : State) (tid : Nat) {f : Team → Team} (ended : ∀ x : Team, (f x).ended = x.ended := by exact fun _ => rfl)
    (spad : ∀ x : Team, (f x).spad = x.spad := by exact fun _ => rfl) : BanksOnly s (s.modTeam tid f) :=
  ⟨rfl, rfl, State.team_modTeam_same s tid (π := Team.ended) ended, State.team_modTeam_same s tid (π := Team.spad) spad⟩

theorem keepFibre (s : State) (f : FibreId) (g : Fibre → Fibre) : BanksOnly s (s.modFibre f g) := by
  unfold State.modFibre State.setFibre
  exact keepTeam s f.team

theorem foldEach {α : Type} {step : State → α → State} (l : List α) (h : ∀ s x, BanksOnly s (step s x)) (s : State) :
    BanksOnly s (s.each l step) := State.each_keeps (P := BanksOnly s) (refl s) fun t x k => k.trans (h t x)

end BanksOnly

namespace State

open BanksOnly

variable {s : State}

theorem teamGNow_banksOnly (s : State) (tid gid n : Nat) (x : Dword) : BanksOnly s (s.teamGNow tid gid n x) := by
  unfold teamGNow
  exact keepTeam s tid

theorem gWriteNow_banksOnly (s : State) (gid n : Nat) (x : Dword) : BanksOnly s (s.gWriteNow gid n x) := by
  unfold gWriteNow
  dsimp only
  split
  · refine BanksOnly.trans ?_ (teamGNow_banksOnly _ _ gid n x)
    exact .of_teams rfl rfl rfl
  · exact .of_teams rfl rfl rfl

theorem wakeTo_banksOnly (s : State) (f : FibreId) (ref : Dword) : BanksOnly s (s.wakeTo f ref) := by
  unfold wakeTo wake
  exact (keepFibre s f _).trans (keepFibre _ f _)

theorem takeBanks_banksOnly (s : State) (tid first n : Nat) : BanksOnly s (s.takeBanks tid first n) := by
  unfold takeBanks
  exact (of_teams rfl rfl rfl : BanksOnly s { s with fresh := s.fresh + 1 }).trans (keepTeam _ tid)

theorem answerBanks_banksOnly (s : State) (gid : Nat) (mask : Dword) : BanksOnly s (s.answerBanks gid mask) := by
  unfold answerBanks
  dsimp only
  split
  · exact .refl s
  · exact (gWriteNow_banksOnly s _ _ _).trans (foldEach _ (fun t x => wakeTo_banksOnly t _ _) _)

theorem serveBanks_go_banksOnly (core k : Nat) (s : State) : BanksOnly s (serveBanks.go core k s) := by
  induction k generalizing s with
  | zero => exact .refl s
  | succ k ih =>
    unfold serveBanks.go
    split
    · exact .refl s
    · have pop (g : Core → Core) : BanksOnly s (s.modCore core g) := .of_teams rfl rfl rfl
      dsimp only
      split
      · exact ((pop _).trans (answerBanks_banksOnly _ _ _)).trans (ih _)
      · split
        · exact (((pop _).trans (takeBanks_banksOnly _ _ _ _)).trans (answerBanks_banksOnly _ _ _)).trans (ih _)
        · exact .refl s

theorem serveBanks_banksOnly (s : State) (core : Nat) : BanksOnly s (s.serveBanks core) :=
  (of_teams rfl rfl rfl : BanksOnly s (s.modCore core fun c => { c with bankQueue := c.bankQueue.filter s.bankWaits })).trans
    (serveBanks_go_banksOnly core _ _)

theorem freeBanks_banksOnly (s : State) (tid : Nat) (bs : List Nat) : BanksOnly s (s.freeBanks tid bs) := by
  unfold freeBanks
  exact (keepTeam s tid).trans (serveBanks_banksOnly _ _)

/-! Answering reads of a scratchpad, which reads no memory. -/

/-- What is pending under a number is no load of memory. -/
def LocalLoad (s : State) (id : Nat) : Prop :=
  ∀ p, s.pending.find id = some p → p.load = none ∨ ∃ x n sx, p.load = some (x, n, sx) ∧ ∀ pa l1 sys, x ≠ .global pa l1 sys

/-- HBM stays as it is, and no load of memory becomes pending. -/
structure ReadsLocal (s t : State) : Prop where
  mem : t.mem = s.mem
  loads : ∀ j, s.LocalLoad j → t.LocalLoad j

theorem ReadsLocal.refl (s : State) : ReadsLocal s s := ⟨rfl, fun _ h => h⟩

theorem ReadsLocal.trans {t u : State} (h : ReadsLocal s t) (k : ReadsLocal t u) : ReadsLocal s u :=
  ⟨k.mem.trans h.mem, fun j l => k.loads j (h.loads j l)⟩

theorem ReadsLocal.of_pending {t : State} (mem : t.mem = s.mem) (pending : t.pending = s.pending) : ReadsLocal s t :=
  ⟨mem, fun j h => by unfold LocalLoad; rw [pending]; exact h⟩

theorem deliver_readsLocal (s : State) (id : Nat) (p : Sys2Proof.Machine.Pending) (size : Nat) (sx : Bool) (bs : List Byte) (bad : Bool) :
    ReadsLocal s (s.deliver id p size sx bs bad) := by
  refine ⟨rfl, fun j h q hq => ?_⟩
  by_cases e : j = id
  · subst e
    cases (KV.find_put _ _ _).symm.trans hq
    exact .inl rfl
  · exact h q ((KV.find_put_other _ e).symm.trans hq)

theorem landPacket_readsLocal (s : State) (id : Nat) : ReadsLocal s (s.landPacket id) := by
  unfold landPacket
  split
  · exact .refl s
  · next p _ =>
    have counted : ReadsLocal s (State.each { s with packets := s.packets.del id } p.count fun s f =>
        s.modFibre f fun x => { x with stc := x.stc - 1 }) :=
      each_keeps (P := ReadsLocal s) (.of_pending rfl rfl) fun t f h => h.trans (.of_pending rfl rfl)
    dsimp only
    split
    · exact counted.trans (.of_pending rfl rfl)
    · exact counted.trans (.of_pending rfl rfl)

theorem streamPerform_readsLocal (s : State) (id : Nat) : ReadsLocal s (s.streamPerform id) := by
  unfold streamPerform
  split
  · split
    · exact deliver_readsLocal _ _ _ _ _ _ _
    · exact .refl s
  · exact landPacket_readsLocal s id

/-- A load of another memory than a scratchpad is not answered here. -/
theorem answer_readsLocal (id : Nat) (h : s.LocalLoad id) : ReadsLocal s (s.answer id) := by
  unfold answer
  split
  · exact .refl s
  · next p e =>
    split
    · exact .refl s
    · next pa l1 sys size sx e' =>
      rcases h p e with k | ⟨x, n, sx', k, no⟩
      · rw [e'] at k; cases k
      · rw [e'] at k; cases k; exact absurd rfl (no pa l1 sys)
    · exact (each_keeps (P := ReadsLocal s) (.refl s) fun t i k => k.trans (streamPerform_readsLocal t i)).trans
        (streamPerform_readsLocal _ id)
    · exact .refl s

theorem answers_readsLocal (l : List (Nat × Sys2Proof.Machine.Pending)) (h : ∀ x ∈ l, s.LocalLoad x.1) :
    ReadsLocal s (s.each l fun s x => s.answer x.1) := by
  induction l generalizing s with
  | nil => exact .refl s
  | cons x l ih =>
    have first := answer_readsLocal x.1 (h x List.mem_cons_self)
    exact first.trans (ih fun y hy => first.loads y.1 (h y (List.mem_cons_of_mem _ hy)))

/-- The reads of a team's scratchpad that are pending. -/
def galleryReads (s : State) (tid : Nat) : List (Nat × Sys2Proof.Machine.Pending) :=
  s.pending.filter fun x => match x.2.load with
    | some (.gallery u _, _, _) => u == tid
    | _ => false

theorem galleryReads_local (sorted : KV.sorted s.pending = true) {tid : Nat} {x : Nat × Sys2Proof.Machine.Pending}
    (h : x ∈ s.galleryReads tid) : s.LocalLoad x.1 := by
  obtain ⟨listed, gallery⟩ := List.mem_filter.1 h
  intro p hp
  cases (KV.find_of_mem sorted listed).symm.trans hp
  split at gallery
  · next u o n sx e => exact .inr ⟨_, n, sx, e, nofun⟩
  · cases gallery

/-- A team that is over, but for the banks that waiters take (02 R30). -/
def overTeam (s : State) (tid : Nat) : State :=
  let t := s.team tid
  let s := (s.each (s.galleryReads tid) fun s x => s.answer x.1).freeBanks tid t.banks.held
  let s := s.modTeam tid fun t => { t with ended := true, spad := [], tileBytes := [], banks := {} }
  let s := { s with badSpad := s.badSpad.filter fun x => x.1 != tid }
  s.modLaunch t.launch fun l => { l with running := l.running.filter (· != tid) }

theorem endTeam_eq (s : State) (tid : Nat) : s.endTeam tid = (s.overTeam tid).serveBanks (s.team tid).core := rfl

theorem overTeam_team (s : State) (tid : Nat) :
    ((s.overTeam tid).team tid).ended = true ∧ ((s.overTeam tid).team tid).spad = [] := by
  have final (u : State) := team_modTeam u tid fun t => { t with ended := true, spad := [], tileBytes := [], banks := {} }
  exact ⟨congrArg Team.ended (final _), congrArg Team.spad (final _)⟩

theorem running_without (s : State) (key tid : Nat) :
    tid ∉ ((s.modLaunch key fun l => { l with running := l.running.filter (· != tid) }).launch key).running := by
  cases e : s.launches.find key with
  | some l => rw [launch_of_find (modLaunch_find _ e)]; simp
  | none =>
    have same : (s.modLaunch key fun l => { l with running := l.running.filter (· != tid) }).launches = s.launches := by
      unfold modLaunch KV.upd
      rw [e]
    unfold launch KV.getD
    rw [same, e]
    exact List.not_mem_nil

end State

theorem teamCompletion_answers {s : State} {tid : Nat} (listed : (s.teams.find tid).isSome = true)
    (runs : (s.team tid).ended = false) (dead : s.liveFibres tid = []) (cmds : ∀ x ∈ s.cmds, x.2.tid ≠ tid)
    (mats : ∀ x ∈ s.mats, x.2.tid ≠ tid) (performed : s.issuedOpen (fun f => f.team == tid) = false)
    (sorted : KV.sorted s.pending = true) : Answers (.teamCompletion tid) s fun t =>
      (t.team tid).ended = true ∧ (t.team tid).spad = [] ∧ tid ∉ (t.launch (s.team tid).launch).running ∧ t.mem = s.mem := by
  have served := State.serveBanks_banksOnly (s.overTeam tid) (s.team tid).core
  have answered := State.answers_readsLocal _ fun x hx => State.galleryReads_local sorted (tid := tid) hx
  have freed := State.freeBanks_banksOnly (s.each (s.galleryReads tid) fun s x => s.answer x.1) tid (s.team tid).banks.held
  refine ⟨s.endTeam tid, ?_, ?_⟩
  · have noCmds : (s.cmds.any fun x => x.2.tid == tid) = false := by simpa using cmds
    have noMats : (s.mats.any fun x => x.2.tid == tid) = false := by simpa using mats
    show execTeamCompletion tid s = _
    unfold execTeamCompletion
    rw [Option.isNone_eq_false_iff.mpr listed, runs, dead, noCmds, noMats, performed]
    rfl
  · rw [State.endTeam_eq]
    have team := State.overTeam_team s tid
    refine ⟨?_, ?_, ?_, served.mem.trans (freed.mem.trans answered.mem)⟩
    · rw [served.ended]; exact team.1
    · rw [served.spad]; exact team.2
    · unfold State.launch
      rw [served.launches]
      exact State.running_without _ _ tid

/-- Settles O48: the teams' clauses rest on what forming groups and serving banks leave alone, the launches' on what the
reads of a record and the offer of a report leave alone. -/
theorem teamsAndLaunches : Obligations.TeamsAndLaunches := by
  refine ⟨⟨fun s key num small phase saved ended pending fits first => ?_, fun s tid => ?_⟩, launches_claims⟩
  · exact ⟨_, teamStart_answers small phase saved ended pending fits first,
      started_team (State.startTeam_regrouped s key num) pending⟩
  · exact teamCompletion_answers

end Sys2Proof.Machine
end

section
/-! What keeps the lists of State.Listed in order: the state's own updates. -/

namespace Sys2Proof.Machine

theorem KV.mem_upd {β : Type} {m : KV β} {a : Nat} {f : β → β} {x : Nat × β} (h : x ∈ m.upd a f) :
    x ∈ m ∨ ∃ v, m.find a = some v ∧ x = (a, f v) := by
  unfold KV.upd at h
  split at h
  · next v e => exact (KV.mem_put h).elim (fun k => .inr ⟨v, e, k⟩) .inl
  · exact .inl h

/-- The tables of a context that stand in rising keys. -/
def Context.TablesListed (c : Context) : Prop :=
  KV.sorted c.records = true ∧ KV.sorted c.endpoints = true ∧ KV.sorted c.breaks = true

namespace State

variable {s t : State}

/-- Memory operations keep the lists (06 R132 to R140). -/
theorem Listed.memory (h : s.Listed) (k : SameButMemory s t) : t.Listed := by
  have lists := k.lists ⟨h.owners, h.l2, h.cores, h.l1⟩
  have pending : t.pending = s.pending := (congrArg State.pending k.rest :)
  have launches : t.launches = s.launches := (congrArg State.launches k.rest :)
  have teams : t.teams = s.teams := (congrArg State.teams k.rest :)
  have groups : t.groups = s.groups := (congrArg State.groups k.rest :)
  have contexts : t.contexts = s.contexts := (congrArg State.contexts k.rest :)
  exact {
    pending := pending ▸ h.pending
    ids := pending ▸ fun x hx => Nat.lt_of_lt_of_le (h.ids x hx) k.ids
    launches := launches ▸ h.launches
    params := launches ▸ h.params
    teams := teams ▸ h.teams
    fibres := teams ▸ h.fibres
    groups := groups ▸ h.groups
    files := groups ▸ h.files
    cmds := (congrArg State.cmds k.rest :) ▸ h.cmds
    mats := (congrArg State.mats k.rest :) ▸ h.mats
    requests := (congrArg State.requests k.rest :) ▸ h.requests
    queues := (congrArg State.queues k.rest :) ▸ h.queues
    owners := lists.owners
    l2 := lists.l2
    cores := lists.cores
    l1 := lists.l1
    contexts := contexts ▸ h.contexts
    tables := contexts ▸ h.tables }

/-- A chosen update keeps the lists where both branches do. -/
theorem ite_listed {c : Prop} [Decidable c] (ht : s.Listed) (hf : t.Listed) : (if c then s else t).Listed := by
  split
  · exact ht
  · exact hf

theorem ite_fst_listed {α : Type} {c : Prop} [Decidable c] {a b : State × α} (ha : a.1.Listed) (hb : b.1.Listed) :
    (if c then a else b).1.Listed := by
  split
  · exact ha
  · exact hb

/-- The state of a result that is known by an equation. -/
theorem fst_listed {α : Type} {p : State × α} {x : α} (h : p.1.Listed) (e : p = (t, x)) : t.Listed := by
  rw [e] at h
  exact h

theorem each_listed {α : Type} {l : List α} {f : State → α → State} (h : s.Listed)
    (hf : ∀ t x, t.Listed → (f t x).Listed) : (s.each l f).Listed := each_keeps h hf

theorem newId_listed (h : s.Listed) : s.newId.2.Listed :=
  { h with ids := fun x hx => Nat.lt_succ_of_lt (h.ids x hx) }

/-! Cores. -/

theorem Listed.core (h : s.Listed) (n : Nat) : KV.sorted (s.core n).l1 = true :=
  KV.getD_of_all (P := fun c : Core => KV.sorted c.l1 = true) h.l1 rfl n

theorem setCore_listed (h : s.Listed) {n : Nat} {c : Core} (l1 : KV.sorted c.l1 = true) : (s.setCore n c).Listed :=
  { h with
    cores := KV.sorted_put _ _ h.cores
    l1 := fun x hx => (KV.mem_put hx).elim (fun e => e ▸ l1) (h.l1 x) }

theorem modCore_listed (h : s.Listed) {n : Nat} {f : Core → Core} (l1 : ∀ c, (f c).l1 = c.l1) :
    (s.modCore n f).Listed := setCore_listed h (by rw [l1]; exact h.core n)

/-! Contexts. -/

theorem Listed.ctx (h : s.Listed) (n : Nat) : (s.ctx n).TablesListed :=
  KV.getD_of_all (P := Context.TablesListed) h.tables ⟨rfl, rfl, rfl⟩ n

theorem setCtx_listed (h : s.Listed) {n : Nat} {c : Context} (tables : c.TablesListed) : (s.setCtx n c).Listed :=
  { h with
    contexts := KV.sorted_put _ _ h.contexts
    tables := fun x hx => (KV.mem_put hx).elim (fun e => e ▸ tables) (h.tables x) }

theorem modCtx_listed (h : s.Listed) {n : Nat} {f : Context → Context}
    (tables : ∀ c, c.TablesListed → (f c).TablesListed) : (s.modCtx n f).Listed :=
  setCtx_listed h (tables _ (h.ctx n))

/-! Teams and their fibres. -/

theorem Listed.team (h : s.Listed) (n : Nat) : KV.sorted (s.team n).fibres = true ∧ (s.team n).g.length = 16 :=
  KV.getD_of_all (P := fun x : Team => KV.sorted x.fibres = true ∧ x.g.length = 16) h.fibres ⟨rfl, rfl⟩ n

theorem setTeam_listed (h : s.Listed) {n : Nat} {x : Team} (fibres : KV.sorted x.fibres = true) (g : x.g.length = 16) :
    (s.setTeam n x).Listed :=
  { h with
    teams := KV.sorted_put _ _ h.teams
    fibres := fun y hy => (KV.mem_put hy).elim (fun e => e ▸ ⟨fibres, g⟩) (h.fibres y) }

theorem modTeam_listed (h : s.Listed) {n : Nat} {f : Team → Team}
    (fibres : ∀ x, (f x).fibres = x.fibres)
    (g : ∀ x, (f x).g.length = x.g.length) : (s.modTeam n f).Listed :=
  setTeam_listed h (by rw [fibres]; exact (h.team n).1) (by rw [g]; exact (h.team n).2)

theorem setFibre_listed (h : s.Listed) {f : FibreId} {x : Fibre} : (s.setFibre f x).Listed :=
  setTeam_listed h (KV.sorted_put _ _ (h.team f.team).1) (h.team f.team).2

theorem modFibre_listed (h : s.Listed) {f : FibreId} {g : Fibre → Fibre} : (s.modFibre f g).Listed := setFibre_listed h

/-- Each of some fibres is updated. -/
theorem eachFibre_listed {α : Type} (h : s.Listed) {l : List α} {f : α → FibreId} {g : State → α → Fibre → Fibre} :
    (s.each l fun s x => s.modFibre (f x) (g s x)).Listed := each_listed h fun _ _ k => modFibre_listed k

/-! Groups. -/

theorem Listed.group (h : s.Listed) (n : Nat) : (s.group n).g.length = 48 :=
  KV.getD_of_all (P := fun x : Group => x.g.length = 48) h.files rfl n

theorem setGroup_listed (h : s.Listed) {n : Nat} {x : Group} (g : x.g.length = 48) : (s.setGroup n x).Listed :=
  { h with
    groups := KV.sorted_put _ _ h.groups
    files := fun y hy => (KV.mem_put hy).elim (fun e => e ▸ g) (h.files y) }

theorem modGroup_listed (h : s.Listed) {n : Nat} {f : Group → Group}
    (g : ∀ x, (f x).g.length = x.g.length) : (s.modGroup n f).Listed :=
  setGroup_listed h (by rw [g]; exact h.group n)

/-! Launches. -/

theorem updLaunches_listed (h : s.Listed) {n : Nat} {f : Launch → Launch}
    (params : ∀ l, l.params.length = 16 → (f l).params.length = 16) :
    ({ s with launches := s.launches.upd n f } : State).Listed :=
  { h with
    launches := KV.sorted_upd _ _ h.launches
    params := fun x hx => (KV.mem_upd hx).elim (h.params x) fun ⟨v, e, k⟩ => k ▸ params v (h.params _ (KV.mem_of_find e)) }

theorem modLaunch_listed (h : s.Listed) {n : Nat} {f : Launch → Launch}
    (params : ∀ l, l.params.length = 16 → (f l).params.length = 16) : (s.modLaunch n f).Listed :=
  updLaunches_listed h params

/-! Pending results. -/

/-- A pending result is changed under its number. -/
theorem putPending_listed (h : s.Listed) {id : Nat} {p : Sys2Proof.Machine.Pending} (lt : id < s.nextId) :
    ({ s with pending := s.pending.put id p } : State).Listed :=
  { h with
    pending := KV.sorted_put _ _ h.pending
    ids := fun x hx => (KV.mem_put hx).elim (fun e => e ▸ lt) (h.ids x) }

theorem Listed.pending_lt (h : s.Listed) {id : Nat} {p : Sys2Proof.Machine.Pending} (e : s.pending.find id = some p) :
    id < s.nextId := h.ids _ (KV.mem_of_find e)

theorem delPending_listed (h : s.Listed) {id : Nat} : ({ s with pending := s.pending.del id } : State).Listed :=
  { h with pending := KV.sorted_del _ h.pending, ids := fun x hx => h.ids x (KV.mem_del hx) }

end State
end Sys2Proof.Machine
end

section
/-! Registers, results, traps, waits and groups keep the lists of State.Listed in order. -/

namespace Sys2Proof.Machine
namespace State

variable {s : State}

/-! Registers and pending results (02 R41, R42; 04 R89, R90). -/

theorem gFlush_length (regs : List Dword) (late : List Late) (base : Nat) (done : Late → Bool) :
    (gFlush regs late base done).1.length = regs.length := length_gLand regs _ base

theorem gWriteLate_listed (h : s.Listed) {gid n : Nat} {x : Dword} : (s.gWriteLate gid n x).Listed := by
  unfold gWriteLate
  dsimp only
  split
  · exact modTeam_listed h (g := fun x => length_gLand x.g _ _) (fun _ => by rfl)
  · exact modGroup_listed h (g := fun x => length_gLand x.g _ _)

theorem teamGNow_listed (h : s.Listed) {tid gid n : Nat} {x : Dword} : (s.teamGNow tid gid n x).Listed :=
  modTeam_listed h (g := fun _ => List.length_set ..) (fun _ => by rfl)

theorem badElse_listed (h : s.Listed) (l : List Place) : ({ s with badElse := l } : State).Listed := { h with }

theorem badReg_listed (h : s.Listed) (l : List (FibreId × Nat)) : ({ s with badReg := l } : State).Listed := { h with }

theorem gWriteNow_listed (h : s.Listed) {gid n : Nat} {x : Dword} : (s.gWriteNow gid n x).Listed := by
  unfold gWriteNow
  dsimp only
  split
  · exact teamGNow_listed (badElse_listed h _)
  · exact modGroup_listed (badElse_listed h _) (g := fun _ => List.length_set ..)

theorem mendReg_listed (h : s.Listed) {f : FibreId} {gid tid : Nat} {r : Reg} : (s.mendReg f gid tid r).Listed := by
  unfold mendReg
  split
  · exact badReg_listed h _
  · exact badElse_listed h _
  · exact badElse_listed h _
  · exact h

theorem landOne_lists (h : s.Listed) {f : FibreId} {gid tid : Nat} {d : Reg × Dword} : (s.landOne f gid tid d).Listed := by
  have mended := mendReg_listed h (f := f) (gid := gid) (tid := tid) (r := d.1)
  unfold landOne
  dsimp only
  split
  · exact ite_listed (ite_listed (teamGNow_listed mended) mended) (ite_listed (gWriteNow_listed mended) mended)
  · exact modFibre_listed mended

theorem landResult_listed (h : s.Listed) {f : FibreId} {gid tid : Nat} {dests : List (Reg × Dword)} :
    (s.landResult f gid tid dests).Listed := by
  rw [landResult_eq]
  exact each_listed h fun _ _ k => landOne_lists k

theorem accessDone_listed (h : s.Listed) {core : Nat} {fs : List FibreId} : (s.accessDone core fs).Listed := by
  refine each_listed h fun u f k => ?_
  split
  · exact modFibre_listed (k.memory (l1Acquire_memory u core))
  · exact k

theorem settleLate_listed (h : s.Listed) {gid : Nat} : (s.settleLate gid).Listed := by
  unfold settleLate
  have fibres := each_listed (l := (s.group gid).members) (f := fun s f =>
    if (s.fibre f).late.isEmpty then s else s.modFibre f (·.flush (2 ^ 64))) h fun _ _ k => ite_listed k (modFibre_listed k)
  have team (u : State) (k : u.Listed) : (u.modTeam (u.leadTeam gid) fun t =>
      { t with g := (gFlush t.g t.late 0 fun l => u.lateDone l || l.gid == gid).1
               late := (gFlush t.g t.late 0 fun l => u.lateDone l || l.gid == gid).2 }).Listed :=
    modTeam_listed k (g := fun x => gFlush_length x.g _ _ _) (fun _ => by rfl)
  exact ite_listed (team _ fibres) (modGroup_listed (team _ fibres) (g := fun x => gFlush_length x.g _ _ _))

theorem badSpad_listed (h : s.Listed) (l : List (Nat × Nat)) : ({ s with badSpad := l } : State).Listed := { h with }

theorem spadWrite_listed (h : s.Listed) {tid ofs : Nat} {bs : List Byte} : (s.spadWrite tid ofs bs).Listed := by
  unfold spadWrite
  exact modTeam_listed (badSpad_listed h _) (fun _ => by rfl) (fun _ => by rfl)

theorem landPacket_listed (h : s.Listed) {id : Nat} : (s.landPacket id).Listed := by
  unfold landPacket
  split
  · exact h
  · have counted (p : Packet) := eachFibre_listed (l := p.count) (f := fun f => f)
        (g := fun _ _ x => { x with stc := x.stc - 1 })
      (show ({ s with packets := s.packets.del id } : State).Listed from { h with })
    exact ite_listed (spadWrite_listed (counted _)) (modTeam_listed (counted _) (fun _ => by rfl) (fun _ => by rfl))

theorem streamPerform_listed (h : s.Listed) {id : Nat} : (s.streamPerform id).Listed := by
  unfold streamPerform
  split
  · next e =>
    split
    · exact putPending_listed h (h.pending_lt e)
    · exact h
  · exact landPacket_listed h

theorem answer_listed (h : s.Listed) {id : Nat} : (s.answer id).Listed := by
  unfold answer
  split
  · exact h
  · next p e =>
    split
    · exact h
    · next pa l1 sys size sx _ =>
      have read := performLoad_memory s p.core pa size sys l1
      have dropped (u : State) : SameButMemory u (if l1 then u else u.staleDrop p.core (wordsOf pa size)) := by
        split
        · exact .refl u
        · exact staleDrop_memory u _ _
      have all := read.trans (dropped _)
      exact putPending_listed (h.memory all) (Nat.lt_of_lt_of_le (h.pending_lt e) all.ids)
    · exact streamPerform_listed (each_listed h fun _ _ k => streamPerform_listed k)
    · exact h

theorem spoil_listed (h : s.Listed) {p : Pending} : (s.spoil p).Listed := by
  refine each_listed h fun u x k => ?_
  split
  · exact badReg_listed k _
  · exact badElse_listed k _
  · exact badElse_listed k _
  · exact k

theorem writeResult_listed (h : s.Listed) {id : Nat} : (s.writeResult id).Listed := by
  unfold writeResult
  split
  · exact h
  · have landed (p : Sys2Proof.Machine.Pending) := landResult_listed (delPending_listed h (id := id)) (f := p.fib)
        (gid := p.gid)
      (tid := p.tid) (dests := p.dests)
    exact eachFibre_listed (f := fun f => f) (ite_listed (spoil_listed (landed _)) (landed _))

theorem settle_listed (h : s.Listed) {gid : Nat} : (s.settle gid).Listed :=
  each_listed (settleLate_listed h) fun _ _ k => writeResult_listed (answer_listed k)

/-! Records, traps and stacks (12 R256 to R262; 04 R97). -/

theorem addRecord_listed (h : s.Listed) {ctx : Nat} {r : FaultRec} : (s.addRecord ctx r).2.Listed := by
  unfold addRecord
  dsimp only
  exact modCtx_listed h (fun _ k => by exact k)

theorem holdGroup_listed (h : s.Listed) {iss : Issue} {cause detail va : Nat} {dbl : Bool} :
    (s.holdGroup iss cause detail va dbl).Listed := by
  unfold holdGroup
  refine each_listed (eachFibre_listed (f := Prod.snd) (addRecord_listed h)) fun _ _ k => ite_listed k (modFibre_listed k)

theorem parkPage_listed (h : s.Listed) {iss : Issue} {va : Nat} {wr : Bool} : (s.parkPage iss va wr).Listed :=
  eachFibre_listed (f := Prod.snd) (addRecord_listed (settleLate_listed h))

theorem stall_listed (h : s.Listed) {iss : Issue} : (s.stall iss).Listed := eachFibre_listed (f := Prod.snd) h

theorem waitHash_listed (h : s.Listed) {iss : Issue} {slot page : Nat} : (s.waitHash iss slot page).Listed := by
  unfold waitHash
  refine stall_listed ?_
  split
  · exact { h with }
  · exact { h with }

theorem push_listed (h : s.Listed) {core ctx : Nat} {f : FibreId} {ref : Dword} : (s.push core ctx f ref).Listed := by
  unfold push
  dsimp only
  split
  · exact modFibre_listed h
  · refine modFibre_listed ?_
    have done := accessDone_listed h (core := core) (fs := [f])
    have place := translate_memory (s.accessDone core [f]) core ctx ((s.fibre f).stack - 8).toNat .write true
    split
    · next e => rw [e] at place; exact (done.memory place).memory (l1Store_memory ..)
    · next e => rw [e] at place; exact done.memory place

theorem enterHandler_listed (h : s.Listed) {iss : Issue} {cause detail : Nat} {va : Nat} :
    (s.enterHandler iss cause detail va).Listed :=
  each_listed (eachFibre_listed (f := Prod.snd) h) fun _ _ k => modFibre_listed (push_listed k)

theorem aborts_listed (h : s.Listed) (l : List Nat) : ({ s with aborts := l } : State).Listed := { h with }

theorem raiseCodeHash_listed (h : s.Listed) {iss : Issue} : (s.raiseCodeHash iss).Listed := by
  unfold raiseCodeHash
  exact aborts_listed (addRecord_listed (settle_listed h)) _

theorem raise_listed (h : s.Listed) {iss : Issue} {cause detail : Nat} {va : Nat} :
    (s.raise iss cause detail va).Listed := by
  have settled := settle_listed h (gid := iss.gid)
  have checked := settled.memory
    (targetCheck_memory (s.settle iss.gid) iss.core iss.ctx ((s.settle iss.gid).ctx iss.ctx).trapvec true)
  unfold raise
  dsimp only
  split
  · exact stall_listed h
  · split
    · split
      · next e => exact waitHash_listed (fst_listed checked e)
      · next e => exact parkPage_listed (fst_listed checked e)
      · next e =>
        have there := fst_listed checked e
        exact ite_listed (raiseCodeHash_listed there) (holdGroup_listed there)
      · next u e =>
        have there := fst_listed checked e
        have pushed := there.memory (pushAllCheck_memory (s := u) iss.core iss.ctx iss.lanes)
        split
        · exact stall_listed there
        · split
          · next e => exact enterHandler_listed (fst_listed pushed e)
          · next e => exact holdGroup_listed (fst_listed pushed e)
    · exact holdGroup_listed settled

theorem moveFail_listed (h : s.Listed) {iss : Issue} {m : Move} : (s.moveFail iss m).Listed := by
  unfold moveFail
  split
  · exact h
  · exact ite_listed (raiseCodeHash_listed h) (raise_listed h)
  · exact parkPage_listed h
  · exact waitHash_listed h

theorem releaseHeld_listed (h : s.Listed) {f : FibreId} : (s.releaseHeld f).Listed :=
  each_listed h fun _ _ k => each_listed k fun _ _ k => ite_listed (modFibre_listed k) k

/-! Waits (02 R54; 04 R94; 07 R160). -/

theorem releaseStep_listed (h : s.Listed) {core : Nat} {ls : List (Nat × FibreId)} : (s.releaseStep core ls).1.Listed := by
  unfold releaseStep
  have marked : (s.each ls fun s x =>
      match (s.fibre x.2).relWait with
      | some _ => s
      | none => s.modFibre x.2 fun f => { f with relWait := some (s.releaseSet core x.2) }).Listed := by
    refine each_listed h fun _ _ k => ?_
    split
    · exact k
    · exact modFibre_listed k
  exact ite_fst_listed (eachFibre_listed (f := Prod.snd) marked) marked

theorem delay_listed (h : s.Listed) {core : Nat} {fs count : List FibreId} {waits : List Nat} {act : Releasing} :
    (s.delay core fs count waits act).Listed := by
  unfold delay
  have counted := eachFibre_listed (l := count) (f := fun f => f) (g := fun _ _ x => { x with stc := x.stc + 1 })
      (newId_listed h)
  exact { counted with }

theorem acquire_listed (h : s.Listed) {fs : List FibreId} : (s.acquire fs).Listed :=
  each_listed h fun u c k => k.memory (l1Acquire_memory u c)

theorem goto_listed (h : s.Listed) {ls : List (Nat × FibreId)} {ref : Dword} : (s.goto ls ref).Listed :=
  eachFibre_listed (f := Prod.snd) h

theorem advance_listed (h : s.Listed) {iss : Issue} : (s.advance iss).Listed := goto_listed h

theorem park_listed (h : s.Listed) {iss : Issue} {ls : List (Nat × FibreId)} {w : Wake} {keep : Option (List Dword)} :
    (s.park iss ls w keep).Listed := eachFibre_listed (f := Prod.snd) (settleLate_listed h)

theorem parkStop_listed (h : s.Listed) {iss : Issue} {ls : List (Nat × FibreId)} : (s.parkStop iss ls).Listed :=
  eachFibre_listed (f := Prod.snd) (park_listed h)

theorem wake_listed (h : s.Listed) {f : FibreId} : (s.wake f).Listed := by
  unfold wake
  exact modFibre_listed h

theorem wakeTo_listed (h : s.Listed) {f : FibreId} {ref : Dword} : (s.wakeTo f ref).Listed := modFibre_listed (wake_listed h)

/-! Groups (02 R34, R42). -/

theorem makeGroup_listed (h : s.Listed) {ctx core grant : Nat} {control zero : Bool} {fs : List FibreId} :
    (s.makeGroup ctx core grant control zero fs).Listed := by
  have file : (if zero then (List.replicate 48 0, s.newId.2) else s.newId.2.freeRegs 48).1.length = 48 := by
    split <;> simp [freeRegs]
  have named : (if zero then (List.replicate 48 0, s.newId.2) else s.newId.2.freeRegs 48).2.Listed := by
    split
    · exact newId_listed h
    · exact { newId_listed h with }
  exact eachFibre_listed (f := id) (setGroup_listed (modCore_listed named (fun _ => by rfl)) file)

theorem leaveGroup_listed (h : s.Listed) {fs : List FibreId} {gid : Nat} : (s.leaveGroup fs gid).Listed := by
  unfold leaveGroup
  split
  · exact h
  · refine ite_listed ?_ ?_
    · have file : (s.freeRegs 48).1.length = 48 := by simp [freeRegs]
      exact eachFibre_listed (f := id) (setGroup_listed (show (s.freeRegs 48).2.Listed from { h with }) (by exact file))
    · exact { h with groups := KV.sorted_del _ h.groups, files := fun x hx => h.files x (KV.mem_del hx) }

theorem leaveGroups_listed (h : s.Listed) {fs : List FibreId} : (s.leaveGroups fs).Listed :=
  each_listed h fun _ _ k => leaveGroup_listed k

theorem formTeam_listed (h : s.Listed) {tid : Nat} {zero : Bool} : (s.formTeam tid zero).Listed :=
  each_listed (leaveGroups_listed h) fun _ _ k => makeGroup_listed k

theorem checkBar_listed (h : s.Listed) {tid : Nat} : (s.checkBar tid).Listed := by
  unfold checkBar
  refine ite_listed h (acquire_listed (each_listed (modTeam_listed h (fun _ => by rfl) (fun _ => by rfl)) fun _ _ k => ?_))
  split
  · exact wakeTo_listed k
  · exact k

end State
end Sys2Proof.Machine
end

section
/-! Issue, results, transfers of control and barriers keep the lists of State.Listed in order. -/

namespace Sys2Proof.Machine
namespace State

variable {s : State}

/-! Results (04 R89 to R93). -/

theorem popStreams_listed (h : s.Listed) {act : List (Nat × FibreId)} {u : Uses} : (s.popStreams act u).Listed :=
  ite_listed h (eachFibre_listed (f := Prod.snd) h)

theorem forgetFault_listed (h : s.Listed) {act : List (Nat × FibreId)} {u : Uses} : (s.forgetFault act u).Listed :=
  eachFibre_listed (f := Prod.snd) h

theorem sourced_listed (h : s.Listed) {iss : Issue} {act : List (Nat × FibreId)} {i : Instr} {k : State} (hk : k.Listed) :
    (s.sourced iss act i k).Listed := ite_listed (raise_listed h) hk

theorem setFlags_listed (h : s.Listed) {rs : List ((Nat × FibreId) × LaneRes)} : (s.setFlags rs).Listed :=
  each_listed h fun _ _ k => ite_listed k (modFibre_listed k)

theorem writeFixed_listed (h : s.Listed) {iss : Issue} {f : FibreId} {r : Reg} {x : Dword} :
    (s.writeFixed iss f r x).Listed := by
  have mended := mendReg_listed h (f := f) (gid := iss.gid) (tid := s.leadTeam iss.gid) (r := r)
  unfold writeFixed
  dsimp only
  split
  · exact gWriteLate_listed mended
  · exact modFibre_listed mended

theorem addPending_listed (h : s.Listed) {iss : Issue} {f : FibreId} {dests : List (Reg × Dword)}
    {count : List FibreId} {load : Option (LoadReq × Nat × Bool)} : (s.addPending iss f dests count load).Listed := by
  have counted := eachFibre_listed (l := count) (f := fun f => f) (g := fun _ _ x => { x with ldc := x.ldc + 1 })
      (newId_listed h)
  have id : (s.newId.2.each count fun s c => s.modFibre c fun x => { x with ldc := x.ldc + 1 }).nextId = s.nextId + 1 :=
    each_same s.newId.2 fun _ _ => rfl
  exact putPending_listed counted (by rw [id]; exact Nat.lt_succ_self _)

theorem finish_listed (h : s.Listed) {iss : Issue} {act : List (Nat × FibreId)} {i : Instr}
    {rs : List ((Nat × FibreId) × LaneRes)} : (s.finish iss act i rs).Listed := by
  have flags := setFlags_listed h (rs := rs)
  unfold finish
  refine ite_listed (raise_listed flags) (advance_listed (popStreams_listed (each_listed flags fun _ _ k => ?_)))
  exact ite_listed k (ite_listed (each_listed k fun _ _ k => writeFixed_listed k) (addPending_listed k))

theorem agree_listed (h : s.Listed) {i : Instr} {iss : Issue} {act : List (Nat × FibreId)} {d : Opnd}
    {val : Nat × FibreId → Dword} : (agree i s iss act d val).Listed := by
  unfold agree
  split
  · exact ite_listed (raise_listed h) (finish_listed h)
  · exact finish_listed h

/-! Collectives and the end of fibres (02 R29, R36; 17 R362). -/

theorem modGallery_listed (h : s.Listed) {launch n : Nat} {f : Gallery → Gallery} : (s.modGallery launch n f).Listed := by
  unfold modGallery
  split
  · next l e =>
    exact { h with
      launches := KV.sorted_put _ _ h.launches
      params := fun x hx => (KV.mem_put hx).elim (fun k => k ▸ h.params (launch, l) (KV.mem_of_find e)) (h.params x) }
  · exact h

theorem checkGallery_listed (h : s.Listed) {launch n : Nat} : (s.checkGallery launch n).Listed := by
  unfold checkGallery
  refine ite_listed h (acquire_listed (each_listed (modGallery_listed h) fun _ _ k => ?_))
  split
  · exact wakeTo_listed k
  · exact k

theorem trapArrivals_listed (h : s.Listed) {fs : List FibreId} {cause : Nat} : (s.trapArrivals fs cause).Listed :=
  each_listed (eachFibre_listed (f := fun f => f) h) fun _ _ k => ite_listed k (raise_listed k)

theorem checkSetw_listed (h : s.Listed) {tid : Nat} : (s.checkSetw tid).Listed := by
  unfold checkSetw
  dsimp only
  split
  · exact h
  · next ar _ _ =>
    have woken (l : List (FibreId × Nat × Bool × Nat × Dword)) : (s.each l fun s x => s.wakeTo x.1 x.2.2.2.2).Listed :=
      each_listed h fun _ _ k => wakeTo_listed k
    refine ite_listed h (ite_listed (trapArrivals_listed h) (ite_listed h (ite_listed h (acquire_listed ?_))))
    exact each_listed (formTeam_listed (modTeam_listed (woken _) (fun _ => by rfl)
        (fun _ => by rfl))) fun _ _ k => gWriteNow_listed k

theorem checkCollectives_listed (h : s.Listed) {tid : Nat} : (s.checkCollectives tid).Listed :=
  checkGallery_listed (checkSetw_listed (checkBar_listed h))

theorem without_listed (h : s.Listed) (f : FibreId) : ({ s with
    pending := (s.pending.map (withoutFibre f)).filter fun x => x.2.fib != f || !x.2.dests.isEmpty || !x.2.count.isEmpty } :
      State).Listed :=
  { h with
    pending := KV.sorted_filter _ (KV.sorted_map _ (fun _ => rfl) h.pending)
    ids := fun x hx => by
      obtain ⟨y, hy, rfl⟩ := List.mem_map.1 (List.mem_filter.1 hx).1
      exact h.ids y hy }

theorem delGroup_listed (h : s.Listed) (gid : Nat) : ({ s with groups := s.groups.del gid } : State).Listed :=
  { h with groups := KV.sorted_del _ h.groups, files := fun x hx => h.files x (KV.mem_del hx) }

theorem exitFibre_listed (h : s.Listed) {f : FibreId} : (s.exitFibre f).Listed := by
  have left := releaseHeld_listed (modFibre_listed (without_listed h f) (f := f) (g := fun x => { x with
    status := .exited, rstack := [], spilled := 0, refill := none, streams := [], openBatch := [], late := [], handler :=
  none
    again := none, relWait := none })) (f := f)
  exact ite_listed left (delGroup_listed left _)

theorem exitFibres_listed (h : s.Listed) {fs : List FibreId} : (s.exitFibres fs).Listed :=
  each_listed (each_listed h fun _ _ k => exitFibre_listed k) fun _ _ k => checkCollectives_listed k

/-! Barriers (09 R202, R204; 17 R362). -/

theorem barrierPut_listed (h : s.Listed) {tid ofs : Nat} {b : Nat × Nat} : (s.barrierPut tid ofs b).Listed :=
  spadWrite_listed h

theorem wakeEngine_listed (h : s.Listed) {fs : List FibreId} {detail : Nat} : (s.wakeEngine fs detail).Listed :=
  each_listed h fun _ _ k => wake_listed (modFibre_listed k)

theorem barrierNoted_listed (s : State) {t : State} (h : t.Listed) {tid : Nat} : (s.barrierNoted t tid).Listed :=
  each_listed (ite_listed h (wakeEngine_listed h)) fun _ _ k => wake_listed (modFibre_listed k)

theorem syncStep_listed (h : s.Listed) {core : Nat} {ls : List (Nat × FibreId)} : (s.syncStep core ls).1.Listed :=
  ite_fst_listed (releaseStep_listed h) h

theorem arrive_listed (h : s.Listed) {f : FibreId} : (s.arrive f).Listed := by
  unfold arrive
  exact modGallery_listed h

theorem checkGalleries_listed (h : s.Listed) {act : List FibreId} : (s.checkGalleries act).Listed :=
  each_listed h fun _ _ k => checkGallery_listed k

theorem enterNow_listed (h : s.Listed) {fs : List FibreId} : (s.enterNow fs).Listed :=
  checkGalleries_listed (each_listed h fun _ _ k => arrive_listed k)

/-! Fetching and transfers of control (04 R94 to R99; 13 R285). -/

theorem codeWords_listed (h : s.Listed) {core ctx : Nat} {r : Dword} {l1 : Nat} : (s.codeWords core ctx r l1).1.Listed := by
  induction l1 generalizing s r with
  | zero => exact h
  | succ n ih =>
    have word := h.memory (codeWord_memory s core ctx r)
    unfold codeWords
    split
    · next e => exact fst_listed word e
    · next e =>
      have rest := ih (fst_listed word e) (r := r + 4#64)
      split
      · next e => exact fst_listed rest e
      · next e => exact fst_listed rest e

theorem fetch_listed (h : s.Listed) {core ctx : Nat} {r : Dword} : (s.fetch core ctx r).1.Listed := by
  have word := h.memory (codeWord_memory s core ctx r)
  unfold fetch
  split
  · exact h
  · refine ite_fst_listed h ?_
    split
    · next e => exact fst_listed word e
    · next t w e =>
      have there := fst_listed word e
      have words := codeWords_listed there (core := core) (ctx := ctx) (r := r) (l1 := lenWords w)
      refine ite_fst_listed there ?_
      split
      · next e => exact fst_listed words e
      · next e =>
        split
        · exact fst_listed words e
        · exact fst_listed words e

theorem afterRef_listed (h : s.Listed) {core ctx : Nat} {r : Dword} : (s.afterRef core ctx r).1.Listed := by
  have fetched := fetch_listed h (core := core) (ctx := ctx) (r := r)
  unfold afterRef
  split
  · next e => exact ite_fst_listed (fst_listed fetched e) (fst_listed fetched e)
  · next e => exact ite_fst_listed (fst_listed fetched e) (fst_listed fetched e)
  · next e => exact fst_listed fetched e

theorem checkTarget_listed (h : s.Listed) {iss : Issue} {t : Dword × Bool} {call : Bool} :
    (s.checkTarget iss t call).1.Listed :=
  ite_fst_listed (h.memory (targetCheck_memory s iss.core iss.ctx t.1 call)) h

theorem branchTo_listed (h : s.Listed) {iss : Issue} {act : List (Nat × FibreId)} {t : Dword × Bool} :
    (s.branchTo iss act t).Listed := by
  have checked := checkTarget_listed h (iss := iss) (t := t) (call := false)
  unfold branchTo
  refine ite_listed (ite_listed (raise_listed h) (advance_listed h)) ?_
  split
  · next e => exact ite_listed (raise_listed (fst_listed checked e)) (goto_listed (goto_listed (fst_listed checked e)))
  · next e => exact moveFail_listed (fst_listed checked e)

theorem uniformTo_listed (h : s.Listed) {iss : Issue} {act : List (Nat × FibreId)} {t : Dword × Bool} :
    (s.uniformTo iss act t).Listed := ite_listed (raise_listed h) (branchTo_listed h)

theorem pushAllCheck_listed (h : s.Listed) {core ctx : Nat} {ls : List (Nat × FibreId)} :
    (s.pushAllCheck core ctx ls).1.Listed := h.memory (pushAllCheck_memory core ctx ls)

theorem callTo_listed (h : s.Listed) {iss : Issue} {act : List (Nat × FibreId)} {t : FibreId → Dword} :
    (s.callTo iss act t).Listed := by
  have pushed := pushAllCheck_listed h (core := iss.core) (ctx := iss.ctx) (ls := State.byFid act)
  unfold callTo
  refine ite_listed (raise_listed h) (ite_listed (stall_listed h) ?_)
  split
  · next e => exact goto_listed (each_listed (fst_listed pushed e) fun _ _ k => goto_listed (push_listed k))
  · next e => exact parkPage_listed (fst_listed pushed e)
  · next e => exact moveFail_listed (fst_listed pushed e)

theorem callShared_listed (h : s.Listed) {iss : Issue} {act : List (Nat × FibreId)} {t : Dword × Bool} :
    (s.callShared iss act t).Listed := by
  have checked := checkTarget_listed h (iss := iss) (t := t) (call := true)
  unfold callShared
  refine ite_listed (callTo_listed h) ?_
  split
  · next e => exact callTo_listed (fst_listed checked e)
  · next e => exact moveFail_listed (fst_listed checked e)

theorem checkEach_listed (h : s.Listed) {iss : Issue} {call : Bool} {l1 : List (FibreId × Dword)} :
    (s.checkEach iss call l1).1.Listed := by
  induction l1 generalizing s with
  | nil => exact h
  | cons x r ih =>
    obtain ⟨f, t⟩ := x
    have checked := h.memory (targetCheck_memory s iss.core iss.ctx t call)
    unfold checkEach
    split
    · next e => exact ih (fst_listed checked e)
    · next e => exact fst_listed checked e

theorem translate_listed (h : s.Listed) {core ctx va : Nat} {kind : WalkKind} {write : Bool} :
    (s.translate core ctx va kind write).1.Listed := h.memory (translate_memory s core ctx va kind write)

theorem retFind_listed (h : s.Listed) {iss : Issue} {f : FibreId} : (s.retFind iss f).1.Listed := by
  have place := translate_listed h (core := iss.core) (ctx := iss.ctx) (va := (s.fibre f).stack.toNat) (kind := .read)
    (write := false)
  unfold retFind
  dsimp only
  split
  · exact h
  · exact h
  · refine ite_fst_listed h ?_
    split
    · next e => exact ite_fst_listed (fst_listed place e) (fst_listed place e)
    all_goals next e => exact fst_listed place e

theorem retFinds_listed (h : s.Listed) {iss : Issue} {l1 : List (Nat × FibreId)} : (s.retFinds iss l1).1.Listed := by
  induction l1 generalizing s with
  | nil => exact h
  | cons x r ih =>
    have found := retFind_listed h (iss := iss) (f := x.2)
    unfold retFinds
    split
    · next e => exact fst_listed found e
    · next e =>
      have rest := ih (fst_listed found e)
      split
      · next e => exact fst_listed rest e
      · next e => exact fst_listed rest e

theorem startRefills_listed (h : s.Listed) {iss : Issue} {l : List (FibreId × Nat)} : (s.startRefills iss l).Listed :=
  ite_listed (stall_listed h)
    (stall_listed (each_listed (accessDone_listed h) fun _ _ k => ite_listed k (addPending_listed k)))

theorem popRef_listed (h : s.Listed) {f : FibreId} : (s.popRef f).Listed := modFibre_listed h

/-- The check of a return's target (04 R97; 12 R259). -/
def retTarget (s : State) (iss : Issue) (f : FibreId) (t : Dword) : State × Except Move Dword :=
  match (s.fibre f).handler with
  | some h =>
    if h.base == (s.fibre f).depth then
      if h.skip then s.afterRef iss.core iss.ctx t
      else
        match s.refCheck iss.ctx t with
        | some c => (s, .error (.trap c t.toNat))
        | none => (s, .ok t)
    else
      match s.targetCheck iss.core iss.ctx t false with
      | (s, .ok) => (s, .ok t)
      | (s, m) => (s, .error m)
  | none =>
    match s.targetCheck iss.core iss.ctx t false with
    | (s, .ok) => (s, .ok t)
    | (s, m) => (s, .error m)

theorem retTarget_listed (h : s.Listed) {iss : Issue} {f : FibreId} {t : Dword} : (s.retTarget iss f t).1.Listed := by
  have checked := h.memory (targetCheck_memory s iss.core iss.ctx t false)
  unfold retTarget
  split
  · refine ite_fst_listed (ite_fst_listed (afterRef_listed h) ?_) ?_
    · split <;> exact h
    · split
      · next e => exact fst_listed checked e
      · next e => exact fst_listed checked e
  · split
    · next e => exact fst_listed checked e
    · next e => exact fst_listed checked e

theorem retTargets_cons (iss : Issue) (x : FibreId × Dword) (r : List (FibreId × Dword)) : s.retTargets iss (x :: r) =
    match s.retTarget iss x.1 x.2 with
    | (s, .error m) => (s, .error m)
    | (s, .ok t) =>
      match s.retTargets iss r with
      | (s, .error m) => (s, .error m)
      | (s, .ok l) => (s, .ok ((x.1, t) :: l)) := rfl

theorem retTargets_listed (h : s.Listed) {iss : Issue} {l1 : List (FibreId × Dword)} : (s.retTargets iss l1).1.Listed := by
  induction l1 generalizing s with
  | nil => exact h
  | cons x r ih =>
    have one := retTarget_listed h (iss := iss) (f := x.1) (t := x.2)
    rw [retTargets_cons]
    split
    · next e => exact fst_listed one e
    · next e =>
      have rest := ih (fst_listed one e)
      split
      · next e => exact fst_listed rest e
      · next e => exact fst_listed rest e

theorem retFail_listed (h : s.Listed) {iss : Issue} {m : Move} : (s.retFail iss m).Listed :=
  moveFail_listed (each_listed h fun _ _ k => ite_listed k (modFibre_listed k))

theorem returnFrom_listed (h : s.Listed) {iss : Issue} {act : List (Nat × FibreId)} : (s.returnFrom iss act).Listed := by
  have found := retFinds_listed h (iss := iss) (l1 := State.byFid act)
  unfold returnFrom
  dsimp only
  split
  · next e => exact retFail_listed (fst_listed found e)
  · next t ls e =>
    have there := fst_listed found e
    have targets := retTargets_listed there (iss := iss) (l1 := founds ls)
    refine ite_listed (startRefills_listed there) ?_
    split
    · next e => exact retFail_listed (fst_listed targets e)
    · next e =>
      refine ite_listed (raise_listed (fst_listed targets e)) (goto_listed (each_listed
          (fst_listed targets e) fun _ _ k => ?_))
      exact ite_listed (releaseHeld_listed (modFibre_listed (modFibre_listed (popRef_listed k)))) (modFibre_listed
          (popRef_listed k))

theorem exitLanes_listed (h : s.Listed) {iss : Issue} {act : List (Nat × FibreId)} : (exitLanes s iss act).Listed :=
  ite_listed (raise_listed h) (exitFibres_listed (goto_listed h))

end State
end Sys2Proof.Machine
end

section
/-! Accesses to memory and their releases keep the lists of State.Listed in order. -/

namespace Sys2Proof.Machine
namespace State

variable {s : State}

/-! The checks of an access (06 R146, R150). -/

theorem translateAll_listed (h : s.Listed) {iss : Issue} {kind : WalkKind} {write : Bool} {l1 : List (FibreId × Nat)}
    : (s.translateAll iss kind write l1).1.Listed := by
  induction l1 generalizing s with
  | nil => exact h
  | cons x r ih =>
    obtain ⟨f, va⟩ := x
    have place := translate_listed h (core := iss.core) (ctx := iss.ctx) (va := va) (kind := kind) (write := write)
    have rest {u : State} (k : u.Listed) (o : Option Nat) :
        (match u.translateAll iss kind write r with
        | (s, .ok l) => (s, (.ok ((f, o) :: l) : Except Move (List (FibreId × Option Nat))))
        | (s, .error m) => (s, .error m)).1.Listed := by
      have others := ih k
      split
      · next e => exact fst_listed others e
      · next e => exact fst_listed others e
    unfold translateAll
    dsimp only
    split
    · next e => exact rest (fst_listed place e) _
    · next e => exact rest (fst_listed place e) _
    all_goals next e => exact fst_listed place e

theorem globalCheck_listed (h : s.Listed) {iss : Issue} {kind : WalkKind} {write : Bool} {size : Nat}
    {mem : State → FibreId → Nat → Bool} {source : FibreId → Bool} {l : List (FibreId × Nat)} :
    (s.globalCheck iss kind write size mem source l).1.Listed := by
  have placed := translateAll_listed h (iss := iss) (kind := kind) (write := write) (l1 := l)
  unfold globalCheck
  split
  · exact h
  · split
    · exact h
    · split
      · next e => exact fst_listed placed e
      · next e =>
        dsimp only
        split
        · exact fst_listed placed e
        · exact fst_listed placed e

theorem memFail_listed (h : s.Listed) {iss : Issue} {m : Move} {wr : Bool} : (s.memFail iss m wr).Listed := by
  unfold memFail
  split
  · exact parkPage_listed h
  · exact moveFail_listed h

theorem accessGate_listed (h : s.Listed) {iss : Issue} {fs : List FibreId} {store : Bool} :
    (s.accessGate iss fs store).1.Listed := ite_fst_listed (accessDone_listed h) h

theorem ownGate_listed (h : s.Listed) {iss : Issue} {ps : List (FibreId × Nat)} {n : Nat} {line : Bool} :
    (s.ownGate iss ps n line).1.Listed := by
  unfold ownGate
  exact ite_fst_listed { h with } (ite_fst_listed h (h.memory (cleanOwn_memory s iss.core _)))

/-! Loads and stores (06 R132 to R140; 07 R160). -/

theorem loadOne_listed (h : s.Listed) {iss : Issue} {o : XM} {act : List (Nat × FibreId)} {f : FibreId} {pa : Nat} :
    (loadOne s iss o act f pa).Listed := by
  unfold loadOne
  have hinted (b : Bool) : (if b then s.l2Hint pa o.res.toNat else s).Listed :=
    ite_listed (h.memory (l2Hint_memory s pa _)) h
  have read (b c : Bool) : (if b then s.sysRead pa (sizeBytes o)
      else (if c then s.l2Hint pa o.res.toNat else s).readHome iss.core pa (sizeBytes o)).2.Listed := by
    split
    · exact h.memory (sysRead_memory s pa _)
    · exact (hinted c).memory (readHome_memory _ iss.core pa _)
  have stale := h.memory (staleDrop_memory s iss.core (State.wordsOf pa (sizeBytes o)))
  have touched := h.memory (touchLine_memory s iss.core (pa / 64) (o.pol == 1) (o.res == 1) (o.res == 2))
  dsimp only
  refine ite_listed (addPending_listed (read _ _)) (ite_listed (addPending_listed ?_) ?_)
  · exact ite_listed (stale.memory (l2Hint_memory _ pa _)) stale
  · exact ite_listed (addPending_listed touched) (addPending_listed touched)

theorem storeAll_listed (h : s.Listed) {iss : Issue} {pol res : Nat} {l : List (FibreId × Nat × List Byte)} :
    (storeAll s iss pol res l).Listed :=
  each_listed h fun u _ k => ite_listed (k.memory (sysWrite_memory u _ _))
    (ite_listed ((k.memory (l2Hint_memory u _ _)).memory (homeWrite_memory _ _ _)) (k.memory (l1Store_memory ..)))

theorem storeChecked_listed (h : s.Listed) {iss : Issue} {act : List (Nat × FibreId)} {pol res : Nat} {rel : Bool}
    {before : List Nat} {l : List (FibreId × Nat × List Byte)} : (storeChecked s iss act pol res rel before l).Listed := by
  unfold storeChecked
  dsimp only
  refine ite_listed (delay_listed h) (ite_listed (storeAll_listed h) (ite_listed (delay_listed h) ?_))
  have gate (ps : List (FibreId × Nat)) (n : Nat) := ownGate_listed h (iss := iss) (ps := ps) (n := n) (line := false)
  split
  · next e => exact delay_listed (fst_listed (gate _ _) e)
  · next e => exact storeAll_listed (fst_listed (gate _ _) e)

theorem spadAll_listed (h : s.Listed) {l : List (FibreId × Nat × Nat × List Byte)} : (spadAll s l).Listed :=
  each_listed h fun _ _ k => spadWrite_listed k

theorem sendPacket_listed (h : s.Listed) {core : Nat} {f : FibreId} {count : List FibreId} {t ofs : Nat}
    {bs : List Byte} : (s.sendPacket core f count t ofs bs).Listed := by
  unfold sendPacket
  have counted := eachFibre_listed (l := count) (f := fun f => f) (g := fun _ _ x => { x with stc := x.stc + 1 })
      (newId_listed h)
  exact { counted with }

theorem stxAll_listed (h : s.Listed) {core : Nat} {count : FibreId → List FibreId}
    {l : List (FibreId × Nat × Nat × List Byte)} : (stxAll s core count l).Listed :=
  each_listed h fun _ _ k => ite_listed (sendPacket_listed k) (spadWrite_listed k)

theorem prefAll_listed (h : s.Listed) {iss : Issue} {l1 : List Nat} : (prefAll s iss l1).1.Listed := by
  induction l1 generalizing s with
  | nil => exact h
  | cons va r ih =>
    have rest := ih (translate_listed h (core := iss.core) (ctx := iss.ctx) (va := va) (kind := .read) (write := false))
    unfold prefAll
    refine ite_fst_listed h ?_
    generalize s.translate iss.core iss.ctx va .read false = x at rest
    obtain ⟨u, x⟩ := x
    dsimp only at rest ⊢
    split
    · next e => exact fst_listed rest e
    · next e =>
      split
      · exact fst_listed rest e
      · exact fst_listed rest e

theorem prefCheck_listed (h : s.Listed) {iss : Issue} {vas : List Nat} : (prefCheck s iss vas).1.Listed := by
  unfold prefCheck
  split
  · exact h
  · exact prefAll_listed h

theorem prefLine_listed (h : s.Listed) {core : Nat} {o : XM} {l : Nat} : (prefLine s core o l).Listed := by
  unfold prefLine
  refine ite_listed h (ite_listed ((h.memory (l2Hint_memory s _ _)).memory (guestAdd_memory _ _ _)) ?_)
  exact each_listed (h.memory (touchLine_memory ..)) fun u q k => ite_listed k (k.memory (l1Fill_memory u core q))

theorem cacheLines_listed (h : s.Listed) {iss : Issue} {i : Instr} {o : XM} {back : Bool} {act : List (Nat × FibreId)}
    : (cacheLines s iss i o back act).1.Listed := by
  unfold cacheLines
  have checked (mem : State → FibreId → Nat → Bool) := globalCheck_listed h (iss := iss) (kind := .read) (write := false)
    (size := 1) (mem := mem) (source := s.badLane iss (usesOf i)) (l := (State.byFid act).map fun x =>
        (x.2, s.globalEA iss x.2 o))
  dsimp only
  split
  · next e => exact fst_listed (checked _) e
  · next e => exact fst_listed (checked _) e

theorem cleanLine_listed (h : s.Listed) {core line : Nat} : (cleanLine s core line).Listed :=
  each_listed h fun u w k => (k.memory (writeBack_memory u core w)).memory (l1Put_memory ..)

/-! Atomics (06 R142; 07 R160). -/

theorem atomHome_listed (h : s.Listed) {pol res op n pa x c : Nat} : (atomHome s pol res op n pa x c).2.Listed := by
  have old : (if pol == 3 then s.flushSectors pa n else s.l2Hint pa res).Listed :=
    ite_listed (h.memory (flushSectors_memory s pa n)) (h.memory (l2Hint_memory s pa res))
  unfold atomHome
  exact ite_listed (old.memory (sysWrite_memory _ pa _)) (old.memory (homeWrite_memory _ pa _))

theorem atomOne_listed (h : s.Listed) {iss : Issue} {o : XM} {op : Nat} {act : List (Nat × FibreId)} {f : FibreId}
    {pa : Nat} : (atomOne s iss o op act f pa).Listed := addPending_listed (atomHome_listed h)

theorem atomLater_listed (h : s.Listed) {iss : Issue} {o : XM} {act : List (Nat × FibreId)} {l1 : List FibreId} :
    (atomLater s iss o act l1).2.Listed := by
  induction l1 generalizing s with
  | nil => exact h
  | cons f r ih => exact ih (addPending_listed h)

theorem holdFor_listed (h : s.Listed) {fs : List FibreId} {acq : Bool} {ids : List Nat} :
    (holdFor s fs acq ids).Listed := ite_listed h (eachFibre_listed (f := fun f => f) h)

theorem atomsHome_listed (h : s.Listed) {op n t ofs x c : Nat} : (atomsHome s op n t ofs x c).2.Listed := spadWrite_listed h

theorem atomAnswer_listed (h : s.Listed) {id n : Nat} {old : List Byte} {bad : Bool} :
    (s.atomAnswer id n old bad).Listed := by
  unfold atomAnswer
  split
  · exact h
  · next e => exact putPending_listed h (h.pending_lt e)

theorem releaseGate_listed (h : s.Listed) {r : Release} : (s.releaseGate r).1.Listed := by
  unfold releaseGate
  dsimp only
  split
  · exact ite_fst_listed h (ite_fst_listed h (ownGate_listed h))
  · exact ite_fst_listed h (ownGate_listed h)
  all_goals exact h

theorem releases_listed (h : s.Listed) (l : KV Release) : ({ s with releases := l } : State).Listed := { h with }

theorem releaseDo_listed (h : s.Listed) {id : Nat} {r : Release} : (s.releaseDo id r).Listed := by
  unfold releaseDo
  have taken := releases_listed h (s.releases.del id)
  generalize ({ s with releases := s.releases.del id } : State) = u at taken
  refine eachFibre_listed (f := fun f => f) ?_
  split
  · exact storeAll_listed taken
  · have done (l : List (FibreId × Nat × Nat × Nat × Nat)) (pol res op n : Nat) : (u.each l fun s y =>
        (atomHome s pol res op n y.2.1 y.2.2.1 y.2.2.2.1).2.atomAnswer y.2.2.2.2 n
          (atomHome s pol res op n y.2.1 y.2.2.1 y.2.2.2.1).1 (s.eccBad y.2.1 n)).Listed :=
      each_listed taken fun _ _ k => atomAnswer_listed (atomHome_listed k)
    exact ite_listed ((done _ _ _ _ _).memory (l1Acquire_memory _ _)) (done _ _ _ _ _)
  · have done (l : List (FibreId × Nat × Nat × Nat × Nat × Nat)) (op n : Nat) : (u.each l fun s y =>
        (atomsHome s op n y.2.1 y.2.2.1 y.2.2.2.1 y.2.2.2.2.1).2.atomAnswer y.2.2.2.2.2 n
          (atomsHome s op n y.2.1 y.2.2.1 y.2.2.2.1 y.2.2.2.2.1).1 (s.spadBad y.2.1 y.2.2.1 n)).Listed :=
      each_listed taken fun _ _ k => atomAnswer_listed (atomsHome_listed k)
    exact ite_listed ((done _ _ _).memory (l1Acquire_memory _ _)) (done _ _ _)
  · exact spadAll_listed taken
  · exact stxAll_listed taken
  · exact enterNow_listed taken

theorem releaseTry_listed (h : s.Listed) {id : Nat} : (s.releaseTry id).Listed := by
  unfold releaseTry
  split
  · exact h
  · next r _ =>
    have gate := releaseGate_listed h (r := r)
    refine ite_listed h ?_
    split
    · next e => exact fst_listed gate e
    · next e => exact releaseDo_listed (fst_listed gate e)

theorem performReleases_listed (h : s.Listed) : (s.performReleases).Listed := each_listed h fun _ _ k => releaseTry_listed k

theorem toAll_listed (h : s.Listed) {iss : Issue} {i : Instr} {act : List (Nat × FibreId)} {d : Opnd} {r : LaneRes}
    {one : Dword} : (toAll s iss i act d r one).Listed := by
  unfold toAll
  split
  · exact finish_listed h
  · split
    · exact finish_listed h
    · exact finish_listed h

end State
end Sys2Proof.Machine
end

section
/-! Queues keep the lists of State.Listed in order (08 R170 to R182). -/

namespace Sys2Proof.Machine
namespace State

variable {s : State}

/-! Control blocks and requests. -/

theorem qRead_listed (h : s.Listed) {pa : Nat} : (s.qRead pa).2.Listed := h.memory (qRead_memory s pa)

theorem qWrite_listed (h : s.Listed) {pa : Nat} {b : QBlock} : (s.qWrite pa b).Listed := h.memory (qWrite_memory s pa b)

theorem qRemote_listed (h : s.Listed) {pa die : Nat} : (s.qRemote pa die).Listed := h.memory (qRemote_memory s pa die)

theorem qSlots_listed (h : s.Listed) {ctx : Nat} {b : QBlock} {i n : Nat} {write : Bool} :
    (s.qSlots ctx b i n write).1.Listed := h.memory (qSlots_memory s ctx b i n write)

theorem qOwn_listed (h : s.Listed) {core pa : Nat} : (s.qOwn core pa).Listed := h.memory (cleanOwn_memory s core _)

theorem qReach_listed (h : s.Listed) {ctx : Nat} {b : QBlock} {i n : Nat} : (s.qReach ctx b i n).1.Listed :=
  h.memory (qPlaces_memory s ctx b i n false false)

theorem reservations_listed (h : s.Listed) (l : KV Reservation) : ({ s with reservations := l } : State).Listed := { h with }

theorem qReserve_listed (h : s.Listed) {pa ctx : Nat} {b : QBlock} {pieces : List (Nat × Nat)}
    {data : List (List Byte)} {request core : Option Nat} : (s.qReserve pa ctx b pieces data request core).2.Listed :=
  reservations_listed (qWrite_listed (newId_listed h)) _

theorem qConsume_listed (h : s.Listed) {pa : Nat} {b : QBlock} {n : Nat} : (s.qConsume pa b n).Listed := qWrite_listed h

theorem delRequest_listed (h : s.Listed) {id : Nat} : ({ s with requests := s.requests.del id } : State).Listed :=
  { h with requests := KV.sorted_del _ h.requests }

theorem unpark_listed (h : s.Listed) {id : Nat} {r : Request} : (s.unpark id r).Listed :=
  eachFibre_listed (f := Prod.snd) (delRequest_listed h)

theorem qDeliver_listed (h : s.Listed) {id : Nat} {r : Request} {e : QFail} : (s.qDeliver id r e).Listed :=
  memFail_listed (unpark_listed h)

theorem modRequest_listed (h : s.Listed) {id : Nat} {f : Request → Request} : (s.modRequest id f).Listed := by
  unfold modRequest
  exact { h with requests := KV.sorted_upd _ _ h.requests }

theorem queues_listed (h : s.Listed) {m : KV Waiters} (sorted : KV.sorted m = true) :
    ({ s with queues := m } : State).Listed :=
  { h with queues := sorted }

theorem putQueue_listed (h : s.Listed) {pa : Nat} {w : Waiters} : ({ s with queues := s.queues.put pa w } : State).Listed :=
  { h with queues := KV.sorted_put _ _ h.queues }

theorem qFlags_listed (h : s.Listed) {pa : Nat} : (s.qFlags pa).Listed := by
  have read := qRead_listed h (pa := pa)
  unfold qFlags
  dsimp only
  generalize s.qRead pa = x at read ⊢
  exact ite_listed read (qWrite_listed read)

theorem qPark_listed (h : s.Listed) {id : Nat} {r : Request} : (s.qPark id r).Listed :=
  qFlags_listed (putQueue_listed (modRequest_listed h))

theorem qUnspill_listed (h : s.Listed) {pa : Nat} : (s.qUnspill pa).Listed := by
  unfold qUnspill
  refine ite_listed h ?_
  split
  · exact qFlags_listed (modRequest_listed h)
  · exact h

theorem qLeave_listed (h : s.Listed) {id : Nat} {r : Request} : (s.qLeave id r).Listed := by
  have moved := modRequest_listed h (id := id) (f := fun r => { r with state := 2, spilled := false })
  unfold qLeave
  refine qUnspill_listed (qFlags_listed (queues_listed moved ?_))
  split
  · exact KV.sorted_del _ moved.queues
  · exact KV.sorted_put _ _ moved.queues

theorem countChild_listed (h : s.Listed) {r : Request} : (s.countChild r).Listed :=
  ite_listed (updLaunches_listed h (fun _ k => by exact k)) h

/-! The home's operations (08 R173 to R177). -/

theorem homeCheck_listed (h : s.Listed) {r : Request} {n : Nat} : (s.homeCheck r n).1.Listed := by
  have read := qRead_listed h (pa := r.pa)
  unfold homeCheck
  generalize s.qRead r.pa = x at read ⊢
  obtain ⟨b, u⟩ := x
  exact ite_fst_listed h (ite_fst_listed read (ite_fst_listed read (ite_fst_listed read read)))

theorem qDrop_listed (h : s.Listed) {id : Nat} {r : Request} {e : QFail} : (s.qDrop id r e).1.Listed :=
  qDeliver_listed (qLeave_listed h)

theorem grantEnq_listed (h : s.Listed) {id : Nat} {r : Request} : (s.grantEnq id r).1.Listed := by
  have checked := homeCheck_listed (qOwn_listed h (core := r.iss.core) (pa := r.pa)) (r := r) (n := r.data.length)
  unfold grantEnq
  dsimp only
  split
  · next e => exact qDrop_listed (fst_listed checked e)
  · next u b e =>
    have slots := qSlots_listed (fst_listed checked e) (ctx := r.iss.ctx) (b := b) (i := qRtail b) (n := r.data.length)
      (write := true)
    refine ite_fst_listed (fst_listed checked e) ?_
    split
    · next e => exact qDrop_listed (fst_listed slots e)
    · next t ps e =>
      have read := qRead_listed (qLeave_listed (fst_listed slots e) (id := id) (r := r)) (pa := r.pa)
      generalize (t.qLeave id r).qRead r.pa = x at read ⊢
      exact countChild_listed (qRemote_listed (modRequest_listed (qReserve_listed read)))

theorem grantDeq_listed (h : s.Listed) {id : Nat} {r : Request} : (s.grantDeq id r).1.Listed := by
  have checked := homeCheck_listed (qOwn_listed h (core := r.iss.core) (pa := r.pa)) (r := r) (n := r.ranks.length)
  unfold grantDeq
  dsimp only
  split
  · next e => exact qDrop_listed (fst_listed checked e)
  · next u b e =>
    have slots := qSlots_listed (fst_listed checked e) (ctx := r.iss.ctx) (b := b) (i := qHeadIdx b) (n := r.ranks.length)
      (write := false)
    refine ite_fst_listed (fst_listed checked e) ?_
    split
    · next e => exact qDrop_listed (fst_listed slots e)
    · next t ps e =>
      have read := qRead_listed (qLeave_listed (fst_listed slots e) (id := id) (r := r)) (pa := r.pa)
      generalize (t.qLeave id r).qRead r.pa = x at read ⊢
      have dropped := each_listed (l := ps) (f := fun s p => s.staleDrop r.iss.core (wordsOf p.1 p.2)) read
        fun v p k => k.memory (staleDrop_memory v r.iss.core (wordsOf p.1 p.2))
      exact qRemote_listed (modRequest_listed (qConsume_listed dropped))

/-- The head dequeue waiter's turn. -/
theorem dequeueHead_listed (h : s.Listed) {pa : Nat} :
    (match s.headRequest (s.queues.getD pa {}).deq with
      | some (i, r) => s.grantDeq i r
      | none => (s, false)).1.Listed := by
  split
  · exact grantDeq_listed h
  · exact h

theorem qServeOne_listed (h : s.Listed) {pa : Nat} : (s.qServeOne pa).1.Listed := by
  unfold qServeOne
  dsimp only
  split
  · exact dequeueHead_listed h
  · next i r _ =>
    have granted := grantEnq_listed h (id := i) (r := r)
    split
    · next e => exact fst_listed granted e
    · next e => exact dequeueHead_listed (fst_listed granted e)

theorem qServe_listed (h : s.Listed) {pa : Nat} {l1 : Nat} : (s.qServe pa l1).Listed := by
  induction l1 generalizing s with
  | zero => exact h
  | succ n ih =>
    have one := qServeOne_listed h (pa := pa)
    unfold qServe
    split
    · next e => exact ih (fst_listed one e)
    · next e => exact fst_listed one e

theorem qServeAll_listed (h : s.Listed) {pa : Nat} : (s.qServeAll pa).Listed := qServe_listed h

theorem qOffer_listed (h : s.Listed) {ctx pa esz die : Nat} {data : List (List Byte)} :
    (s.qOffer ctx pa esz die data).1.Listed := by
  have read := qRead_listed h (pa := pa)
  unfold qOffer
  generalize s.qRead pa = x at read ⊢
  obtain ⟨b, u⟩ := x
  have slots := qSlots_listed read (ctx := ctx) (b := b) (i := qRtail b) (n := data.length) (write := true)
  dsimp only at read slots ⊢
  refine ite_fst_listed read (ite_fst_listed read (ite_fst_listed read (ite_fst_listed read (ite_fst_listed read ?_))))
  split
  · next e => exact fst_listed slots e
  · next e => exact qRemote_listed (qReserve_listed (fst_listed slots e))

theorem qTake_listed (h : s.Listed) {ctx pa esz : Nat} : (s.qTake ctx pa esz).1.Listed := by
  have read := qRead_listed h (pa := pa)
  unfold qTake
  generalize s.qRead pa = x at read ⊢
  obtain ⟨b, u⟩ := x
  have slots := qSlots_listed read (ctx := ctx) (b := b) (i := qHeadIdx b) (n := 1) (write := false)
  dsimp only at read slots ⊢
  refine ite_fst_listed read (ite_fst_listed read (ite_fst_listed read (ite_fst_listed read (ite_fst_listed read ?_))))
  split
  · next e => exact fst_listed slots e
  · next e => exact qServeAll_listed (qConsume_listed (fst_listed slots e))

theorem cbCheck_listed (h : s.Listed) {iss : Issue} {cb : Nat} {kind : WalkKind} {write : Bool} :
    (s.cbCheck iss cb kind write).1.Listed := by
  have place := translate_listed h (core := iss.core) (ctx := iss.ctx) (va := cb) (kind := kind) (write := write)
  unfold cbCheck
  refine ite_fst_listed h (ite_fst_listed h ?_)
  split
  all_goals next e => exact fst_listed place e

end State
end Sys2Proof.Machine
end

section
/-! Channels, tiles, the network and the copy engine keep the lists of State.Listed in order. -/

namespace Sys2Proof.Machine
namespace State

variable {s : State}

/-! Updates of what is listed nowhere, and of commands. -/

theorem fresh_listed (h : s.Listed) (n : Nat) : ({ s with fresh := n } : State).Listed := { h with }

theorem dev_listed (h : s.Listed) (d : Device) : ({ s with dev := d } : State).Listed := { h with }

theorem wire_listed (h : s.Listed) (l : List Wired) : ({ s with wire := l } : State).Listed := { h with }

theorem qps_listed (h : s.Listed) (l : KV QueuePair) : ({ s with qps := l } : State).Listed := { h with }

theorem cmds_listed (h : s.Listed) {m : KV Cmd} (sorted : KV.sorted m = true) : ({ s with cmds := m } : State).Listed :=
  { h with cmds := sorted }

theorem updCmd_listed (h : s.Listed) {id : Nat} {f : Cmd → Cmd} : ({ s with cmds := s.cmds.upd id f } : State).Listed :=
  cmds_listed h (KV.sorted_upd _ _ h.cmds)

theorem putCmd_listed (h : s.Listed) {id : Nat} {c : Cmd} : ({ s with cmds := s.cmds.put id c } : State).Listed :=
  cmds_listed h (KV.sorted_put _ _ h.cmds)

/-! Requests and channels (08 R176, R184 to R187). -/

theorem putRequest_listed (h : s.Listed) {id : Nat} {r : Request} :
    ({ s with requests := s.requests.put id r } : State).Listed :=
  { h with requests := KV.sorted_put _ _ h.requests }

theorem sendRequest_listed (h : s.Listed) {r : Request} : (s.sendRequest r).Listed :=
  park_listed (putRequest_listed (newId_listed h))

theorem passPublished_listed (h : s.Listed) {pa : Nat} {l1 : Nat} : (passPublished s pa l1).Listed := by
  induction l1 generalizing s with
  | zero => exact h
  | succ n ih =>
    have read := qRead_listed h (pa := pa)
    unfold passPublished
    generalize s.qRead pa = x at read
    obtain ⟨b, u⟩ := x
    dsimp only at read ⊢
    split
    · exact ih (qWrite_listed (reservations_listed read _))
    · exact read

theorem modChannel_listed (h : s.Listed) {l cid : Nat} {f : Channel → Channel} : (s.modChannel l cid f).Listed :=
  modLaunch_listed h (fun _ k => by exact k)

theorem rejoinChannels_listed (h : s.Listed) {ctx : Nat} : (s.rejoinChannels ctx).Listed :=
  each_listed h fun _ _ k => modLaunch_listed k (fun _ k => by exact k)

/-! Tiles (10 R218, R223). -/

theorem modTile_listed (h : s.Listed) {tid n : Nat} {f : Tile → Tile} : (s.modTile tid n f).Listed := by
  unfold modTile
  exact modTeam_listed h (fun _ => by rfl) (fun _ => by rfl)

theorem tilePut_listed (h : s.Listed) {tid n : Nat} {mat : Bool} {row col : Nat} {bs : List Byte} :
    (s.tilePut tid n mat row col bs).Listed := by
  have spoilt (n : Nat) (l : List Place) : ({ s with fresh := n, badElse := l } : State).Listed := { h with }
  unfold tilePut
  exact modTeam_listed (spoilt _ _) (fun _ => by rfl) (fun _ => by rfl)

theorem tileWrite_listed (h : s.Listed) {tid n ofs : Nat} {bs : List Byte} : (s.tileWrite tid n ofs bs).Listed :=
  tilePut_listed h

/-! Packets that leave (15 R308 to R313). -/

theorem modDev_listed (h : s.Listed) {f : Device → Device} : (s.modDev f).Listed := dev_listed h _

theorem modPort_listed (h : s.Listed) {n : Nat} {f : NetPort → NetPort} : (s.modPort n f).Listed := dev_listed h _

theorem pump_listed (h : s.Listed) {n : Nat} : (s.pump n).Listed :=
  ite_listed h (ite_listed h (wire_listed (modPort_listed h) _))

theorem sendOut_listed (h : s.Listed) {n : Nat} {o : Outgoing} : (s.sendOut n o).Listed := pump_listed (modPort_listed h)

theorem transmit_listed (h : s.Listed) {n : Nat} {v6 : Bool} {ip : Nat} {pkt : Sent} : (s.transmit n v6 ip pkt).Listed := by
  unfold transmit
  split
  · exact h
  · exact sendOut_listed (ite_listed h (modPort_listed h))

theorem sendQp_listed (h : s.Listed) {qpn : Nat} {pkt : Sent} : (s.sendQp qpn pkt).Listed := transmit_listed h

theorem requestQp_listed (h : s.Listed) {qpn n : Nat} {mk : Nat → Nat → Sent} : (s.requestQp qpn n mk).Listed :=
  ite_listed (qps_listed h _) (sendQp_listed (qps_listed h _))

theorem sendUnsent_listed (h : s.Listed) {qpn : Nat} : (s.sendUnsent qpn).Listed :=
  ite_listed h (each_listed (qps_listed h _) fun _ _ k => sendQp_listed k)

/-! The engines' timelines and barriers (09 R199 to R204). -/

theorem copyFinished_listed (h : s.Listed) {tid num : Nat} : (s.copyFinished tid num).Listed := by
  unfold copyFinished
  exact modTeam_listed h (fun _ => by rfl) (fun _ => by rfl)

theorem matFinished_listed (h : s.Listed) {tid num : Nat} : (s.matFinished tid num).Listed := by
  unfold matFinished
  exact modTeam_listed h (fun _ => by rfl) (fun _ => by rfl)

theorem engineError_listed (h : s.Listed) {tid cause : Nat} : (s.engineError tid cause).Listed :=
  ite_listed h (wakeEngine_listed (modTeam_listed h (fun _ => by rfl) (fun _ => by rfl)))

theorem modTarget_listed (h : s.Listed) {id t : Nat} {f : CTarget → CTarget} : (s.modTarget id t f).Listed := updCmd_listed h

theorem barrierUpdate_listed (h : s.Listed) {owner ofs : Nat} {t : CTarget} {f : Barrier → Barrier} :
    (s.barrierUpdate owner ofs t f).Listed :=
  ite_listed h (ite_listed (engineError_listed h) (ite_listed (engineError_listed h)
    (barrierNoted_listed s (barrierPut_listed h))))

theorem arriveTarget_listed (h : s.Listed) {id t : Nat} {bytes : Nat} {fl : Bool} :
    (s.arriveTarget id t bytes fl).Listed := by
  unfold arriveTarget
  split
  · exact h
  · split
    · exact modTarget_listed (barrierUpdate_listed h)
    · exact h

theorem subtractTarget_listed (h : s.Listed) {c : Cmd} {x : CTarget} {bytes : Nat} {fl : Bool} :
    (s.subtractTarget c x bytes fl).Listed := by
  unfold subtractTarget
  split
  · exact h
  · exact barrierUpdate_listed h

theorem landTarget_listed (h : s.Listed) {id t : Nat} {ofs : Nat} {bs : List Byte} : (s.landTarget id t ofs bs).Listed := by
  unfold landTarget
  split
  · exact h
  · split
    · exact h
    · have sent (n : Nat) := modTarget_listed h (id := id) (t := t) (f := fun x => { x with sent := x.sent + n })
      exact ite_listed (subtractTarget_listed (spadWrite_listed (sent _))) (modTeam_listed (modTarget_listed (sent _))
          (fun _ => by rfl) (fun _ => by rfl))

/-! The units of a command (09 R192 to R198). -/

theorem rowPlaces_listed (h : s.Listed) {c : Cmd} {write net : Bool} {l1 : List (Nat × Nat)} :
    (s.rowPlaces c write net l1).1.Listed := by
  induction l1 generalizing s with
  | nil => exact h
  | cons x r ih =>
    obtain ⟨va, n⟩ := x
    have place := translate_listed h (core := c.core) (ctx := c.ctx) (va := va) (kind := .copy) (write := false)
    unfold rowPlaces
    split
    · next e => exact fst_listed place e
    · next e => exact fst_listed place e
    · next e => exact fst_listed place e
    · next e =>
      have rest := ih (fst_listed place e)
      refine ite_fst_listed ?_ (fst_listed place e)
      split
      · next e => exact fst_listed rest e
      · next e => exact fst_listed rest e
    · next e =>
      have rest := ih (fst_listed place e)
      split
      · next e => exact fst_listed rest e
      · next e => exact fst_listed rest e

theorem eachHint_listed (h : s.Listed) (l : List Nat) (res : Nat) :
    (s.each l fun s line => s.l2Hint (64 * line) res).Listed := each_listed h fun u _ k => k.memory (l2Hint_memory u _ _)

theorem placeRead_listed (h : s.Listed) {c : Cmd} {p : Piece} : (s.placeRead c p).2.Listed := by
  unfold placeRead
  split
  · split
    · exact h.memory (sysRead_memory s _ _)
    · exact eachHint_listed h _ _
  · dsimp only
    exact requestQp_listed (fresh_listed h _)

theorem placeWrite_listed (h : s.Listed) {c : Cmd} {p : Piece} {bs : List Byte} : (s.placeWrite c p bs).Listed := by
  unfold placeWrite
  split
  · exact ite_listed (h.memory (sysWrite_memory s _ _)) ((eachHint_listed h _ _).memory (homeWrite_memory _ _ _))
  · exact requestQp_listed h

theorem placesRead_listed (h : s.Listed) {c : Cmd} {l1 : List Piece} : (s.placesRead c l1).2.Listed := by
  induction l1 generalizing s with
  | nil => exact h
  | cons p r ih => exact ih (placeRead_listed h)

theorem placesWrite_listed (h : s.Listed) {c : Cmd} {l1 : List Piece} {l2 : List Byte} :
    (s.placesWrite c l1 l2).Listed := by
  induction l1 generalizing s l2 with
  | nil => exact h
  | cons p r ih =>
    cases p with
    | mem pa n => exact ih (placeWrite_listed h)
    | net e o n => exact ih (placeWrite_listed h)

theorem unitRead_listed (h : s.Listed) {c : Cmd} {src : Int} {n : Nat} : (s.unitRead c src n).1.Listed := by
  have places := rowPlaces_listed h (c := c) (write := false) (net := c.kind != 4) (l1 := pagesOf n (globalAddr src) n)
  unfold unitRead
  refine ite_fst_listed ?_ (ite_fst_listed h h)
  split
  · next e => exact fst_listed places e
  · next e => exact ite_fst_listed (fst_listed places e) (placesRead_listed (fst_listed places e))

theorem unitDo_listed (h : s.Listed) {id : Nat} {c : Cmd} {src dst : Int} {n : Nat} :
    (s.unitDo id c src dst n).1.Listed := by
  have places := rowPlaces_listed h (c := c) (write := true) (net := c.mode == 0) (l1 := pagesOf n (globalAddr dst) n)
  unfold unitDo
  refine ite_fst_listed ?_ ?_
  · split
    · next e => exact fst_listed places e
    · next e =>
      have read := unitRead_listed (fst_listed places e) (c := c) (src := src) (n := n)
      split
      · next e => exact fst_listed read e
      · next e =>
        have there := fst_listed read e
        exact ite_fst_listed (placesWrite_listed there) (ite_fst_listed there (placesWrite_listed (placesRead_listed there)))
  · have read := unitRead_listed h (c := c) (src := src) (n := n)
    split
    · next e => exact fst_listed read e
    · next e =>
      have there := fst_listed read e
      refine ite_fst_listed (tileWrite_listed there) (each_listed ?_ fun _ _ k => modTarget_listed k)
      exact ite_listed (fresh_listed there _) there

theorem notePosts_listed (s : State) {t : State} (h : t.Listed) {id : Nat} : (s.notePosts t id).Listed :=
  ite_listed h (updCmd_listed h)

theorem unitsDo_listed (h : s.Listed) {id : Nat} {l1 : Nat} {l2 : Option Nat} : (s.unitsDo id l1 l2).1.Listed := by
  induction l1 generalizing s l2 with
  | zero => exact h
  | succ fuel ih =>
    unfold unitsDo
    split
    · exact h
    · next c _ =>
      refine ite_fst_listed h ?_
      dsimp only
      split
      · exact ih (updCmd_listed h)
      · next a b n _ =>
        have done := unitDo_listed h (id := id) (c := c) (src := a) (dst := b) (n := n)
        refine ite_fst_listed h ?_
        split
        · next e => exact fst_listed done e
        · next e => exact ih (updCmd_listed (notePosts_listed s (fst_listed done e)))

/-! The targets of a command, and its end (09 R196 to R202). -/

theorem startTarget_listed (h : s.Listed) {id t : Nat} : (s.startTarget id t).Listed := by
  unfold startTarget
  split
  · exact h
  · split
    · exact h
    · refine ite_listed h ?_
      split
      · exact modTarget_listed h
      · exact h

theorem landHead_listed (h : s.Listed) {id t : Nat} : (s.landHead id t).Listed := by
  unfold landHead
  split
  · exact h
  · split
    · exact h
    · split
      · exact h
      · exact landTarget_listed (modTarget_listed h)

theorem flushTargets_listed (h : s.Listed) {id : Nat} : (s.flushTargets id).Listed := by
  unfold flushTargets
  split
  · exact h
  · exact each_listed h fun _ _ k =>
      ite_listed k (each_listed (ite_listed (arriveTarget_listed k) k) fun _ _ k => landHead_listed k)

theorem tileReady_listed (h : s.Listed) {c : Cmd} : (s.tileReady c).Listed := ite_listed (modTile_listed h) h

theorem failCmd_listed (h : s.Listed) {id cause : Nat} : (s.failCmd id cause).Listed := by
  unfold failCmd
  split
  · exact h
  · next c _ =>
    have failed := updCmd_listed (tileReady_listed (flushTargets_listed (engineError_listed h (tid := c.tid)
        (cause := cause))
      (id := id)) (c := c)) (id := id) (f := fun c => { c with failed := true, parked := none })
    dsimp only
    split
    · exact failed
    · exact each_listed failed fun _ _ k => ite_listed (modTarget_listed k) (subtractTarget_listed k)

theorem scatterDo_listed (h : s.Listed) {id : Nat} {c : Cmd} {r : Nat} : (s.scatterDo id c r).1.Listed := by
  unfold scatterDo
  split
  · exact h
  · next a b n _ =>
    have done := unitDo_listed h (id := id) (c := c) (src := a) (dst := b) (n := n)
    have read := unitRead_listed h (c := c) (src := a) (n := n)
    refine ite_fst_listed ?_ ?_
    · split
      · next e => exact updCmd_listed (notePosts_listed s (fst_listed done e))
      · next e => exact fst_listed done e
    · split
      · next e => exact fst_listed read e
      · next e =>
        have noted := notePosts_listed s (fst_listed read e) (id := id)
        exact ite_fst_listed noted (updCmd_listed (landTarget_listed noted))

theorem cmdObstacle_go_listed (h : s.Listed) {id : Nat} {c : Cmd} {l : List Nat} : (cmdObstacle.go id c s l).1.Listed := by
  induction l with
  | nil => exact h
  | cons r l ih =>
    have done := scatterDo_listed h (id := id) (c := c) (r := r)
    unfold cmdObstacle.go
    split
    · next e => exact fst_listed done e
    · exact ih

theorem cmdObstacle_listed (h : s.Listed) {id : Nat} {c : Cmd} : (s.cmdObstacle id c).1.Listed := by
  unfold cmdObstacle
  refine ite_fst_listed h (ite_fst_listed (cmdObstacle_go_listed h) ?_)
  have units (c : Cmd) := unitsDo_listed (putCmd_listed h (id := id) (c := c)) (id := id) (l1 := 1) (l2 := none)
  dsimp only
  split
  · next e => exact fst_listed (units _) e
  · exact h

theorem acceptCmd_listed (h : s.Listed) {iss : Issue} {act : List (Nat × FibreId)} {d : Opnd} {c : Cmd} :
    (s.acceptCmd iss act d c).Listed := by
  unfold acceptCmd
  have counted := eachFibre_listed (l := act) (f := Prod.snd) (g := fun _ _ f =>
    let f := { f with openBatch := f.openBatch.put c.tid (s.team c.tid).copyNext }
    if c.kind == 4 then { f with tlc := f.tlc + 1 } else { f with cpc := f.cpc + 1 })
    (modTeam_listed h (n := c.tid) (f := fun t => { t with copyNext := t.copyNext + 1 }) (fun _ => by rfl) (fun _ => by rfl))
  refine advance_listed (each_listed ?_ fun _ _ k => ite_listed (arriveTarget_listed k) k)
  dsimp only
  split
  · exact gWriteNow_listed (putCmd_listed (newId_listed counted))
  · exact putCmd_listed (newId_listed counted)

theorem postCmd_listed (h : s.Listed) {iss : Issue} {act : List (Nat × FibreId)} {d : Opnd} {c : Cmd} :
    (s.postCmd iss act d c).Listed := ite_listed (stall_listed h) (acceptCmd_listed h)

theorem checked_listed (h : s.Listed) {iss : Issue} {act : List (Nat × FibreId)} {i : Instr} {l : List (Bool × Check)}
    {k : State → State} (hk : (k s).Listed) : (checked s iss act i l k).Listed := by
  unfold checked
  split
  · exact raise_listed h
  · exact sourced_listed h hk

theorem withTensor_listed (h : s.Listed) {iss : Issue} {act : List (Nat × FibreId)} {c : Dword}
    {k : State → Tensor → List Nat → State} (hk : ∀ t dw, (k s t dw).Listed) : (withTensor s iss act c k).Listed := by
  unfold withTensor
  refine ite_listed (stall_listed h) ?_
  split
  · exact raise_listed h
  · dsimp only
    split
    · exact raise_listed h
    · exact hk _ _

theorem unlessStop_listed (h : s.Listed) {iss : Issue} {k : State → State} (hk : (k s).Listed) :
    (unlessStop s iss k).Listed :=
  ite_listed (parkStop_listed h) hk

/-! Banks and regions (10 R220, R221, R232). -/

theorem tileEmptied_listed (h : s.Listed) {tid n : Nat} : (tileEmptied s tid n).Listed :=
  wakeEngine_listed (modTile_listed h)

theorem takeBanks_listed (h : s.Listed) {tid first n : Nat} : (s.takeBanks tid first n).Listed := by
  unfold takeBanks
  exact modTeam_listed (fresh_listed h _) (fun _ => by rfl) (fun _ => by rfl)

theorem answerBanks_listed (h : s.Listed) {gid : Nat} {mask : Dword} : (s.answerBanks gid mask).Listed := by
  unfold answerBanks
  dsimp only
  split
  · exact h
  · exact each_listed (gWriteNow_listed h) fun _ _ k => wakeTo_listed k

theorem serveBanks_go_listed (h : s.Listed) {core n : Nat} : (serveBanks.go core n s).Listed := by
  induction n generalizing s with
  | zero => exact h
  | succ k ih =>
    unfold serveBanks.go
    split
    · exact h
    · next tid m gid r _ =>
      have popped := modCore_listed h (n := core) (f := fun c => { c with bankQueue := r }) (fun _ => by rfl)
      refine ite_listed (ih (answerBanks_listed popped)) ?_
      split
      · exact ih (answerBanks_listed (takeBanks_listed popped))
      · exact h

theorem serveBanks_listed (h : s.Listed) {core : Nat} : (s.serveBanks core).Listed :=
  serveBanks_go_listed (modCore_listed h (fun _ => by rfl))

theorem freeBanks_listed (h : s.Listed) {tid : Nat} {bs : List Nat} : (s.freeBanks tid bs).Listed := by
  unfold freeBanks
  exact serveBanks_listed (modTeam_listed h (fun _ => by rfl) (fun _ => by rfl))

theorem leaseWrite_go_listed (h : s.Listed) {m : MatOp} {l : List (Nat × Nat)} {bs : List Byte} :
    (leaseWrite.go m s l bs).Listed := by
  induction l generalizing s bs with
  | nil => exact h
  | cons x r ih => exact ih (h.memory (homeWrite_memory s _ _))

theorem leaseWrite_listed (h : s.Listed) {m : MatOp} {va : Nat} {bs : List Byte} : (s.leaseWrite m va bs).Listed :=
  leaseWrite_go_listed h

theorem storeBlock_listed (h : s.Listed) {m : MatOp} {blk fmt : Nat} {ws : List Word} :
    (s.storeBlock m blk fmt ws).Listed := by
  unfold storeBlock
  dsimp only
  split
  · exact tilePut_listed h
  · exact spadWrite_listed h
  · exact leaseWrite_listed h

theorem storeRowEnd_listed (h : s.Listed) {m : MatOp} {x : Lanes} {fmt : Option Nat} : (s.storeRowEnd m x fmt).Listed := by
  have stored : (match fmt with
      | some f => s.each x.buf fun s p => s.storeBlock m p.1 f p.2
      | none => s).Listed := by
    split
    · exact each_listed h fun _ _ k => storeBlock_listed k
    · exact h
  exact ite_listed (ite_listed (leaseWrite_listed stored) (spadWrite_listed stored)) stored

theorem modMat_listed (h : s.Listed) {id : Nat} {f : MatOp → MatOp} : (s.modMat id f).Listed := by
  unfold modMat
  exact { h with mats := KV.sorted_upd _ _ h.mats }

end State
end Sys2Proof.Machine
end

section
/-! The matrix engine, regrouping, launches, graphs and the driver's operations keep the lists of State.Listed in order. -/

namespace Sys2Proof.Machine

/-- The pages of a run hold all of its bytes. -/
theorem pagesOf_sum {k va n : Nat} (h : n ≤ k) : ((pagesOf k va n).map Prod.snd).sum = n := by
  induction k generalizing va n with
  | zero => rw [Nat.le_zero.1 h]; rfl
  | succ k ih =>
    cases n with
    | zero => rfl
    | succ n =>
      have page : 1 ≤ 65536 - va % 65536 := by omega
      rw [pagesOf, List.map_cons, List.sum_cons, ih (by omega)]
      · omega
      · omega

theorem dwordsOf_length (bs : List Byte) : (dwordsOf bs).length = bs.length / 8 := by simp [dwordsOf]

namespace State

variable {s : State}

/-! The matrix engine (10 R218, R227 to R237). -/

theorem mats_listed (h : s.Listed) {m : KV MatOp} (sorted : KV.sorted m = true) : ({ s with mats := m } : State).Listed :=
  { h with mats := sorted }

theorem freshMats_listed (h : s.Listed) {n : Nat} {m : KV MatOp} (sorted : KV.sorted m = true) :
    ({ s with fresh := n, mats := m } : State).Listed := { h with mats := sorted }

theorem promoteAll_listed (h : s.Listed) {m : MatOp} {parts : List Float.FVal} : (s.promoteAll m parts).Listed :=
  each_listed h fun u _ k => modTeam_listed (badElse_listed k _) (fun _ => by rfl) (fun _ => by rfl)

theorem matEnd_listed (h : s.Listed) {id : Nat} : (s.matEnd id).Listed := by
  unfold matEnd
  split
  · exact h
  · next m _ =>
    have read := each_listed (l := matReads m.dw) (mats_listed h (KV.sorted_del id h.mats)) fun _ n k =>
      modTile_listed k (tid := m.tid) (n := n) (f := fun t => { t with readers := t.readers - 1 })
    refine matFinished_listed (eachFibre_listed (f := fun f => f) ?_)
    split
    · exact modTile_listed read
    · exact read

theorem matStopped_listed (h : s.Listed) {id : Nat} {m : MatOp} {cause srow sblk : Nat} {sph : Bool} :
    (s.matStopped id m cause srow sblk sph).Listed := by
  unfold matStopped
  exact modTeam_listed (wakeEngine_listed (modMat_listed h)) (fun _ => by rfl) (fun _ => by rfl)

theorem leaseAll_listed (h : s.Listed) {core ctx : Nat} {l1 : List Nat} : (s.leaseAll core ctx l1).1.Listed := by
  induction l1 generalizing s with
  | nil => exact h
  | cons p r ih =>
    have place := translate_listed h (core := core) (ctx := ctx) (va := p * 65536) (kind := .write) (write := true)
    unfold leaseAll
    split
    · next e =>
      have rest := ih (fst_listed place e)
      split
      · next e => exact fst_listed rest e
      · next e => exact fst_listed rest e
    · next e =>
      have rest := ih (fst_listed place e)
      split
      · next e => exact fst_listed rest e
      · next e => exact fst_listed rest e
    · next e => exact fst_listed place e
    · next e => exact fst_listed place e

theorem acceptMat_listed (h : s.Listed) {iss : Issue} {act : List (Nat × FibreId)} {tid : Nat} {mma : Bool} {d : Nat}
    {dw : List Nat} {lease : KV Nat} {fpctl : Nat} : (s.acceptMat iss act tid mma d dw lease fpctl).Listed := by
  unfold acceptMat
  have counted := eachFibre_listed (l := act) (f := Prod.snd) (g := fun _ _ f => { f with tlc := f.tlc + 1 })
    (modTeam_listed h (n := tid) (f := fun t => { t with matNext := t.matNext + 1 }) (fun _ => by rfl) (fun _ => by rfl))
  have read := each_listed (l := matReads dw) counted fun _ n k =>
    modTile_listed k (tid := tid) (n := n) (f := fun t => { t with readers := t.readers + 1 })
  have named {u : State} (k : u.Listed) := newId_listed (gWriteNow_listed k (gid := iss.gid) (n := d)
    (x := BitVec.ofNat 64 (s.team tid).matNext))
  dsimp only
  cases matDest dw with
  | none => exact advance_listed (freshMats_listed (named read) (KV.sorted_put _ _ (named read).mats))
  | some n =>
    have draining := modTile_listed read (tid := tid) (n := n) (f := fun t => { t with state := 3 })
    exact advance_listed (freshMats_listed (named draining) (KV.sorted_put _ _ (named draining).mats))

theorem postMat_listed (h : s.Listed) {iss : Issue} {act : List (Nat × FibreId)} {mma : Bool} {ofs d fpctl : Nat} :
    (s.postMat iss act mma ofs d fpctl).Listed := by
  unfold postMat
  refine ite_listed (stall_listed h) ?_
  split
  · exact raise_listed h
  · dsimp only
    split
    · exact raise_listed h
    · next dw _ =>
      have leased (l : List Nat) := leaseAll_listed h (core := (s.team (s.leadTeam iss.gid)).core) (ctx := iss.ctx) (l1 := l)
      split
      · next e => exact memFail_listed (fst_listed (leased _) e)
      · next e =>
        have there := fst_listed (leased _) e
        exact ite_listed (park_listed there) (ite_listed (stall_listed there) (acceptMat_listed there))

/-! Regrouping (11 R243 to R246). -/

theorem scramble_listed (h : s.Listed) {f : FibreId} {p n : Nat} : (s.scramble f p n).Listed := by
  unfold scramble
  exact modFibre_listed (fresh_listed h _)

theorem departAll_listed (h : s.Listed) {as : List Arrival} : (s.departAll as).Listed :=
  each_listed (leaveGroups_listed h) fun _ _ k => wakeTo_listed (scramble_listed k)

theorem placeDealt_listed (h : s.Listed) {d : Dealt} : (s.placeDealt d).Listed :=
  ite_listed ((makeGroup_listed h).memory (l1Acquire_memory _ _)) (makeGroup_listed h)

/-! Launches (03 R57 to R69). -/

theorem translateRaw_listed (h : s.Listed) {ctx va : Nat} {kind : WalkKind} {write : Bool} :
    (s.translateRaw ctx va kind write).1.Listed := h.memory (translateRaw_memory s ctx va kind write)

theorem readRaw_listed (h : s.Listed) {ctx va n : Nat} : (s.readRaw ctx va n).1.Listed :=
  h.memory (readRaw_hbm s ctx va n).frame

theorem prepare_listed (h : s.Listed) {ctx : Nat} {l : List Dword} : (s.prepare ctx l).1.Listed :=
  h.memory (prepare_hbm s ctx l).frame

theorem readRaw_go_length {ctx : Nat} {l : List (Nat × Nat)} {t : State} {bs : List Byte}
    (e : readRaw.go ctx s l = (t, .ok bs)) : bs.length = (l.map Prod.snd).sum := by
  induction l generalizing s t bs with
  | nil => cases e; rfl
  | cons x r ih =>
    obtain ⟨a, m⟩ := x
    unfold readRaw.go at e
    split at e
    · next u pa _ =>
      split at e
      · cases e
      · split at e
        · next v l' e' =>
          cases e
          rw [List.length_append, ih e', List.map_cons, List.sum_cons]
          simp [homeBytes]
        · cases e
    all_goals cases e

/-- A read of a run gives its bytes, all of them. -/
theorem readRaw_length {ctx va n : Nat} {t : State} {bs : List Byte} (e : s.readRaw ctx va n = (t, .ok bs)) :
    bs.length = n := (readRaw_go_length e).trans (pagesOf_sum (Nat.le_refl n))

/-- What the checks of a record make of it brings eight parameters (03 R61). -/
def PrepFull : Prep → Prop
  | .teams _ _ ps => ps.length = 8
  | _ => True

theorem ite_full {α : Type} {c : Prop} [Decidable c] {a b : α × Prep} (ha : PrepFull a.2) (hb : PrepFull b.2) :
    PrepFull (if c then a else b).2 := by
  split
  · exact ha
  · exact hb

theorem readFail_full (e : Nat × Bool) : PrepFull (readFail e) := by
  unfold readFail
  split <;> trivial

theorem prepareRest_full (ctx : Nat) (l : List Dword) (hdr : Nat) (place : List Nat) :
    PrepFull (s.prepareRest ctx l hdr place).2 := by
  unfold prepareRest
  dsimp only
  refine ite_full trivial ?_
  split
  · exact readFail_full _
  · split
    · trivial
    · refine ite_full trivial (ite_full trivial (ite_full trivial (ite_full trivial (ite_full ?_ (ite_full trivial ?_)))))
      · exact List.length_replicate
      · split
        · exact readFail_full _
        · next e => exact (dwordsOf_length _).trans (by rw [readRaw_length e])

theorem prepare_full (ctx : Nat) (l : List Dword) : PrepFull (s.prepare ctx l).2 := by
  unfold prepare
  dsimp only
  refine ite_full (ite_full trivial trivial) (ite_full trivial (ite_full trivial (ite_full trivial (ite_full trivial
    (ite_full trivial ?_)))))
  split
  · exact readFail_full _
  · split
    · exact readFail_full _
    · split
      · trivial
      · exact ite_full trivial (ite_full trivial (prepareRest_full _ _ _ _))

theorem graphs_listed (h : s.Listed) (m : KV Graph) : ({ s with graphs := m } : State).Listed := { h with }

theorem failLaunch_listed (h : s.Listed) {key cause detail : Nat} : (s.failLaunch key cause detail).Listed :=
  modLaunch_listed h (params := fun l k => by dsimp only; split <;> exact k)

theorem prepareLaunch_listed (h : s.Listed) {key : Nat} : (s.prepareLaunch key).Listed := by
  have read := prepare_listed h (ctx := (s.launch key).ctx) (l := (s.launch key).words)
  have full := prepare_full (s := s) (s.launch key).ctx (s.launch key).words
  unfold prepareLaunch
  dsimp only
  split
  · next e => exact failLaunch_listed (fst_listed read e)
  · next e => exact modLaunch_listed (addRecord_listed (fst_listed read e)) (fun _ k => by exact k)
  · next e => exact modLaunch_listed (graphs_listed (fst_listed read e) _) (fun _ k => by exact k)
  · next ps e =>
    rw [e] at full
    have eight : ps.length = 8 := full
    refine modLaunch_listed (fst_listed read e) (params := fun _ _ => ?_)
    rw [List.length_append, eight, List.length_map, stepsFrom_eq_range', List.length_range']

theorem putLaunch_listed (h : s.Listed) {key : Nat} {l : Launch} {m : KV Nat} (params : l.params.length = 16) :
    ({ s with launches := s.launches.put key l, taken := m } : State).Listed :=
  { h with
    launches := KV.sorted_put _ _ h.launches
    params := fun x hx => (KV.mem_put hx).elim (fun e => e ▸ params) (h.params x) }

theorem takeRecord_listed (h : s.Listed) {die entry ctx prio : Nat} {words : List Dword} {graph : Option (Nat × Nat)}
    {succs : List Nat} : (s.takeRecord die entry ctx prio words graph succs).Listed :=
  prepareLaunch_listed (putLaunch_listed (newId_listed h) List.length_replicate)

theorem Listed.launch (h : s.Listed) (key : Nat) : (s.launch key).params.length = 16 :=
  KV.getD_of_all (P := fun l : Launch => l.params.length = 16) h.params rfl key

/-- A list's elements by number are in rising keys. -/
theorem sorted_numbered {α β : Type} (l : List α) (f : Nat → α → β) :
    KV.sorted (((upto l.length).zip l).map fun y => (y.1, f y.1 y.2)) = true := by
  refine KV.sorted_of_pairwise ?_
  have keys : (((upto l.length).zip l).map fun y => (y.1, f y.1 y.2)).map Prod.fst = upto l.length := by
    rw [List.map_map]
    exact List.map_fst_zip (by simp)
  rw [keys]
  exact List.pairwise_lt_range

theorem placeTeam_listed (h : s.Listed) {tid : Nat} {t : Team} (fibres : KV.sorted t.fibres = true) (g : t.g.length = 16) :
    (s.placeTeam tid t).Listed := { setTeam_listed h fibres g (n := tid) with }

theorem startTeam_listed (h : s.Listed) {key num : Nat} : (s.startTeam key num).Listed := by
  have tagged := modCore_listed h (n := (s.launch key).place.getD num 0)
      (f := fun c => { c with nextTag := c.nextTag + 1 }) (fun _ => by rfl)
  have placed := placeTeam_listed tagged (tid := teamKey key num)
    (t := (s.nextTag ((s.launch key).place.getD num 0)).startedTeam key num)
    (sorted_numbered _ fun i (x : Nat × Nat) => freshFibre (s.launch key).words num i x.1 x.2) (h.launch key)
  rw [startTeam_eq]
  refine (formTeam_listed (modLaunch_listed ?_ (fun _ k => by exact k))).memory (l1Acquire_memory _ _)
  unfold recordBanks
  split
  · exact takeBanks_listed placed
  · exact placed

theorem dropRequests_listed (h : s.Listed) : (s.dropRequests).Listed :=
  each_listed h fun _ _ k => ite_listed (qServeAll_listed (qLeave_listed (delRequest_listed k))) k

theorem endTeam_listed (h : s.Listed) {tid : Nat} : (s.endTeam tid).Listed := by
  rw [endTeam_eq]
  refine serveBanks_listed (modLaunch_listed (badSpad_listed (modTeam_listed (freeBanks_listed ?_) (fun _ => by rfl)
      (fun _ => by rfl)) _) (fun _ k => by exact k))
  exact each_listed h fun _ _ k => answer_listed k

/-! Graphs and reports (03 R67, R73 to R77). -/

theorem activate_listed (h : s.Listed) {g : Nat} {nodes : List Nat} : (s.activate g nodes).Listed := graphs_listed h _

theorem graphError_listed (h : s.Listed) {g cause detail : Nat} : (s.graphError g cause detail).Listed := graphs_listed h _

theorem nodeAt_listed (h : s.Listed) {g n : Nat} : (s.nodeAt g n).1.Listed := by
  have read := readRaw_listed h (ctx := (s.graphs.getD g { ctx := 0, hdr := 0 }).ctx)
    (va := (s.graphs.getD g { ctx := 0, hdr := 0 }).hdr + 64 * (n + 1)) (n := 32)
  unfold nodeAt
  dsimp only
  split
  · next e => exact fst_listed read e
  · next e => exact fst_listed read e

theorem nodeDone_listed (h : s.Listed) {l : Launch} : (s.nodeDone l).Listed := by
  unfold nodeDone
  split
  · exact h
  · exact ite_listed (graphError_listed (graphs_listed h _)) (activate_listed (graphs_listed h _))

theorem dropLaunch_listed (h : s.Listed) {key : Nat} {g : KV Graph} {p : Nat × Team → Bool} {l : KV Flight}
    {c : KV (Nat × Nat × Nat)} : ({ s with
      launches := s.launches.del key, graphs := g, teams := s.teams.filter p, flights := l, creditFlights :=
  c } : State).Listed :=
  { h with
    launches := KV.sorted_del _ h.launches
    params := fun x hx => h.params x (KV.mem_del hx)
    teams := KV.sorted_filter _ h.teams
    fibres := fun x hx => h.fibres x (List.mem_filter.1 hx).1 }

theorem finishLaunch_listed (h : s.Listed) {key : Nat} : (s.finishLaunch key).Listed := by
  unfold finishLaunch
  exact nodeDone_listed (dropLaunch_listed (modLaunch_listed h (fun _ k => by exact k)))

theorem dropReport_listed (h : s.Listed) {key cause va : Nat} {l : Launch} : (s.dropReport key cause va l).Listed :=
  finishLaunch_listed (addRecord_listed h)

theorem holdReport_listed (h : s.Listed) {key va : Nat} {l : Launch} : (s.holdReport key va l).Listed :=
  ite_listed (finishLaunch_listed h) (modLaunch_listed (addRecord_listed h) (fun _ k => by exact k))

theorem makeReport_listed (h : s.Listed) {key : Nat} : (s.makeReport key).1.Listed := by
  have place := translateRaw_listed h (ctx := (s.launch key).ctx) (va := recField (s.launch key).words 5 47 0)
    (kind := .write) (write := true)
  unfold makeReport
  dsimp only
  refine ite_fst_listed (finishLaunch_listed h) (ite_fst_listed (dropReport_listed h) ?_)
  split
  · next e => exact holdReport_listed (fst_listed place e)
  · next e => exact dropReport_listed (fst_listed place e)
  · next e => exact dropReport_listed (fst_listed place e)
  · next e => exact dropReport_listed (fst_listed place e)
  · next u pa e =>
    have there := fst_listed place e
    have offered := qOffer_listed there (ctx := (s.launch key).ctx) (pa := pa) (esz := 16) (die := key / 16384)
      (data := [leBytes 8 (s.launch key).launchId.toNat ++ leBytes 8 (statusWord (s.launch key)).toNat])
    refine ite_fst_listed (dropReport_listed there) (ite_fst_listed ?_ ?_)
    · exact finishLaunch_listed (there.memory (sysWrite_memory _ _ _))
    · split
      · next e => exact finishLaunch_listed (fst_listed offered e)
      · next e => exact fst_listed offered e
      · next e => exact dropReport_listed (fst_listed offered e)
      · next e => exact dropReport_listed (fst_listed offered e)
      · next e => exact dropReport_listed (fst_listed offered e)
      · next e => exact dropReport_listed (fst_listed offered e)
      · next e => exact holdReport_listed (fst_listed offered e)

theorem graphFault_listed (h : s.Listed) {g : Nat} {e : Nat × Bool} {wr : Bool} : (s.graphFault g e wr).Listed :=
  ite_listed (graphs_listed (addRecord_listed h) _) (graphError_listed h)

theorem graphWrite_listed (h : s.Listed) {ctx va : Nat} {bs : List Byte} : (s.graphWrite ctx va bs).1.Listed := by
  have place := translateRaw_listed h (ctx := ctx) (va := va) (kind := .write) (write := true)
  unfold graphWrite
  split
  · next e => exact (fst_listed place e).memory (homeWrite_memory _ _ _)
  all_goals next e => exact fst_listed place e

theorem resetNodes_listed (h : s.Listed) {g : Nat} {x : Graph} {l1 : Nat} {l2 : Nat} :
    (s.resetNodes g x l1 l2).1.Listed := by
  induction l1 generalizing s l2 with
  | zero => exact h
  | succ k ih =>
    have node := nodeAt_listed h (g := g) (n := l2)
    unfold resetNodes
    split
    · next e => exact fst_listed node e
    · next u dw e =>
      have there := fst_listed node e
      refine ite_fst_listed ?_ (ih there)
      have written (va : Nat) (bs : List Byte) := graphWrite_listed there (ctx := x.ctx) (va := va) (bs := bs)
      dsimp only
      split
      · next e => exact ih (fst_listed (written _ _) e)
      · next e => exact fst_listed (written _ _) e

/-- An activation that takes place or fails (03 R75, R77). -/
theorem activation_listed (h : s.Listed) {g n : Nat} {t : State} {x : Except State (List Nat)}
    (e : s.activation g n = some (t, x)) : t.Listed ∧ ∀ u, x = .error u → u.Listed := by
  unfold activation at e
  split at e
  · cases e
  · next gr _ =>
    split at e
    · cases e
    · have node := nodeAt_listed h (g := g) (n := n)
      split at e
      · next e' =>
        cases e
        have there := fst_listed node e'
        exact ⟨there, fun u k => by cases k; exact graphFault_listed there⟩
      · next e' =>
        have there := fst_listed node e'
        dsimp only at e
        split at e
        · cases e; exact ⟨there, fun u k => by cases k; exact graphError_listed there⟩
        · cases e; exact ⟨there, nofun⟩

theorem activated_listed (h : s.Listed) {g : Nat} : (s.activated g).Listed := graphs_listed h _

theorem startFault_listed (h : s.Listed) {graph : Nat} {e : Nat × Bool} {wr : Bool} : (s.startFault graph e wr).Listed :=
  graphFault_listed (graphs_listed h _)

theorem abortLaunch_listed (h : s.Listed) {key cause detail : Nat} : (s.abortLaunch key cause detail).Listed :=
  dropRequests_listed (each_listed (failLaunch_listed h) fun _ _ k => exitFibres_listed k)

theorem doAborts_listed (h : s.Listed) : (s.doAborts).Listed :=
  each_listed (aborts_listed h _) fun _ _ k => abortLaunch_listed k

end State
end Sys2Proof.Machine
end

section
/-! Faults, records, the driver's operations and the end of a context keep the lists of State.Listed in order. -/

namespace Sys2Proof.Machine
namespace State

variable {s : State}

/-! CPSTAT and MXSTAT (09 R200; 10 R237). -/

theorem cpWrite_listed (h : s.Listed) {tid : Nat} {x : Dword} : (s.cpWrite tid x).Listed := by
  unfold cpWrite
  refine modTeam_listed h (fibres := fun t => ?_) (g := fun t => ?_)
  · dsimp only; split <;> split <;> rfl
  · dsimp only; split <;> split <;> rfl

theorem mxClear_listed (h : s.Listed) {tid : Nat} {x : Dword} : (s.mxClear tid x).Listed := by
  unfold mxClear
  exact modTeam_listed h (fun _ => by rfl) (fun _ => by rfl)

theorem mxResume_listed (h : s.Listed) {tid : Nat} {ignoring : Bool} : (s.mxResume tid ignoring).Listed := by
  unfold mxResume
  split
  · exact h
  · exact modTeam_listed (modMat_listed h) (fun _ => by rfl) (fun _ => by rfl)

theorem mxAbandon_listed (h : s.Listed) {tid : Nat} : (s.mxAbandon tid).Listed := by
  unfold mxAbandon
  split
  · exact h
  · exact modTeam_listed (matEnd_listed h) (fun _ => by rfl) (fun _ => by rfl)

theorem mxWrite_listed (h : s.Listed) {tid : Nat} {x : Dword} : (s.mxWrite tid x).Listed := by
  have cleared := mxClear_listed h (tid := tid) (x := x)
  unfold mxWrite
  refine ite_listed cleared ?_
  split
  · exact mxResume_listed cleared
  · exact mxResume_listed cleared
  · exact mxAbandon_listed cleared
  · exact cleared

/-! Records and their resolution (12 R260 to R266). -/

theorem hashWait_listed (h : s.Listed) (l : List (Nat × Nat × Nat)) : ({ s with hashWait := l } : State).Listed := { h with }

theorem settleGroup_listed (h : s.Listed) {r : FaultRec} {fail : Bool} : (s.settleGroup r fail).Listed := by
  have ready := eachFibre_listed (l := r.fibres.filter fun f => (s.fibre f).status == .faulted r.id) (f := fun f => f)
    (g := fun _ _ x => { x with status := .ready }) h
  exact ite_listed (each_listed ready fun _ _ k => raise_listed k) ready

theorem appendResolved_listed (h : s.Listed) {ctx : Nat} {l : List (FaultRec × Bool)} :
    (s.modCtx ctx fun c => { c with resolved := c.resolved ++ l }).Listed := modCtx_listed h (fun _ k => by exact k)

theorem settleResolved_listed (h : s.Listed) {ctx : Nat} : (s.settleResolved ctx).Listed := by
  unfold settleResolved
  refine each_listed (modCtx_listed h (fun _ k => by exact k)) fun _ _ k => ite_listed ?_ (settleGroup_listed k)
  exact each_listed (appendResolved_listed k) fun _ _ k => ite_listed k (hashWait_listed k _)

theorem resolveGroup_listed (h : s.Listed) {r : FaultRec} {fail : Bool} : (s.resolveGroup r fail).Listed :=
  ite_listed (appendResolved_listed h) (settleResolved_listed (appendResolved_listed h))

theorem resolveLaunch_listed (h : s.Listed) {r : FaultRec} {fail : Bool} : (s.resolveLaunch r fail).Listed := by
  have freed := graphs_listed (modLaunch_listed h (n := r.subject) (f := fun l => { l with heldBy := none })
      (fun _ k => by exact k))
    (s.graphs.upd r.subject fun g => { g with heldBy := none })
  unfold resolveLaunch
  refine ite_listed (ite_listed (finishLaunch_listed freed) (makeReport_listed freed)) (ite_listed (ite_listed ?_ freed)
    (ite_listed (failLaunch_listed freed) (prepareLaunch_listed freed)))
  exact graphError_listed (graphs_listed freed _)

theorem delRecord_listed (h : s.Listed) {ctx id : Nat} :
    (s.modCtx ctx fun c => { c with records := c.records.del id }).Listed :=
  modCtx_listed h (tables := fun _ k => ⟨KV.sorted_del _ k.1, k.2⟩)

theorem resolveRecord_listed (h : s.Listed) {r : FaultRec} {fail : Bool} : (s.resolveRecord r fail).Listed := by
  have freed := delRecord_listed h (ctx := r.ctx) (id := r.id)
  unfold resolveRecord
  dsimp only
  split
  · exact resolveGroup_listed freed
  · exact ite_listed (failCmd_listed freed) (updCmd_listed freed)
  · exact resolveLaunch_listed freed

theorem launchErr_listed (h : s.Listed) {key cause detail : Nat} : (s.launchErr key cause detail).Listed :=
  modLaunch_listed h (params := fun l k => by split <;> exact k)

theorem resumeRecord_listed (h : s.Listed) {r : FaultRec} {how : Nat} : (s.resumeRecord r how).Listed := by
  have freed (l : List FibreId) := eachFibre_listed (l := l) (f := fun f => f)
    (g := fun _ _ x => { x with firm := x.firm.filter (· != r.id) }) (delRecord_listed h (ctx := r.ctx) (id := r.id))
  unfold resumeRecord
  dsimp only
  split
  · exact freed _
  · exact each_listed (freed _) fun _ _ k => ite_listed (modFibre_listed k) k
  · split
    · exact freed _
    · exact dropRequests_listed (exitFibres_listed (launchErr_listed (freed _)))

/-! Cores' tables and locked code (06 R147; 13 R289). -/

/-- An update of every core that leaves L1. -/
theorem cores_listed (h : s.Listed) {f : Core → Core} (l1 : ∀ c, (f c).l1 = c.l1) :
    ({ s with cores := s.cores.mapVals f } : State).Listed :=
  { h with
    cores := KV.sorted_mapVals f h.cores
    l1 := fun x hx => by
      obtain ⟨y, hy, rfl⟩ := List.mem_map.1 hx
      rw [l1]
      exact h.l1 y hy }

theorem invalidate_listed (h : s.Listed) {ctx page n : Nat} : (s.invalidate ctx page n).Listed := by
  have kept := cores_listed h (f := fun c => { c with tlb := c.tlb.filter fun e => !entryIn e ctx page n }) (fun _ => by rfl)
  exact { kept with }

theorem lockLine_listed (h : s.Listed) {core : Nat} {l : Nat × Nat × Nat} : (s.lockLine core l).1.Listed := by
  unfold lockLine
  dsimp only
  split
  · exact h
  · split
    · exact h
    · dsimp only; exact modCore_listed h (fun _ => by rfl)

theorem fetchWords_listed (h : s.Listed) {core ctx stop : Nat} {l1 : Nat} : (s.fetchWords core ctx stop l1).1.Listed := by
  induction l1 generalizing s with
  | zero => exact h
  | succ n ih =>
    have word := h.memory (codeWord_memory s core ctx (BitVec.ofNat 64 (stop - 4 * (n + 1))))
    unfold fetchWords
    split
    · next e => exact fst_listed word e
    · next e => exact ih (fst_listed word e)

/-- The equation lemmas of lockLines make the kernel evaluate its fetches and locks as far as it can: they are made opaque
before the recursion is unfolded. -/
theorem lockLines_listed (h : s.Listed) {iss : Issue} {slot : Nat} {l1 : List Nat} {l2 : Nat} :
    (s.lockLines iss slot l1 l2).1.Listed := by
  have opaqueFetch : ∃ fetchLine, fetchLine = @fetchWords ∧
      ∀ {t : State}, t.Listed → ∀ core ctx stop n, (fetchLine t core ctx stop n).1.Listed :=
    ⟨_, rfl, fun k _ _ _ _ => fetchWords_listed k⟩
  have opaqueLock : ∃ lockOne, lockOne = @lockLine ∧ ∀ {t : State}, t.Listed → ∀ core l, (lockOne t core l).1.Listed :=
    ⟨_, rfl, fun k _ _ => lockLine_listed k⟩
  obtain ⟨fetchLine, isFetch, words⟩ := opaqueFetch
  obtain ⟨lockOne, isLock, lock⟩ := opaqueLock
  delta lockLines lockLines._f
  rw [← isFetch, ← isLock]
  clear isFetch isLock
  induction l1 generalizing s l2 with
  | nil => exact h
  | cons l r ih =>
    have fetched := words h iss.core iss.ctx (slot * 2 ^ 52 + (l + 1) * 128) 32
    dsimp only [List.brecOn, List.brecOn.go]
    split
    · next e => exact fst_listed fetched e
    · next e =>
      have locked := lock (fst_listed fetched e) iss.core (iss.ctx, slot, l)
      split
      · next e => exact ih (fst_listed locked e)
      · next e => exact ih (fst_listed locked e)

theorem lockFail_listed (h : s.Listed) {iss : Issue} {before : List (Nat × Nat × Nat)} {m : Move} :
    (s.lockFail iss before m).Listed := by
  unfold lockFail
  split
  · exact moveFail_listed h
  · exact moveFail_listed (modCore_listed h (fun _ => by rfl))

/-! Frames to the driver, and the end of a context (12 R494; 15 R318). -/

theorem sendFrame_listed (h : s.Listed) {port : Nat} {dest : Sender} {key : Option (List Byte)} {kind ctxid seq : Nat}
    {payload : List Byte} : (s.sendFrame port dest key kind ctxid seq payload).Listed := transmit_listed h

theorem notice_listed (h : s.Listed) {reason ctx : Nat} : (s.notice reason ctx).Listed := by
  unfold notice
  split
  · exact h
  · exact sendFrame_listed h

theorem replyAll_listed (h : s.Listed) {sid : Nat} {kind ctxid seq : Nat} {ps : List (List Byte)} :
    (s.replyAll sid kind ctxid seq ps).Listed := by
  unfold replyAll
  split
  · exact h
  · exact each_listed (modDev_listed h) fun _ _ k => sendFrame_listed k

/-- A context's commands, results and groups are dropped, its teams are over, and its cores' traces go (12 R494). -/
theorem dropContext_listed (h : s.Listed) {p : Nat × Sys2Proof.Machine.Pending → Bool} {q : Nat × Cmd → Bool}
    {r : Nat × MatOp → Bool} {g : Nat × Group → Bool} {strip : Core → Core} {team : Team → Team}
    {packets : KV Packet} {flights : KV Flight} {credits : KV (Nat × Nat × Nat)} {wait : List (Nat × Nat × Nat)}
    {held : List (Nat × Nat × Nat × Issue)} {badElse : List Place} {badReg : List (FibreId × Nat)}
    {badSpad : List (Nat × Nat)} {graphs : KV Graph} {qps : KV QueuePair} (l1 : ∀ c, (strip c).l1 = c.l1)
    (fibres : ∀ t, KV.sorted t.fibres = true → KV.sorted (team t).fibres = true) (file : ∀ t, (team t).g = t.g) : ({ s with
      pending := s.pending.filter p, packets := packets, flights := flights, creditFlights := credits
      cmds := s.cmds.filter q, mats := s.mats.filter r, hashWait := wait, hashHeld := held, badElse := badElse
      badReg := badReg, badSpad := badSpad, groups := s.groups.filter g, cores := s.cores.mapVals strip, graphs := graphs
      qps := qps, teams := s.teams.mapVals team } : State).Listed :=
  { cores_listed h l1 with
    pending := KV.sorted_filter _ h.pending
    ids := fun x hx => h.ids x (List.mem_filter.1 hx).1
    cmds := KV.sorted_filter _ h.cmds
    mats := KV.sorted_filter _ h.mats
    groups := KV.sorted_filter _ h.groups
    files := fun x hx => h.files x (List.mem_filter.1 hx).1
    teams := KV.sorted_mapVals _ h.teams
    fibres := fun x hx => by
      obtain ⟨y, hy, rfl⟩ := List.mem_map.1 hx
      exact ⟨fibres _ (h.fibres y hy).1, by rw [file]; exact (h.fibres y hy).2⟩ }

theorem endCtx_listed (h : s.Listed) {ctx : Nat} : (s.modCtx ctx fun c => { c with
    ended := true, stop := false, saved := false, queues := [], regions := [], breaks := [], saver := none
    records := [], resolved := [] }).Listed := modCtx_listed h (tables := fun _ k => ⟨rfl, k.2.1, rfl⟩)

theorem killContext_listed (h : s.Listed) {ctx : Nat} : (s.killContext ctx).Listed := by
  unfold killContext
  dsimp only
  refine endCtx_listed (dropContext_listed (each_listed (each_listed h ?_) ?_) ?_ ?_ ?_)
  · exact fun _ _ k => qLeave_listed (delRequest_listed k)
  · exact fun _ _ k => qServeAll_listed k
  · exact fun _ => rfl
  · intro t k
    split
    · dsimp only; exact KV.sorted_mapVals _ k
    · exact k
  · intro t
    split <;> rfl

theorem serveAllBanks_listed (h : s.Listed) : (s.serveAllBanks).Listed := each_listed h fun _ _ k => serveBanks_listed k

theorem endContext_listed (h : s.Listed) {ctx cause detail : Nat} : (s.endContext ctx cause detail).Listed := by
  unfold endContext
  have killed (l : List Nat) (f : State → Nat → Launch → Launch) (hf : ∀ u k l, (f u k l).params = l.params) :
      ((s.each l fun s k => s.modLaunch k (f s k)).killContext ctx).Listed :=
    killContext_listed (each_listed h fun u x k => modLaunch_listed k (params := fun l e => (hf u x l).symm ▸ e))
  refine serveAllBanks_listed ?_
  dsimp only
  split
  · exact replyAll_listed (killed _ _ (by exact fun _ _ _ => rfl))
  · exact killed _ _ (by exact fun _ _ _ => rfl)

theorem faultqUnusable_listed (h : s.Listed) {ctx : Nat} : (s.faultqUnusable ctx).Listed := by
  have cleared := modCtx_listed h (n := ctx) (f := fun c => { c with waiting := [] }) (fun _ k => by exact k)
  exact ite_listed cleared (notice_listed (endContext_listed cleared))

/-! Pages of code (13 R286 to R289). -/

theorem dropLocks_listed (h : s.Listed) {ctx slot : Nat} : (s.dropLocks ctx slot).Listed := by
  unfold dropLocks
  dsimp only
  split
  · exact modCtx_listed (cores_listed h (fun _ => by rfl)) (fun _ k => by exact k)
  · exact cores_listed h (fun _ => by rfl)

theorem modSlot_listed (h : s.Listed) {ctx slot : Nat} {f : CodeSlot → CodeSlot} : (s.modSlot ctx slot f).Listed := by
  unfold modSlot
  exact modCtx_listed h (fun _ k => by exact k)

theorem hashOver_listed (h : s.Listed) {ctx slot page : Nat} : (s.hashOver ctx slot page).Listed := { h with }

theorem eachHeld_listed (h : s.Listed) {ws : List Issue} {f : State → Issue → State}
    (hf : ∀ t iss, t.Listed → (f t iss).Listed) : (s.eachHeld ws f).Listed := by
  refine each_listed h fun _ _ k => ?_
  split
  · exact hf _ _ k
  · exact k

theorem hashes_listed (h : s.Listed) (l : List (Nat × Nat × Nat)) (m : List (Nat × Nat × Nat × Issue)) :
    ({ s with hashWait := l, hashHeld := m } : State).Listed := { h with }

theorem slotRewritten_listed (h : s.Listed) {ctx slot : Nat} : (s.slotRewritten ctx slot).Listed :=
  dropLocks_listed (hashes_listed h _ _)

end State
end Sys2Proof.Machine
end

section
/-! A context's save and restore and the driver's operations keep the lists of State.Listed in order. -/

namespace Sys2Proof.Machine
namespace State

variable {s : State}

/-! Contexts that end, stop, are saved and come back (12 R264, R267 to R274). -/

theorem endMappers_listed (h : s.Listed) {pa : Nat} : (s.endMappers pa).Listed := by
  refine each_listed h fun u x k => ?_
  dsimp only
  split
  · exact k
  · split
    · exact k
    · exact notice_listed (endContext_listed (addRecord_listed k))

theorem requestStop_listed (h : s.Listed) {ctx : Nat} : (s.requestStop ctx).Listed := by
  unfold requestStop
  exact serveAllBanks_listed (cores_listed (modCtx_listed h (fun _ k => by exact k)) (fun _ => by rfl))

theorem groupsFilter_listed (h : s.Listed) {p : Nat × Group → Bool} :
    ({ s with groups := s.groups.filter p } : State).Listed :=
  { h with
    groups := KV.sorted_filter _ h.groups
    files := fun x hx => h.files x (List.mem_filter.1 hx).1 }

/-- An update of the cores that leaves L1, of a state whose groups are some of this one's. -/
theorem groupsFilter_cores_listed (h : s.Listed) {p : Nat × Group → Bool} {f : Core → Core} (l1 : ∀ c, (f c).l1 = c.l1) :
    ({ s with groups := s.groups.filter p, cores := s.cores.mapVals f } : State).Listed :=
  cores_listed (groupsFilter_listed h (p := p)) l1

theorem stopTeam_listed (h : s.Listed) {tid grant : Nat} :
    (s.modTeam tid fun t => { t with
      stopGrant := grant, g := (gFlush t.g t.late 0 fun _ => true).1, late := []
      fibres := t.fibres.mapVals savedFibre }).Listed :=
  setTeam_listed h (KV.sorted_mapVals _ (h.team tid).1) ((gFlush_length ..).trans (h.team tid).2)

theorem saveContext_listed (h : s.Listed) {ctx : Nat} : (s.saveContext ctx).Listed := by
  unfold saveContext
  have stopped : (s.each ((s.teamsOf ctx).map (·.1)) fun s tid => s.modTeam tid fun t => { t with
      stopGrant := s.grantAtStop tid, g := (gFlush t.g t.late 0 fun _ => true).1, late := []
      fibres := t.fibres.mapVals savedFibre }).Listed := each_listed h fun _ _ k => stopTeam_listed k
  refine serveAllBanks_listed (modCtx_listed ?_ (fun _ k => by exact k))
  exact groupsFilter_cores_listed stopped (by exact fun _ => rfl)

theorem answerSave_listed (h : s.Listed) {ctx : Nat} : (s.answerSave ctx).Listed := by
  unfold answerSave
  split
  · exact h
  · exact replyAll_listed (modCtx_listed ((fresh_listed h _).memory (remoteWrite_memory _ _ _)) (fun _ k => by exact k))

theorem moveDrains_listed (h : s.Listed) {ctx : Nat} {map : List Nat} : (s.moveDrains ctx map).Listed := by
  unfold moveDrains
  refine each_listed (cores_listed h (fun _ => by rfl)) fun _ _ k => ?_
  exact modCore_listed k (fun _ => by rfl)

theorem placeAgain_listed (h : s.Listed) {tid core tag grant : Nat} {again : Fibre → Fibre} :
    (s.modTeam tid fun t => { t with
      core := core, tag := tag, grant := grant, fibres := t.fibres.mapVals again }).Listed :=
  setTeam_listed h (KV.sorted_mapVals _ (h.team tid).1) (h.team tid).2

theorem replaceTeam_listed (h : s.Listed) {tid : Nat} {map : List Nat} : (s.replaceTeam tid map).Listed := by
  unfold replaceTeam
  refine formTeam_listed ?_
  refine placeAgain_listed ?_
  exact modCore_listed h (fun _ => by rfl)

theorem rejoin_listed (h : s.Listed) {tid : Nat} : (s.rejoin tid).Listed := by
  unfold rejoin
  refine each_listed h fun _ _ k => ?_
  exact modCore_listed k (fun _ => by rfl)

theorem engines_listed (h : s.Listed) {f : Cmd → Cmd} {g : MatOp → MatOp} :
    ({ s with cmds := s.cmds.mapVals f, mats := s.mats.mapVals g } : State).Listed :=
  { h with cmds := KV.sorted_mapVals f h.cmds, mats := KV.sorted_mapVals g h.mats }

theorem followEngines_listed (h : s.Listed) {ctx : Nat} : (s.followEngines ctx).Listed := engines_listed h

theorem launches_listed (h : s.Listed) {f : Launch → Launch} (params : ∀ l, (f l).params = l.params) :
    ({ s with launches := s.launches.mapVals f } : State).Listed :=
  { h with
    launches := KV.sorted_mapVals f h.launches
    params := fun x hx => by
      obtain ⟨y, hy, rfl⟩ := List.mem_map.1 hx
      exact (congrArg List.length (params y.2)).trans (h.params y hy) }

theorem rejoined_listed (h : s.Listed) {ctx : Nat} {fs : List FibreId} {l : List Nat} :
    ((((s.acquire fs).followEngines ctx).rejoinChannels ctx).each l fun s t => (s.rejoin t).checkSetw t).Listed :=
  each_listed (rejoinChannels_listed (followEngines_listed (acquire_listed h))) fun _ _ k => checkSetw_listed
      (rejoin_listed k)

theorem restoreContext_listed (h : s.Listed) {ctx : Nat} {map : List Nat} : (s.restoreContext ctx map).Listed := by
  unfold restoreContext
  refine serveAllBanks_listed (settleResolved_listed (rejoined_listed (each_listed ?_ fun _ _ k => replaceTeam_listed k)))
  refine launches_listed (moveDrains_listed ?_) fun l => ?_
  · exact modCtx_listed h (fun _ k => by exact k)
  · split <;> rfl

/-! The host's stages (15 R300 to R305). -/

theorem agenda_wire_dev_listed (h : s.Listed) {l : List Directive} {w : List Wired} {d : Device} :
    ({ s with agenda := l, wire := w, dev := d } : State).Listed := { h with }

theorem reset_listed : State.reset.Listed := by
  constructor <;> decide +kernel

theorem dark_listed : s.dark.Listed := agenda_wire_dev_listed reset_listed

theorem stageDone_listed (h : s.Listed) : (s.stageDone).Listed := modDev_listed h

theorem stageFails_listed (h : s.Listed) {fail : Nat} : (s.stageFails fail).Listed := modDev_listed h

theorem noLaunches_listed (h : s.Listed) {f : Context → Context} (tables : ∀ c, c.TablesListed → (f c).TablesListed) :
    ({ s with launches := [], graphs := [], releases := [], registrations := [], contexts := s.contexts.mapVals f } : State).Listed :=
  { h with
    launches := rfl
    params := fun _ hx => absurd hx List.not_mem_nil
    contexts := KV.sorted_mapVals f h.contexts
    tables := fun x hx => by
      obtain ⟨y, hy, rfl⟩ := List.mem_map.1 hx
      exact tables _ (h.tables y hy) }

theorem shutdown_listed (h : s.Listed) : (s.shutdown).Listed := by
  unfold shutdown
  have killed : ((s.notice 4 0).each ((s.notice 4 0).contexts.map (·.1)) fun s c => s.killContext c).Listed :=
    each_listed (notice_listed h) fun _ _ k => killContext_listed k
  refine modDev_listed ?_
  exact noLaunches_listed killed (by exact fun _ k => k)

theorem pair_listed {α : Type} {x : α} (h : s.Listed) : (s, x).1.Listed := h

/-! The driver's operations (15 R306 to R310). -/

theorem doStatus_listed (h : s.Listed) {p : List Byte} : (s.doStatus p).1.Listed := ite_fst_listed h h

theorem doAttest_listed (h : s.Listed) {p : List Byte} : (s.doAttest p).1.Listed := ite_fst_listed h (fresh_listed h _)

theorem makeRoom_listed (h : s.Listed) : (s.makeRoom).Listed := by
  unfold makeRoom
  dsimp only
  refine ite_listed h ?_
  split
  · exact modDev_listed h
  · split
    · exact modDev_listed h
    · exact h

theorem doAttach_listed (h : s.Listed) {f : Frame} : (s.doAttach f).1.Listed := by
  unfold doAttach
  dsimp only
  refine ite_fst_listed h (ite_fst_listed h (ite_fst_listed h ?_))
  split
  · exact h
  · exact pair_listed (modDev_listed (newId_listed (makeRoom_listed (modDev_listed (fresh_listed h _)))))

theorem doPeer_listed (h : s.Listed) {p : List Byte} : (s.doPeer p).1.Listed :=
  ite_fst_listed h (ite_fst_listed (pair_listed (modDev_listed h)) (pair_listed (modDev_listed h)))

theorem doCtxcreate_listed (h : s.Listed) {p : List Byte} : (s.doCtxcreate p).1.Listed := by
  unfold doCtxcreate
  refine ite_fst_listed h (ite_fst_listed h ?_)
  exact setCtx_listed h ⟨rfl, rfl, rfl⟩

theorem doCtxend_listed (h : s.Listed) {p : List Byte} : (s.doCtxend p).1.Listed := ite_fst_listed h (endContext_listed h)

theorem doBindq_listed (h : s.Listed) {p : List Byte} : (s.doBindq p).1.Listed := by
  unfold doBindq
  dsimp only
  exact ite_fst_listed h (ite_fst_listed (pair_listed (modCtx_listed h (fun _ k => by exact k))) (ite_fst_listed
    (pair_listed (modCtx_listed h (fun _ k => by exact k))) (ite_fst_listed h (pair_listed (modCtx_listed h
        (fun _ k => by exact k))))))

theorem codePlaces_listed (h : s.Listed) {c : Nat} {l1 : List Nat} : (s.codePlaces c l1).1.Listed := by
  induction l1 generalizing s with
  | nil => exact h
  | cons va r ih =>
    have place := translateRaw_listed h (ctx := c) (va := va) (kind := .read) (write := false)
    unfold codePlaces
    split
    · next e =>
      have rest := ih (fst_listed place e)
      split
      · next e' => exact fst_listed rest e'
      · next e' => exact fst_listed rest e'
    · next e => exact fst_listed place e

theorem refuseFile_listed (h : s.Listed) {c : Nat} : (s.refuseFile c).1.Listed := notice_listed h

theorem slotInstalled_listed (h : s.Listed) {c slot : Nat} {ps : List (Nat × Nat)} {code : List Byte} {e : CodeSlot}
    {odd : Bool} :
    ((((s.each ps fun s q => s.homeWrite q.2 ((code.drop (65536 * q.1)).take 65536)).freeVal.2.freeVal.2).slotRewritten c
      slot).modCtx c fun x => { x with slots := x.slots.put slot e, ilk := x.ilk || odd }).Listed :=
  modCtx_listed (slotRewritten_listed (fresh_listed (fresh_listed (each_listed h fun _ _ k =>
    k.memory (homeWrite_memory _ _ _)) _) _)) (fun _ k => by exact k)

theorem installFile_listed (h : s.Listed) {c slot va laddr : Nat} : (s.installFile c slot va laddr).1.Listed := by
  have head := readRaw_listed h (ctx := c) (va := va) (n := 64)
  unfold installFile
  split
  · next e => exact refuseFile_listed (fst_listed head e)
  next u bs e =>
  have headed := fst_listed head e
  dsimp only
  refine ite_fst_listed (refuseFile_listed headed) ?_
  have hashes := readRaw_listed headed (ctx := c) (va := va + 64) (n := 48 * pf bs 8 8)
  split
  · next e => exact refuseFile_listed (fst_listed hashes e)
  next e =>
  have hashed := fst_listed hashes e
  have codes := readRaw_listed hashed (ctx := c) (va := va + 64 + 48 * pf bs 8 8) (n := 65536 * pf bs 8 8)
  split
  · next e => exact refuseFile_listed (fst_listed codes e)
  next e =>
  have coded := fst_listed codes e
  have places := codePlaces_listed coded (c := c) (l1 := stepsFrom laddr 65536 (pf bs 8 8))
  split
  · next e => exact refuseFile_listed (fst_listed places e)
  next e =>
  have placed := fst_listed places e
  exact ite_fst_listed (refuseFile_listed placed) (slotInstalled_listed placed)

theorem doInstall_listed (h : s.Listed) {p : List Byte} : (s.doInstall p).1.Listed := by
  unfold doInstall
  exact ite_fst_listed h (ite_fst_listed (pair_listed (modCtx_listed (slotRewritten_listed h) (fun _ k => by exact k)))
      (installFile_listed h))

theorem doSave_listed (h : s.Listed) {sid seq : Nat} {p : List Byte} : (s.doSave sid seq p).1.Listed := by
  unfold doSave
  refine ite_fst_listed h (ite_fst_listed h ?_)
  exact pair_listed (modCtx_listed (ite_listed (fresh_listed h _) (requestStop_listed (fresh_listed h _)))
      (fun _ k => by exact k))

theorem doRestore_listed (h : s.Listed) {p : List Byte} : (s.doRestore p).1.Listed :=
  ite_fst_listed h (ite_fst_listed h (ite_fst_listed h (ite_fst_listed (refuseFile_listed h)
    (ite_fst_listed h (restoreContext_listed h)))))

theorem doMreg_listed (h : s.Listed) {p : List Byte} : (s.doMreg p).1.Listed := by
  unfold doMreg
  dsimp only
  exact ite_fst_listed h (ite_fst_listed (ite_fst_listed h (pair_listed (modCtx_listed h (fun _ k => by exact k))))
      (ite_fst_listed h
    (pair_listed (modCtx_listed (newId_listed h) (fun _ k => by exact k)))))

theorem filterEndpoints_listed (h : s.Listed) {c : Nat} {p : Nat × Endpoint → Bool} :
    (s.modCtx c fun x => { x with endpoints := x.endpoints.filter p }).Listed :=
  modCtx_listed h (tables := fun _ k => ⟨k.1, KV.sorted_filter _ k.2.1, k.2.2⟩)

theorem closeQp_listed (h : s.Listed) {c qpn : Nat} : (s.closeQp c qpn).Listed := filterEndpoints_listed (qps_listed h _)

theorem doQpopen_listed (h : s.Listed) {p : List Byte} : (s.doQpopen p).1.Listed := by
  unfold doQpopen
  refine ite_fst_listed h (ite_fst_listed h (ite_fst_listed ?_ (ite_fst_listed h (ite_fst_listed h (qps_listed h _)))))
  split
  · exact ite_fst_listed (closeQp_listed h) h
  · exact h

theorem delEndpoint_listed (h : s.Listed) {c n : Nat} :
    (s.modCtx c fun x => { x with endpoints := x.endpoints.del n }).Listed :=
  modCtx_listed h (tables := fun _ k => ⟨k.1, KV.sorted_del _ k.2.1, k.2.2⟩)

theorem putEndpoint_listed (h : s.Listed) {c n : Nat} {e : Endpoint} :
    (s.modCtx c fun x => { x with endpoints := x.endpoints.put n e }).Listed :=
  modCtx_listed h (tables := fun _ k => ⟨k.1, KV.sorted_put _ _ k.2.1, k.2.2⟩)

theorem doEpset_listed (h : s.Listed) {p : List Byte} : (s.doEpset p).1.Listed :=
  ite_fst_listed h (ite_fst_listed (delEndpoint_listed h) (ite_fst_listed h (putEndpoint_listed h)))

theorem doHealth_listed (h : s.Listed) {p : List Byte} : (s.doHealth p).1.Listed := ite_fst_listed h h

theorem doPcap_listed (h : s.Listed) {p : List Byte} : (s.doPcap p).1.Listed :=
  ite_fst_listed h (pair_listed (modDev_listed h))

theorem putBreak_listed (h : s.Listed) {c n : Nat} {x : Dword} :
    (s.modCtx c fun t => { t with breaks := t.breaks.put n x }).Listed :=
  modCtx_listed h (tables := fun _ k => ⟨k.1, k.2.1, KV.sorted_put _ _ k.2.2⟩)

theorem delBreak_listed (h : s.Listed) {c n : Nat} : (s.modCtx c fun t => { t with breaks := t.breaks.del n }).Listed :=
  modCtx_listed h (tables := fun _ k => ⟨k.1, k.2.1, KV.sorted_del _ k.2.2⟩)

theorem doBreak_listed (h : s.Listed) {p : List Byte} : (s.doBreak p).1.Listed :=
  ite_fst_listed h (ite_fst_listed (putBreak_listed h) (delBreak_listed h))

end State
end Sys2Proof.Machine
end

section
/-! What sessions and the network bring, counters of busy waits and the machine's own moves keep the lists of State.Listed in
order. -/

namespace Sys2Proof.Machine
namespace State

variable {s t : State}

/-! Frames of the host (15 R307 to R309). -/

theorem enqueueFrame_listed (h : s.Listed) {f : Frame} : (s.enqueueFrame f).1.Listed := by
  unfold enqueueFrame
  dsimp only
  refine ite_fst_listed h (ite_fst_listed h ?_)
  have place := translateRaw_listed h (ctx := f.ctxid) (va := pf f.payload 0 8) (kind := .write) (write := true)
  split
  · next u pa e =>
    have there := fst_listed place e
    have offered := qOffer_listed there (ctx := f.ctxid) (pa := pa) (esz := pf f.payload 8 2) (die := 2 * f.port)
      (data := chunks (pf f.payload 8 2) (pf f.payload 10 2) (f.payload.drop 16))
    split
    · next e => exact fst_listed offered e
    · next e => exact fst_listed offered e
    · next e => exact fst_listed offered e
    · next e => exact fst_listed offered e
    · next e => exact addRecord_listed (fst_listed offered e)
    · next e => exact fst_listed offered e
  · next e => exact fst_listed place e

theorem perform_listed (h : s.Listed) {sid : Nat} {owner : Bool} {f : Frame} : (s.perform sid owner f).1.Listed := by
  unfold perform
  dsimp only
  refine ite_fst_listed h (ite_fst_listed (doStatus_listed h) (ite_fst_listed (doAttest_listed h)
    (ite_fst_listed (doAttach_listed h) (ite_fst_listed h ?_))))
  split
  · exact doPeer_listed h
  · exact doCtxcreate_listed h
  · exact doCtxend_listed h
  · exact doBindq_listed h
  · exact doInstall_listed h
  · exact doSave_listed h
  · exact doRestore_listed h
  · exact doMreg_listed h
  · exact doQpopen_listed h
  · exact doEpset_listed h
  · exact doHealth_listed h
  · exact doPcap_listed h
  · exact doBreak_listed h
  · exact h

theorem modSession_listed (h : s.Listed) {sid : Nat} {f : Session → Session} : (s.modSession sid f).Listed := modDev_listed h

theorem stepNext_listed (h : s.Listed) {sid c : Nat} : (s.stepNext sid c).Listed := modSession_listed h

theorem execute_listed (h : s.Listed) {sid : Nat} {f : Frame} : (s.execute sid f).Listed := by
  unfold execute
  split
  · exact h
  next e _ =>
  refine ite_listed ?_ ?_
  · have queued := enqueueFrame_listed h (f := f)
    split
    · next e => exact sendFrame_listed (fst_listed queued e)
    · next e => exact replyAll_listed (stepNext_listed (fst_listed queued e))
  · have done := perform_listed (stepNext_listed h (sid := sid) (c := f.ctxid)) (sid := sid) (owner := e.owner) (f := f)
    dsimp only
    split
    · next e => exact fst_listed done e
    · next e =>
      exact ite_listed (replyAll_listed (fst_listed done e)) (each_listed
          (fst_listed done e) fun _ _ k => sendFrame_listed k)

theorem executeBare_listed (h : s.Listed) {f : Frame} : (s.executeBare f).Listed := by
  have done := perform_listed h (sid := 0) (owner := false) (f := f)
  unfold executeBare
  split
  · next e => exact fst_listed done e
  · next e => exact each_listed (fst_listed done e) fun _ _ k => sendFrame_listed k

theorem number_listed (h : s.Listed) {sid : Nat} {e : Session} {f : Frame} : (s.number sid e f).Listed :=
  ite_listed (execute_listed h) (ite_listed (ite_listed h (modSession_listed h)) (ite_listed h
    (each_listed h fun _ _ k => sendFrame_listed k)))

theorem receive_listed (h : s.Listed) {f : Frame} : (s.receive f).Listed := by
  unfold receive
  refine ite_listed h ?_
  split
  · exact ite_listed (executeBare_listed h) h
  · exact ite_listed h (ite_listed h (number_listed (modDev_listed h)))

/-! What the network brings (16 R311 to R318). -/

theorem learn_listed (h : s.Listed) {n : Nat} {v6 : Bool} {ip mac : Nat} : (s.learn n v6 ip mac).Listed :=
  ite_listed h (pump_listed (modPort_listed h))

theorem remotePlaces_listed (h : s.Listed) {c : Nat} {write : Bool} {l1 : List (Nat × Nat)} :
    (s.remotePlaces c write l1).1.Listed := by
  induction l1 generalizing s with
  | nil => exact h
  | cons x r ih =>
    have place := translateRaw_listed h (ctx := c) (va := x.1) (kind := if write then .write else .read) (write := write)
    unfold remotePlaces
    split
    · next e =>
      have rest := ih (fst_listed place e)
      split
      · next e' => exact fst_listed rest e'
      · next e' => exact fst_listed rest e'
    · next e => exact fst_listed place e

theorem markCe_listed (h : s.Listed) {r : RdmaReq} : (s.markCe r).Listed := by
  unfold markCe
  dsimp only
  refine ite_listed h ?_
  exact sendQp_listed (qps_listed h _)

theorem psnDone_listed (h : s.Listed) {r : RdmaReq} {n : Nat} : (s.psnDone r n).Listed := qps_listed h _

theorem inSequence_listed (h : s.Listed) {r : RdmaReq} {act again : State → State} (fresh : (act (s.markCe r)).Listed)
    (old : (again (s.markCe r)).Listed) : (s.inSequence r act again).Listed := by
  unfold inSequence
  exact ite_listed fresh (ite_listed old (sendQp_listed (markCe_listed h)))

theorem putPieces_listed (h : s.Listed) {bs : List Byte} {l1 : List (Nat × Nat)} : (s.putPieces bs l1).Listed := by
  induction l1 generalizing s bs with
  | nil => exact h
  | cons x r ih => exact ih (h.memory (remoteWrite_memory s _ _))

theorem ackOf_listed (h : s.Listed) {r : RdmaReq} : (s.ackOf r).Listed := sendQp_listed h

theorem doRdmaWrite_listed (h : s.Listed) {r : RdmaReq} : (s.doRdmaWrite r).Listed := by
  unfold doRdmaWrite
  dsimp only
  refine ite_listed (sendQp_listed h) ?_
  have places := remotePlaces_listed h (c := (s.qps.getD r.qpn { ctx := 0, port := 0 }).ctx) (write := true)
    (l1 := pieces (r.data.length / 65536 + 2) r.va r.data.length)
  split
  · next e => exact sendQp_listed (fst_listed places e)
  · next e => exact ackOf_listed (psnDone_listed (putPieces_listed (fst_listed places e)))

theorem doRdmaRead_listed (h : s.Listed) {r : RdmaReq} {first : Bool} : (s.doRdmaRead r first).Listed := by
  unfold doRdmaRead
  dsimp only
  refine ite_listed (sendQp_listed h) ?_
  have places := remotePlaces_listed h (c := (s.qps.getD r.qpn { ctx := 0, port := 0 }).ctx) (write := false)
    (l1 := pieces (r.len / 65536 + 2) r.va r.len)
  split
  · next e => exact sendQp_listed (fst_listed places e)
  · next e => exact sendQp_listed (ite_listed (psnDone_listed (fst_listed places e)) (fst_listed places e))

theorem doRoceSend_listed (h : s.Listed) {r : RdmaReq} : (s.doRoceSend r).Listed := ackOf_listed (psnDone_listed h)

/-! The counters of busy waits (02 R51). -/

theorem judgeLoads_listed (h : t.Listed) : (s.judgeLoads t).Listed :=
  each_listed h fun _ _ k => ite_listed k (modGroup_listed k (fun _ => by rfl))

theorem judgeReplies_listed (h : t.Listed) : (s.judgeReplies t).Listed := by
  refine each_listed h fun _ _ k => ?_
  exact modGroup_listed k (fun _ => by rfl)

theorem markSpin_listed (h : s.Listed) {fs : List FibreId} {b : Bool} : (s.markSpin fs b).Listed :=
  each_listed h fun _ _ k => ite_listed k (modFibre_listed k)

theorem dropSpins_listed (h : s.Listed) {gid : Nat} : (s.dropSpins gid).Listed := by
  unfold dropSpins
  dsimp only
  refine ite_listed h ?_
  exact modGroup_listed (each_listed h fun _ _ k => markSpin_listed k) (fun _ => by rfl)

theorem dropAllSpins_listed (h : s.Listed) : (s.dropAllSpins).Listed := each_listed h fun _ _ k => dropSpins_listed k

theorem spinIssued_listed (h : t.Listed) {iss : Issue} {i : Instr} {act : List (Nat × FibreId)} :
    (s.spinIssued t iss i act).Listed := by
  unfold spinIssued
  refine ite_listed h ?_
  exact dropSpins_listed (modGroup_listed (each_listed h fun _ _ k => markSpin_listed k) (fun _ => by rfl))

theorem putSpin_listed (h : s.Listed) {gid : Nat} {r : Spin} : (s.putSpin gid r).Listed :=
  modGroup_listed h (fun _ => by rfl)

theorem demote_listed (h : s.Listed) {gid : Nat} {r : Spin} : (s.demote gid r).Listed := markSpin_listed (putSpin_listed h)

theorem undemote_listed (h : s.Listed) {gid : Nat} {r : Spin} : (s.undemote gid r).Listed :=
  markSpin_listed (putSpin_listed h)

theorem dueSpins_listed (h : s.Listed) {gid : Nat} : (s.dueSpins gid).Listed :=
  each_listed (each_listed h fun _ _ k => undemote_listed k) fun _ _ k => demote_listed k

/-! Issue (04 R84 to R92). -/

theorem wakeAll_listed (h : s.Listed) : (s.wakeAll).Listed := each_listed h fun _ _ k => wake_listed k

theorem fetchAt_listed (h : s.Listed) {gid : Nat} {r : Dword} : (s.fetchAt gid r).1.Listed := by
  unfold fetchAt
  dsimp only
  refine ite_fst_listed (fetch_listed h) ?_
  split
  · next e => exact fst_listed (h.memory (codeWord_memory s _ _ _)) e
  · next e =>
    exact ite_fst_listed (fetch_listed (fst_listed (h.memory (codeWord_memory s _ _ _)) e))
      (fst_listed (h.memory (codeWord_memory s _ _ _)) e)

theorem applyHint_listed (k : s.Listed) {gid : Nat} {h : Hint} {yields : Bool} : (s.applyHint gid h yields).Listed := by
  unfold applyHint
  split
  · exact k
  next g e => exact setGroup_listed k (k.files _ (KV.mem_of_find e))

/-- An update of every group that leaves its registers. -/
theorem groupsMap_listed (h : s.Listed) {f : Nat × Group → Nat × Group} (key : ∀ x, (f x).1 = x.1)
    (g : ∀ x, (f x).2.g = x.2.g) : ({ s with groups := s.groups.map f } : State).Listed :=
  { h with
    groups := KV.sorted_map f key h.groups
    files := fun x hx => by
      obtain ⟨y, hy, rfl⟩ := List.mem_map.1 hx
      rw [g]
      exact h.files y hy }

theorem chosen_listed (h : s.Listed) {core slot gid k : Nat} : (s.chosen core slot gid k).Listed := by
  unfold chosen
  refine modCore_listed ?_ (fun _ => by rfl)
  refine groupsMap_listed h (by exact fun _ => rfl) fun x => ?_
  dsimp only
  split
  · rfl
  · split <;> rfl

/-! A clock's end (04 R89). -/

theorem teams_listed (h : s.Listed) {f : Team → Team} (fibres : ∀ x, (f x).fibres = x.fibres)
    (g : ∀ x, (f x).g.length = x.g.length) : ({ s with teams := s.teams.mapVals f } : State).Listed :=
  { h with
    teams := KV.sorted_mapVals f h.teams
    fibres := fun x hx => by
      obtain ⟨y, hy, rfl⟩ := List.mem_map.1 hx
      exact ⟨by rw [fibres]; exact (h.fibres y hy).1, (g _).trans (h.fibres y hy).2⟩ }

theorem flushTeams_listed (h : s.Listed) {done : Late → Bool} :
    ({ s with teams := s.teams.mapVals fun t =>
        if t.late.isEmpty then t else { t with g := (gFlush t.g t.late 0 done).1, late := (gFlush t.g t.late 0 done).2 } } :
      State).Listed :=
  teams_listed h (fun t => by split <;> rfl) fun t => by
    split
    · rfl
    · exact gFlush_length t.g _ _ _

theorem tick1_listed (h : s.Listed) {core : Nat} : (s.tick1 core).Listed := by
  unfold tick1
  refine ite_listed h ?_
  refine groupsMap_listed ?_ (fun x => ?_) fun x => ?_
  · refine flushTeams_listed ?_
    exact modCore_listed h (fun _ => by rfl)
  · dsimp only; split <;> rfl
  · dsimp only; split <;> rfl

theorem tickCore_listed (h : s.Listed) {core : Nat} {l1 : Nat} : (s.tickCore core l1).Listed := by
  induction l1 generalizing s with
  | zero => exact h
  | succ n ih => exact ih (tick1_listed h)

theorem tickAll_listed (h : s.Listed) : (s.tickAll).Listed := each_listed h fun _ _ k => tick1_listed k

/-! What follows every move. -/

theorem badWritten_listed (h : s.Listed) (l : List Nat) : ({ s with badWritten := l } : State).Listed := { h with }

theorem endWritten_listed (h : s.Listed) : (s.endWritten).Listed :=
  each_listed (badWritten_listed h []) fun _ _ k => endMappers_listed k

theorem settleVerdicts_listed (h : s.Listed) : (s.settleVerdicts).Listed :=
  each_listed h fun _ _ k => settleResolved_listed k

theorem serveWaiters_listed (h : s.Listed) : (s.serveWaiters).Listed := each_listed h fun _ _ k => serveBanks_listed k

theorem serveSetw_listed (h : s.Listed) : (s.serveSetw).Listed := each_listed h fun _ _ k => checkSetw_listed k

/-- A step that is left out where it has nothing to do. -/
theorem ite_step_listed {c : Prop} [Decidable c] {f : State → State} (h : t.Listed) (hf : t.Listed → (f t).Listed) :
    (if c then t else f t).Listed := ite_listed h (hf h)

theorem settleStep_listed (h : t.Listed) : (s.settleStep t).Listed := by
  have written := ite_step_listed (c := t.releases.isEmpty) (f := performReleases) h fun k => performReleases_listed k
  have trimmed := written.memory (l2Trim_memory _)
  have judged (u : State) (k : u.Listed) : ((s.judgeReplies (s.judgeLoads (u.each u.barrierTeams fun t n =>
      s.barrierNoted t n))).dropAllSpins.serveWaiters).Listed :=
    serveWaiters_listed (dropAllSpins_listed (judgeReplies_listed (judgeLoads_listed (each_listed k fun _ _ k =>
      barrierNoted_listed s k))))
  unfold settleStep
  refine each_listed (each_listed (ite_step_listed (f := doAborts) (settleVerdicts_listed (ite_step_listed (f := serveSetw)
    (judged _ (ite_step_listed (f := endWritten) trimmed fun k => endWritten_listed k)) fun k => serveSetw_listed k)) fun k =>
    doAborts_listed k) fun _ _ k => sendUnsent_listed k) fun _ _ k => ite_step_listed (f := fun t => t.pump _) k fun k =>
    pump_listed k

theorem setWidth_listed (h : s.Listed) {core limit : Nat} : (s.setWidth core limit).Listed := by
  unfold setWidth
  refine ite_listed h (each_listed ?_ fun _ _ k => checkSetw_listed k)
  exact modCore_listed h (fun _ => by rfl)

theorem badMem_listed (h : s.Listed) (l : List Nat) : ({ s with badMem := l } : State).Listed := { h with }

theorem badSump_listed (h : s.Listed) (l : List Nat) : ({ s with badSump := l } : State).Listed := { h with }

theorem damage_listed (h : s.Listed) {p : Place} : (s.damage p).Listed := by
  unfold damage
  split
  · exact badMem_listed h _
  · exact badSpad_listed h _
  · exact badElse_listed h _
  · exact badElse_listed h _
  · exact badReg_listed h _
  · exact badSump_listed h _
  · exact h
  · exact badElse_listed h _

end State
end Sys2Proof.Machine
end

section
/-! Outcomes whose state is listed; instructions of the lanes, barriers and control flow. -/

namespace Sys2Proof.Machine

open State
open Sys2Proof.Float (Env Res)

/-- The state of the outcome, where there is one, has the lists of State.Listed in order. -/
def KeepsLists (o : Host.Outcome State Fault Refusal) : Prop := ∀ t, o = .next t → t.Listed

variable {s : State}

theorem next_keeps (h : s.Listed) : KeepsLists (.next s) := fun _ e => Host.Outcome.next.inj e ▸ h

theorem fault_keeps {x : Fault} : KeepsLists (.fault x) := nofun

theorem ite_keeps {c : Prop} [Decidable c] {a b : Host.Outcome State Fault Refusal} (ha : KeepsLists a) (hb : KeepsLists b) :
    KeepsLists (if c then a else b) := by
  split
  · exact ha
  · exact hb

/-- A move that is not enabled unless its condition is false. -/
theorem unless_keeps {c : Prop} [Decidable c] {x : Fault} {b : Host.Outcome State Fault Refusal} (hb : KeepsLists b) :
    KeepsLists (if c then .fault x else b) := ite_keeps fault_keeps hb

theorem issuedMem_keeps (h : s.Listed) {i : Instr} {leaves : Bool} {illegal : Issue → List (Nat × FibreId) → Bool}
    {body : Issue → List (Nat × FibreId) → State} (hb : ∀ iss act, (body iss act).Listed) :
    KeepsLists (issuedMem i s leaves illegal body) := by
  unfold issuedMem
  split
  · exact next_keeps h
  · next iss _ =>
    refine ite_keeps (next_keeps (raise_listed h)) (ite_keeps (next_keeps (raise_listed h)) (ite_keeps
      (next_keeps (raise_listed h)) (ite_keeps (next_keeps (raise_listed h)) (ite_keeps (next_keeps
          (advance_listed h)) ?_))))
    split
    · exact next_keeps (stall_listed h)
    · exact next_keeps (ite_listed (parkPage_listed (forgetFault_listed h)) (raise_listed h))
    · exact next_keeps (hb _ _)

theorem issued_keeps (h : s.Listed) {i : Instr} {leaves : Bool} {illegal : Issue → List (Nat × FibreId) → Bool}
    {body : Issue → List (Nat × FibreId) → State} (hb : ∀ iss act, (body iss act).Listed) :
    KeepsLists (issued i s leaves illegal body) := issuedMem_keeps h fun _ _ => sourced_listed h (hb _ _)

/-! Lanes (05; 17 to 25). -/

theorem intInstr_keeps (h : s.Listed) {i : Instr} {d a b c : Opnd} {op : Nat → Nat → Nat → Nat → Nat} : KeepsLists
    (intInstr i s d a b c op) := issued_keeps h fun iss act => by
  split <;> exact finish_listed h

theorem cmpInstr_keeps (h : s.Listed) {i : Instr} {kd : Nat} {u : Bool} {cc : Nat} {a b : Opnd} : KeepsLists
    (cmpInstr i s kd u cc a b) := issued_keeps h fun _ _ => finish_listed h

theorem fpInstr_keeps (h : s.Listed) {i : Instr} {rnd : Nat} {d a b c : Opnd} {op : Env → Nat → Nat → Nat → Res} :
    KeepsLists (fpInstr i s rnd d a b c op) := issued_keeps h fun _ _ => finish_listed h

theorem halfInstr_keeps (h : s.Listed) {i : Instr} {fmt rnd : Nat} {d a b c : Opnd} {op : Env → Nat → Nat → Nat → Res}
    : KeepsLists (halfInstr i s fmt rnd d a b c op) := issued_keeps h fun _ _ => finish_listed h

theorem fcmpInstr_keeps (h : s.Listed) {i : Instr} {kd cc : Nat} {a b : Opnd} : KeepsLists (fcmpInstr i s kd cc a b) :=
  issued_keeps h fun _ _ => finish_listed h

theorem execMovX_keeps (h : s.Listed) {o : XR} : KeepsLists (execMovX o s) := issued_keeps h fun iss act => by
  split
  · exact agree_listed h
  · exact finish_listed h
  · exact finish_listed h

theorem execMovs_keeps (h : s.Listed) {o : XR} : KeepsLists (execMovs o s) := issued_keeps h fun iss act => by
  split
  · exact agree_listed h
  · exact raise_listed h

/-! Barriers and waits (04 R95 to R98; 07 R160 to R168). -/

theorem execBar_keeps (h : s.Listed) {o : XS} : KeepsLists (execBar o s) := issued_keeps h fun iss act => by
  have synced := syncStep_listed h (core := iss.core) (ls := act)
  split
  · next e => exact stall_listed (fst_listed synced e)
  · next e => exact each_listed (park_listed (goto_listed (fst_listed synced e))) fun _ _ k => checkBar_listed k

theorem execGbar_keeps (h : s.Listed) {o : XS} : KeepsLists (execGbar o s) := issued_keeps h fun iss act => by
  have synced := syncStep_listed h (core := iss.core) (ls := act)
  split
  · next e => exact stall_listed (fst_listed synced e)
  · next e =>
    exact checkGalleries_listed (each_listed (goto_listed (fst_listed synced e)) fun _ _ k =>
      ite_listed (park_listed k) (park_listed (arrive_listed k)))

theorem execGbarEnter_keeps (h : s.Listed) {o : XS} : KeepsLists (execGbarEnter o s) := issued_keeps h fun iss act => by
  have entered : ((s.goto (State.others iss act) iss.next).each act fun u x =>
      if !((act.filter fun x => !s.hasArrived x.2).map (·.2)).contains x.2 then u.park iss [x] (.gphase (u.phaseOf x.2)) none
      else (u.addPending iss x.2 [(regOf o.d, BitVec.ofNat 64 (u.phaseOf x.2))] [] none).goto [x] iss.next).Listed :=
    each_listed (goto_listed h) fun _ _ k => ite_listed (park_listed k) (goto_listed (addPending_listed k))
  exact enterNow_listed (each_listed entered fun _ _ k => delay_listed k)

theorem execGbarLeave_keeps (h : s.Listed) {o : XS} : KeepsLists (execGbarLeave o s) := issued_keeps h fun iss act => by
  refine ite_listed (stall_listed h) (acquire_listed (each_listed (goto_listed h) fun _ _ k => ?_))
  exact ite_listed (goto_listed k) (park_listed k)

theorem execSetw_keeps (h : s.Listed) {o : XS} : KeepsLists (execSetw o s) := issued_keeps h fun iss act => by
  have synced := syncStep_listed h (core := iss.core) (ls := act)
  split
  · next e => exact stall_listed (fst_listed synced e)
  · next e => exact each_listed (park_listed (fst_listed synced e)) fun _ _ k => checkSetw_listed k

theorem execAbinit_keeps (h : s.Listed) {o : XE} : KeepsLists (execAbinit o s) := issued_keeps h fun iss act => by
  dsimp only
  refine ite_listed (stall_listed h) ?_
  split
  · exact raise_listed h
  · exact advance_listed (barrierPut_listed h)

theorem execAbwait_keeps (h : s.Listed) {o : XS} : KeepsLists (execAbwait o s) := issued_keeps h fun iss act => by
  have pass := ite_listed (c := (!s.acquireOpen (act.map (·.2))) = true) (stall_listed h (iss := iss))
    (advance_listed (acquire_listed h (fs := act.map (·.2))) (iss := iss))
  dsimp only
  split
  · exact raise_listed h
  · refine ite_listed pass (ite_listed (stall_listed h) ?_)
    split
    · exact raise_listed h
    · exact ite_listed (raise_listed h) (ite_listed (raise_listed h) (ite_listed (raise_listed h) (ite_listed pass
        (ite_listed (stall_listed h) (park_listed h)))))

theorem execWait_keeps (h : s.Listed) {o : XS} : KeepsLists (execWait o s) :=
  issued_keeps h fun _ _ => ite_listed (advance_listed h) (park_listed h)

/-! Control flow (04 R94; 17 R362). -/

theorem execCallr_keeps (h : s.Listed) {o : XC} : KeepsLists (execCallr o s) := issued_keeps h fun iss act => by
  have checked (l : List (FibreId × Dword)) := checkEach_listed h (iss := iss) (call := true) (l1 := l)
  split
  · next e => exact callTo_listed (fst_listed (checked _) e)
  · next e => exact moveFail_listed (fst_listed (checked _) e)

theorem execTrap_keeps (h : s.Listed) {o : XS} : KeepsLists (execTrap o s) :=
  issued_keeps h fun _ _ => ite_listed (advance_listed h) (raise_listed h)

theorem execSvc_keeps (h : s.Listed) {o : XS} : KeepsLists (execSvc o s) :=
  issued_keeps h fun _ _ => ite_listed (advance_listed h) (raise_listed h)

theorem execUnassignedEncoding_keeps (h : s.Listed) : KeepsLists (execUnassignedEncoding s) := by
  unfold execUnassignedEncoding
  split
  · exact next_keeps h
  · exact next_keeps (raise_listed h)

/-! Masked operations of a group (04 R98, R99). -/

theorem maskOp_keeps (h : s.Listed) {i : Instr} {body : State → Issue → List (Nat × FibreId) → List (Nat × FibreId) → State}
    {bad : Issue → List (Nat × FibreId) → List (Nat × FibreId) → Bool} (hb : ∀ iss gat act, (body s iss gat act).Listed) :
    KeepsLists (maskOp i s body bad) :=
  issuedMem_keeps h fun _ _ => ite_listed (raise_listed h) (ite_listed (raise_listed h) (ite_listed (stall_listed h)
    (ite_listed (raise_listed h) (sourced_listed h (ite_listed (each_listed (hb _ _ _) fun _ _ k => modFibre_listed k)
      (hb _ _ _))))))

theorem shfl_keeps (h : s.Listed) {i : Instr} {o : XR} {mode : Nat} : KeepsLists (shfl i o mode s) :=
  maskOp_keeps h fun _ _ _ => finish_listed h

theorem execVoteMask_keeps (h : s.Listed) {o : XR} : KeepsLists (execVoteMask o s) :=
  maskOp_keeps h fun _ _ _ => toAll_listed h

theorem execVoteCount_keeps (h : s.Listed) {o : XR} : KeepsLists (execVoteCount o s) :=
  maskOp_keeps h fun _ _ _ => toAll_listed h

theorem execVoteQuorum_keeps (h : s.Listed) {o : XR} : KeepsLists (execVoteQuorum o s) :=
  maskOp_keeps h fun _ _ _ => toAll_listed h

theorem execVoteSplit_keeps (h : s.Listed) {o : XR} : KeepsLists (execVoteSplit o s) :=
  maskOp_keeps h fun _ _ _ => toAll_listed h

theorem execGred_keeps (h : s.Listed) {o : XR} : KeepsLists (execGred o s) := maskOp_keeps h fun _ _ _ => toAll_listed h

theorem execGscan_keeps (h : s.Listed) {o : XR} : KeepsLists (execGscan o s) := maskOp_keeps h fun _ _ _ => finish_listed h

theorem execMatchAny_keeps (h : s.Listed) {o : XR} : KeepsLists (execMatchAny o s) :=
  maskOp_keeps h fun _ _ _ => finish_listed h

theorem execMatchAll_keeps (h : s.Listed) {o : XR} : KeepsLists (execMatchAll o s) :=
  maskOp_keeps h fun _ _ _ => finish_listed h

theorem execRebal_keeps (h : s.Listed) {o : XR} : KeepsLists (execRebal o s) :=
  issued_keeps h fun _ _ => finish_listed (addPending_listed h)

theorem execTopk_keeps (h : s.Listed) {o : XR} : KeepsLists (execTopk o s) :=
  issuedMem_keeps h fun _ _ => ite_listed (stall_listed h) (ite_listed (raise_listed h) (ite_listed (raise_listed h)
    (ite_listed (raise_listed h) (sourced_listed h (finish_listed (spadWrite_listed h))))))

theorem execBdot_keeps (h : s.Listed) {o : XR} : KeepsLists (execBdot o s) := issuedMem_keeps h fun iss act => by
  dsimp only
  refine ite_listed (stall_listed h) ?_
  split
  · exact raise_listed h
  · split
    · exact raise_listed h
    · exact finish_listed h

end Sys2Proof.Machine
end

section
/-! Memory, queues and channels keep the lists of State.Listed in order. -/

namespace Sys2Proof.Machine

open State

variable {s : State}

/-! Loads, stores and atomics (06 R128 to R140). -/

theorem loadGlobal_keeps (h : s.Listed) {i : Instr} {o : XM} : KeepsLists (loadGlobal i o s) :=
  issuedMem_keeps h fun iss act => by
  have gate := accessGate_listed h (iss := iss) (fs := State.performers o act) (store := false)
  dsimp only
  split
  · next e => exact stall_listed (fst_listed gate e)
  · next e =>
    have passed := fst_listed gate e
    refine ite_listed (stall_listed passed) ?_
    split
    · next e => exact memFail_listed (fst_listed (globalCheck_listed passed) e)
    · next e =>
      have placed := fst_listed (globalCheck_listed passed) e
      have loaded (l : List (FibreId × Nat)) := each_listed (l := l) (f := fun s x => loadOne s iss o act x.1 x.2) placed
        fun _ _ k => loadOne_listed k
      exact ite_listed (stall_listed placed) (ite_listed (stall_listed placed) (advance_listed (ite_listed
        ((loaded _).memory (l1Acquire_memory _ _)) (loaded _))))

theorem storeGlobal_keeps (h : s.Listed) {i : Instr} {o : XM} : KeepsLists (storeGlobal i o s) :=
  issuedMem_keeps h fun iss act => by
  have gate := accessGate_listed h (iss := iss) (fs := State.performers o act) (store := false)
  dsimp only
  split
  · next e => exact stall_listed (fst_listed gate e)
  · next e =>
    have passed := fst_listed gate e
    refine ite_listed (stall_listed passed) ?_
    split
    · next e => exact memFail_listed (fst_listed (globalCheck_listed passed) e)
    · next e => exact advance_listed (storeChecked_listed (fst_listed (globalCheck_listed passed) e))

theorem storeStream_keeps (h : s.Listed) {i : Instr} {o : XM} {n : Nat} : KeepsLists (storeStream i o n s) :=
  issuedMem_keeps h fun iss act => by
  have gate := accessGate_listed h (iss := iss) (fs := (State.byFid act).map (·.2)) (store := false)
  dsimp only
  split
  · next e => exact stall_listed (fst_listed gate e)
  · next e =>
    have passed := fst_listed gate e
    refine ite_listed (stall_listed passed) ?_
    split
    · exact raise_listed passed
    · split
      · next e => exact memFail_listed (fst_listed (globalCheck_listed passed) e)
      · next e =>
        exact advance_listed (each_listed (storeChecked_listed (fst_listed (globalCheck_listed passed) e)) fun _ _ k =>
          modFibre_listed k)

theorem execStX_keeps (h : s.Listed) {o : XM} : KeepsLists (execStX o s) := by
  unfold execStX
  split
  · exact storeStream_keeps h
  · exact storeGlobal_keeps h

theorem execSdef_keeps (h : s.Listed) {o : XE} : KeepsLists (execSdef o s) := issued_keeps h fun iss act => by
  dsimp only
  refine ite_listed (stall_listed h) ?_
  split
  · exact raise_listed h
  · split
    · exact raise_listed h
    · split
      · exact raise_listed h
      · exact ite_listed (stall_listed h) (advance_listed (each_listed h fun _ _ k => modFibre_listed k))

theorem execSstop_keeps (h : s.Listed) {o : XE} : KeepsLists (execSstop o s) := issued_keeps h fun _ _ =>
  ite_listed (stall_listed h) (advance_listed (each_listed h fun _ _ k => modFibre_listed k))

theorem execStreamPrefetch_keeps (h : s.Listed) {fib : FibreId} {stream : Nat} : KeepsLists
    (execStreamPrefetch fib stream s) := by
  have place (core ctx va : Nat) := translate_listed h (core := core) (ctx := ctx) (va := va) (kind := .read)
      (write := false)
  unfold execStreamPrefetch
  dsimp only
  refine ite_keeps ?_ fault_keeps
  split
  · next e => exact next_keeps (modFibre_listed (fst_listed (place _ _ _) e))
  · next e =>
    have there := fst_listed (place _ _ _) e
    exact ite_keeps (next_keeps (modFibre_listed there)) (next_keeps (modFibre_listed (there.memory
        (readHome_memory _ _ _ _))))
  · next e => exact next_keeps (modFibre_listed (fst_listed (place _ _ _) e))
  · next e => exact next_keeps (modFibre_listed (fst_listed (place _ _ _) e))

theorem loadSpad_keeps (h : s.Listed) {i : Instr} {o : XM} : KeepsLists (loadSpad i o s) :=
  issuedMem_keeps h fun iss act => by
  have gate := accessGate_listed h (iss := iss) (fs := State.performers o act) (store := false)
  dsimp only
  split
  · next e => exact stall_listed (fst_listed gate e)
  · next e =>
    have passed := fst_listed gate e
    refine ite_listed (stall_listed passed) ?_
    split
    · exact ite_listed (stall_listed passed) (raise_listed passed)
    · exact ite_listed (stall_listed passed) (advance_listed (each_listed passed fun _ _ k => addPending_listed k))

theorem storeSpad_keeps (h : s.Listed) {i : Instr} {o : XM} : KeepsLists (storeSpad i o s) :=
  issuedMem_keeps h fun iss act => by
  have gate := accessGate_listed h (iss := iss) (fs := State.performers o act) (store := false)
  dsimp only
  split
  · next e => exact stall_listed (fst_listed gate e)
  · next e =>
    have passed := fst_listed gate e
    refine ite_listed (stall_listed passed) ?_
    split
    · exact raise_listed passed
    · exact ite_listed (advance_listed (spadAll_listed passed)) (advance_listed (delay_listed passed))

theorem execLdx_keeps (h : s.Listed) {o : XM} : KeepsLists (execLdx o s) := issuedMem_keeps h fun iss act => by
  have gate := accessGate_listed h (iss := iss) (fs := State.performers o act) (store := false)
  dsimp only
  split
  · next e => exact stall_listed (fst_listed gate e)
  · next e =>
    have passed := fst_listed gate e
    refine ite_listed (stall_listed passed) ?_
    split
    · exact ite_listed (stall_listed passed) (raise_listed passed)
    · exact park_listed passed
    · refine ite_listed (stall_listed passed) (advance_listed (each_listed passed fun _ _ k => ?_))
      split
      · exact addPending_listed k
      · exact addPending_listed k

theorem execStx_keeps (h : s.Listed) {o : XM} : KeepsLists (execStx o s) := issuedMem_keeps h fun iss act => by
  have gate := accessGate_listed h (iss := iss) (fs := State.performers o act) (store := false)
  dsimp only
  split
  · next e => exact stall_listed (fst_listed gate e)
  · next e =>
    have passed := fst_listed gate e
    refine ite_listed (stall_listed passed) ?_
    split
    · exact raise_listed passed
    · exact park_listed passed
    · exact ite_listed (advance_listed (stxAll_listed passed)) (advance_listed (delay_listed passed))

theorem execLea_keeps (h : s.Listed) {o : XM} : KeepsLists (execLea o s) := issued_keeps h fun iss act => by
  dsimp only
  split
  · exact ite_listed (raise_listed h) (finish_listed h)
  · exact finish_listed h

theorem execPref_keeps (h : s.Listed) {o : XM} : KeepsLists (execPref o s) := issuedMem_keeps h fun iss act => by
  split
  · next e => exact raise_listed (fst_listed (prefCheck_listed h) e)
  · next e =>
    have checked := fst_listed (prefCheck_listed h) e
    exact sourced_listed checked (advance_listed (each_listed checked fun _ _ k => prefLine_listed k))

theorem cacheOp_keeps (h : s.Listed) {i : Instr} {o : XM} {f : State → Nat → Nat → State}
    (hf : ∀ t core l, t.Listed → (f t core l).Listed) : KeepsLists (cacheOp i o s f) :=
  issuedMem_keeps h fun iss act => by
    dsimp only
    split
    · next e => exact memFail_listed (fst_listed (cacheLines_listed h) e)
    · next e =>
      have lines := fst_listed (cacheLines_listed h) e
      exact ite_listed (stall_listed lines) (advance_listed (each_listed lines fun _ _ k => hf _ _ _ k))

theorem execCacheWb_keeps (h : s.Listed) {o : XM} : KeepsLists (execCacheWb o s) :=
  cacheOp_keeps h fun _ _ _ k => cleanLine_listed k

theorem execCacheInv_keeps (h : s.Listed) {o : XM} : KeepsLists (execCacheInv o s) := cacheOp_keeps h fun _ core _ k =>
  each_listed (cleanLine_listed k) fun u w k => k.memory (l1Drop_memory u core w)

theorem l2lines_listed (h : s.Listed) (l : KV L2Line) : ({ s with l2lines := l } : State).Listed := { h with }

theorem execCacheClel_keeps (h : s.Listed) {o : XM} : KeepsLists (execCacheClel o s) := issuedMem_keeps h fun iss act => by
  dsimp only
  split
  · next e => exact memFail_listed (fst_listed (cacheLines_listed h) e)
  · next e =>
    have lines := fst_listed (cacheLines_listed h) e
    refine advance_listed (l2lines_listed ?_ _)
    exact modCore_listed lines (fun _ => by rfl)

theorem execFenceAcq_keeps (h : s.Listed) {o : XM} : KeepsLists (execFenceAcq o s) :=
  issued_keeps h fun _ _ => advance_listed (each_listed h fun _ _ k => modFibre_listed k)

theorem execFenceRel_keeps (h : s.Listed) {o : XM} : KeepsLists (execFenceRel o s) :=
  issued_keeps h fun _ _ => advance_listed (each_listed h fun _ _ k => modFibre_listed k)

theorem execFenceAr_keeps (h : s.Listed) {o : XM} : KeepsLists (execFenceAr o s) :=
  issued_keeps h fun _ _ => advance_listed (each_listed h fun _ _ k => modFibre_listed k)

theorem atomGlobal_keeps (h : s.Listed) {i : Instr} {o : XM} {op : Nat} : KeepsLists (atomGlobal i o op s) :=
  issuedMem_keeps h fun iss act => by
  have gate := accessGate_listed h (iss := iss) (fs := State.performers o act) (store := false)
  dsimp only
  split
  · next e => exact stall_listed (fst_listed gate e)
  · next e =>
    have passed := fst_listed gate e
    refine ite_listed (stall_listed passed) ?_
    split
    · next e => exact memFail_listed (fst_listed (globalCheck_listed passed) e)
    · next e =>
      have placed := fst_listed (globalCheck_listed passed) e
      refine ite_listed (advance_listed (holdFor_listed (delay_listed (atomLater_listed placed)))) (ite_listed
        (advance_listed (holdFor_listed (delay_listed (atomLater_listed placed)))) ?_)
      split
      · next e =>
        exact advance_listed (holdFor_listed (delay_listed (atomLater_listed (fst_listed (ownGate_listed placed) e))))
      · next e =>
        have owned := fst_listed (ownGate_listed placed) e
        have done (l : List (FibreId × Nat)) := each_listed (l := l) (f := fun s x => atomOne s iss o op act x.1 x.2) owned
          fun _ _ k => atomOne_listed k
        exact advance_listed (ite_listed ((done _).memory (l1Acquire_memory _ _)) (done _))

theorem atomSpad_keeps (h : s.Listed) {i : Instr} {o : XM} {op : Nat} : KeepsLists (atomSpad i o op s) :=
  issuedMem_keeps h fun iss act => by
  have gate := accessGate_listed h (iss := iss) (fs := State.performers o act) (store := false)
  dsimp only
  split
  · next e => exact stall_listed (fst_listed gate e)
  · next e =>
    have passed := fst_listed gate e
    refine ite_listed (stall_listed passed) ?_
    split
    · exact raise_listed passed
    · refine ite_listed (advance_listed (holdFor_listed (delay_listed (atomLater_listed passed)))) (advance_listed ?_)
      exact ite_listed ((each_listed passed fun _ _ k => addPending_listed (atomsHome_listed k)).memory
          (l1Acquire_memory _ _))
        (each_listed passed fun _ _ k => addPending_listed (atomsHome_listed k))

/-! What comes later to memory (06 R141 to R147). -/

theorem execResultWriteback_keeps (h : s.Listed) {id : Nat} : KeepsLists (execResultWriteback id s) := by
  unfold execResultWriteback
  split
  · exact fault_keeps
  · split
    · exact next_keeps (writeResult_listed h)
    · exact next_keeps (writeResult_listed (answer_listed h))
    · exact ite_keeps (next_keeps (writeResult_listed (answer_listed h))) fault_keeps
    · exact fault_keeps

theorem registrations_listed (h : s.Listed) (l : KV Registration) : ({ s with registrations := l } : State).Listed :=
  { h with }

theorem ownersPut_listed (h : s.Listed) {w core : Nat} : ({ s with owners := s.owners.put w core } : State).Listed :=
  { h with owners := KV.sorted_put _ _ h.owners }

theorem execOwnershipRegistration_keeps (h : s.Listed) {id : Nat} : KeepsLists (execOwnershipRegistration id s) := by
  unfold execOwnershipRegistration
  split
  · exact fault_keeps
  · refine unless_keeps (next_keeps (registrations_listed (each_listed h fun u w k => ?_) _))
    have merged (core : Nat) := k.memory (mergeWord_memory u core w)
    refine ownersPut_listed (State.Listed.memory ?_ (dropGuests_memory _ _))
    split
    · exact ite_listed (merged _) ((merged _).memory (discard_memory _ _ _))
    · exact merged _

theorem execRegistrationAck_keeps (h : s.Listed) {id : Nat} : KeepsLists (execRegistrationAck id s) := by
  unfold execRegistrationAck
  split
  · exact fault_keeps
  · exact ite_keeps (next_keeps { h with }) fault_keeps

theorem execOwnerReadForward_keeps (h : s.Listed) {id : Nat} : KeepsLists (execOwnerReadForward id s) := by
  unfold execOwnerReadForward
  split
  · exact fault_keeps
  · split
    · exact ite_keeps (next_keeps (answer_listed h)) fault_keeps
    · exact fault_keeps

theorem execReadCombineReply_keeps (h : s.Listed) {line : Nat} : KeepsLists (execReadCombineReply line s) :=
  unless_keeps (next_keeps (each_listed h fun _ _ k => answer_listed k))

theorem execOwnershipWithdrawal_keeps (h : s.Listed) {word : Nat} : KeepsLists (execOwnershipWithdrawal word s) := by
  unfold execOwnershipWithdrawal
  refine unless_keeps ?_
  have done (l : List Nat) : ({ s with withdrawals := l } : State).Listed := { h with }
  dsimp only
  split
  · exact next_keeps (done _)
  · exact unless_keeps (next_keeps ((done _).memory (withdraw_memory _ _)))

theorem execPageWalk_keeps (h : s.Listed) {core ctx va : Nat} {kind : WalkKind} : KeepsLists
    (execPageWalk core ctx va kind s) := unless_keeps (next_keeps (h.memory (walkFill_memory s core ctx va kind _)))

theorem execStxLanding_keeps (h : s.Listed) {id : Nat} : KeepsLists (execStxLanding id s) := by
  unfold execStxLanding
  split
  · exact fault_keeps
  · exact ite_keeps (next_keeps (landPacket_listed h)) fault_keeps

end Sys2Proof.Machine
end

section
/-! Queues, channels, the copy engine and the matrix engine keep the lists of State.Listed in order. -/

namespace Sys2Proof.Machine

open State

variable {s : State}

/-! Queues (08 R172 to R187; 22 R441 to R443). -/

theorem enqueue_keeps (h : s.Listed) {i : Instr} {o : XE} {trying : Bool} : KeepsLists (enqueue i o trying s) :=
  issuedMem_keeps h fun iss act => by
  have released := releaseStep_listed h (core := iss.core) (ls := act)
  split
  · next e => exact stall_listed (fst_listed released e)
  · next e =>
    have performed := fst_listed released e
    dsimp only
    split
    · next e => exact memFail_listed (fst_listed (cbCheck_listed performed) e)
    · next e =>
      have block := fst_listed (cbCheck_listed performed) e
      exact sourced_listed block (ite_listed (stall_listed block) (sendRequest_listed block))

theorem dequeue_keeps (h : s.Listed) {i : Instr} {o : XE} {trying : Bool} : KeepsLists (dequeue i o trying s) :=
  issuedMem_keeps h fun iss act => by
  refine ite_listed (raise_listed h) (ite_listed (raise_listed h) ?_)
  dsimp only
  split
  · next e => exact memFail_listed (fst_listed (cbCheck_listed h) e)
  · next e =>
    have block := fst_listed (cbCheck_listed h) e
    exact sourced_listed block (ite_listed (stall_listed block) (sendRequest_listed (accessDone_listed block)))

theorem execSpawn_keeps (h : s.Listed) {o : XE} : KeepsLists (execSpawn o s) := issuedMem_keeps h fun iss act => by
  refine ite_listed (raise_listed h) (ite_listed (raise_listed h) (ite_listed (raise_listed h) (ite_listed
      (raise_listed h) ?_)))
  split
  · next e => exact memFail_listed (fst_listed (cbCheck_listed h) e)
  · next e =>
    have block := fst_listed (cbCheck_listed h) e
    refine sourced_listed block ?_
    split
    · next e => exact stall_listed (fst_listed (releaseStep_listed block) e)
    · next e =>
      have released := fst_listed (releaseStep_listed block) e
      exact ite_listed (raise_listed released) (ite_listed (stall_listed released) (sendRequest_listed released))

theorem qhold_listed (h : s.Listed) (l : KV Nat) : ({ s with qhold := l } : State).Listed := { h with }

theorem execQinit_keeps (h : s.Listed) {o : XE} : KeepsLists (execQinit o s) := issuedMem_keeps h fun iss act => by
  dsimp only
  split
  · next e => exact memFail_listed (fst_listed (cbCheck_listed h) e)
  · next u pa e =>
    have block := fst_listed (cbCheck_listed h) e
    split
    · next e => exact stall_listed (fst_listed (releaseStep_listed block) e)
    · next t e =>
      have released := fst_listed (releaseStep_listed block) e
      have read := qRead_listed (qOwn_listed released (core := iss.core) (pa := pa)) (pa := pa)
      generalize (t.qOwn iss.core pa).qRead pa = x at read ⊢
      refine ite_listed (stall_listed released) (ite_listed (raise_listed (qhold_listed read _)) (ite_listed
        (raise_listed (qhold_listed read _)) (ite_listed (stall_listed (qhold_listed read _)) ?_)))
      exact advance_listed (gWriteNow_listed (qWrite_listed (qhold_listed read _)))

theorem execQstat_keeps (h : s.Listed) {o : XE} : KeepsLists (execQstat o s) := issuedMem_keeps h fun iss act => by
  dsimp only
  split
  · next e => exact memFail_listed (fst_listed (cbCheck_listed h) e)
  · next e =>
    have block := fst_listed (cbCheck_listed h) e
    exact ite_listed (raise_listed block) (ite_listed (stall_listed block) (advance_listed (each_listed
      ((accessDone_listed block).memory (staleDrop_memory _ _ _)) fun _ _ k => gWriteNow_listed k)))

theorem execEnqAtHome_keeps (h : s.Listed) {id : Nat} : KeepsLists (execEnqAtHome id s) := by
  unfold execEnqAtHome
  split
  · exact fault_keeps
  · refine unless_keeps ?_
    have owned {core pa : Nat} := qOwn_listed h (core := core) (pa := pa)
    split
    · next e => exact next_keeps (qDeliver_listed (fst_listed (homeCheck_listed owned) e))
    · next e =>
      have home := fst_listed (homeCheck_listed owned) e
      dsimp only
      split
      · next e => exact next_keeps (qDeliver_listed (fst_listed (qSlots_listed home) e))
      · next e =>
        have slots := fst_listed (qSlots_listed home) e
        exact ite_keeps (next_keeps (qPark_listed slots)) (ite_keeps
          (next_keeps (qRemote_listed (modRequest_listed slots)))
          (next_keeps (countChild_listed (qRemote_listed (modRequest_listed (qReserve_listed slots))))))

theorem takenAtHome_listed (h : s.Listed) {id n die core : Nat} {r : Request} {b : QBlock} {ps : List (Nat × Nat)}
    {f : Request → Request} :
    (((if n == 0 then s.each ps fun s p => s.staleDrop core (State.wordsOf p.1 p.2)
      else (s.each ps fun s p => s.staleDrop core (State.wordsOf p.1 p.2)).qConsume r.pa b n).modRequest id f).qRemote r.pa
      die).Listed := by
  have fresh := each_listed (l := ps) (f := fun s p => s.staleDrop core (State.wordsOf p.1 p.2)) h fun u _ k =>
    k.memory (staleDrop_memory u _ _)
  exact qRemote_listed (modRequest_listed (ite_listed fresh (qConsume_listed fresh)))

theorem execDeqAtHome_keeps (h : s.Listed) {id : Nat} : KeepsLists (execDeqAtHome id s) := by
  unfold execDeqAtHome
  split
  · exact fault_keeps
  · refine unless_keeps ?_
    have owned {core pa : Nat} := qOwn_listed h (core := core) (pa := pa)
    split
    · next e => exact next_keeps (qDeliver_listed (fst_listed (homeCheck_listed owned) e))
    · next e =>
      have home := fst_listed (homeCheck_listed owned) e
      refine ite_keeps ?_ ?_
      · split
        · next e => exact next_keeps (qDeliver_listed (fst_listed (qReach_listed home) e))
        · next e => exact unless_keeps (next_keeps (qPark_listed (fst_listed (qReach_listed home) e)))
      · split
        · next e => exact next_keeps (qDeliver_listed (fst_listed (qSlots_listed home) e))
        · next e =>
          have slots := fst_listed (qSlots_listed home) e
          exact unless_keeps (next_keeps (ite_listed (takenAtHome_listed slots) (qServeAll_listed
              (takenAtHome_listed slots))))

theorem execElementPublication_keeps (h : s.Listed) {id : Nat} : KeepsLists (execElementPublication id s) := by
  unfold execElementPublication
  split
  · exact fault_keeps
  · next r _ =>
    refine unless_keeps (next_keeps (qServeAll_listed (passPublished_listed ?_)))
    have written : (s.each r.writes fun s w => (match r.core with
        | some c => s.cleanOwn c (State.wordsOf w.1 w.2.length)
        | none => s).homeWrite w.1 w.2).Listed := each_listed h fun u w k => by
      refine State.Listed.memory ?_ (homeWrite_memory _ _ _)
      split
      · exact k.memory (cleanOwn_memory u _ _)
      · exact k
    split
    · exact modRequest_listed (reservations_listed written _)
    · exact reservations_listed written _

theorem execWaiterEviction_keeps (h : s.Listed) {id : Nat} : KeepsLists (execWaiterEviction id s) := by
  unfold execWaiterEviction
  split
  · exact fault_keeps
  · exact unless_keeps (ite_keeps (next_keeps (qServeAll_listed (eachFibre_listed (f := Prod.snd)
      (unpark_listed (qLeave_listed h))))) (next_keeps h))

theorem gotMoved_listed (h : s.Listed) {r : Request} :
    (if !r.trying then s
      else (s.gWriteNow r.iss.gid r.greg (BitVec.ofNat 64 r.moved)).each ((upto r.ranks.length).zip r.ranks) fun s x =>
        (s.mendReg x.2 0 0 (.k r.kreg)).modFibre x.2 fun f => f.writeNow (.k r.kreg)
            (if x.1 < r.moved then 1 else 0)).Listed :=
  ite_listed h (each_listed (gWriteNow_listed h) fun _ _ k => modFibre_listed (mendReg_listed k))

theorem execQueueReply_keeps (h : s.Listed) {id : Nat} : KeepsLists (execQueueReply id s) := by
  unfold execQueueReply
  split
  · exact fault_keeps
  · next r _ =>
    refine unless_keeps (next_keeps (each_listed (goto_listed ?_) fun _ _ k => wake_listed k))
    have got := each_listed (l := r.ranks.zip r.got) (f := fun s x =>
      (s.each (run r.vreg (x.2.length / 4)) fun s k => s.mendReg x.1 0 0 (.v k)).modFibre x.1 fun f =>
        ((upto (elementWords x.2).length).zip (elementWords x.2)).foldl
          (fun f w => f.writeNow (.v (r.vreg + w.1)) (w.2.setWidth 64)) f) (unpark_listed h (id := id) (r := r)) fun u x k =>
      modFibre_listed (each_listed k fun _ _ k => mendReg_listed k)
    have moved := gotMoved_listed got (r := r)
    have child := ite_listed (c := (r.kind == 2) = true)
      (gWriteNow_listed moved (gid := r.iss.gid) (n := r.greg) (x := BitVec.ofNat 64 r.moved)) moved
    exact ite_listed (acquire_listed child) child

/-! Channels (08 R184 to R187). -/

theorem flights_listed (h : s.Listed) (l : KV Flight) : ({ s with flights := l } : State).Listed := { h with }

theorem creditFlights_listed (h : s.Listed) (l : KV (Nat × Nat × Nat)) : ({ s with creditFlights := l } : State).Listed :=
  { h with }

theorem execChsend_keeps (h : s.Listed) {o : XE} : KeepsLists (execChsend o s) := issuedMem_keeps h fun iss act => by
  refine ite_listed (raise_listed (modChannel_listed h)) (ite_listed (raise_listed (modChannel_listed h)) (ite_listed
    (stall_listed h) (ite_listed (park_listed (modChannel_listed h)) (advance_listed (modChannel_listed (each_listed h
      fun u f k => ?_))))))
  exact modFibre_listed (modChannel_listed (flights_listed (newId_listed k) _))

theorem execChrecv_keeps (h : s.Listed) {o : XE} : KeepsLists (execChrecv o s) := issued_keeps h fun iss act => by
  refine ite_listed (raise_listed (modChannel_listed h)) (ite_listed (raise_listed (modChannel_listed h)) (ite_listed
    (park_listed (modChannel_listed h)) (ite_listed (stall_listed h) ?_)))
  dsimp only
  split
  · exact raise_listed (modChannel_listed h)
  · refine advance_listed (modChannel_listed (modChannel_listed (creditFlights_listed (newId_listed (acquire_listed
      (each_listed h ?_))) _)))
    exact fun _ _ k => addPending_listed k

theorem execChannelLanding_keeps (h : s.Listed) {id : Nat} : KeepsLists (execChannelLanding id s) := by
  unfold execChannelLanding
  split
  · exact fault_keeps
  · refine unless_keeps ?_
    have gone (f : FibreId) (g : Fibre → Fibre) := modFibre_listed (flights_listed h (s.flights.del id)) (f := f) (g := g)
    dsimp only
    split
    · exact next_keeps (gone _ _)
    · exact ite_keeps (next_keeps (gone _ _)) (next_keeps (modChannel_listed (spadWrite_listed (gone _ _))))

theorem execChannelCreditReturn_keeps (h : s.Listed) {id : Nat} : KeepsLists (execChannelCreditReturn id s) := by
  unfold execChannelCreditReturn
  split
  · exact fault_keeps
  · exact next_keeps (modChannel_listed (creditFlights_listed h _))

end Sys2Proof.Machine
end

section
/-! The copy engine, tiles, the matrix engine, REORD and launches keep the lists of State.Listed in order. -/

namespace Sys2Proof.Machine

open State

variable {s : State}

/-! The copy engine (09 R189 to R206). -/

theorem execCopy_keeps (h : s.Listed) {o : XE} : KeepsLists (execCopy o s) :=
  issuedMem_keeps h fun _ _ => unlessStop_listed h (withTensor_listed h fun _ _ =>
  checked_listed h (postCmd_listed h))

theorem execMcast_keeps (h : s.Listed) {o : XE} : KeepsLists (execMcast o s) :=
  issuedMem_keeps h fun _ _ => unlessStop_listed h (withTensor_listed h fun _ _ =>
  checked_listed h (postCmd_listed h))

theorem postRows_keeps (h : s.Listed) {i : Instr} {o : XE} {kind : Nat} : KeepsLists (postRows i o kind s) := by
  unfold postRows
  refine issuedMem_keeps h fun _ _ => unlessStop_listed h ?_
  exact checked_listed h (postCmd_listed h)

theorem execTcopy_keeps (h : s.Listed) {o : XT} : KeepsLists (execTcopy o s) :=
  issuedMem_keeps h fun _ _ => ite_listed (raise_listed h) (unlessStop_listed h (withTensor_listed h fun _ _ =>
  checked_listed h (ite_listed (park_listed h) (ite_listed (postCmd_listed h) (modTile_listed (postCmd_listed h))))))

theorem execCseal_keeps (h : s.Listed) {o : XE} : KeepsLists (execCseal o s) :=
  issued_keeps h fun _ _ => ite_listed (park_listed h)
  (advance_listed (each_listed h fun _ _ k => modFibre_listed k))

theorem execCwait_keeps (h : s.Listed) {o : XS} : KeepsLists (execCwait o s) := issued_keeps h fun iss act => by
  have passed : ((s.each act fun s x => s.modFibre x.2 fun f => { f with sealed := s.unfinished x.2 }).acquire
      (act.map (·.2)) |>.advance iss).Listed :=
    advance_listed (acquire_listed (each_listed h fun _ _ k => modFibre_listed k))
  dsimp only
  split
  · exact raise_listed h
  · exact ite_listed (raise_listed h) (ite_listed (ite_listed (stall_listed h) passed) (park_listed h))

theorem execTlread_keeps (h : s.Listed) {o : XE} : KeepsLists (execTlread o s) := issued_keeps h fun _ _ => finish_listed h

theorem execTlwait_keeps (h : s.Listed) {o : XS} : KeepsLists (execTlwait o s) := issued_keeps h fun iss act => by
  dsimp only
  split
  · exact raise_listed h
  · exact ite_listed (raise_listed h) (ite_listed (ite_listed (stall_listed h) (advance_listed (acquire_listed h)))
      (park_listed h))

theorem execCopyLanding_keeps (h : s.Listed) {id target : Nat} : KeepsLists (execCopyLanding id target s) := by
  unfold execCopyLanding
  dsimp only
  split
  · exact fault_keeps
  · refine ite_keeps (unless_keeps ?_) (ite_keeps (unless_keeps ?_) ?_)
    · split
      · next e => exact next_keeps (fst_listed (scatterDo_listed h) e)
      · exact fault_keeps
    · split
      · next e => exact next_keeps (fst_listed (unitsDo_listed h) e)
      · exact fault_keeps
    · have started := startTarget_listed h (id := id) (t := target)
      split
      · exact fault_keeps
      · refine unless_keeps (ite_keeps (next_keeps (landHead_listed started)) (unless_keeps ?_))
        split
        · exact fault_keeps
        · next e => exact next_keeps (each_listed (fst_listed (unitsDo_listed started) e) fun _ _ k => landHead_listed k)

theorem execBarrierArrival_keeps (h : s.Listed) {id target : Nat} : KeepsLists (execBarrierArrival id target s) := by
  have started := startTarget_listed h (id := id) (t := target)
  unfold execBarrierArrival
  dsimp only
  split
  · exact fault_keeps
  · split
    · exact fault_keeps
    · exact unless_keeps (next_keeps (arriveTarget_listed started))

theorem execCopyCompletion_keeps (h : s.Listed) {id : Nat} : KeepsLists (execCopyCompletion id s) := by
  unfold execCopyCompletion
  split
  · exact fault_keeps
  · have gone := cmds_listed h (KV.sorted_del id h.cmds)
    have counted (l : List FibreId) (f : Fibre → Fibre) := each_listed (l := l) (f := fun s x => s.modFibre x f) gone
      fun _ _ k => modFibre_listed k
    exact ite_keeps (next_keeps (copyFinished_listed (ite_listed (counted _ _) (tileReady_listed
        (counted _ _))))) fault_keeps

theorem execCopyFault_keeps (h : s.Listed) {id : Nat} : KeepsLists (execCopyFault id s) := by
  unfold execCopyFault
  split
  · exact fault_keeps
  · next c _ =>
    have seen := cmdObstacle_listed h (id := id) (c := c)
    refine unless_keeps ?_
    split
    · next e => exact next_keeps (updCmd_listed (addRecord_listed (flushTargets_listed (fst_listed seen e))))
    · exact fault_keeps

theorem execCopyErrorState_keeps (h : s.Listed) {id : Nat} {ecc : Bool} : KeepsLists (execCopyErrorState id ecc s) := by
  unfold execCopyErrorState
  split
  · exact fault_keeps
  · next c _ =>
    have seen := cmdObstacle_listed h (id := id) (c := c)
    refine unless_keeps ?_
    split
    · next e => exact unless_keeps (next_keeps (failCmd_listed (fst_listed seen e)))
    · next e => exact ite_keeps (next_keeps (failCmd_listed (fst_listed seen e))) fault_keeps
    · exact fault_keeps

/-! Tiles and accumulators (10 R215 to R229). -/

theorem execTdef_keeps (h : s.Listed) {o : XT} : KeepsLists (execTdef o s) :=
  issued_keeps h fun _ _ => ite_listed (advance_listed (modTile_listed h)) (park_listed h)

theorem execTfree_keeps (h : s.Listed) {o : XT} : KeepsLists (execTfree o s) :=
  issued_keeps h fun _ _ => ite_listed (raise_listed h) (ite_listed (advance_listed (tileEmptied_listed h))
  (park_listed h))

theorem execTstat_keeps (h : s.Listed) {o : XT} : KeepsLists (execTstat o s) := issued_keeps h fun _ _ => finish_listed h

theorem execUnfset_keeps (h : s.Listed) {o : XT} : KeepsLists (execUnfset o s) := issued_keeps h fun iss act => by
  refine ite_listed (stall_listed h) ?_
  split
  · exact raise_listed h
  · exact ite_listed (raise_listed h) (ite_listed (raise_listed h) (advance_listed (modTeam_listed h (fun _ => by rfl)
        (fun _ => by rfl))))

theorem execAalloc_keeps (h : s.Listed) {o : XT} : KeepsLists (execAalloc o s) := issued_keeps h fun iss act => by
  dsimp only
  split
  · exact finish_listed (takeBanks_listed h)
  · exact ite_listed (finish_listed h) (ite_listed (park_listed h) (modCore_listed (park_listed h) (fun _ => by rfl)))

theorem execAfree_keeps (h : s.Listed) {o : XT} : KeepsLists (execAfree o s) :=
  issued_keeps h fun _ _ => ite_listed (raise_listed h) (advance_listed (freeBanks_listed h))

theorem execDload_keeps (h : s.Listed) {o : XT} : KeepsLists (execDload o s) := issuedMem_keeps h fun iss act => by
  have put {u : State} (k : u.Listed) (d : Drain) :
      ((({ u with badElse := u.badElse.filter fun x =>
          x != Place.drain (s.team (s.leadTeam iss.gid)).core (iss.ctx * 64 + o.slot.toNat) } : State).modCore
          (s.team (s.leadTeam iss.gid)).core fun c =>
          { c with drains := c.drains.put (iss.ctx * 64 + o.slot.toNat) d }).advance iss).Listed :=
    advance_listed (modCore_listed (badElse_listed k _) (fun _ => by rfl))
  have wait {u : State} (k : u.Listed) : (if (u.ctx iss.ctx).stop then u.parkStop iss iss.lanes else u.stall iss).Listed :=
    ite_listed (parkStop_listed k) (stall_listed k)
  refine ite_listed (ite_listed (wait h) (put h _)) ?_
  dsimp only
  split
  · next e => exact memFail_listed (fst_listed (globalCheck_listed h) e)
  · next e =>
    have placed := fst_listed (globalCheck_listed h) e
    have fresh {core : Nat} {ws : List Nat} := placed.memory (staleDrop_memory _ core ws)
    exact ite_listed (wait placed) (ite_listed (stall_listed placed) (ite_listed (raise_listed fresh) (put fresh _)))

/-! The matrix engine (10 R212, R234 to R237). -/

theorem execKStep_keeps (h : s.Listed) {id : Nat} : KeepsLists (execKStep id s) := by
  unfold execKStep
  split
  · exact fault_keeps
  · exact unless_keeps (ite_keeps (next_keeps (modMat_listed (promoteAll_listed (fresh_listed h _))))
      (next_keeps (modMat_listed (fresh_listed h _))))

theorem execDrainBlockCommit_keeps (h : s.Listed) {id : Nat} : KeepsLists (execDrainBlockCommit id s) := by
  unfold execDrainBlockCommit
  split
  · exact fault_keeps
  · next m _ =>
    have flagged : (s.modTeam m.tid fun t => { t with mx := { t.mx with
        flg := t.mx.flg ||| (s.blockRun m).fl, bflg := t.mx.bflg |||
            (s.blockRun m).bf } }).Listed := modTeam_listed h (fun _ => by rfl) (fun _ => by rfl)
    refine unless_keeps (ite_keeps (next_keeps (modMat_listed (storeRowEnd_listed ?_))) (next_keeps (modMat_listed ?_)))
    · split
      · exact storeBlock_listed flagged
      · exact flagged
    · split
      · exact storeBlock_listed flagged
      · exact flagged

theorem execMatrixCompletion_keeps (h : s.Listed) {id : Nat} : KeepsLists (execMatrixCompletion id s) := by
  unfold execMatrixCompletion
  split
  · exact fault_keeps
  · exact ite_keeps (next_keeps (matEnd_listed h)) fault_keeps

theorem execMatrixStop_keeps (h : s.Listed) {id : Nat} {ecc : Bool} : KeepsLists (execMatrixStop id ecc s) := by
  unfold execMatrixStop
  split
  · exact fault_keeps
  · refine unless_keeps (ite_keeps (ite_keeps (ite_keeps (next_keeps (matStopped_listed h)) fault_keeps) (unless_keeps
      (next_keeps (matStopped_listed (fresh_listed (fresh_listed h _) _))))) (unless_keeps ?_))
    dsimp only
    split
    · exact fault_keeps
    · refine next_keeps (matStopped_listed (ite_listed ?_ h))
      exact modTeam_listed h (fun _ => by rfl) (fun _ => by rfl)

theorem execMloop_keeps (h : s.Listed) {o : XT} : KeepsLists (execMloop o s) :=
  issued_keeps h fun _ _ => unlessStop_listed h (postMat_listed h)

theorem execMma_keeps (h : s.Listed) {o : XT} : KeepsLists (execMma o s) :=
  issued_keeps h fun _ _ => unlessStop_listed h (postMat_listed h)

theorem execMatrixAccept_keeps (h : s.Listed) {gid : Nat} : KeepsLists (execMatrixAccept gid s) := by
  unfold execMatrixAccept
  dsimp only
  split
  · exact fault_keeps
  · next w _ _ =>
    have ready (l : List (Nat × FibreId)) := each_listed (l := l)
      (f := fun s x => s.modFibre x.2 fun f => { f with status := .ready }) h fun _ _ k => modFibre_listed k
    exact unless_keeps (next_keeps (ite_listed (advance_listed (ready _)) (postMat_listed (ready _))))

/-! REORD (11 R239 to R246). -/

theorem execReord_keeps (h : s.Listed) {o : XS} : KeepsLists (execReord o s) :=
  issuedMem_keeps h fun _ _ => ite_listed (raise_listed h) (ite_listed (raise_listed h) (ite_listed
  (stall_listed h) (park_listed h)))

theorem execReordDeal_keeps (h : s.Listed) {tid : Nat} : KeepsLists (execReordDeal tid s) := by
  unfold execReordDeal
  split
  · exact fault_keeps
  · exact ite_keeps (next_keeps (trapArrivals_listed h)) (ite_keeps
      (next_keeps (trapArrivals_listed (each_listed h fun _ _ k => scramble_listed k)))
      (unless_keeps (next_keeps (each_listed (departAll_listed h) fun _ _ k => placeDealt_listed k))))

/-! Launches (03 R57 to R69). -/

theorem lastTaken_listed (h : s.Listed) (l m : KV Nat) : ({ s with lastCtx := l, lastQueue := m } : State).Listed :=
  { h with }

theorem execDispatchTake_keeps (h : s.Listed) {die : Nat} : KeepsLists (execDispatchTake die s) := by
  unfold execDispatchTake
  refine unless_keeps ?_
  split
  · split
    · next e => exact next_keeps (takeRecord_listed (lastTaken_listed (fst_listed (qTake_listed h) e) _ _))
    · exact fault_keeps
  · exact fault_keeps

theorem execTeamStart_keeps (h : s.Listed) {tid : Nat} : KeepsLists (execTeamStart tid s) :=
  unless_keeps (next_keeps (startTeam_listed h))

theorem execTeamCompletion_keeps (h : s.Listed) {tid : Nat} : KeepsLists (execTeamCompletion tid s) :=
  unless_keeps (next_keeps (endTeam_listed h))

theorem execLaunchCompletion_keeps (h : s.Listed) {launch : Nat} : KeepsLists (execLaunchCompletion launch s) := by
  unfold execLaunchCompletion
  have phase := modLaunch_listed h (n := launch) (f := fun l => { l with phase := 2 }) (fun _ k => by exact k)
  refine unless_keeps (next_keeps (makeReport_listed ?_))
  dsimp only
  split
  · next g _ =>
    refine modLaunch_listed phase (params := fun l k => ?_)
    split
    · split <;> exact k
    · exact k
  · exact phase

theorem execCompletionReport_keeps (h : s.Listed) {launch : Nat} : KeepsLists (execCompletionReport launch s) := by
  unfold execCompletionReport
  split
  · exact fault_keeps
  · refine unless_keeps ?_
    split
    · next e => exact next_keeps (fst_listed (makeReport_listed h) e)
    · exact fault_keeps

/-! Graphs (03 R73 to R77). -/

theorem execGraphStart_keeps (h : s.Listed) {graph : Nat} : KeepsLists (execGraphStart graph s) := by
  unfold execGraphStart
  split
  · exact fault_keeps
  · next x _ =>
    refine unless_keeps ?_
    have place := translateRaw_listed h (ctx := x.ctx) (va := x.hdr) (kind := .read) (write := false)
    split
    · next e =>
      have there := fst_listed place e
      have head := readRaw_listed there (ctx := x.ctx) (va := x.hdr) (n := 8)
      refine unless_keeps ?_
      split
      · next e => exact next_keeps (startFault_listed (fst_listed head e))
      · next e =>
        have active {l : KV Graph} := graphs_listed (fst_listed head e) l
        refine ite_keeps (next_keeps (graphError_listed active)) ?_
        split
        · next e => exact next_keeps (startFault_listed (fst_listed (resetNodes_listed active) e))
        · next e => exact next_keeps (activate_listed (fst_listed (resetNodes_listed active) e))
    · next e => exact next_keeps (startFault_listed (fst_listed place e))
    · next e => exact next_keeps (startFault_listed (fst_listed place e))
    · next e => exact next_keeps (startFault_listed (fst_listed place e))

theorem execLaunchNodeActivation_keeps (h : s.Listed) {graph node : Nat} : KeepsLists
    (execLaunchNodeActivation graph node s) := by
  unfold execLaunchNodeActivation
  split
  · exact fault_keeps
  · next e => exact next_keeps ((activation_listed h e).2 _ rfl)
  · next u dw e =>
    have node := (activation_listed h e).1
    refine unless_keeps ?_
    split
    · next e => exact next_keeps (graphFault_listed (fst_listed (readRaw_listed node) e))
    · next e =>
      have record := fst_listed (readRaw_listed node) e
      refine ite_keeps (next_keeps (graphError_listed record)) ?_
      split
      · exact fault_keeps
      · exact next_keeps (takeRecord_listed (graphs_listed (activated_listed record) _))

theorem execJoinActivation_keeps (h : s.Listed) {graph node : Nat} : KeepsLists (execJoinActivation graph node s) := by
  unfold execJoinActivation
  split
  · exact fault_keeps
  · next e => exact next_keeps ((activation_listed h e).2 _ rfl)
  · next u dw e =>
    have node := (activation_listed h e).1
    refine unless_keeps ?_
    dsimp only
    split
    · next e => exact next_keeps (graphFault_listed (fst_listed (graphWrite_listed node) e))
    · next e =>
      have active := activated_listed (fst_listed (graphWrite_listed node) e) (g := graph)
      exact next_keeps (ite_listed (activate_listed active) active)

theorem execConditionalActivation_keeps (h : s.Listed) {graph node : Nat} : KeepsLists
    (execConditionalActivation graph node s) := by
  unfold execConditionalActivation
  split
  · exact fault_keeps
  · next e => exact next_keeps ((activation_listed h e).2 _ rfl)
  · next u dw e =>
    have node := (activation_listed h e).1
    refine unless_keeps ?_
    split
    · next e => exact next_keeps (graphFault_listed (fst_listed (readRaw_listed node) e))
    · next e => exact next_keeps (activate_listed (activated_listed (fst_listed (readRaw_listed node) e)))

theorem execWhileActivation_keeps (h : s.Listed) {graph node : Nat} : KeepsLists (execWhileActivation graph node s) := by
  unfold execWhileActivation
  split
  · exact fault_keeps
  · next e => exact next_keeps ((activation_listed h e).2 _ rfl)
  · next u dw e =>
    have node := (activation_listed h e).1
    refine unless_keeps ?_
    split
    · next e => exact next_keeps (graphFault_listed (fst_listed (readRaw_listed node) e))
    · next e =>
      have read := fst_listed (readRaw_listed node) e
      dsimp only
      split
      · next e => exact next_keeps (graphFault_listed (fst_listed (graphWrite_listed read) e))
      · next e => exact next_keeps (activate_listed (activated_listed (fst_listed (graphWrite_listed read) e)))

end Sys2Proof.Machine
end

section
/-! Control registers, faults, the host's stages and the network keep the lists of State.Listed in order. -/

namespace Sys2Proof.Machine

open State

variable {s : State}

/-! Control registers (12 R256 to R261; 20 R408; 23 R456). -/

theorem execGetc_keeps (h : s.Listed) {o : XS} : KeepsLists (execGetc o s) :=
  issued_keeps h fun _ _ => ite_listed (ite_listed (raise_listed h) (ite_listed (raise_listed h) (finish_listed h)))
  (finish_listed h)

theorem setc_keeps (h : s.Listed) {i : Instr} {o : XS} {illegal : Dword → Bool}
    {f : State → Issue → List (Nat × FibreId) → Dword → State} (hf : ∀ iss act x, (f s iss act x).Listed) :
    KeepsLists (setc i o s illegal f) := issued_keeps h fun _ _ => advance_listed (hf _ _ _)

theorem execSetcFpctl_keeps (h : s.Listed) {o : XS} : KeepsLists (execSetcFpctl o s) :=
  setc_keeps h fun _ _ _ => modTeam_listed h (fun _ => by rfl) (fun _ => by rfl)

theorem execSetcFpflags_keeps (h : s.Listed) {o : XS} : KeepsLists (execSetcFpflags o s) :=
  setc_keeps h fun _ _ _ => each_listed h fun _ _ k => modFibre_listed k

theorem execSetcBfflags_keeps (h : s.Listed) {o : XS} : KeepsLists (execSetcBfflags o s) :=
  setc_keeps h fun _ _ _ => each_listed h fun _ _ k => modFibre_listed k

theorem execSetcIssuepol_keeps (h : s.Listed) {o : XS} : KeepsLists (execSetcIssuepol o s) :=
  setc_keeps h fun _ _ _ => modCtx_listed h (fun _ k => by exact k)

theorem execSetcTrapvec_keeps (h : s.Listed) {o : XS} : KeepsLists (execSetcTrapvec o s) :=
  setc_keeps h fun _ _ _ => modCtx_listed h (fun _ k => by exact k)

theorem execSetcFaultq_keeps (h : s.Listed) {o : XS} : KeepsLists (execSetcFaultq o s) :=
  issued_keeps h fun _ _ => raise_listed h

theorem execSetcLkstat_keeps (h : s.Listed) {o : XS} : KeepsLists (execSetcLkstat o s) := by
  refine setc_keeps h fun _ _ _ => ite_listed ?_ h
  exact modCtx_listed h (fun _ k => by exact k)

theorem execSetcStatclr_keeps (h : s.Listed) {o : XS} : KeepsLists (execSetcStatclr o s) :=
  setc_keeps h fun _ _ _ => each_listed h fun _ _ k => modFibre_listed k

theorem execSetcTrapinfo_keeps (h : s.Listed) {o : XS} : KeepsLists (execSetcTrapinfo o s) :=
  issued_keeps h fun _ _ => ite_listed (raise_listed h)
  (advance_listed (each_listed h fun _ _ k => modFibre_listed k))

theorem execSetcTrapva_keeps (h : s.Listed) {o : XS} : KeepsLists (execSetcTrapva o s) :=
  issued_keeps h fun _ _ => ite_listed (raise_listed h) (advance_listed h)

/-! Supervision and locked code (12 R264 to R266; 13 R289; 22 R447). -/

theorem supervise_keeps (h : s.Listed) {i : Instr} {op : State → Issue → Nat → Nat → Nat → Option (Nat × State)}
    (hop : ∀ {t : State}, t.Listed → ∀ {iss a b c st u}, op t iss a b c = some (st, u) → u.Listed) :
    KeepsLists (supervise i s op) := by
  refine issued_keeps h fun iss act => ite_listed (raise_listed h) ?_
  have synced := syncStep_listed h (core := iss.core) (ls := act)
  split
  · next e => exact stall_listed (fst_listed synced e)
  · next e =>
    have performed := fst_listed synced e
    dsimp only
    split
    · exact stall_listed performed
    · next e => exact advance_listed (gWriteNow_listed (acquire_listed (hop performed e)))

/-- The state of an answer with a listed state. -/
theorem answered_listed {st n : Nat} {t u : State} (h : t.Listed) (e : some (n, t) = some (st, u)) : u.Listed := by
  cases e
  exact h

theorem execResolve_keeps (h : s.Listed) {o : XS} : KeepsLists (execResolve o s) :=
  supervise_keeps h fun {t} k {_ _ _ _ _ u} e => by
  split at e
  · exact answered_listed k e
  · split at e
    · exact answered_listed k e
    · split at e
      · exact answered_listed k e
      · exact answered_listed (resolveRecord_listed k) e

theorem execXlinv_keeps (h : s.Listed) {o : XS} : KeepsLists (execXlinv o s) :=
  supervise_keeps h fun {t} k {_ _ _ _ _ u} e => by
  split at e
  · exact answered_listed k e
  · split at e
    · exact answered_listed k e
    · split at e
      · cases e
      · exact answered_listed (invalidate_listed k) e

theorem execResume_keeps (h : s.Listed) {o : XS} : KeepsLists (execResume o s) :=
  supervise_keeps h fun {t} k {_ _ _ _ _ u} e => by
  split at e
  · exact answered_listed k e
  · split at e
    · exact answered_listed k e
    · split at e
      · exact answered_listed k e
      · exact answered_listed (resumeRecord_listed k) e

theorem execLocki_keeps (h : s.Listed) {o : XS} : KeepsLists (execLocki o s) := issued_keeps h fun iss act => by
  dsimp only
  split
  · exact moveFail_listed h
  · refine ite_listed (raise_listed h) ?_
    split
    · next e => exact lockFail_listed (fst_listed (lockLines_listed h) e)
    · next e => exact advance_listed (gWriteNow_listed (fst_listed (lockLines_listed h) e))

theorem execUnlocki_keeps (h : s.Listed) {o : XS} : KeepsLists (execUnlocki o s) :=
  issued_keeps h fun _ _ => advance_listed (modCore_listed h (fun _ => by rfl))

/-! Faults, pages of code and contexts (12 R260 to R274; 13 R286 to R288). -/

theorem enqueuedRecord_listed (h : s.Listed) {ctx : Nat} {r : FaultRec} {l : List FaultRec} :
    (s.modCtx ctx fun c => { c with
      waiting := l, records := if State.awaits r then c.records.put r.id r else c.records }).Listed :=
  modCtx_listed h (tables := fun c k => ⟨by
    dsimp only
    split
    · exact KV.sorted_put _ _ k.1
    · exact k.1, k.2⟩)

theorem execFaultRecordEnqueue_keeps (h : s.Listed) {ctx : Nat} : KeepsLists (execFaultRecordEnqueue ctx s) := by
  unfold execFaultRecordEnqueue
  split
  · exact fault_keeps
  · refine ite_keeps (next_keeps (faultqUnusable_listed h)) ?_
    split
    · next e =>
      have there := fst_listed (translateRaw_listed h) e
      split
      · next e => exact next_keeps (enqueuedRecord_listed (fst_listed (qOffer_listed there) e))
      · exact fault_keeps
      · next e => exact next_keeps (faultqUnusable_listed (fst_listed (qOffer_listed there) e))
    · next e => exact next_keeps (faultqUnusable_listed (fst_listed (translateRaw_listed h) e))

theorem execCodePageHashCheck_keeps (h : s.Listed) {ctx slot page : Nat} : KeepsLists
    (execCodePageHashCheck ctx slot page s) := by
  unfold execCodePageHashCheck
  refine unless_keeps ?_
  dsimp only
  split
  · next e =>
    have checked := hashOver_listed (fst_listed (translateRaw_listed h) e) (ctx := ctx) (slot := slot) (page := page)
    exact ite_keeps (next_keeps (eachHeld_listed checked fun _ _ k => raise_listed k)) (ite_keeps
      (next_keeps (modSlot_listed checked))
      (next_keeps (eachHeld_listed (dropLocks_listed (modSlot_listed checked)) fun _ _ k => raiseCodeHash_listed k)))
  · next e =>
    exact next_keeps (eachHeld_listed (hashOver_listed (fst_listed
        (translateRaw_listed h) e)) fun _ _ k => parkPage_listed k)
  · next e =>
    exact next_keeps (eachHeld_listed (hashOver_listed (fst_listed (translateRaw_listed h) e)) fun _ _ k => raise_listed k)
  · next e =>
    exact next_keeps (eachHeld_listed (hashOver_listed (fst_listed (translateRaw_listed h) e)) fun _ _ k => raise_listed k)

theorem execOwnerWriteBack_keeps (h : s.Listed) {core word : Nat} : KeepsLists (execOwnerWriteBack core word s) := by
  unfold execOwnerWriteBack
  split
  · exact fault_keeps
  · have written := h.memory (writeBack_memory s core word)
    exact unless_keeps (next_keeps (ite_listed (endMappers_listed written) written))

theorem execStopRequest_keeps (h : s.Listed) {ctx : Nat} : KeepsLists (execStopRequest ctx s) :=
  unless_keeps (next_keeps (requestStop_listed h))

theorem execStopCompletion_keeps (h : s.Listed) {ctx : Nat} : KeepsLists (execStopCompletion ctx s) :=
  unless_keeps (next_keeps (answerSave_listed (saveContext_listed h)))

theorem execContextRestore_keeps (h : s.Listed) {ctx : Nat} {map : List Nat} : KeepsLists
    (execContextRestore ctx map s) :=
  unless_keeps (ite_keeps (next_keeps (notice_listed h)) (next_keeps (restoreContext_listed h)))

/-! The host's stages (15 R300 to R305). -/

theorem execPowerGood_keeps : KeepsLists (execPowerGood s) := unless_keeps (next_keeps (modDev_listed dark_listed))

theorem execSelfCalibration_keeps (h : s.Listed) {ok : Bool} {boardTag : Nat} : KeepsLists
    (execSelfCalibration ok boardTag s) := unless_keeps (ite_keeps (next_keeps (stageFails_listed h))
  (next_keeps (modDev_listed (stageDone_listed h))))

theorem execBuiltInSelfTest_keeps (h : s.Listed) {ok : Bool} {secret : Nat} : KeepsLists
    (execBuiltInSelfTest ok secret s) := unless_keeps (ite_keeps (next_keeps (stageFails_listed h)) (unless_keeps
  (next_keeps (modDev_listed (stageDone_listed h)))))

theorem execMemoryInitialisation_keeps (h : s.Listed) {ok : Bool} : KeepsLists (execMemoryInitialisation ok s) := by
  have done := stageDone_listed h
  exact unless_keeps (ite_keeps (next_keeps (stageFails_listed h)) (next_keeps { done with l2 := rfl }))

theorem execFirmwareVerify_keeps (h : s.Listed) {img : FwImage} : KeepsLists (execFirmwareVerify img s) :=
  unless_keeps (ite_keeps (next_keeps (stageFails_listed h)) (ite_keeps
  (next_keeps (stageFails_listed h)) (ite_keeps (next_keeps (stageFails_listed h))
    (next_keeps (modDev_listed (stageDone_listed h))))))

theorem spread_listed (h : s.Listed) (n : Nat) : ({ s with spread := n } : State).Listed := { h with }

theorem execConfigurationApply_keeps (h : s.Listed) {img : CfgImage} : KeepsLists (execConfigurationApply img s) :=
  unless_keeps (ite_keeps (next_keeps (stageFails_listed h)) (ite_keeps
  (next_keeps (stageFails_listed h)) (ite_keeps (next_keeps (stageFails_listed h))
    (next_keeps (modDev_listed (spread_listed (stageDone_listed h) _))))))

theorem execThermalStateChange_keeps (h : s.Listed) {die : Nat} {sense : Sense} : KeepsLists
    (execThermalStateChange die sense s) :=
  unless_keeps (ite_keeps (next_keeps (shutdown_listed h)) (next_keeps (modDev_listed h)))

theorem execHealthEstimate_keeps (h : s.Listed) {hour : HealthSample} : KeepsLists (execHealthEstimate hour s) :=
  unless_keeps (next_keeps (modDev_listed h))

/-! Frames and packets (14; 16 R311 to R318). -/

theorem manage_keeps (h : s.Listed) {op : Nat} {name : String} {f : Frame} : KeepsLists (manage op name f s) :=
  unless_keeps (next_keeps (receive_listed h))

theorem execRemoteEnqueue_keeps (h : s.Listed) {f : Frame} : KeepsLists (execRemoteEnqueue f s) :=
  unless_keeps (next_keeps (receive_listed h))

theorem execHeldFrameExecute_keeps (h : s.Listed) {session ctx : Nat} : KeepsLists
    (execHeldFrameExecute session ctx s) := by
  unfold execHeldFrameExecute
  split
  · exact fault_keeps
  · split
    · exact fault_keeps
    · exact unless_keeps (next_keeps (ite_listed (execute_listed (modSession_listed h)) (modSession_listed h)))

theorem execArpRequest_keeps (h : s.Listed) {p : NetPkt} : KeepsLists (execArpRequest p s) :=
  unless_keeps (ite_keeps (next_keeps h) (next_keeps (sendOut_listed h)))

theorem execNeighbourSolicitation_keeps (h : s.Listed) {p : NetPkt} : KeepsLists (execNeighbourSolicitation p s) :=
  unless_keeps (ite_keeps (next_keeps h) (next_keeps (sendOut_listed h)))

theorem execIcmpEchoRequest_keeps (h : s.Listed) {p : NetPkt} : KeepsLists (execIcmpEchoRequest p s) :=
  unless_keeps (ite_keeps (next_keeps h) (next_keeps (transmit_listed h)))

theorem execRouterAdvertisement_keeps (h : s.Listed) {p : NetPkt} : KeepsLists (execRouterAdvertisement p s) :=
  unless_keeps (ite_keeps (next_keeps h) (next_keeps (modPort_listed h)))

theorem execPfcPauseFrame_keeps (h : s.Listed) {p : NetPkt} : KeepsLists (execPfcPauseFrame p s) :=
  unless_keeps (ite_keeps (next_keeps h) (next_keeps (pump_listed (modPort_listed h))))

theorem execArpReply_keeps (h : s.Listed) {p : NetPkt} : KeepsLists (execArpReply p s) :=
  unless_keeps (ite_keeps (next_keeps h) (next_keeps (learn_listed h)))

theorem execNeighbourAdvertisement_keeps (h : s.Listed) {p : NetPkt} : KeepsLists (execNeighbourAdvertisement p s) :=
  unless_keeps (ite_keeps (next_keeps h) (next_keeps (learn_listed h)))

theorem execLinkTraining_keeps (h : s.Listed) {n : Nat} : KeepsLists (execLinkTraining n s) :=
  unless_keeps (next_keeps (pump_listed (modPort_listed h)))

theorem execRdmaWrite_keeps (h : s.Listed) {r : RdmaReq} : KeepsLists (execRdmaWrite r s) :=
  unless_keeps (ite_keeps (next_keeps h) (next_keeps
  (inSequence_listed h (doRdmaWrite_listed (markCe_listed h)) (ackOf_listed (markCe_listed h)))))

theorem execRdmaRead_keeps (h : s.Listed) {r : RdmaReq} : KeepsLists (execRdmaRead r s) :=
  unless_keeps (ite_keeps (next_keeps h) (next_keeps
  (inSequence_listed h (doRdmaRead_listed (markCe_listed h)) (doRdmaRead_listed (markCe_listed h)))))

theorem execRoceSend_keeps (h : s.Listed) {r : RdmaReq} : KeepsLists (execRoceSend r s) :=
  unless_keeps (ite_keeps (next_keeps h) (next_keeps
  (inSequence_listed h (doRoceSend_listed (markCe_listed h)) (ackOf_listed (markCe_listed h)))))

theorem execCongestionNotification_keeps (h : s.Listed) {qpn : Nat} : KeepsLists (execCongestionNotification qpn s) :=
  unless_keeps (ite_keeps (next_keeps h) (next_keeps (qps_listed h _)))

theorem execRateRecovery_keeps (h : s.Listed) {qpn : Nat} : KeepsLists (execRateRecovery qpn s) :=
  unless_keeps (next_keeps (qps_listed h _))

/-! Progress (02 R50, R51). -/

theorem execAgeingLift_keeps (h : s.Listed) {gid : Nat} : KeepsLists (execAgeingLift gid s) := by
  unfold execAgeingLift
  split
  · exact fault_keeps
  · next g e => exact unless_keeps (next_keeps (setGroup_listed h (h.files _ (KV.mem_of_find e))))

theorem execSpinDemotion_keeps (h : s.Listed) {gid : Nat} {pc : Dword} : KeepsLists (execSpinDemotion gid pc s) := by
  unfold execSpinDemotion
  split
  · exact next_keeps (demote_listed h)
  · exact fault_keeps

theorem execSpinDemotionEnd_keeps (h : s.Listed) {gid : Nat} {pc : Dword} : KeepsLists (execSpinDemotionEnd gid pc s) := by
  unfold execSpinDemotionEnd
  split
  · exact next_keeps (undemote_listed h)
  · exact fault_keeps

end Sys2Proof.Machine
end

section
/-! Every instruction, every move of the machine's own and every step keeps the lists of State.Listed in order. -/

namespace Sys2Proof.Machine

open State

variable {s : State}

theorem exec_keeps (h : s.Listed) {i : Instr} : KeepsLists (exec i s) := by
  unfold exec
  cases i with
  | nop _ | nopX _ | yield _ | yieldX _ => exact issued_keeps h fun _ _ => advance_listed h
  | exit _ | exitX _ => exact issued_keeps h fun _ _ => exitLanes_listed h
  | ret _ | retX _ => exact issued_keeps h fun _ _ => returnFrom_listed h
  | bra _ | braX _ => exact issued_keeps h fun _ _ => branchTo_listed h
  | bru _ | bruX _ => exact issued_keeps h fun _ _ => uniformTo_listed h
  | call _ | callX _ => exact issued_keeps h fun _ _ => callShared_listed h
  | callr _ => exact execCallr_keeps h
  | add _ | addX _ | sub _ | subX _ | mul _ | mulX _ | mulh _ | mulhX _ | mad _ | madX _ | and _ | andX _
    | or _ | orX _ | xor _ | xorX _ | andn _ | andnX _ | min _ | minX _ | max _ | maxX _ | shl _ | shlX _
    | shr _ | shrX _ | rol _ | rolX _ | mov _ | li _ | liX _ | abs _ | absX _ | neg _ | negX _ | clz _
    | clzX _ | popc _ | popcX _ | brev _ | brevX _ | div _ | rem _ | bfx _ | bfi _ => exact intInstr_keeps h
  | movX _ => exact execMovX_keeps h
  | cmp _ | cmpX _ => exact cmpInstr_keeps h
  | fadd _ | faddX _ | fsub _ | fsubX _ | fmul _ | fmulX _ | fmin _ | fminX _ | fmax _ | fmaxX _ | fma _
    | fmaX _ | fdiv _ | fsqrt _ | fsqrtX _ | frnd _ | frcp _ | frcpX _ | frsq _ | frsqX _ | fexp2 _
    | fexp2X _ | flog2 _ | flog2X _ | fsin _ | fcos _ => exact fpInstr_keeps h
  | hadd2 _ | hadd2X _ | hmul2 _ | hmul2X _ | hfma2 _ | hfma2X _ => exact halfInstr_keeps h
  | fcmp _ | fcmpX _ => exact fcmpInstr_keeps h
  | fclass _ | fcvt _ | sel _ | plop _ | bcvt _ => exact issued_keeps h fun _ _ => finish_listed h
  | movs _ => exact execMovs_keeps h
  | bdot _ => exact execBdot_keeps h
  | shflIdx _ | shflUp _ | shflDown _ | shflXor _ => exact shfl_keeps h
  | voteMask _ => exact execVoteMask_keeps h
  | voteCount _ => exact execVoteCount_keeps h
  | voteQuorum _ => exact execVoteQuorum_keeps h
  | voteSplit _ => exact execVoteSplit_keeps h
  | gred _ => exact execGred_keeps h
  | gscan _ => exact execGscan_keeps h
  | matchAny _ => exact execMatchAny_keeps h
  | matchAll _ => exact execMatchAll_keeps h
  | rebal _ => exact execRebal_keeps h
  | topk _ => exact execTopk_keeps h
  | ld _ | ldX _ => exact loadGlobal_keeps h
  | st _ => exact storeGlobal_keeps h
  | stX _ => exact execStX_keeps h
  | lds _ | ldsX _ => exact loadSpad_keeps h
  | sts _ | stsX _ => exact storeSpad_keeps h
  | ldx _ => exact execLdx_keeps h
  | stx _ => exact execStx_keeps h
  | lea _ => exact execLea_keeps h
  | pref _ => exact execPref_keeps h
  | cacheWb _ => exact execCacheWb_keeps h
  | cacheInv _ => exact execCacheInv_keeps h
  | cacheClel _ => exact execCacheClel_keeps h
  | fenceAcq _ => exact execFenceAcq_keeps h
  | fenceRel _ => exact execFenceRel_keeps h
  | fenceAr _ => exact execFenceAr_keeps h
  | atomAdd _ | atomAnd _ | atomOr _ | atomXor _ | atomMin _ | atomMax _ | atomUmin _ | atomUmax _
    | atomExch _ | atomCas _ | atomFadd _ => exact atomGlobal_keeps h
  | atomsAdd _ | atomsAnd _ | atomsOr _ | atomsXor _ | atomsMin _ | atomsMax _ | atomsUmin _ | atomsUmax _
    | atomsExch _ | atomsCas _ | atomsFadd _ => exact atomSpad_keeps h
  | tdef _ => exact execTdef_keeps h
  | tcopy _ => exact execTcopy_keeps h
  | tfree _ => exact execTfree_keeps h
  | tstat _ => exact execTstat_keeps h
  | unfset _ => exact execUnfset_keeps h
  | mloop _ => exact execMloop_keeps h
  | mma _ => exact execMma_keeps h
  | dload _ => exact execDload_keeps h
  | aalloc _ => exact execAalloc_keeps h
  | afree _ => exact execAfree_keeps h
  | copy _ => exact execCopy_keeps h
  | gather _ | scatter _ => exact postRows_keeps h
  | mcast _ => exact execMcast_keeps h
  | cseal _ => exact execCseal_keeps h
  | cwait _ => exact execCwait_keeps h
  | enq _ | enqTry _ => exact enqueue_keeps h
  | deq _ | deqTry _ => exact dequeue_keeps h
  | qinit _ => exact execQinit_keeps h
  | qstat _ => exact execQstat_keeps h
  | chsend _ => exact execChsend_keeps h
  | chrecv _ => exact execChrecv_keeps h
  | spawn _ => exact execSpawn_keeps h
  | abinit _ => exact execAbinit_keeps h
  | abwait _ => exact execAbwait_keeps h
  | sdef _ => exact execSdef_keeps h
  | sstop _ => exact execSstop_keeps h
  | tlread _ => exact execTlread_keeps h
  | tlwait _ => exact execTlwait_keeps h
  | bar _ => exact execBar_keeps h
  | gbar _ => exact execGbar_keeps h
  | gbarEnter _ => exact execGbarEnter_keeps h
  | gbarLeave _ => exact execGbarLeave_keeps h
  | wait _ => exact execWait_keeps h
  | getc _ => exact execGetc_keeps h
  | setcFpctl _ => exact execSetcFpctl_keeps h
  | setcFpflags _ => exact execSetcFpflags_keeps h
  | setcBfflags _ => exact execSetcBfflags_keeps h
  | setcIssuepol _ => exact execSetcIssuepol_keeps h
  | setcTrapvec _ => exact execSetcTrapvec_keeps h
  | setcFaultq _ => exact execSetcFaultq_keeps h
  | setcLkstat _ => exact execSetcLkstat_keeps h
  | setcStatclr _ => exact execSetcStatclr_keeps h
  | cpstatClearErr _ | cpstatClearDrop _ => exact setc_keeps h fun _ _ _ => cpWrite_listed h
  | setcMxstat _ | mxstatResume _ | mxstatResumeIgnoring _ | mxstatAbandon _ => exact setc_keeps h fun _ _ _ => mxWrite_listed h
  | setcTrapinfo _ => exact execSetcTrapinfo_keeps h
  | setcTrapva _ => exact execSetcTrapva_keeps h
  | setw _ => exact execSetw_keeps h
  | reord _ => exact execReord_keeps h
  | svc _ => exact execSvc_keeps h
  | resolve _ => exact execResolve_keeps h
  | xlinv _ => exact execXlinv_keeps h
  | resume _ => exact execResume_keeps h
  | trap _ => exact execTrap_keeps h
  | locki _ => exact execLocki_keeps h
  | unlocki _ => exact execUnlocki_keeps h
  | ageingLift _ => exact execAgeingLift_keeps h
  | spinDemotion _ _ => exact execSpinDemotion_keeps h
  | spinDemotionEnd _ _ => exact execSpinDemotionEnd_keeps h
  | resultWriteback _ => exact execResultWriteback_keeps h
  | ownershipRegistration _ => exact execOwnershipRegistration_keeps h
  | registrationAck _ => exact execRegistrationAck_keeps h
  | ownerWriteBack _ _ => exact execOwnerWriteBack_keeps h
  | ownerReadForward _ => exact execOwnerReadForward_keeps h
  | ownershipWithdrawal _ => exact execOwnershipWithdrawal_keeps h
  | readCombineReply _ => exact execReadCombineReply_keeps h
  | pageWalk _ _ _ _ => exact execPageWalk_keeps h
  | faultRecordEnqueue _ => exact execFaultRecordEnqueue_keeps h
  | codePageHashCheck _ _ _ => exact execCodePageHashCheck_keeps h
  | enqAtHome _ => exact execEnqAtHome_keeps h
  | deqAtHome _ => exact execDeqAtHome_keeps h
  | elementPublication _ => exact execElementPublication_keeps h
  | waiterEviction _ => exact execWaiterEviction_keeps h
  | queueReply _ => exact execQueueReply_keeps h
  | channelLanding _ => exact execChannelLanding_keeps h
  | channelCreditReturn _ => exact execChannelCreditReturn_keeps h
  | stxLanding _ => exact execStxLanding_keeps h
  | copyLanding _ _ => exact execCopyLanding_keeps h
  | barrierArrival _ _ => exact execBarrierArrival_keeps h
  | copyCompletion _ => exact execCopyCompletion_keeps h
  | copyFault _ => exact execCopyFault_keeps h
  | copyErrorState _ _ => exact execCopyErrorState_keeps h
  | streamPrefetch _ _ => exact execStreamPrefetch_keeps h
  | matrixAccept _ => exact execMatrixAccept_keeps h
  | kStep _ => exact execKStep_keeps h
  | drainBlockCommit _ => exact execDrainBlockCommit_keeps h
  | matrixCompletion _ => exact execMatrixCompletion_keeps h
  | matrixStop _ _ => exact execMatrixStop_keeps h
  | reordDeal _ => exact execReordDeal_keeps h
  | dispatchTake _ => exact execDispatchTake_keeps h
  | teamStart _ => exact execTeamStart_keeps h
  | teamCompletion _ => exact execTeamCompletion_keeps h
  | launchCompletion _ => exact execLaunchCompletion_keeps h
  | completionReport _ => exact execCompletionReport_keeps h
  | graphStart _ => exact execGraphStart_keeps h
  | launchNodeActivation _ _ => exact execLaunchNodeActivation_keeps h
  | joinActivation _ _ => exact execJoinActivation_keeps h
  | conditionalActivation _ _ => exact execConditionalActivation_keeps h
  | whileActivation _ _ => exact execWhileActivation_keeps h
  | stopRequest _ => exact execStopRequest_keeps h
  | stopCompletion _ => exact execStopCompletion_keeps h
  | contextRestore _ _ => exact execContextRestore_keeps h
  | powerGood => exact execPowerGood_keeps
  | selfCalibration _ _ => exact execSelfCalibration_keeps h
  | builtInSelfTest _ _ => exact execBuiltInSelfTest_keeps h
  | memoryInitialisation _ => exact execMemoryInitialisation_keeps h
  | firmwareVerify _ => exact execFirmwareVerify_keeps h
  | configurationApply _ => exact execConfigurationApply_keeps h
  | thermalStateChange _ _ => exact execThermalStateChange_keeps h
  | healthEstimate _ => exact execHealthEstimate_keeps h
  | arpRequest _ => exact execArpRequest_keeps h
  | neighbourSolicitation _ => exact execNeighbourSolicitation_keeps h
  | icmpEchoRequest _ => exact execIcmpEchoRequest_keeps h
  | routerAdvertisement _ => exact execRouterAdvertisement_keeps h
  | pfcPauseFrame _ => exact execPfcPauseFrame_keeps h
  | status _ | attest _ | attach _ | peer _ | ctxcreate _ | ctxend _ | bindq _ | install _ | save _
    | restore _ | mreg _ | qpopen _ | epset _ | health _ | pcap _ | brk _ => exact manage_keeps h
  | remoteEnqueue _ => exact execRemoteEnqueue_keeps h
  | heldFrameExecute _ _ => exact execHeldFrameExecute_keeps h
  | rdmaWrite _ => exact execRdmaWrite_keeps h
  | rdmaRead _ => exact execRdmaRead_keeps h
  | roceSend _ => exact execRoceSend_keeps h
  | congestionNotification _ => exact execCongestionNotification_keeps h
  | rateRecovery _ => exact execRateRecovery_keeps h
  | unassignedEncoding => exact execUnassignedEncoding_keeps h
  | powerLoss => exact next_keeps dark_listed
  | linkTraining _ => exact execLinkTraining_keeps h
  | arpReply _ => exact execArpReply_keeps h
  | neighbourAdvertisement _ => exact execNeighbourAdvertisement_keeps h

namespace State

/-! Issue (04 R84 to R92). -/

theorem issueSome_listed (h : s.Listed) (x : Option Issue) : ({ s with issue := x } : State).Listed := { h with }

theorem agenda_listed (h : s.Listed) (l : List Directive) : ({ s with agenda := l } : State).Listed := { h with }

theorem execFor_listed (h : s.Listed) {iss : Issue} {i : Instr} : (s.execFor iss i).Listed := by
  have out := exec_keeps (issueSome_listed h (some iss)) (i := i)
  unfold execFor
  split
  · next t e =>
    have done := issueSome_listed (out t e) none
    exact ite_listed done (spinIssued_listed done)
  · exact h
  · exact h

theorem perform1_listed (h : s.Listed) {gid : Nat} {q : Subset} {c : Choice} : (s.perform1 gid q c).1.Listed := by
  have fetched := fetchAt_listed h (gid := gid) (r := q.pc)
  unfold perform1
  dsimp only
  split
  · exact pair_listed (execFor_listed fetched)
  · exact pair_listed (execFor_listed fetched)
  · exact pair_listed (moveFail_listed fetched)
  · exact pair_listed (raise_listed fetched)
  · exact pair_listed (raise_listed fetched)
  · exact pair_listed (parkStop_listed fetched)

theorem issueMain_listed (h : s.Listed) {core slot gid : Nat} : (s.issueMain core slot gid).Listed := by
  unfold issueMain
  split
  · exact h
  · refine ite_listed (perform1_listed h) (applyHint_listed ?_)
    exact modCore_listed (chosen_listed (perform1_listed h)) (fun _ => by rfl)

theorem issueSlot_listed (h : s.Listed) {core slot : Nat} : (s.issueSlot core slot).Listed := by
  have due := each_listed (l := (s.wakeAll.groups.filter fun x => x.2.core == core && !x.2.spins.isEmpty).map (·.1))
    (f := fun s g => s.dueSpins g) (wakeAll_listed h) fun _ _ k => dueSpins_listed k
  unfold issueSlot
  refine ite_listed due ?_
  split
  · exact due
  · exact issueMain_listed due

theorem issueSecond_listed (h : s.Listed) {core slot : Nat} : (s.issueSecond core slot).Listed := by
  unfold issueSecond
  split
  · exact h
  · next p _ =>
    have done : (s.modCore core fun x => { x with ports := x.ports.put slot { p with second := [] } }).Listed :=
      modCore_listed h fun _ => rfl
    refine ite_listed h ?_
    split
    · exact done
    · dsimp only
      split
      · exact ite_listed (perform1_listed done) (applyHint_listed (perform1_listed done))
      · exact done

/-! The machine's own moves (log 1). -/

/-- Each of some moves keeps the lists in order. -/
def AllKeep (l : List (State → Host.Outcome State Fault Refusal)) : Prop :=
  ∀ f ∈ l, ∀ u : State, u.Listed → KeepsLists (f u)

theorem AllKeep.append {a b : List (State → Host.Outcome State Fault Refusal)} (ha : AllKeep a) (hb : AllKeep b) :
    AllKeep (a ++ b) := fun _ hf => (List.mem_append.1 hf).elim (ha _) (hb _)

theorem AllKeep.cons {f : State → Host.Outcome State Fault Refusal} {l : List (State → Host.Outcome State Fault Refusal)}
    (hf : ∀ {u : State}, u.Listed → KeepsLists (f u)) (hl : AllKeep l) : AllKeep (f :: l) := fun _ hg =>
  (List.mem_cons.1 hg).elim (fun e _ k => e ▸ hf k) (hl _)

theorem AllKeep.nil : AllKeep [] := fun _ hf => absurd hf List.not_mem_nil

theorem AllKeep.map {α : Type} {l : List α} {g : α → State → Host.Outcome State Fault Refusal}
    (hg : ∀ (x : α) (u : State), u.Listed → KeepsLists (g x u)) : AllKeep (l.map g) := fun _ hf => by
  obtain ⟨x, _, rfl⟩ := List.mem_map.1 hf
  exact hg x

theorem AllKeep.flatten {α : Type} {l : List α} {g : α → List (State → Host.Outcome State Fault Refusal)}
    (hg : ∀ x, AllKeep (g x)) : AllKeep (l.map g).flatten := fun f hf => by
  obtain ⟨k, hk, hf⟩ := List.mem_flatten.1 hf
  obtain ⟨x, _, rfl⟩ := List.mem_map.1 hk
  exact hg x f hf

theorem AllKeep.one {f : State → Host.Outcome State Fault Refusal} (hf : ∀ {u : State}, u.Listed → KeepsLists (f u)) :
    AllKeep [f] := .cons hf .nil

theorem activations_allKeep {g : Nat} {acts : List Nat} :
    AllKeep (match acts with
      | [] => []
      | n :: _ => [execLaunchNodeActivation g n, execJoinActivation g n, execConditionalActivation g n,
          execWhileActivation g n]) := by
  split
  · exact .nil
  · exact .cons (execLaunchNodeActivation_keeps ·) (.cons (execJoinActivation_keeps ·)
      (.cons (execConditionalActivation_keeps ·) (.one (execWhileActivation_keeps ·))))

theorem combinedReads_allKeep {l : Option (LoadReq × Nat × Bool)} :
    AllKeep (match l with
      | some (.global pa _ _, _, _) => [execReadCombineReply (pa / 64)]
      | _ => []) := by
  split
  · exact .one (execReadCombineReply_keeps ·)
  · exact .nil

theorem dispatch_allKeep {b : Bool} : AllKeep (if b then (upto 4).map execDispatchTake else []) := by
  split
  · exact .map fun _ _ k => execDispatchTake_keeps k
  · exact .nil

theorem candidates_allKeep : AllKeep s.candidates :=
  .append (.append (.append (.append (.append (.append (.append (.append
    (.append (.append (.append (.append (.append (.append (.append (.append
    (.flatten fun _ => .append (.append (.one (execAgeingLift_keeps ·))
      (.flatten fun _ => .cons (execSpinDemotionEnd_keeps ·) (.one (execSpinDemotion_keeps ·))))
      (.one (execMatrixAccept_keeps ·)))
    (.map fun _ _ k => execCodePageHashCheck_keeps k))
    (.flatten fun _ => .cons (execOwnershipRegistration_keeps ·) (.one (execRegistrationAck_keeps ·))))
    (.map fun _ _ k => execOwnershipWithdrawal_keeps k))
    (.flatten fun _ => .append (.append (.one (execOwnerReadForward_keeps ·)) combinedReads_allKeep)
      (.one (execResultWriteback_keeps ·))))
    (.map fun _ _ k => execStxLanding_keeps k))
    (.map fun _ _ k => execChannelLanding_keeps k))
    (.map fun _ _ k => execChannelCreditReturn_keeps k))
    (.map fun _ _ k => execElementPublication_keeps k))
    (.flatten fun _ => .cons (execEnqAtHome_keeps ·) (.cons (execDeqAtHome_keeps ·) (.cons (execWaiterEviction_keeps ·)
      (.one (execQueueReply_keeps ·))))))
    (.flatten fun _ => .append (.append (.append (.cons (execCopyFault_keeps ·) (.cons (execCopyErrorState_keeps ·)
      (.one (execCopyErrorState_keeps ·)))) (.map fun _ _ k => execBarrierArrival_keeps k))
      (.map fun _ _ k => execCopyLanding_keeps k)) (.one (execCopyCompletion_keeps ·))))
    (.flatten fun _ => .cons (execMatrixStop_keeps ·) (.cons (execMatrixStop_keeps ·) (.cons (execKStep_keeps ·)
      (.cons (execDrainBlockCommit_keeps ·) (.one (execMatrixCompletion_keeps ·)))))))
    (.flatten fun _ => .append (.cons (execReordDeal_keeps ·) (.one (execTeamCompletion_keeps ·)))
      (.flatten fun _ => .map fun _ _ k => execStreamPrefetch_keeps k)))
    (.flatten fun _ => .append (.map fun _ _ k => execTeamStart_keeps k)
      (.cons (execLaunchCompletion_keeps ·) (.one (execCompletionReport_keeps ·)))))
    (.flatten fun _ => .append (.one (execGraphStart_keeps ·)) activations_allKeep))
    (.flatten fun _ => .cons (execFaultRecordEnqueue_keeps ·) (.one (execStopCompletion_keeps ·))))
    dispatch_allKeep

theorem firstEnabled_listed (h : s.Listed) {l : List (State → Host.Outcome State Fault Refusal)} {t : State} (hl : AllKeep l)
    (e : s.firstEnabled l = some t) : t.Listed := by
  induction l with
  | nil => cases e
  | cons f r ih =>
    have rest := ih fun g hg => hl g (List.mem_cons_of_mem _ hg)
    unfold firstEnabled at e
    split at e
    · next u eu =>
      split at e
      · exact rest e
      · exact Option.some.inj e ▸ hl f List.mem_cons_self s h u eu
    · exact rest e

theorem firstHeld_listed (h : s.Listed) {l : List (Nat × Nat)} {t : State} (e : s.firstHeld l = some t) : t.Listed := by
  induction l with
  | nil => cases e
  | cons x r ih =>
    unfold firstHeld at e
    split at e
    · next u eu => exact Option.some.inj e ▸ execHeldFrameExecute_keeps h u eu
    · exact ih e

theorem firstIssue_listed (h : s.Listed) {l : List (Nat × Nat)} {t : State} (e : s.firstIssue l = some t) : t.Listed := by
  induction l with
  | nil => cases e
  | cons x r ih =>
    unfold firstIssue at e
    dsimp only at e
    split at e
    · exact Option.some.inj e ▸ issueSecond_listed h
    · split at e
      · exact ih e
      · exact Option.some.inj e ▸ issueSlot_listed h

theorem ownMove_listed (h : s.Listed) : (s.ownMove).Listed := by
  unfold ownMove
  split
  · next e => exact firstEnabled_listed h candidates_allKeep e
  · split
    · next e => exact firstHeld_listed h e
    · cases e : s.firstIssue s.slotsInUse with
      | none => exact tickAll_listed h
      | some t => exact firstIssue_listed h e

theorem direct_listed (h : s.Listed) {d : Directive} : (s.direct d).Listed := by
  unfold direct
  split
  · have out (i : Instr) := exec_keeps (issueSome_listed h none) (i := i)
    split
    · next t e => exact out _ t e
    · exact h
    · exact h
  · exact issueSlot_listed h
  · exact issueSecond_listed h
  · exact tickCore_listed h
  · exact setWidth_listed h
  · exact damage_listed h

theorem move_listed (h : s.Listed) : (s.move).Listed := by
  unfold move
  split
  · exact settleStep_listed (ownMove_listed h)
  · exact settleStep_listed (direct_listed (agenda_listed h _))

end State

/-- Settles O3: what each function that makes a state does to the lists that State.Listed names, one lemma for each, and so
what a move does to them. -/
theorem listsKept : Obligations.ListsKept := by
  intro s t h e
  exact Host.Outcome.next.inj e ▸ move_listed h

end Sys2Proof.Machine
end

section
/-! Accesses of the gallery's scratchpads: what stands before them (03 R70; 06 R128 to R130; 07 R168; 19 R402). -/

namespace Sys2Proof.Machine

theorem perm_insertByFront {α : Type} (key : α → Nat) (x : α) (l : List α) :
    (sortBy.insertByFront key x l).Perm (x :: l) := by
  induction l with
  | nil => exact .refl _
  | cons y r ih =>
    unfold sortBy.insertByFront
    split
    · exact (ih.cons y).trans (.swap x y r)
    · exact .refl _

theorem perm_sortBy {α : Type} (key : α → Nat) (l : List α) : (sortBy key l).Perm l := by
  induction l with
  | nil => exact .refl _
  | cons x r ih => exact (perm_insertByFront key x _).trans (ih.cons x)

theorem mem_performers {o : XM} {act : List (Nat × FibreId)} {f : FibreId} (h : f ∈ State.performers o act) :
    f ∈ act.map (·.2) := by
  have all : f ∈ (State.byFid act).map (·.2) := by
    unfold State.performers at h
    dsimp only at h
    split at h
    · exact List.mem_of_mem_take h
    · exact h
  exact ((perm_sortBy _ act).map _).mem_iff.1 all

section
variable {s : State} {act : List (Nat × FibreId)}

theorem ungated_of_mem (free : Ungated s act) {f : FibreId} (h : f ∈ act.map (·.2)) :
    (s.fibre f).fenceAcq = none ∧ (s.fibre f).fenceRel = [] ∧ (s.fibre f).ldc < 63 ∧ (s.fibre f).stc < 63 := by
  obtain ⟨x, hx, rfl⟩ := List.mem_map.1 h
  exact free x hx

/-- No fence holds the accesses of fibres that wait for nothing (19 R402). -/
theorem accessGate_ungated (free : Ungated s act) (iss : Issue) {fs : List FibreId} (sub : ∀ f ∈ fs, f ∈ act.map (·.2))
    (store : Bool) : s.accessGate iss fs store = (s, true) := by
  have opened : s.accessOpen fs store = true := by
    simp only [State.accessOpen, Bool.not_eq_true', List.any_eq_false]
    intro f hf
    obtain ⟨acq, rel, -, -⟩ := ungated_of_mem free (sub f hf)
    simp [acq, rel, State.anyOpen]
  have passed : s.accessDone iss.core fs = s := by
    unfold State.accessDone
    induction fs with
    | nil => rfl
    | cons f fs ih =>
      obtain ⟨acq, -, -, -⟩ := ungated_of_mem free (sub f List.mem_cons_self)
      simp only [State.each, List.foldl_cons, acq] at ih ⊢
      refine ih (fun g hg => sub g (List.mem_cons_of_mem _ hg)) ?_
      simp only [State.accessOpen, Bool.not_eq_true', List.any_eq_false] at opened ⊢
      exact fun g hg => opened g (List.mem_cons_of_mem _ hg)
  unfold State.accessGate
  rw [if_pos opened, passed]

theorem countFull_ldc (free : Ungated s act) : countFull s act (·.ldc) = false := by
  simp only [countFull, List.any_eq_false, decide_eq_true_eq]
  intro x hx
  obtain ⟨-, -, ldc, -⟩ := free x hx
  omega

theorem countFull_stc (free : Ungated s act) : countFull s act (·.stc) = false := by
  simp only [countFull, List.any_eq_false, decide_eq_true_eq]
  intro x hx
  obtain ⟨-, -, -, stc⟩ := free x hx
  omega

/-- FENCE.rel holds no store of fibres that wait for nothing (19 R402). -/
theorem fenced_ungated (free : Ungated s act) {fs : List FibreId} (sub : ∀ f ∈ fs, f ∈ act.map (·.2)) : fenced s fs = [] := by
  have none' : (fs.map fun f => (s.fibre f).fenceRel).flatten = [] := by
    rw [List.flatten_eq_nil_iff]
    intro l hl
    obtain ⟨f, hf, rfl⟩ := List.mem_map.1 hl
    exact (ungated_of_mem free (sub f hf)).2.1
  unfold fenced
  rw [none']
  rfl

/-- The sources of the lanes of a clear issue hold no error (06 R150). -/
theorem badLane_clear {i : Instr} {iss : Issue} (clear : s.Clear i iss act) {f : FibreId} (h : f ∈ act.map (·.2)) :
    s.badLane iss (usesOf i) f = false := by
  obtain ⟨x, hx, rfl⟩ := List.mem_map.1 h
  simpa using List.any_eq_false.1 clear.sources x hx

end

/-! The checks of LDX and STX, in their order. -/

section
variable {s : State} {iss : Issue} {o : XM}

/-- A lane's offset is not a multiple of the size. -/
def oddAt (s : State) (iss : Issue) (o : XM) (f : FibreId) : Bool := s.effective iss f o false % (sizeBytes o : Int) != 0

/-- A lane's member is not there, or the access lies outside its scratchpad (03 R70; 06 R129). -/
def outside (s : State) (iss : Issue) (o : XM) (f : FibreId) : Bool :=
  match s.memberOf f (s.memberIdx iss f o) with
  | .none => true
  | .ended => true
  | .unstarted => false
  | m => s.effective iss f o false < 0 ||
    (((s.team (State.memberTeam f m)).ownBytes : Nat) : Int) < s.effective iss f o false + sizeBytes o

theorem outside_iff {f : FibreId} : outside s iss o f = true ↔
    let m := s.memberOf f (s.memberIdx iss f o)
    m = .none ∨ m = .ended ∨ (m ≠ .unstarted ∧ (s.effective iss f o false < 0 ∨
      ((s.team (State.memberTeam f m)).ownBytes : Int) < s.effective iss f o false + sizeBytes o)) := by
  unfold outside
  cases s.memberOf f (s.memberIdx iss f o) <;> simp

/-- A lane's member has not started (03 R70). -/
def unstartedAt (s : State) (iss : Issue) (o : XM) (f : FibreId) : Bool := s.memberOf f (s.memberIdx iss f o) == .unstarted

/-- Bytes of a lane's access hold an error (06 R150). -/
def errorAt (s : State) (iss : Issue) (o : XM) (bytes : Nat) (f : FibreId) : Bool :=
  s.spadBad (State.memberTeam f (s.memberOf f (s.memberIdx iss f o))) (s.effective iss f o false).toNat bytes

/-- The outcome of the checks, by the first lane that each of them stops. -/
def galleryOutcome (s : State) (iss : Issue) (o : XM) (bytes : Nat) (odd out wait err : Option FibreId) :
    Option (Except Nat (Nat × Nat)) :=
  let va := fun (f : FibreId) => (s.effective iss f o false % (2 ^ 64 : Nat)).toNat
  match odd with
  | some f => some (.ok (cALIGN, va f))
  | none =>
    match out with
    | some f => some (.ok (cACCESS, va f))
    | none =>
      match wait with
      | some f => some (.error (s.memberIdx iss f o))
      | none =>
        match err with
        | some f => some (.ok (cECC, if errorAt s iss o bytes f then va f else 0))
        | none => none

variable {fs : List FibreId} {source : FibreId → Bool} {bytes : Nat} {f : FibreId}

theorem galleryCheck_eq : s.galleryCheck iss o bytes source fs = galleryOutcome s iss o bytes (fs.find? (oddAt s iss o))
    (fs.find? (outside s iss o)) (fs.find? (unstartedAt s iss o)) (fs.find? fun f => errorAt s iss o bytes f || source f) := rfl

/-- No lane of a list is stopped by a check. -/
theorem find?_none {p : FibreId → Bool} (h : ∀ g ∈ fs, p g = false) : fs.find? p = none :=
  List.find?_eq_none.2 fun g hg => by simp [h g hg]

theorem galleryCheck_odd (odd : fs.find? (oddAt s iss o) = some f) : s.galleryCheck iss o bytes source fs =
    some (.ok (cALIGN, (s.effective iss f o false % (2 ^ 64 : Nat)).toNat)) := by
  rw [galleryCheck_eq, odd]; rfl

theorem galleryCheck_outside (aligned : ∀ g ∈ fs, oddAt s iss o g = false) (out : fs.find? (outside s iss o) = some f) :
    s.galleryCheck iss o bytes source fs =
      some (.ok (cACCESS, (s.effective iss f o false % (2 ^ 64 : Nat)).toNat)) := by
  rw [galleryCheck_eq, find?_none aligned, out]; rfl

theorem galleryCheck_unstarted (aligned : ∀ g ∈ fs, oddAt s iss o g = false) (inside : ∀ g ∈ fs, outside s iss o g = false)
    (wait : fs.find? (unstartedAt s iss o) = some f) :
    s.galleryCheck iss o bytes source fs = some (.error (s.memberIdx iss f o)) := by
  rw [galleryCheck_eq, find?_none aligned, find?_none inside, wait]; rfl

theorem galleryCheck_ecc (aligned : ∀ g ∈ fs, oddAt s iss o g = false) (inside : ∀ g ∈ fs, outside s iss o g = false)
    (started : ∀ g ∈ fs, unstartedAt s iss o g = false) (clean : ∀ g ∈ fs, source g = false)
    (bad : fs.find? (errorAt s iss o bytes) = some f) :
    s.galleryCheck iss o bytes source fs =
      some (.ok (cECC, (s.effective iss f o false % (2 ^ 64 : Nat)).toNat)) := by
  have found : fs.find? (fun f => errorAt s iss o bytes f || source f) = some f := by
    rw [← bad]
    exact List.find?_congr fun g hg => by rw [clean g hg, Bool.or_false]
  rw [galleryCheck_eq, find?_none aligned, find?_none inside, find?_none started, found]
  exact congrArg (fun x => some (Except.ok (cECC, x))) (if_pos (List.find?_some bad))

end

/-! What LDX and STX come to once they are let through. -/

/-- One lane's LDX: the read of another member's scratchpad is under way, that of the own one has its value (20 R418). -/
def ldxOne (o : XM) (iss : Issue) (act : List (Nat × FibreId)) (s : State) (f : FibreId) : State :=
  let ofs := (s.effective iss f o false).toNat
  match s.memberOf f (s.memberIdx iss f o) with
  | .other t => s.addPending iss f (dataRegs o) (counted o act f) (some (.gallery t ofs, sizeBytes o, o.sx))
  | _ => s.addPending iss f (valuesOf o (s.spadBytes f.team ofs (sizeBytes o))) (counted o act f) none

/-- What LDX makes of the outcome of its checks. -/
def ldxChecked (s : State) (iss : Issue) (o : XM) (act : List (Nat × FibreId)) :
    Option (Except Nat (Nat × Nat)) → State
  | some (.ok (c, va)) =>
    if c == cECC && !(galleryBefore s iss o true (State.performers o act)).isEmpty then s.stall iss else s.raise iss c 0 va
  | some (.error m) => s.park iss iss.lanes (.member m) none
  | none =>
    if !(galleryBefore s iss o true (State.performers o act)).isEmpty then s.stall iss
    else (s.each (State.performers o act) (ldxOne o iss act)).advance iss

/-- The stores of STX: fibre, team, offset and bytes (23 R466). -/
def stxStores (s : State) (iss : Issue) (o : XM) (fs : List FibreId) : List (FibreId × Nat × Nat × List Byte) :=
  fs.map fun f => (f, State.memberTeam f (s.memberOf f (s.memberIdx iss f o)),
    (s.effective iss f o false).toNat, leBytes (sizeBytes o) (s.dataFrom iss f o (State.dataNum o)))

/-- What STX makes of the outcome of its checks. -/
def stxChecked (s : State) (iss : Issue) (o : XM) (act : List (Nat × FibreId)) :
    Option (Except Nat (Nat × Nat)) → State
  | some (.ok (c, va)) => s.raise { iss with wr := true } c 0 va
  | some (.error m) => s.park iss iss.lanes (.member m) none
  | none =>
    let fs := State.performers o act
    let waits := fenced s fs ++ galleryBefore s iss o false fs
    if waits.isEmpty then (stxAll s iss.core (counted o act) (stxStores s iss o fs)).advance iss
    else (s.delay iss.core (act.map (·.2)) (act.map (·.2)) waits (.stx (gData o) (stxStores s iss o fs))).advance iss

section
variable {s : State} {iss : Issue} {o : XM} {act : List (Nat × FibreId)}

theorem ldx_exec (clear : s.Clear (.ldx o) iss act) (free : Ungated s act) : exec (.ldx o) s = .next (ldxChecked s iss o act
    (s.galleryCheck iss o (sizeBytes o) (s.badLane iss (usesOf (.ldx o))) (State.performers o act))) := by
  show execLdx o s = _
  unfold execLdx
  rw [issuedMem_clear clear false rfl]
  dsimp only
  rw [accessGate_ungated free iss (fun f => mem_performers)]
  dsimp only
  rw [countFull_ldc free]
  rcases s.galleryCheck iss o (sizeBytes o) (s.badLane iss (usesOf (.ldx o))) (State.performers o act) with
    _ | _ | ⟨c, va⟩ <;> rfl

theorem stx_exec (clear : s.Clear (.stx o) iss act) (free : Ungated s act) : exec (.stx o) s = .next (stxChecked s iss o act
    (s.galleryCheck iss o 0 (s.badLane iss (usesOf (.stx o))) (State.performers o act))) := by
  show execStx o s = _
  unfold execStx
  rw [issuedMem_clear clear false rfl]
  dsimp only
  rw [accessGate_ungated free iss (fun f => mem_performers)]
  dsimp only
  rw [countFull_stc free]
  rcases s.galleryCheck iss o 0 (s.badLane iss (usesOf (.stx o))) (State.performers o act) with
    _ | _ | ⟨c, va⟩ <;> rfl

end

/-- The first of a list that has a property. -/
theorem find?_first {α : Type} {p : α → Bool} {l before after : List α} {x : α} (split : l = before ++ x :: after)
    (here : p x = true) (none' : ∀ y ∈ before, p y = false) : l.find? p = some x :=
  List.find?_eq_some_iff_append.2 ⟨here, before, after, split, fun y hy => by simp [none' y hy]⟩

/-- Which fault a lane of LDX or STX gives (03 R70; 06 R128 to R130, R150). -/
theorem galleryFaults : Claims.GalleryFaults := by
  intro c o wr form s iss act clear free iss' fs at' va mem home odd out bad before after f split
  have odd_iff (g : FibreId) : oddAt s iss o g = true ↔ odd g := by simp [oddAt, odd, at']
  have not_odd {g : FibreId} (h : ¬odd g) : oddAt s iss o g = false := by simpa using mt (odd_iff g).1 h
  have not_out {g : FibreId} (h : ¬out g) : outside s iss o g = false := by simpa using mt outside_iff.1 h
  have begun {g : FibreId} (h : mem g ≠ .unstarted) : unstartedAt s iss o g = false := by simpa [unstartedAt] using h
  have clean (g : FibreId) (h : g ∈ fs) : s.badLane iss (usesOf c) g = false := badLane_clear clear (mem_performers h)
  -- An outcome of the checks other than ECC ends the instruction of either kind alike.
  have trapped {x va : Nat} (hx : x ≠ cECC)
      (check : ∀ n source, s.galleryCheck iss o n source fs = some (.ok (x, va))) :
      exec c s = .next (s.raise iss' x 0 va) := by
    rcases form with ⟨rfl, rfl⟩ | ⟨rfl, rfl⟩
    · rw [ldx_exec clear free, check]
      exact congrArg _ (if_neg (by simp [hx]))
    · rw [stx_exec clear free, check]; rfl
  have parked {m : Nat} (check : ∀ n source, s.galleryCheck iss o n source fs = some (.error m)) :
      exec c s = .next (s.park iss iss.lanes (.member m) none) := by
    rcases form with ⟨rfl, rfl⟩ | ⟨rfl, rfl⟩
    · rw [ldx_exec clear free, check]; rfl
    · rw [stx_exec clear free, check]; rfl
  refine ⟨fun here earlier => ?_, fun even here earlier => ?_, fun legal here earlier => ?_,
    fun legal load waits here earlier => ?_⟩
  · exact trapped (by decide) fun n source =>
      galleryCheck_odd (find?_first split ((odd_iff f).2 here) fun g hg => not_odd (earlier g hg))
  · exact trapped (by decide) fun n source => galleryCheck_outside (fun g hg => not_odd (even g hg))
      (find?_first split (outside_iff.2 here) fun g hg => not_out (earlier g hg))
  · exact parked fun n source => galleryCheck_unstarted (fun g hg => not_odd (legal g hg).1)
      (fun g hg => not_out (legal g hg).2)
      (find?_first split (by simpa [unstartedAt] using here) fun g hg => begun (earlier g hg))
  · rcases form with ⟨rfl, rfl⟩ | ⟨rfl, rfl⟩
    · rw [ldx_exec clear free, galleryCheck_ecc (fun g hg => not_odd (legal g hg).1)
        (fun g hg => not_out (legal g hg).2.1) (fun g hg => begun (legal g hg).2.2) clean
        (find?_first split here fun g hg => by simpa [bad, errorAt] using earlier g hg)]
      refine congrArg _ (if_neg ?_)
      rw [waits]
      simp
    · cases load

end Sys2Proof.Machine
end

section
/-! What LDX and STX do (04 R93; 06 R142; 20 R418; 23 R466). -/

namespace Sys2Proof.Machine

namespace State

/-- An update of some fibres, each named once, is made to each of them and to no other. -/
theorem modFibres_fibre (s : State) {fs : List FibreId} (nd : fs.Nodup) (g : Fibre → Fibre) (f : FibreId) :
    (s.each fs fun s c => s.modFibre c g).fibre f = if f ∈ fs then g (s.fibre f) else s.fibre f := by
  refine ((fibre_each (P := fun _ => True) (k := fun c : FibreId => c) (l := fs) (g := fun _ => g)
    (step := fun s c => s.modFibre c g) (fun t c _ _ => ⟨trivial, modFibre_fibre t c g⟩) (s := s) trivial).2 f).trans ?_
  by_cases hf : f ∈ fs
  · rw [filter_key_eq (k := fun c : FibreId => c) (by simpa using nd) hf, if_pos hf]; rfl
  · rw [List.filter_eq_nil_iff.2 (by rintro x hx h; exact hf (of_decide_eq_true h ▸ hx)), if_neg hf]; rfl

theorem modFibres_frame (s : State) (fs : List FibreId) (g : Fibre → Fibre) :
    SameButFibres s (s.each fs fun s c => s.modFibre c g) :=
  each_keeps (P := SameButFibres s) (.refl s) fun t c h => h.trans (modFibre_frame t c g)

end State

/-! What an access reads of the machine. -/

namespace SameButResults

variable {s t u : State}

theorem refl (s : State) : SameButResults s s := ⟨rfl, fun _ => rfl⟩

theorem trans (h : SameButResults s t) (k : SameButResults t u) : SameButResults s u := by
  obtain ⟨h1, h2⟩ := h
  obtain ⟨k1, k2⟩ := k
  refine ⟨?_, fun n => ?_⟩
  · rw [← k1] at h1; exact h1
  · have h2 := h2 n
    rw [← k2 n] at h2; exact h2

theorem fibres (h : SameButFibres s t) : SameButResults s t :=
  ⟨(congrArg (fun z : State => { z with pending := s.pending, nextId := s.nextId }) h.1 :), h.2⟩

theorem cores (h : SameButResults s t) : t.cores = s.cores := (congrArg State.cores h.1 :)

theorem groups (h : SameButResults s t) : t.groups = s.groups := (congrArg State.groups h.1 :)

theorem launches (h : SameButResults s t) : t.launches = s.launches := (congrArg State.launches h.1 :)

theorem clockOf (h : SameButResults s t) (c : Nat) : t.clockOf c = s.clockOf c := by
  unfold State.clockOf State.core
  rw [h.cores]

theorem group (h : SameButResults s t) (n : Nat) : t.group n = s.group n := by
  unfold State.group
  rw [h.groups]

/-- A field of a team other than its fibres is what it was. -/
theorem team_same {β : Type} (h : SameButResults s t) {π : Team → β} (hπ : ∀ x l, π { x with fibres := l } = π x) (n : Nat) :
    π (t.team n) = π (s.team n) :=
  (hπ _ _).symm.trans (congrArg π (h.2 n))

theorem leadTeam (h : SameButResults s t) (g : Nat) : t.leadTeam g = s.leadTeam g :=
  State.leadTeam_congr (by rw [h.group]) (h.team_same (π := Team.num) fun _ _ => rfl)

theorem gReg (h : SameButResults s t) (g n : Nat) : t.gReg g n = s.gReg g n := by
  have done : t.lateDone = s.lateDone := by
    funext l
    unfold State.lateDone
    rw [h.clockOf]
  unfold State.gReg
  rw [h.leadTeam, h.group, done]
  dsimp only
  rw [h.team_same (π := Team.g) (fun _ _ => rfl), h.team_same (π := Team.late) (fun _ _ => rfl)]

end SameButResults

theorem KV.find_mapVals {β : Type} (m : KV β) (f : β → β) (a : Nat) : (m.mapVals f).find a = (m.find a).map f := by
  induction m with
  | nil => rfl
  | cons x r ih =>
    simp only [KV.mapVals, List.map_cons, KV.find] at ih ⊢
    split
    · rfl
    · exact ih

/-- Teams without their fibres. -/
def shells (m : KV Team) : KV Team := m.mapVals fun t => { t with fibres := [] }

theorem teamOf_shells (s : State) (launch num : Nat) : s.teamOf launch num =
    ((shells s.teams).find? fun x => x.2.launch == launch && x.2.num == num).map (·.1) := by
  unfold State.teamOf shells KV.mapVals
  rw [List.find?_map, Option.map_map]
  rfl

/-- A listed team that gets other fibres stays in its place. -/
theorem shells_put {m : KV Team} (sorted : KV.sorted m = true) {n : Nat} {t u : Team} (listed : m.find n = some t)
    (same : { u with fibres := [] } = { t with fibres := [] }) : shells (m.put n u) = shells m := by
  induction m with
  | nil => cases listed
  | cons x r ih =>
    obtain ⟨k, w⟩ := x
    obtain ⟨above, sorted⟩ := KV.sorted_cons.1 sorted
    unfold KV.find at listed
    unfold KV.put
    by_cases e : n = k
    · rw [if_pos e] at listed
      cases listed
      rw [if_neg (by omega), if_pos e]
      simp only [shells, KV.mapVals, List.map_cons, same, e]
    · rw [if_neg e] at listed
      have later := above _ (KV.mem_of_find listed)
      rw [if_neg (by exact Nat.lt_asymm later), if_neg e]
      exact congrArg (List.cons _) (ih sorted listed)

/-- Only pending results and what counts them in fibres may differ, and the teams stand in their order. -/
structure OnlyLoads (s t : State) : Prop where
  results : SameButResults s t
  counts : ∀ f, { t.fibre f with ldc := (s.fibre f).ldc } = s.fibre f
  shells : shells t.teams = shells s.teams
  sorted : KV.sorted t.teams = true

namespace OnlyLoads

variable {s t u : State}

theorem refl (sorted : KV.sorted s.teams = true) : OnlyLoads s s := ⟨.refl s, fun _ => rfl, rfl, sorted⟩

theorem trans (h : OnlyLoads s t) (k : OnlyLoads t u) : OnlyLoads s u := by
  refine ⟨h.results.trans k.results, fun f => ?_, k.shells.trans h.shells, k.sorted⟩
  have h := h.counts f
  rw [← k.counts f] at h
  exact h

theorem vAt (h : OnlyLoads s t) (f : FibreId) (c n : Nat) : (t.fibre f).vAt c n = (s.fibre f).vAt c n := by
  rw [← h.counts f]; rfl

theorem memberOf (h : OnlyLoads s t) (f : FibreId) (m : Nat) : t.memberOf f m = s.memberOf f m := by
  unfold State.memberOf
  simp only [teamOf_shells, h.shells, h.results.launches]
  rw [h.results.team_same (π := Team.launch) (fun _ _ => rfl), h.results.team_same (π := Team.gallery) (fun _ _ => rfl),
    h.results.team_same (π := Team.member) (fun _ _ => rfl)]
  simp only [h.results.team_same (π := Team.ended) fun _ _ => rfl]

theorem memberIdx (h : OnlyLoads s t) (iss : Issue) (f : FibreId) (o : XM) : t.memberIdx iss f o = s.memberIdx iss f o := by
  unfold State.memberIdx
  rw [h.vAt, h.results.clockOf]

theorem effective (h : OnlyLoads s t) (iss : Issue) (f : FibreId) (o : XM) :
    t.effective iss f o false = s.effective iss f o false := by
  unfold State.effective
  simp only [h.vAt, h.results.clockOf, h.results.gReg, Bool.false_eq_true, if_false]

/-- A count in a fibre of a listed team. -/
theorem modFibre {f : FibreId} (sorted : KV.sorted s.teams = true) (listed : (s.teams.find f.team).isSome = true)
    {g : Fibre → Fibre} (count : ∀ x, { g x with ldc := x.ldc } = x) : OnlyLoads s (s.modFibre f g) where
  results := .fibres (modFibre_frame s f g)
  counts i := by
    rw [State.modFibre_fibre]
    split
    · exact count _
    · rfl
  shells := by
    obtain ⟨t, ht⟩ := Option.isSome_iff_exists.1 listed
    refine shells_put sorted ht ?_
    rw [show s.team f.team = t from by rw [State.team, KV.getD, ht]; rfl]
  sorted := KV.sorted_put _ _ sorted

end OnlyLoads

/-! Results on their way. -/

namespace State

variable (s : State) (iss : Issue) (f : FibreId) (dests : List (Reg × Dword)) (count : List FibreId)
  (load : Option (LoadReq × Nat × Bool))

/-- The machine in which some fibres count one result more (04 R93). -/
def counting (s : State) (count : List FibreId) : State :=
  s.newId.2.each count fun s c => s.modFibre c fun x => { x with ldc := x.ldc + 1 }

/-- The result that is listed (04 R90). -/
def listedResult : Sys2Proof.Machine.Pending :=
  { fib := f, gid := iss.gid, core := iss.core, tid := (s.counting count).leadTeam iss.gid, dests := dests, count := count
    load := load, bits := if dests.any fun d => isG d.1 then iss.lanes.map (·.2) else [] }

theorem addPending_pending : (s.addPending iss f dests count load).pending =
    s.pending.put s.nextId (s.listedResult iss f dests count load) :=
  congrArg (fun m => KV.put m s.nextId (s.listedResult iss f dests count load)) (modFibres_frame s.newId.2 count _).pending

theorem addPending_results : SameButResults s (s.addPending iss f dests count load) := by
  have counted := modFibres_frame s.newId.2 count fun x => { x with ldc := x.ldc + 1 }
  exact ⟨(congrArg (fun z : State => { z with pending := s.pending, nextId := s.nextId }) counted.1 :), counted.2⟩

theorem addPending_nextId : (s.addPending iss f dests count load).nextId = s.nextId + 1 :=
  (congrArg State.nextId (modFibres_frame s.newId.2 count _).1 :)

/-- A result that was listed before stays so. -/
theorem addPending_keeps {id : Nat} (h : id < s.nextId) :
    (s.addPending iss f dests count load).pending.find id = s.pending.find id := by
  rw [addPending_pending]
  exact KV.find_put_other _ (Nat.ne_of_lt h)

theorem addPending_onlyLoads (sorted : KV.sorted s.teams = true) (listed : ∀ c ∈ count, (s.teams.find c.team).isSome = true) :
    OnlyLoads s (s.addPending iss f dests count load) := by
  have counted : OnlyLoads s.newId.2 (s.counting count) := by
    unfold counting
    have start : KV.sorted s.newId.2.teams = true := sorted
    have there : ∀ c ∈ count, (s.newId.2.teams.find c.team).isSome = true := listed
    generalize s.newId.2 = u at start there
    induction count generalizing u with
    | nil => exact .refl start
    | cons c r ih =>
      have first := OnlyLoads.modFibre (g := fun x => { x with ldc := x.ldc + 1 }) start (there c List.mem_cons_self) fun _ => rfl
      exact first.trans (ih (fun c hc => listed c (List.mem_cons_of_mem _ hc)) _ first.sorted fun c hc =>
        isSome_find_put _ _ _ _ (there c (List.mem_cons_of_mem _ hc)))
  exact ⟨addPending_results s iss f dests count load, counted.counts, counted.shells, counted.sorted⟩

end State

/-! LDX. -/

section
variable {s : State} {iss : Issue} {o : XM} {act : List (Nat × FibreId)}

theorem valuesOf_regs (o : XM) (bs : List Byte) : (valuesOf o bs).map (·.1) = (dataRegs o).map (·.1) := by
  unfold valuesOf State.loadVals
  dsimp only
  rw [List.map_map]
  refine Eq.trans (List.map_congr_left (g := (·.1) ∘ Prod.snd) fun x _ => ?_) ?_
  · obtain ⟨i, r, v⟩ := x
    cases r <;> simp only [Function.comp_apply] <;> split <;> rfl
  · rw [← List.map_map, List.map_snd_zip (by simp)]

/-- One lane's LDX lists a result: of the gallery read, where another member is read (20 R418). -/
theorem ldxOne_eq (s : State) (f : FibreId) : ∃ dests load, ldxOne o iss act s f = s.addPending iss f dests (counted o act f) load ∧
    dests.map (·.1) = (dataRegs o).map (·.1) ∧ ∀ tid, s.memberOf f (s.memberIdx iss f o) = .other tid →
      load = some (.gallery tid (s.effective iss f o false).toNat, sizeBytes o, o.sx) := by
  unfold ldxOne
  cases s.memberOf f (s.memberIdx iss f o) with
  | other t => exact ⟨_, _, rfl, rfl, fun tid e => by cases e; rfl⟩
  | none | unstarted | ended | self => exact ⟨_, _, rfl, valuesOf_regs o _, nofun⟩

/-- Lanes' LDX change results and their counts alone, and what was listed stays. -/
theorem ldxEach_frame (l : List FibreId) (s : State) : SameButResults s (s.each l (ldxOne o iss act)) ∧
    s.nextId ≤ (s.each l (ldxOne o iss act)).nextId ∧
    ∀ id < s.nextId, (s.each l (ldxOne o iss act)).pending.find id = s.pending.find id := by
  induction l generalizing s with
  | nil => exact ⟨.refl s, Nat.le_refl _, fun _ _ => rfl⟩
  | cons f l ih =>
    obtain ⟨dests, load, one, -, -⟩ := ldxOne_eq (o := o) (iss := iss) (act := act) s f
    obtain ⟨rest, le, keeps⟩ := ih (ldxOne o iss act s f)
    have next : (ldxOne o iss act s f).nextId = s.nextId + 1 := by rw [one]; exact State.addPending_nextId ..
    refine ⟨SameButResults.trans (by rw [one]; exact State.addPending_results ..) rest, by rw [next] at le; exact Nat.le_of_succ_le le,
      fun id hid => (keeps id (by omega)).trans ?_⟩
    rw [one]
    exact State.addPending_keeps _ _ _ _ _ _ hid

theorem ldxEach_onlyLoads {l : List FibreId} (sorted : KV.sorted s.teams = true)
    (listed : ∀ f ∈ l, ∀ c ∈ counted o act f, (s.teams.find c.team).isSome = true) :
    OnlyLoads s (s.each l (ldxOne o iss act)) := by
  induction l generalizing s with
  | nil => exact .refl sorted
  | cons f l ih =>
    obtain ⟨dests, load, one, -, -⟩ := ldxOne_eq (o := o) (iss := iss) (act := act) s f
    have first : OnlyLoads s (ldxOne o iss act s f) := by
      rw [one]
      exact State.addPending_onlyLoads s iss f dests _ load sorted (listed f List.mem_cons_self)
    refine first.trans (ih first.sorted fun g hg c hc => ?_)
    have there := listed g (List.mem_cons_of_mem _ hg) c hc
    have same : (shells (ldxOne o iss act s f).teams).find c.team = (shells s.teams).find c.team := by rw [first.shells]
    unfold shells at same
    rw [KV.find_mapVals, KV.find_mapVals] at same
    simpa [there] using congrArg Option.isSome same

/-- A lane of an access with v data has a window, and so its team is listed (02 R31, R40). -/
theorem listed_of_window {f : FibreId} (h : 0 < (s.fibre f).window) : (s.teams.find f.team).isSome = true := by
  by_contra gone
  have none' : s.teams.find f.team = none := by simpa using gone
  have empty : s.fibre f = noFibre := by
    unfold State.fibre State.team KV.getD
    rw [none']
    rfl
  rw [empty] at h
  cases h

/-- LDX names its v data register as a destination (15 R326). -/
theorem ldx_writes {n : BitVec 8} (hd : o.d = .v n) : n.toNat ∈ (usesOf (.ldx o)).vw := by
  have first : n.toNat ∈ run n.toNat (sizeRegs o.size.toNat) := by
    have some' : 0 < sizeRegs o.size.toNat := by
      unfold sizeRegs
      split
      · decide
      · split <;> decide
    obtain ⟨k, hk⟩ := Nat.exists_eq_succ_of_ne_zero (Nat.ne_of_gt some')
    rw [hk]
    exact List.mem_cons_self
  show n.toNat ∈ (xmUse 5 o).vw
  unfold xmUse
  rw [hd]
  exact List.mem_append_right _ (List.mem_append_right _ first)

/-- Of the lanes that perform an LDX, either there is one, or each is of a listed team and counts its own. -/
theorem ldx_counted (clear : s.Clear (.ldx o) iss act) : (∃ l, State.performers o act = l ∧ l.length ≤ 1) ∨
    ∀ f ∈ State.performers o act, ∀ c ∈ counted o act f, (s.teams.find c.team).isSome = true := by
  cases hd : o.d with
  | g n =>
    have group : gData o = true := by simp [gData, hd]
    refine .inl ⟨_, rfl, ?_⟩
    unfold State.performers
    dsimp only
    rw [if_pos group]
    exact List.length_take_le 1 _
  | v n =>
    have own : gData o = false := by simp [gData, hd]
    refine .inr fun f hf c hc => ?_
    unfold counted at hc
    rw [own, if_neg (by decide), List.mem_singleton] at hc
    subst hc
    obtain ⟨x, hx, rfl⟩ := List.mem_map.1 (mem_performers hf)
    have lane : x ∈ iss.lanes := by
      rw [clear.guarded] at hx
      exact (List.mem_filter.1 hx).1
    have used : n.toNat ∈ (usesOf (.ldx o)).vw := ldx_writes hd
    have room := List.any_eq_false.1 clear.window x lane
    refine listed_of_window (Nat.pos_of_ne_zero fun none' => room (List.any_eq_true.2
      ⟨_, List.mem_append_right _ used, by simp [none']⟩))

/-- LDX lists a result for each performing lane (20 R418). -/
theorem ldx_lists (clear : s.Clear (.ldx o) iss act) (free : Ungated s act)
    (check : s.galleryCheck iss o (sizeBytes o) (s.badLane iss (usesOf (.ldx o))) (State.performers o act) = none)
    (first : galleryBefore s iss o true (State.performers o act) = []) (sorted : KV.sorted s.teams = true) :
    ∃ t, exec (.ldx o) s = .next t ∧ WentOn iss t ∧
      (∀ f ∈ State.performers o act, ∃ id p, t.pending.find id = some p ∧ p.fib = f ∧
        p.dests.map (·.1) = (dataRegs o).map (·.1) ∧
        ∀ tid, s.memberOf f (s.memberIdx iss f o) = .other tid →
          p.load = some (.gallery tid (s.effective iss f o false).toNat, sizeBytes o, o.sx)) ∧
      { t with teams := s.teams, pending := s.pending, nextId := s.nextId } = s := by
  have moved := State.advance_frame (s.each (State.performers o act) (ldxOne o iss act)) iss
  refine ⟨(s.each (State.performers o act) (ldxOne o iss act)).advance iss, ?_, State.advance_goes _ _, fun f hf => ?_,
    ((ldxEach_frame _ s).1.trans (.fibres moved)).1⟩
  · rw [ldx_exec clear free, check]
    refine congrArg _ (if_neg ?_)
    rw [first]
    decide
  · obtain ⟨before, after, split⟩ := List.append_of_mem hf
    have loads : OnlyLoads s (s.each before (ldxOne o iss act)) := by
      rcases ldx_counted clear with ⟨l, hl, one⟩ | listed
      · rw [← hl, split, List.length_append, List.length_cons] at one
        rw [List.eq_nil_of_length_eq_zero (l := before) (by omega)]
        exact .refl sorted
      · exact ldxEach_onlyLoads sorted fun g hg => listed g (split ▸ List.mem_append_left _ hg)
    generalize hu : s.each before (ldxOne o iss act) = u at loads
    obtain ⟨dests, load, one, regs, gallery⟩ := ldxOne_eq (o := o) (iss := iss) (act := act) u f
    obtain ⟨-, -, keeps⟩ := ldxEach_frame (o := o) (iss := iss) (act := act) after (ldxOne o iss act u f)
    have all : s.each (State.performers o act) (ldxOne o iss act) = (ldxOne o iss act u f).each after (ldxOne o iss act) := by
      rw [split, ← hu]
      exact List.foldl_append
    refine ⟨u.nextId, u.listedResult iss f dests (counted o act f) load, ?_, rfl, regs, fun tid other => ?_⟩
    · rw [moved.pending, all, keeps _ (by rw [one, State.addPending_nextId]; exact Nat.lt_succ_self _), one,
        State.addPending_pending]
      exact KV.find_put _ _ _
    · rw [← loads.memberOf, ← loads.memberIdx] at other
      rw [← loads.effective]
      exact gallery tid other

/-! STX. -/

/-- The machine in which some fibres count one store more (04 R93). -/
def storing (s : State) (count : List FibreId) : State :=
  s.newId.2.each count fun s c => s.modFibre c fun x => { x with stc := x.stc + 1 }

section
variable (s : State) (core : Nat) (f : FibreId) (count : List FibreId) (tid ofs : Nat) (bs : List Byte)

/-- The packet that is sent (06 R142; 09 R196). -/
def sentPacket : Packet := ⟨f, count, core, tid, (s.team tid).tag, ofs, bs, s.nextId⟩

theorem sendPacket_eq : s.sendPacket core f count tid ofs bs = { storing s count with
    packets := (storing s count).packets.put s.nextId (sentPacket s core f count tid ofs bs) } := rfl

theorem storing_frame : SameButFibres s.newId.2 (storing s count) := State.modFibres_frame _ _ _

theorem sendPacket_rest : { s.sendPacket core f count tid ofs bs with
    teams := s.teams, packets := s.packets, nextId := s.nextId } = s :=
  (congrArg (fun z : State => { z with packets := s.packets, nextId := s.nextId }) (storing_frame s count).1 :)

theorem sendPacket_stc (nodup : count.Nodup) {g : FibreId} (h : g ∈ count) :
    ((s.sendPacket core f count tid ofs bs).fibre g).stc = (s.fibre g).stc + 1 := by
  have one := State.modFibres_fibre s.newId.2 nodup (fun x => { x with stc := x.stc + 1 }) g
  rw [if_pos h] at one
  exact congrArg Fibre.stc one

end

theorem SameButFibres.packets {s t : State} (h : SameButFibres s t) : t.packets = s.packets :=
  (congrArg State.packets h.1 :)

theorem spadByte_congr {s t : State} {n : Nat} (spad : (t.team n).spad = (s.team n).spad)
    (gen : (t.team n).gen = (s.team n).gen) (a : Nat) : t.spadByte n a = s.spadByte n a := by
  unfold State.spadByte
  dsimp only
  rw [spad, gen]

theorem spadByte_fibres {s t : State} (h : SameButFibres s t) (n a : Nat) : t.spadByte n a = s.spadByte n a :=
  spadByte_congr (congrArg Team.spad (h.2 n) :) (congrArg Team.gen (h.2 n) :) a

/-- STX of one lane to another member sends one packet (06 R142; 23 R466). -/
theorem stx_sends {f : FibreId} {tid : Nat} (clear : s.Clear (.stx o) iss act) (free : Ungated s act)
    (nodup : (act.map (·.2)).Nodup)
    (check : s.galleryCheck iss o 0 (s.badLane iss (usesOf (.stx o))) (State.performers o act) = none)
    (alone : State.performers o act = [f]) (member : s.memberOf f (s.memberIdx iss f o) = .other tid) (far : tid ≠ f.team)
    (first : galleryBefore s iss o false [f] = []) :
    ∃ t p, exec (.stx o) s = .next t ∧ WentOn iss t ∧ t.packets.find s.nextId = some p ∧ p.src = f ∧ p.target = tid ∧
      p.tag = (s.team tid).tag ∧ p.offset = (s.effective iss f o false).toNat ∧
      p.data = leBytes (sizeBytes o) (s.dataFrom iss f o (State.dataNum o)) ∧
      p.count = counted o act f ∧ (∀ g ∈ counted o act f, (t.fibre g).stc = (s.fibre g).stc + 1) ∧
      { t with teams := s.teams, packets := s.packets, nextId := s.nextId } = s ∧
      ∀ n a, t.spadByte n a = s.spadByte n a := by
  have stores : stxStores s iss o [f] =
      [(f, tid, (s.effective iss f o false).toNat, leBytes (sizeBytes o) (s.dataFrom iss f o (State.dataNum o)))] := by
    unfold stxStores
    rw [List.map_singleton, member]
    rfl
  have sent : stxAll s iss.core (counted o act) (stxStores s iss o [f]) = s.sendPacket iss.core f (counted o act f) tid
      (s.effective iss f o false).toNat (leBytes (sizeBytes o) (s.dataFrom iss f o (State.dataNum o))) := by
    rw [stores]
    unfold stxAll
    exact if_pos (by simp [far])
  have single : (counted o act f).Nodup := by
    unfold counted
    split
    · exact nodup
    · exact List.nodup_singleton f
  generalize leBytes (sizeBytes o) (s.dataFrom iss f o (State.dataNum o)) = bs at sent ⊢
  generalize (s.effective iss f o false).toNat = ofs at sent ⊢
  have moved := State.advance_frame (s.sendPacket iss.core f (counted o act f) tid ofs bs) iss
  refine ⟨(s.sendPacket iss.core f (counted o act f) tid ofs bs).advance iss,
    sentPacket s iss.core f (counted o act f) tid ofs bs, ?_, State.advance_goes _ _, ?_, rfl, rfl, rfl, rfl, rfl, rfl,
    fun g hg => ?_, ?_, fun n a => ?_⟩
  · rw [stx_exec clear free, check]
    unfold stxChecked
    dsimp only
    rw [alone, first, fenced_ungated free fun g hg => mem_performers (o := o) (by rw [alone]; exact hg), sent]
    rfl
  · rw [moved.packets]
    exact KV.find_put _ _ _
  · rw [← sendPacket_stc s iss.core f _ tid ofs bs single hg]
    exact (congrArg Fibre.stc (State.advance_moved _ iss g) :)
  · have h := sendPacket_rest s iss.core f (counted o act f) tid ofs bs
    rw [← moved.1] at h
    exact h
  · rw [spadByte_fibres moved]
    exact spadByte_fibres (storing_frame s (counted o act f)) n a

end
end Sys2Proof.Machine
end

section
/-! The landing of a packet (06 R142; 07 R169; 09 R196; 12 R275, R276). -/

namespace Sys2Proof.Machine

/-- Bytes listed at rising offsets: what is then at an offset. -/
theorem putRun_getD (m : KV Byte) (ofs k : Nat) (bs : List Byte) (a : Nat) (d : Byte) :
    (((List.range' k bs.length).zip bs).foldl (fun m (x : Nat × Byte) => m.put (ofs + x.1) x.2) m).getD a d =
      if ofs + k ≤ a ∧ a < ofs + k + bs.length then bs.getD (a - (ofs + k)) d else m.getD a d := by
  induction bs generalizing m k with
  | nil => simp
  | cons b r ih =>
    rw [List.length_cons, List.range'_succ, List.zip_cons_cons, List.foldl_cons, ih]
    by_cases here : a = ofs + k
    · subst here
      rw [if_neg (by omega), if_pos (by omega)]
      simp [KV.getD]
    · have same : (m.put (ofs + k) b).getD a d = m.getD a d := by
        unfold KV.getD
        rw [KV.find_put_other _ here]
      by_cases later : ofs + (k + 1) ≤ a ∧ a < ofs + (k + 1) + r.length
      · rw [if_pos later, if_pos (by omega), show a - (ofs + k) = a - (ofs + (k + 1)) + 1 by omega, List.getD_cons_succ]
      · rw [if_neg later, if_neg (by omega), same]

namespace State

/-- A byte of a scratchpad after a write (06 R129). -/
theorem spadWrite_byte (s : State) (tid ofs : Nat) (bs : List Byte) (n a : Nat) : (s.spadWrite tid ofs bs).spadByte n a =
    if n = tid ∧ ofs ≤ a ∧ a < ofs + bs.length then bs.getD (a - ofs) 0 else s.spadByte n a := by
  by_cases there : n = tid
  · subst there
    unfold spadByte spadWrite
    rw [team_modTeam]
    simp only [List.range_eq_range']
    refine (putRun_getD _ ofs 0 bs a _).trans ?_
    by_cases within : ofs ≤ a ∧ a < ofs + bs.length
    · have hi : a - ofs < bs.length := by omega
      rw [if_pos (by simpa using within), if_pos ⟨trivial, within⟩]
      simp [List.getD, hi]
    · rw [if_neg (by simpa using within), if_neg fun h => within h.2]
      rfl
  · rw [if_neg fun h => there h.1]
    exact spadByte_congr (congrArg Team.spad (team_modTeam_other _ _ there)) (congrArg Team.gen (team_modTeam_other _ _ there)) a

theorem spadWrite_stc (s : State) (tid ofs : Nat) (bs : List Byte) (f : FibreId) :
    ((s.spadWrite tid ofs bs).fibre f).stc = (s.fibre f).stc := by
  have same : ((s.spadWrite tid ofs bs).team f.team).fibres = (s.team f.team).fibres :=
    team_modTeam_same _ tid (π := Team.fibres) (fun _ => by rfl) f.team
  unfold fibre
  rw [same]

/-- A packet under way is gone, and the fibres that counted it count one fewer (04 R93). -/
def arrived (s : State) (id : Nat) (p : Packet) : State :=
  ({ s with packets := s.packets.del id } : State).each p.count fun s f => s.modFibre f fun x => { x with stc := x.stc - 1 }

theorem arrived_frame (s : State) (id : Nat) (p : Packet) :
    SameButFibres { s with packets := s.packets.del id } (s.arrived id p) := modFibres_frame _ _ _

theorem arrived_team {β : Type} (s : State) (id : Nat) (p : Packet) {π : Team → β} (h : ∀ x l, π { x with fibres := l } = π x)
    (n : Nat) : π ((s.arrived id p).team n) = π (s.team n) :=
  (SameButResults.fibres (arrived_frame s id p)).team_same h n

theorem arrived_spadByte (s : State) (id : Nat) (p : Packet) (n a : Nat) : (s.arrived id p).spadByte n a = s.spadByte n a :=
  spadByte_fibres (arrived_frame s id p) n a

theorem arrived_stc (s : State) (id : Nat) {p : Packet} (nodup : p.count.Nodup) {f : FibreId} (h : f ∈ p.count) :
    ((s.arrived id p).fibre f).stc = (s.fibre f).stc - 1 := by
  have one := modFibres_fibre { s with packets := s.packets.del id } nodup (fun x => { x with stc := x.stc - 1 }) f
  rw [if_pos h] at one
  exact congrArg Fibre.stc one

/-- DROP of a team counts one packet more, up to 65,535 (09 R196). -/
def countDrop (t : Team) : Team := { t with cpDrop := min (t.cpDrop + 1) 65535 }

theorem landPacket_eq {s : State} {id : Nat} {p : Packet} (listed : s.packets.find id = some p) : s.landPacket id =
    if (s.team p.target).tag == p.tag && !(s.team p.target).ended then (s.arrived id p).spadWrite p.target p.offset p.data
    else (s.arrived id p).modTeam p.src.team countDrop := by
  have tag := s.arrived_team id p (π := Team.tag) (fun _ _ => rfl) p.target
  have ended := s.arrived_team id p (π := Team.ended) (fun _ _ => rfl) p.target
  rw [← tag, ← ended]
  unfold landPacket
  rw [listed]
  rfl

theorem landPacket_live {s : State} {id : Nat} {p : Packet} (listed : s.packets.find id = some p)
    (tag : (s.team p.target).tag = p.tag) (live : (s.team p.target).ended = false) :
    s.landPacket id = (s.arrived id p).spadWrite p.target p.offset p.data := by
  rw [landPacket_eq listed, if_pos (by simp [tag, live])]

theorem landPacket_stale {s : State} {id : Nat} {p : Packet} (listed : s.packets.find id = some p)
    (stale : (s.team p.target).tag ≠ p.tag ∨ (s.team p.target).ended = true) :
    s.landPacket id = (s.arrived id p).modTeam p.src.team countDrop := by
  rw [landPacket_eq listed, if_neg (by rcases stale with h | h <;> simp [h])]

end State

/-- STX_LANDING (06 R142; 07 R169; 09 R196; 12 R275, R276). -/
theorem packetLanding : Claims.PacketLanding := by
  intro s id p listed nodup first
  have run : exec (.stxLanding id) s = .next (s.landPacket id) := by
    show execStxLanding id s = _
    unfold execStxLanding
    rw [listed]
    dsimp only
    rw [first]
    rfl
  refine ⟨s.landPacket id, run, fun f hf => ?_, fun tag live => ?_, fun stale => ?_⟩
  · rw [← s.arrived_stc id nodup hf]
    by_cases h : (s.team p.target).tag = p.tag ∧ (s.team p.target).ended = false
    · rw [State.landPacket_live listed h.1 h.2]
      exact State.spadWrite_stc _ _ _ _ f
    · rw [State.landPacket_stale listed (by simpa [Classical.or_iff_not_imp_left] using h)]
      unfold State.fibre
      rw [State.team_modTeam_same (f := State.countDrop) (π := Team.fibres) _ _ (fun _ => rfl)]
  · rw [State.landPacket_live listed tag live]
    refine ⟨fun i h => ?_, fun n a h => ?_⟩
    · rw [State.spadWrite_byte, if_pos (by omega)]
      simp [h]
    · rw [State.spadWrite_byte, if_neg (by omega), State.arrived_spadByte]
  · rw [State.landPacket_stale listed stale]
    refine ⟨?_, fun n a => ?_⟩
    · rw [State.team_modTeam, ← s.arrived_team id p (π := Team.cpDrop) (fun _ _ => rfl)]; rfl
    · rw [← s.arrived_spadByte id p]
      exact spadByte_congr (State.team_modTeam_same _ _ (f := State.countDrop) (π := Team.spad) (fun _ => rfl) n)
        (State.team_modTeam_same _ _ (f := State.countDrop) (π := Team.gen) (fun _ => rfl) n) a

/-- Settles O28: the checks of both instructions in their order, what each lane's LDX lists, the one packet of an STX, and its
landing. -/
theorem galleryAccessesAndPackets : Obligations.GalleryAccessesAndPackets :=
  ⟨⟨fun _ _ _ _ clear free check _ first sorted => ldx_lists clear free check first sorted,
    fun _ _ _ _ _ _ clear free nodup check alone member far first =>
      stx_sends clear free nodup check alone member far first⟩, galleryFaults, packetLanding⟩

end Sys2Proof.Machine
end

section
/-! What a graph's walker reads and writes (03 R73 to R75; log 20). -/

namespace Sys2Proof.Machine

theorem SameButMemory.graphs {s t : State} (h : SameButMemory s t) : t.graphs = s.graphs := (congrArg State.graphs h.rest :)

namespace State

variable (s : State)

theorem nodeAt_hbm (g n : Nat) : KeepsHbm s (s.nodeAt g n).1 := by
  have h := readRaw_hbm s (s.graphs.getD g { ctx := 0, hdr := 0 }).ctx
    ((s.graphs.getD g { ctx := 0, hdr := 0 }).hdr + 64 * (n + 1)) 32
  unfold nodeAt
  dsimp only
  split
  · next e => rw [e] at h; exact h
  · next e => rw [e] at h; exact h

theorem graphWrite_hbm (ctx va : Nat) (bs : List Byte) : KeepsHbm s (s.graphWrite ctx va bs).1 := by
  have h := translateRaw_hbm s ctx va .write true
  unfold graphWrite
  split
  · next e => rw [e] at h; exact h.trans (homeWrite_hbm _ _ bs)
  all_goals next e => rw [e] at h; exact h

theorem resetNodes_hbm (g : Nat) (x : Graph) (k n : Nat) : KeepsHbm s (s.resetNodes g x k n).1 := by
  induction k generalizing s n with
  | zero => exact .refl s
  | succ k ih =>
    have node := nodeAt_hbm s g n
    unfold resetNodes
    split
    · next e => rw [e] at node; exact node
    · next u dw e =>
      rw [e] at node
      dsimp only
      split
      · have write := graphWrite_hbm u x.ctx (x.hdr + 64 * (n + 1) + 28)
          (leBytes 4 (if bits (dw.getD 0 0) 2 0 == 1 then bits (dw.getD 3 0) 31 0 else 0))
        split
        · next e' => rw [e'] at write; exact node.trans (write.trans (ih _ _))
        · next e' => rw [e'] at write; exact node.trans write
      · exact node.trans (ih _ _)

variable {s}

theorem graphs_getD {g : Nat} {x : Graph} (listed : s.graphs.find g = some x) (d : Graph) : s.graphs.getD g d = x := by
  unfold KV.getD
  rw [listed]
  rfl

/-- Nodes of a graph without an error are activated where each is one of its own (03 R75). -/
theorem activate_find {g : Nat} {x : Graph} {nodes : List Nat} (listed : s.graphs.find g = some x) (sound : x.err = none)
    (within : ∀ n ∈ nodes, n < x.nnode) :
    (s.activate g nodes).graphs.find g = some { x with acts := x.acts ++ nodes } := by
  refine (KV.find_upd _ listed).trans (congrArg some ?_)
  rw [if_neg (by simp [sound]), if_neg]
  intro beyond
  obtain ⟨n, hn, far⟩ := List.any_eq_true.1 beyond
  have near := within n hn
  simp only [decide_eq_true_eq] at far
  omega

/-- A graph's first error ends its activations (03 R77). -/
theorem graphError_find {g : Nat} {x : Graph} (listed : s.graphs.find g = some x) (sound : x.err = none) (c d : Nat) :
    (s.graphError g c d).graphs.find g = some { x with err := some (c, d), acts := [] } :=
  (KV.find_upd _ listed).trans (congrArg some (if_neg (by simp [sound])))

theorem activated_find {g : Nat} {x : Graph} (listed : s.graphs.find g = some x) :
    (s.activated g).graphs.find g = some { x with acts := x.acts.tail } := KV.find_upd _ listed

/-- The activation at a graph's head that is made has left the graph as it was, and its node is sound (03 R74, R77). -/
theorem activation_ok {s1 : State} {g n : Nat} {x : Graph} {dw : List Nat} (listed : s.graphs.find g = some x)
    (h : s.activation g n = some (s1, .ok dw)) :
    KeepsHbm s s1 ∧ x.err = none ∧ (2 ≤ bits (dw.getD 0 0) 2 0 → bits (dw.getD 0 0) 5 3 = 2) := by
  have node := nodeAt_hbm s g n
  unfold activation at h
  rw [listed] at h
  dsimp only at h
  split at h
  · cases h
  · next free =>
    have sound : x.err = none := by
      cases e : x.err with
      | none => rfl
      | some c => exact absurd (by simp [e]) free
    split at h
    · cases h
    · next u l e =>
      rw [e] at node
      split at h
      · cases h
      · next legal =>
        cases h
        refine ⟨node, sound, fun two => ?_⟩
        by_contra other
        exact legal (by simp only [Bool.or_eq_true, Bool.and_eq_true, decide_eq_true_eq, bne_iff_ne]; exact .inr ⟨two, other⟩)

end State
end Sys2Proof.Machine
end

section
/-! The activations of a launch graph (03 R74, R75, R77). -/

namespace Sys2Proof.Machine

theorem length_successors (dw : List Nat) : (State.successors dw).length = bits (dw.getD 0 0) 5 3 := by
  simp [State.successors]

theorem getD_mem {l : List Nat} {i : Nat} (h : i < l.length) : l.getD i 0 ∈ l := by
  simp [List.getD, h]

section
variable {s s1 : State} {g n : Nat} {x : Graph} {dw : List Nat}

/-- The node's activation is made, with what the walker has read and written of memory. -/
theorem activated_after {s2 : State} (listed : s.graphs.find g = some x) (frame : SameButMemory s s2) :
    (s2.activated g).graphs.find g = some { x with acts := x.acts.tail } :=
  State.activated_find (by rw [frame.graphs]; exact listed)

/-- The activation is made and successors are activated in its place. -/
theorem activate_after {s2 : State} {nodes : List Nat} (listed : s.graphs.find g = some x) (frame : SameButMemory s s2)
    (sound : x.err = none) (within : ∀ n ∈ nodes, n < x.nnode) :
    ((s2.activated g).activate g nodes).graphs.find g = some { x with acts := x.acts.tail ++ nodes } :=
  State.activate_find (activated_after listed frame) sound within

/-- A join counts its PEND down, and at 0 activates its successors (03 R75). -/
theorem joinActivation_answers {s2 : State} (listed : s.graphs.find g = some x) (made : s.activation g n = some (s1, .ok dw))
    (within : ∀ n ∈ State.successors dw, n < x.nnode) (kind : bits (dw.getD 0 0) 2 0 = 1)
    (write : s1.graphWrite x.ctx (x.hdr + 64 * (n + 1) + 28) (leBytes 4
      (if (bits (dw.getD 3 0) 63 32 + 2 ^ 32 - 1) % 2 ^ 32 = 0 then bits (dw.getD 3 0) 31 0
        else (bits (dw.getD 3 0) 63 32 + 2 ^ 32 - 1) % 2 ^ 32)) = (s2, .ok ())) :
    Answers (.joinActivation g n) s fun t =>
      t.graphs.find g = some { x with acts := x.acts.tail ++
        (if (bits (dw.getD 3 0) 63 32 + 2 ^ 32 - 1) % 2 ^ 32 = 0 then State.successors dw else []) } ∧
      { t with graphs := s2.graphs } = s2 := by
  obtain ⟨read, sound, -⟩ := State.activation_ok listed made
  have wrote := State.graphWrite_hbm s1 x.ctx (x.hdr + 64 * (n + 1) + 28) (leBytes 4
      (if (bits (dw.getD 3 0) 63 32 + 2 ^ 32 - 1) % 2 ^ 32 = 0 then bits (dw.getD 3 0) 31 0
        else (bits (dw.getD 3 0) 63 32 + 2 ^ 32 - 1) % 2 ^ 32))
  rw [write] at wrote
  have frame := read.frame.trans wrote.frame
  have listed1 : s1.graphs.find g = some x := by rw [read.frame.graphs]; exact listed
  generalize hp : (bits (dw.getD 3 0) 63 32 + 2 ^ 32 - 1) % 2 ^ 32 = p at write ⊢
  have run : exec (.joinActivation g n) s =
      .next (if p = 0 then (s2.activated g).activate g (State.successors dw) else s2.activated g) := by
    show execJoinActivation g n s = _
    unfold execJoinActivation
    rw [made]
    dsimp only
    rw [State.graphs_getD listed1, kind, hp, if_neg (by decide)]
    simp only [beq_iff_eq]
    rw [write]
  by_cases zero : p = 0
  · rw [if_pos zero] at run ⊢
    exact ⟨_, run, activate_after listed frame sound within, rfl⟩
  · rw [if_neg zero] at run ⊢
    exact ⟨_, run, by rw [List.append_nil]; exact activated_after listed frame, rfl⟩

/-- A conditional node goes by its condition word (03 R75). -/
theorem conditionalActivation_answers {s2 : State} {bs : List Byte} (listed : s.graphs.find g = some x)
    (made : s.activation g n = some (s1, .ok dw)) (within : ∀ n ∈ State.successors dw, n < x.nnode)
    (kind : bits (dw.getD 0 0) 2 0 = 2) (word : s1.readRaw x.ctx (bits (dw.getD 2 0) 47 0) 8 = (s2, .ok bs)) :
    Answers (.conditionalActivation g n) s fun t =>
      t.graphs.find g = some { x with acts := x.acts.tail ++ [(State.successors dw).getD (if leNat bs ≠ 0 then 0 else 1) 0] } ∧
      { t with graphs := s2.graphs } = s2 := by
  obtain ⟨read, sound, two⟩ := State.activation_ok listed made
  have seen := State.readRaw_hbm s1 x.ctx (bits (dw.getD 2 0) 47 0) 8
  rw [word] at seen
  have listed1 : s1.graphs.find g = some x := by rw [read.frame.graphs]; exact listed
  refine ⟨(s2.activated g).activate g [(State.successors dw).getD (if leNat bs ≠ 0 then 0 else 1) 0], ?_,
    activate_after listed (read.frame.trans seen.frame) sound fun m hm => ?_, rfl⟩
  · show execConditionalActivation g n s = _
    unfold execConditionalActivation
    rw [made]
    dsimp only
    rw [State.graphs_getD listed1, kind, if_neg (by decide), word]
    simp only [bne_iff_ne]
  · rw [List.mem_singleton.1 hm]
    refine within _ (getD_mem ?_)
    rw [length_successors, two (by omega)]
    split <;> omega

/-- A while node goes by its condition word and its limit (03 R75). -/
theorem whileActivation_answers {s2 s3 : State} {bs : List Byte} {more : Prop} [Decidable more]
    (listed : s.graphs.find g = some x) (made : s.activation g n = some (s1, .ok dw))
    (within : ∀ n ∈ State.successors dw, n < x.nnode) (kind : bits (dw.getD 0 0) 2 0 = 3)
    (word : s1.readRaw x.ctx (bits (dw.getD 2 0) 47 0) 8 = (s2, .ok bs))
    (means : more ↔ leNat bs ≠ 0 ∧ (bits (dw.getD 3 0) 31 0 = 0 ∨
      (bits (dw.getD 3 0) 63 32 + 1) % 2 ^ 32 ≤ bits (dw.getD 3 0) 31 0))
    (write : s2.graphWrite x.ctx (x.hdr + 64 * (n + 1) + 28)
      (leBytes 4 (if more then (bits (dw.getD 3 0) 63 32 + 1) % 2 ^ 32 else 0)) = (s3, .ok ())) :
    Answers (.whileActivation g n) s fun t =>
      t.graphs.find g = some { x with acts := x.acts.tail ++ [(State.successors dw).getD (if more then 0 else 1) 0] } ∧
      { t with graphs := s3.graphs } = s3 := by
  obtain ⟨read, sound, two⟩ := State.activation_ok listed made
  have seen := State.readRaw_hbm s1 x.ctx (bits (dw.getD 2 0) 47 0) 8
  rw [word] at seen
  have wrote := State.graphWrite_hbm s2 x.ctx (x.hdr + 64 * (n + 1) + 28)
    (leBytes 4 (if more then (bits (dw.getD 3 0) 63 32 + 1) % 2 ^ 32 else 0))
  rw [write] at wrote
  have listed1 : s1.graphs.find g = some x := by rw [read.frame.graphs]; exact listed
  have same : ((leNat bs != 0 && (bits (dw.getD 3 0) 31 0 == 0 ||
      decide ((bits (dw.getD 3 0) 63 32 + 1) % 2 ^ 32 ≤ bits (dw.getD 3 0) 31 0))) = true) ↔ more := by
    rw [means]
    simp
  refine ⟨(s3.activated g).activate g [(State.successors dw).getD (if more then 0 else 1) 0], ?_,
    activate_after listed ((read.frame.trans seen.frame).trans wrote.frame) sound fun m hm => ?_, rfl⟩
  · show execWhileActivation g n s = _
    unfold execWhileActivation
    rw [made]
    dsimp only
    rw [State.graphs_getD listed1, kind, if_neg (by decide), word]
    simp only [same]
    rw [write]
  · rw [List.mem_singleton.1 hm]
    refine within _ (getD_mem ?_)
    rw [length_successors, two (by omega)]
    split <;> omega

end

/-! A launch node's record as a new launch. -/

namespace State

/-- The outcome of a record's checks is not a graph's start. -/
def NoGraph (r : State × Prep) : Prop := r.2 ≠ .graph

theorem NoGraph.ite {c : Prop} [Decidable c] {a b : State × Prep} (ha : NoGraph a) (hb : NoGraph b) :
    NoGraph (if c then a else b) := by
  split
  · exact ha
  · exact hb

theorem readFail_noGraph (s : State) (e : Nat × Bool) : NoGraph (s, readFail e) := by
  unfold NoGraph readFail
  dsimp only
  split <;> exact nofun

theorem prepareRest_noGraph (s : State) (ctx : Nat) (l : List Dword) (hdr : Nat) (place : List Nat) :
    NoGraph (s.prepareRest ctx l hdr place) := by
  unfold prepareRest
  dsimp only
  refine .ite nofun ?_
  split
  · exact readFail_noGraph _ _
  · split
    · exact nofun
    · refine .ite nofun (.ite nofun (.ite nofun (.ite nofun (.ite nofun (.ite nofun ?_)))))
      split
      · exact readFail_noGraph _ _
      · exact nofun

/-- Only a graph's record starts a graph (03 R73). -/
theorem prepare_noGraph (s : State) (ctx : Nat) {l : List Dword} (ver : recVer l ≠ 15) : NoGraph (s.prepare ctx l) := by
  unfold prepare
  dsimp only
  rw [if_neg (by simpa using ver)]
  refine .ite nofun (.ite nofun (.ite nofun (.ite nofun (.ite nofun ?_))))
  split
  · exact readFail_noGraph _ _
  · split
    · exact readFail_noGraph _ _
    · split
      · exact nofun
      · exact .ite nofun (.ite nofun (prepareRest_noGraph _ _ _ _ _))

theorem prepareLaunch_graphs (s : State) {key : Nat} (ver : recVer (s.launch key).words ≠ 15) :
    (s.prepareLaunch key).graphs = s.graphs := by
  have reads := (prepare_hbm s (s.launch key).ctx (s.launch key).words).frame.graphs
  have other := prepare_noGraph s (s.launch key).ctx ver
  unfold prepareLaunch
  dsimp only
  split
  · next e => rw [e] at reads; exact reads
  · next e => rw [e] at reads; exact reads
  · next e => rw [e] at other; exact absurd rfl other
  · next e => rw [e] at reads; exact reads

/-- The launch that a node's record becomes (03 R57, R75). -/
def nodeLaunch (s : State) (die c p : Nat) (words : List Dword) (g n : Nat) (succs : List Nat) : Launch :=
  { s.dispatched die c p words with graph := some (g, n), succs := succs }

/-- A machine in which a node's launch is listed. -/
def nodeListing (s : State) (die e c p : Nat) (words : List Dword) (g n : Nat) (succs : List Nat) : State :=
  { s with
    nextId := s.nextId + 1
    launches := s.launches.put (die * 16384 + e) (s.nodeLaunch die c p words g n succs)
    taken := s.taken.put die (s.taken.getD die 0 + 1) }

theorem takeRecord_node (s : State) (die e c p : Nat) (words : List Dword) (g n : Nat) (succs : List Nat) :
    s.takeRecord die e c p words (some (g, n)) succs =
      (s.nodeListing die e c p words g n succs).prepareLaunch (die * 16384 + e) := rfl

end State

/-- A checked launch keeps the node that activated it and its successors. -/
theorem Launch.checked_node {l x : Launch} (h : l.checked x) : x.graph = l.graph ∧ x.succs = l.succs := by
  unfold Launch.checked at h
  rw [← h]
  exact ⟨rfl, rfl⟩

/-- A launch node takes its record as a new launch (03 R75). -/
theorem launchNodeActivation_answers {s s1 s2 : State} {g n e : Nat} {x : Graph} {dw : List Nat} {bs : List Byte}
    (listed : s.graphs.find g = some x) (made : s.activation g n = some (s1, .ok dw)) (kind : bits (dw.getD 0 0) 2 0 = 0)
    (record : s1.readRaw x.ctx (bits (dw.getD 2 0) 47 0) 128 = (s2, .ok bs)) (ver : recVer (dwordsOf bs) ≠ 15)
    (free : s2.freeEntry (homeDie x.pa) = some e) :
    Answers (.launchNodeActivation g n) s fun t =>
      t.graphs.find g = some { x with acts := x.acts.tail, out := x.out + 1, made := x.made + 1 } ∧
      ∃ l, t.launches.find (homeDie x.pa * 16384 + e) = some l ∧ l.graph = some (g, n) ∧ l.succs = State.successors dw ∧
        l.ctx = x.ctx ∧ l.prio = x.prio ∧ l.words = dwordsOf bs := by
  obtain ⟨read, -, -⟩ := State.activation_ok listed made
  have seen := State.readRaw_hbm s1 x.ctx (bits (dw.getD 2 0) 47 0) 128
  rw [record] at seen
  have listed1 : s1.graphs.find g = some x := by rw [read.frame.graphs]; exact listed
  generalize hu : ({ s2.activated g with graphs := (s2.activated g).graphs.upd g fun x => { x with
    out := x.out + 1, made := x.made + 1 } } : State) = u
  have counted : u.graphs.find g = some { x with acts := x.acts.tail, out := x.out + 1, made := x.made + 1 } := by
    rw [← hu]
    exact KV.find_upd _ (activated_after listed (read.frame.trans seen.frame))
  generalize hv : u.nodeListing (homeDie x.pa) e x.ctx x.prio (dwordsOf bs) g n (State.successors dw) = v
  have there : v.launches.find (homeDie x.pa * 16384 + e) =
      some (u.nodeLaunch (homeDie x.pa) x.ctx x.prio (dwordsOf bs) g n (State.successors dw)) := by
    rw [← hv]
    exact KV.find_put _ _ _
  obtain ⟨⟨l, found, checked⟩, -, -⟩ := State.prepareLaunch_launch there
  obtain ⟨hctx, hprio, hwords, -, -⟩ := Launch.checked_keeps checked
  obtain ⟨hgraph, hsuccs⟩ := Launch.checked_node checked
  refine ⟨v.prepareLaunch (homeDie x.pa * 16384 + e), ?_, ?_, l, found, hgraph, hsuccs, hctx, hprio, hwords⟩
  · show execLaunchNodeActivation g n s = _
    unfold execLaunchNodeActivation
    rw [made]
    dsimp only
    rw [State.graphs_getD listed1, kind, if_neg (by decide), record]
    dsimp only
    rw [if_neg (by simpa using ver), free]
    dsimp only
    rw [hu, State.takeRecord_node, hv]
  · rw [State.prepareLaunch_graphs v (by rw [State.launch_of_find there]; exact ver), ← hv]
    exact counted

namespace State

/-- A node's launch leaves its entry, and its graph has one launch fewer under way (03 R67, R75). -/
def leaves (s : State) (key g : Nat) (l : Launch) : State :=
  let s := s.modLaunch l.parent fun p => { p with children := p.children - 1 }
  { s with
    launches := s.launches.del key
    graphs := (s.graphs.del key).upd g fun x => { x with out := x.out - 1 }
    teams := s.teams.filter fun x => x.2.launch != key
    flights := s.flights.filter fun x => x.2.launch != key
    creditFlights := s.creditFlights.filter fun x => x.2.1 != key }

theorem finishLaunch_node {s : State} {key g n : Nat} {l : Launch} (listed : s.launches.find key = some l)
    (node : l.graph = some (g, n)) : s.finishLaunch key =
      if l.err then (s.leaves key g l).graphError g l.cause l.detail else (s.leaves key g l).activate g l.succs := by
  unfold finishLaunch
  rw [launch_of_find listed]
  dsimp only
  unfold nodeDone
  rw [node]
  rfl

theorem leaves_graph {s : State} {key g : Nat} {x : Graph} (l : Launch) (listed : s.graphs.find g = some x)
    (apart : g ≠ key) : (s.leaves key g l).graphs.find g = some { x with out := x.out - 1 } :=
  KV.find_upd _ ((KV.find_del_other _ apart).trans listed)

theorem leaves_launch {s : State} (key g : Nat) (l : Launch) (sorted : KV.sorted s.launches = true) :
    (s.leaves key g l).launches.find key = none := KV.find_del (KV.sorted_upd _ _ sorted)

end State

/-- The launch of a node completes: its graph goes on, or takes its error (03 R75, R77; log 20). -/
theorem nodeCompletion_answers {s : State} {key g n : Nat} {l : Launch} {x : Graph} (listed : s.launches.find key = some l)
    (sorted : KV.sorted s.launches = true) (isOver : s.launchOver key = true) (released : s.launchReleased key = true)
    (alone : s.graphs.find key = none) (node : l.graph = some (g, n)) (graph : s.graphs.find g = some x)
    (sound : x.err = none) :
    Answers (.launchCompletion key) s fun t => t.launches.find key = none ∧ t.mem = s.mem ∧
      (l.err = true → t.graphs.find g = some { x with out := x.out - 1, err := some (l.cause, l.detail), acts := [] }) ∧
      (l.err = false → (∀ n ∈ l.succs, n < x.nnode) →
        t.graphs.find g = some { x with out := x.out - 1, acts := x.acts ++ l.succs }) := by
  have apart : g ≠ key := by rintro rfl; rw [graph] at alone; cases alone
  generalize hu : (s.modLaunch key fun l => { l with phase := 2 }) = u
  have listed' : u.launches.find key = some { l with phase := 2 } := by rw [← hu]; exact State.modLaunch_find _ listed
  have sorted' : KV.sorted u.launches = true := by rw [← hu]; exact KV.sorted_upd _ _ sorted
  have graph' : u.graphs.find g = some x := by rw [← hu]; exact graph
  have report : u.makeReport key = (u.finishLaunch key, true) := by
    unfold State.makeReport
    rw [State.launch_of_find listed']
    dsimp only
    rw [if_pos (by simp [node])]
  refine ⟨u.finishLaunch key, ?_, ?_⟩
  · rw [launchCompletion_exec (by rw [listed]; rfl) isOver released alone, hu, report]
  · have gone := State.leaves_launch key g { l with phase := 2 } sorted'
    have fewer := State.leaves_graph { l with phase := 2 } graph' apart
    have mem : (u.leaves key g { l with phase := 2 }).mem = s.mem := by rw [← hu]; rfl
    rw [State.finishLaunch_node listed' node]
    by_cases err : l.err = true
    · rw [if_pos err]
      exact ⟨gone, mem, fun _ => State.graphError_find fewer sound _ _, fun h => by rw [err] at h; cases h⟩
    · rw [if_neg err]
      exact ⟨gone, mem, fun h => absurd h err, fun _ within => State.activate_find fewer sound within⟩

/-- The activations of a launch graph, and the completion of a node's launch (03 R74, R75, R77). -/
theorem graphActivations : Claims.GraphActivations := by
  refine ⟨?_, fun s key g n l x listed sorted => nodeCompletion_answers listed sorted⟩
  intro s s1 g n x dw listed made kind next goes within
  refine ⟨?_, fun s2 bs => conditionalActivation_answers listed made within, ?_,
    fun s2 bs e => launchNodeActivation_answers listed made⟩
  · intro s2 join p write
    exact joinActivation_answers listed made within join write
  · intro s2 s3 bs loop word p more
    refine ⟨fun go write => ?_, fun stop write => ?_⟩
    · have done := whileActivation_answers (more := True) listed made within loop word (iff_of_true trivial go)
        (by rw [if_pos trivial]; exact write)
      rwa [if_pos trivial] at done
    · have done := whileActivation_answers (more := False) listed made within loop word (iff_of_false not_false stop)
        (by rw [if_neg not_false]; exact write)
      rwa [if_neg not_false] at done

end Sys2Proof.Machine
end

section
/-! Reads and writes at the home where no core owns a word (06 R132, R135, R140). -/

namespace Sys2Proof.Machine

theorem leNat_append (l r : List Byte) : leNat (l ++ r) = leNat l + 256 ^ l.length * leNat r := by
  induction l with
  | nil => simp [leNat]
  | cons b l ih =>
    rw [List.cons_append, leNat, leNat, ih, List.length_cons, pow_succ]
    ring

theorem leNat_lt (l : List Byte) : leNat l < 256 ^ l.length := by
  induction l with
  | nil => simp [leNat]
  | cons b l ih =>
    have := b.isLt
    rw [leNat, List.length_cons, pow_succ]
    omega

namespace State

variable {s t : State}

@[simp] theorem length_homeBytes (s : State) (pa n : Nat) : (s.homeBytes pa n).length = n := by simp [homeBytes]

theorem homeBytes_append (s : State) (pa n m : Nat) :
    s.homeBytes pa (n + m) = s.homeBytes pa n ++ s.homeBytes (pa + n) m := by
  unfold homeBytes upto
  rw [List.range_add, List.map_append, List.map_map]
  exact congrArg _ (List.map_congr_left fun i _ => by simp [Nat.add_assoc])

theorem homeBytes_congr {pa n : Nat} (h : ∀ i < n, t.homeByte (pa + i) = s.homeByte (pa + i)) :
    t.homeBytes pa n = s.homeBytes pa n :=
  List.map_congr_left fun i hi => h i (List.mem_range.1 hi)

/-- A part of a run of bytes. -/
theorem homeBytes_part (s : State) {pa n k m : Nat} (h : k + m ≤ n) :
    ((s.homeBytes pa n).drop k).take m = s.homeBytes (pa + k) m := by
  obtain ⟨r, rfl⟩ := Nat.exists_eq_add_of_le h
  rw [Nat.add_assoc, homeBytes_append, List.drop_left' (length_homeBytes s pa k), homeBytes_append,
    List.take_left' (length_homeBytes s (pa + k) m)]

/-- The low half of a doubleword. -/
theorem bits_homeBytes (s : State) (pa : Nat) : bits (leNat (s.homeBytes pa 8)) 31 0 = leNat (s.homeBytes pa 4) := by
  have small := leNat_lt (s.homeBytes pa 4)
  rw [length_homeBytes] at small
  rw [show (8 : Nat) = 4 + 4 from rfl, homeBytes_append, leNat_append, length_homeBytes]
  unfold bits
  omega

/-- The doublewords of a run of bytes at the home. -/
theorem dword_homeBytes (s : State) {pa n j : Nat} (h : 8 * j + 8 ≤ 8 * n) :
    ((dwordsOf (s.homeBytes pa (8 * n))).map (·.toNat)).getD j 0 = leNat (s.homeBytes (pa + 8 * j) 8) := by
  have small := leNat_lt (s.homeBytes (pa + 8 * j) 8)
  rw [length_homeBytes] at small
  have hj : j < n := by omega
  simp only [dwordsOf, length_homeBytes, List.map_map, List.getD_eq_getElem?_getD, List.getElem?_map]
  rw [Nat.mul_div_cancel_left n (by decide), List.getElem?_range hj]
  simp only [Option.map_some, Option.getD_some, Function.comp_apply, BitVec.toNat_ofNat]
  rw [homeBytes_part s h]
  exact Nat.mod_eq_of_lt small

theorem homeByte_unowned (h : s.owners = []) (a : Nat) : s.homeByte a = s.sliceByte a := by
  unfold homeByte
  rw [h]
  rfl

theorem sliceByte_congr (l2 : ∀ a, t.l2.find a = s.l2.find a) (mem : t.mem = s.mem) (a : Nat) :
    t.sliceByte a = s.sliceByte a := by
  unfold sliceByte
  rw [l2, mem]

theorem withdraw_unowned (h : s.owners = []) (w : Nat) : s.withdraw w = s := by
  unfold withdraw
  rw [h]
  rfl

theorem slicePut_find_other (s : State) {pa a : Nat} {bs : List Byte} (h : a < pa ∨ pa + bs.length ≤ a) :
    (s.slicePut pa bs).l2.find a = s.l2.find a := by
  have put : (s.putBytes pa ((upto bs.length).zip bs)).l2.find a = s.l2.find a := by
    have near : ∀ x ∈ (upto bs.length).zip bs, x.1 < bs.length := fun x hx => List.mem_range.1 (List.of_mem_zip hx).1
    generalize (upto bs.length).zip bs = l at near
    induction l generalizing s with
    | nil => rfl
    | cons x l ih =>
      have hx := near x List.mem_cons_self
      exact (ih _ fun y hy => near y (List.mem_cons_of_mem _ hy)).trans (KV.find_put_other _ (by omega))
  exact (congrArg (KV.find · a) (each_same (g := State.l2) (f := l2Touch) _ fun _ _ => rfl)).trans put

/-- The home before the bytes of a write are put in order, where no core owns a word: only guest copies and errors go. -/
theorem homeWrite_unowned (h : s.owners = []) (pa : Nat) (bs : List Byte) : ∃ u : State, s.homeWrite pa bs = u.slicePut pa bs ∧
    u.owners = [] ∧ u.l2 = s.l2 ∧ u.mem = s.mem ∧ u.spread = s.spread ∧ u.contexts = s.contexts ∧
    (s.badMem = [] → u.badMem = []) := by
  have dropped := each_keeps (l := wordsOf pa bs.length) (f := fun s w => (s.withdraw w).dropGuests (w / 16))
    (P := fun u => u.owners = [] ∧ u.l2 = s.l2 ∧ u.mem = s.mem ∧ u.spread = s.spread ∧ u.contexts = s.contexts ∧
      u.badMem = s.badMem) ⟨h, rfl, rfl, rfl, rfl, rfl⟩ fun u w k => by rw [withdraw_unowned k.1]; exact k
  obtain ⟨owners, l2, mem, spread, contexts, badMem⟩ := dropped
  refine ⟨_, rfl, ?_⟩
  unfold repair
  split
  · exact ⟨owners, l2, mem, spread, contexts, fun e => badMem.trans e⟩
  · exact ⟨owners, l2, mem, spread, contexts, fun e => by rw [badMem, e]; rfl⟩

theorem slicePut_rest (s : State) (pa : Nat) (bs : List Byte) : (s.slicePut pa bs).spread = s.spread ∧
    (s.slicePut pa bs).contexts = s.contexts ∧ (s.slicePut pa bs).badMem = s.badMem := by
  unfold slicePut
  refine each_keeps (P := fun u : State => u.spread = s.spread ∧ u.contexts = s.contexts ∧ u.badMem = s.badMem)
    (f := l2Touch) ?_ fun _ _ k => k
  exact each_keeps (P := fun u : State => u.spread = s.spread ∧ u.contexts = s.contexts ∧ u.badMem = s.badMem)
    ⟨rfl, rfl, rfl⟩ fun _ _ k => k

/-- What a write at the home makes a read there return, where no core owns a word (06 R132, R140). -/
theorem homeWrite_homeByte (h : s.owners = []) (pa : Nat) (bs : List Byte) :
    (∀ i b, bs[i]? = some b → (s.homeWrite pa bs).homeByte (pa + i) = b) ∧
      ∀ a, (a < pa ∨ pa + bs.length ≤ a) → (s.homeWrite pa bs).homeByte a = s.homeByte a := by
  obtain ⟨u, e, owners, l2, mem, -⟩ := homeWrite_unowned h pa bs
  have free : (u.slicePut pa bs).owners = [] := (owners_slicePut u pa bs).trans owners
  rw [e]
  refine ⟨fun i b hb => ?_, fun a ha => ?_⟩
  · rw [homeByte_unowned free]
    unfold sliceByte
    rw [slicePut_find u pa hb]
  · rw [homeByte_unowned free, homeByte_unowned h]
    unfold sliceByte
    rw [slicePut_find_other u ha, l2, mem_slicePut, mem]

/-- A read within one page (03 R58). -/
theorem readRaw_page {s1 : State} {ctx va n pa : Nat} (within : va % 65536 + n ≤ 65536) (some' : 0 < n)
    (place : s.translateRaw ctx va .read false = (s1, .ok pa)) (good : s1.badMem = []) :
    s.readRaw ctx va n = (s1, .ok (s1.homeBytes pa n)) := by
  obtain ⟨k, rfl⟩ := Nat.exists_eq_succ_of_ne_zero (Nat.ne_of_gt some')
  have page : pagesOf (k + 1) va (k + 1) = [(va, k + 1)] := by
    show (va, min (k + 1) (65536 - va % 65536)) :: pagesOf k _ (k + 1 - min (k + 1) (65536 - va % 65536)) = _
    rw [Nat.min_eq_left (by omega), Nat.sub_self]
    cases k <;> rfl
  have sound : s1.eccBad pa (k + 1) = false := by simp [eccBad, good]
  unfold readRaw
  rw [page]
  unfold readRaw.go
  rw [place]
  dsimp only
  rw [sound, if_neg (by decide)]
  unfold readRaw.go
  simp

end State
end Sys2Proof.Machine
end

section
/-! The start of a graph's run (03 R73 to R75). -/

namespace Sys2Proof.Machine

/-- The PEND word that the start of a run sets in the node at a physical address: N in a join, 0 in a while node (03 R75). -/
def pendOf (s : State) (a : Nat) : Option Nat :=
  if bits (leNat (s.homeBytes a 8)) 2 0 = 1 then some (bits (leNat (s.homeBytes (a + 24) 8)) 31 0)
  else if bits (leNat (s.homeBytes a 8)) 2 0 = 3 then some 0
  else none

/-- The PEND word at an address lies outside those of the nodes that have one. -/
def Outside (s : State) (at' : Nat → Nat) (n k a : Nat) : Prop :=
  ∀ m, n ≤ m → m < n + k → (pendOf s (at' m)).isSome = true → a < at' m + 28 ∨ at' m + 32 ≤ a

/-- What setting PEND in the nodes from one number on makes of the home's bytes (03 R75). -/
structure ResetFrom (s : State) (at' : Nat → Nat) (n k : Nat) (u v : State) : Prop where
  holds : ∀ m, n ≤ m → m < n + k → ∀ p, pendOf s (at' m) = some p → ∀ i < 4,
    v.homeByte (at' m + 28 + i) = BitVec.ofNat 8 (p / 256 ^ i)
  frame : ∀ a, Outside s at' n k a → v.homeByte a = u.homeByte a

section
variable {s u : State} {nn : Nat} {at' : Nat → Nat} {g : Nat} {x y : Graph}

/-- No node's first 28 bytes lie in a PEND word. -/
theorem likeButPend_node (like : LikeButPend s nn at' u) (aligned : ∀ n < nn, at' n % 64 = 0) {n k len : Nat} (hn : n < nn)
    (h : k + len ≤ 28) : u.homeBytes (at' n + k) len = s.homeBytes (at' n + k) len := by
  obtain ⟨-, -, -, -, same⟩ := like
  refine State.homeBytes_congr fun i hi => same _ fun m hm => ?_
  have hn := aligned n hn
  have hm := aligned m hm
  omega

/-- The walker reads the node's first doublewords as they were before PEND was set anywhere. -/
theorem likeButPend_pendOf (like : LikeButPend s nn at' u) (aligned : ∀ n < nn, at' n % 64 = 0) {n : Nat} (hn : n < nn) :
    pendOf u (at' n) = pendOf s (at' n) := by
  have first := likeButPend_node like aligned hn (k := 0) (len := 8) (by omega)
  have count := likeButPend_node like aligned hn (k := 24) (len := 4) (by omega)
  rw [Nat.add_zero] at first
  unfold pendOf
  rw [first, State.bits_homeBytes, State.bits_homeBytes, count]

/-- Node 0 to NNODE − 1 are mapped for the walker, A and D set, as long as only PEND words change. -/
def NodesMapped (s : State) (x : Graph) (nn : Nat) (at' : Nat → Nat) : Prop :=
  ∀ u, LikeButPend s nn at' u → ∀ n < nn,
    u.translateRaw x.ctx (x.hdr + 64 * (n + 1)) .read false = (u, .ok (at' n)) ∧
      u.translateRaw x.ctx (x.hdr + 64 * (n + 1) + 28) .write true = (u, .ok (at' n + 28))

/-- A node's PEND word is written, and nothing else changes at the homes (03 R75). -/
theorem likeButPend_write (like : LikeButPend s nn at' u) {n : Nat} (hn : n < nn) (p : Nat) :
    LikeButPend s nn at' (u.homeWrite (at' n + 28) (leBytes 4 p)) := by
  obtain ⟨contexts, spread, owners, badMem, same⟩ := like
  obtain ⟨w, e, wowners, -, -, wspread, wcontexts, wbadMem⟩ := State.homeWrite_unowned owners (at' n + 28) (leBytes 4 p)
  obtain ⟨rspread, rcontexts, rbadMem⟩ := State.slicePut_rest w (at' n + 28) (leBytes 4 p)
  have frame := (State.homeWrite_homeByte owners (at' n + 28) (leBytes 4 p)).2
  rw [leBytes_length] at frame
  refine ⟨?_, ?_, ?_, ?_, fun a ha => (frame a ?_).trans (same a ha)⟩
  · rw [e, rcontexts, wcontexts, contexts]
  · rw [e, rspread, wspread, spread]
  · rw [e, State.owners_slicePut, wowners]
  · rw [e, rbadMem, wbadMem badMem]
  · have := ha n hn
    omega

section
variable (mapped : NodesMapped s x nn at') (header : x.hdr % 64 = 0)
include mapped header

theorem nodeAt_like (like : LikeButPend s nn at' u) {n : Nat} (hn : n < nn) (listed : u.graphs.find g = some y)
    (ctx : y.ctx = x.ctx) (hdr : y.hdr = x.hdr) :
    u.nodeAt g n = (u, .ok ((dwordsOf (u.homeBytes (at' n) 32)).map (·.toNat))) := by
  have good : u.badMem = [] := like.2.2.2.1
  unfold State.nodeAt
  dsimp only
  rw [State.graphs_getD listed, ctx, hdr, State.readRaw_page (by omega) (by decide) (mapped u like n hn).1 good]

/-- One node of the run's start: its PEND is set where it has one (03 R75). -/
theorem resetNodes_succ (like : LikeButPend s nn at' u) {n k : Nat} (hn : n < nn) (listed : u.graphs.find g = some y)
    (ctx : y.ctx = x.ctx) (hdr : y.hdr = x.hdr) :
    (∀ p, pendOf u (at' n) = some p → u.resetNodes g x (k + 1) n =
      (u.homeWrite (at' n + 28) (leBytes 4 p)).resetNodes g x k (n + 1)) ∧
    (pendOf u (at' n) = none → u.resetNodes g x (k + 1) n = u.resetNodes g x k (n + 1)) := by
  have first := State.dword_homeBytes u (pa := at' n) (n := 4) (j := 0) (by omega)
  have last := State.dword_homeBytes u (pa := at' n) (n := 4) (j := 3) (by omega)
  simp only [Nat.mul_zero, Nat.add_zero, Nat.reduceMul] at first last
  have write (p : Nat) : u.graphWrite x.ctx (x.hdr + 64 * (n + 1) + 28) (leBytes 4 p) =
      (u.homeWrite (at' n + 28) (leBytes 4 p), .ok ()) := by
    unfold State.graphWrite
    rw [(mapped u like n hn).2]
  have step : u.resetNodes g x (k + 1) n =
      if bits (leNat (u.homeBytes (at' n) 8)) 2 0 == 1 || bits (leNat (u.homeBytes (at' n) 8)) 2 0 == 3 then
        (u.homeWrite (at' n + 28) (leBytes 4 (if bits (leNat (u.homeBytes (at' n) 8)) 2 0 == 1 then
          bits (leNat (u.homeBytes (at' n + 24) 8)) 31 0 else 0))).resetNodes g x k (n + 1)
      else u.resetNodes g x k (n + 1) := by
    conv_lhs => unfold State.resetNodes
    rw [nodeAt_like mapped header like hn listed ctx hdr]
    dsimp only
    rw [first, last, write]
  rw [step]
  unfold pendOf
  generalize bits (leNat (u.homeBytes (at' n) 8)) 2 0 = kind
  by_cases join : kind = 1
  · subst join
    exact ⟨fun p e => by cases e; rfl, nofun⟩
  · rw [if_neg join]
    by_cases loop : kind = 3
    · subst loop
      exact ⟨fun p e => by cases e; rfl, nofun⟩
    · rw [if_neg loop]
      exact ⟨nofun, fun _ => if_neg (by simp [join, loop])⟩

/-- The start of a run sets every PEND, and changes no other byte at the homes (03 R75). -/
theorem resetNodes_like (aligned : ∀ n < nn, at' n % 64 = 0) {n k : Nat} (all : n + k = nn) (like : LikeButPend s nn at' u)
    (listed : u.graphs.find g = some y) (ctx : y.ctx = x.ctx) (hdr : y.hdr = x.hdr) :
    ∃ v, u.resetNodes g x k n = (v, .ok ()) ∧ ResetFrom s at' n k u v := by
  induction k generalizing u n with
  | zero => exact ⟨u, rfl, fun m h1 h2 => absurd h2 (by omega), fun _ _ => rfl⟩
  | succ k ih =>
    have hn : n < nn := by omega
    have step := resetNodes_succ mapped header like (k := k) hn listed ctx hdr
    rw [likeButPend_pendOf like aligned hn] at step
    cases hp : pendOf s (at' n) with
    | none =>
      obtain ⟨v, run, rest⟩ := ih (n := n + 1) (by omega) like listed
      refine ⟨v, (step.2 hp).trans run, fun m h1 h2 p e => ?_, fun a out => rest.frame a fun m h1 h2 => out m (by omega) (by omega)⟩
      have : m ≠ n := by rintro rfl; rw [hp] at e; cases e
      exact rest.holds m (by omega) (by omega) p e
    | some p =>
      have owners : u.owners = [] := like.2.2.1
      obtain ⟨new, old⟩ := State.homeWrite_homeByte owners (at' n + 28) (leBytes 4 p)
      rw [leBytes_length] at old
      have graphs := (State.homeWrite_memory u (at' n + 28) (leBytes 4 p)).graphs
      obtain ⟨v, run, rest⟩ := ih (n := n + 1) (by omega) (likeButPend_write like hn p) (by rw [graphs]; exact listed)
      refine ⟨v, (step.1 p hp).trans run, fun m h1 h2 q e i hi => ?_, fun a out => ?_⟩
      · by_cases later : m = n
        · subst later
          rw [hp] at e
          cases e
          by_cases alone : Outside s at' (m + 1) k (at' m + 28 + i)
          · rw [rest.frame _ alone]
            exact new i _ (leBytes_getElem? p hi)
          · unfold Outside at alone
            push Not at alone
            obtain ⟨j, h3, h4, has, low, high⟩ := alone
            have same : at' j = at' m := by
              have := aligned j (by omega)
              have := aligned m hn
              omega
            rw [← same]
            exact rest.holds j h3 h4 p (by rw [same]; exact hp) i hi
        · exact rest.holds m (by omega) (by omega) q e i hi
      · have here := out n (Nat.le_refl n) (by omega) (by rw [hp]; rfl)
        rw [rest.frame a fun m h1 h2 => out m (by omega) (by omega)]
        exact old a (by omega)

end

/-- GRAPH_START where the run may begin: what it comes to once the header is read (03 R73, R75). -/
theorem graphStart_exec {s1 s2 s3 : State} {pa : Nat} {bs : List Byte} (listed : s.graphs.find g = some x)
    (idle : x.active = false) (free : x.heldBy = none) (here : (s.ctx x.ctx).saved = false)
    (place : s.translateRaw x.ctx x.hdr .read false = (s1, .ok pa)) (alone : s1.graphBusy g pa = false)
    (aligned : x.hdr % 64 = 0) (read : s1.readRaw x.ctx x.hdr 8 = (s2, .ok bs)) (magic : bits (leNat bs) 15 0 = 0x4B47)
    (set : State.resetNodes { s2 with graphs := s2.graphs.upd g fun x =>
      { x with active := true, pa := pa, nnode := bits (leNat bs) 31 16 } } g x (bits (leNat bs) 31 16) 0 = (s3, .ok ())) :
    exec (.graphStart g) s = .next (s3.activate g [bits (leNat bs) 47 32]) := by
  show execGraphStart g s = _
  unfold execGraphStart
  rw [listed]
  dsimp only
  rw [if_neg (by simp [idle, free, here]), place]
  dsimp only
  rw [alone, if_neg (by decide), read]
  dsimp only
  rw [if_neg (by simp [aligned, magic]), set]

/-- GRAPH_START (03 R73 to R75). -/
theorem graphStart : Claims.GraphStart := by
  intro s s1 g pa x listed idle free sound here place alone aligned
  have placed := State.translateRaw_hbm s x.ctx x.hdr .read false
  rw [place] at placed
  -- The run's graph once the header is read.
  have begun (u : State) (graphs : u.graphs = s.graphs) (nn : Nat) : (u.graphs.upd g fun x =>
      { x with active := true, pa := pa, nnode := nn }).find g = some { x with active := true, pa := pa, nnode := nn } :=
    KV.find_upd _ (by rw [graphs]; exact listed)
  refine ⟨?_, ?_⟩
  · intro s2 s3 bs read nn x' magic entry set
    have headed := State.readRaw_hbm s1 x.ctx x.hdr 8
    rw [read] at headed
    have reset := State.resetNodes_hbm { s2 with graphs := s2.graphs.upd g fun x =>
      { x with active := true, pa := pa, nnode := nn } } g x nn 0
    rw [set] at reset
    refine ⟨_, graphStart_exec listed idle free here place alone aligned read magic set, ?_, ?_⟩
    · exact (reset.mem.trans (headed.mem.trans placed.mem) :)
    · refine State.activate_find (x := x') ?_ sound fun n hn => by rw [List.mem_singleton.1 hn]; exact entry
      rw [reset.frame.graphs]
      exact begun s2 (headed.frame.graphs.trans placed.frame.graphs) nn
  · intro h nn at' owners good magic entry nodes maps kind count
    have like : LikeButPend s nn at' s := ⟨rfl, rfl, owners, good, fun _ _ => rfl⟩
    have same : s1 = s := by
      rw [(maps s like).1] at place
      cases place
      rfl
    subst same
    have read : s1.readRaw x.ctx x.hdr 8 = (s1, .ok (s1.homeBytes pa 8)) :=
      State.readRaw_page (by omega) (by decide) place good
    obtain ⟨v, set, reset⟩ := resetNodes_like (s := s1) (x := x) (fun u k => (maps u k).2) aligned nodes (Nat.zero_add nn)
      (u := { s1 with graphs := s1.graphs.upd g fun x => { x with active := true, pa := pa, nnode := nn } }) like
      (begun s1 rfl nn) rfl rfl
    have graphs := (State.resetNodes_hbm { s1 with graphs := s1.graphs.upd g fun x =>
      { x with active := true, pa := pa, nnode := nn } } g x nn 0).frame.graphs
    rw [set] at graphs
    have join {n : Nat} (k : kind n = 1) : pendOf s1 (at' n) = some (count n) := if_pos k
    have loop {n : Nat} (k : kind n = 3) : pendOf s1 (at' n) = some 0 := 
      (if_neg fun one => absurd (k.symm.trans one) (by decide)).trans (if_pos k)
    refine ⟨_, graphStart_exec listed idle free here place alone aligned read magic set, ?_, fun n hn => ⟨fun k i hi => ?_,
      fun k i hi => ?_⟩, fun a out => ?_⟩
    · refine State.activate_find (x := { x with active := true, pa := pa, nnode := nn }) ?_ sound fun n hn => by
        rw [List.mem_singleton.1 hn]; exact entry
      rw [graphs]
      exact begun s1 rfl nn
    · exact reset.holds n (Nat.zero_le n) (by omega) _ (join k) i hi
    · refine (reset.holds n (Nat.zero_le n) (by omega) _ (loop k) i hi).trans ?_
      rw [Nat.zero_div]
      rfl
    · refine reset.frame a fun m _ hm has => out m (by omega) ?_
      by_contra other
      push Not at other
      rw [show pendOf s1 (at' m) = none from (if_neg other.1).trans (if_neg other.2)] at has
      cases has

/-- Settles O49: the start of a run sets PEND node by node, each write leaving the translations of the nodes as they were;
each activation reads its node and goes on by its kind. -/
theorem graphs : Obligations.Graphs := ⟨graphStart, graphActivations⟩

end
end Sys2Proof.Machine
end

section
/-! The frames that carry the management operations (14 R303 to R306, R309, R310). -/

namespace Sys2Proof.Machine

/-- The session of a frame as it counts from there on: the one used last (14 R305). -/
def Session.usedAt (e : Session) (n : Nat) : Session := { e with used := n }

namespace State

/-- The sender's session is the one used last (14 R305). -/
def marked (s : State) (sid : Nat) : State := s.modDev fun d => { d with
  stamp := d.stamp + 1, sessions := d.sessions.upd sid fun e => { e with used := d.stamp + 1 } }

variable {s : State} {f : Frame} {sid : Nat} {e : Session}

theorem marked_session (listed : s.dev.sessions.find sid = some e) :
    (s.marked sid).dev.sessions.find sid = some (e.usedAt (s.dev.stamp + 1)) := KV.find_upd _ listed

/-! What is received (14 R303 to R305). -/

theorem receive_of_not_frameOk (bad : s.frameOk f = false) : s.receive f = s := by
  unfold receive
  rw [bad]
  rfl

theorem receive_bare (taken : s.frameOk f = true) (stranger : s.sessionOf f.sender = none) : s.receive f =
    if f.ctxid == 0 && (opOf f == 1 || opOf f == 2 || opOf f == 3) then s.executeBare f else s := by
  unfold receive
  rw [taken, stranger]
  rfl

theorem receive_wrong_tag (session : s.sessionOf f.sender = some (sid, e))
    (wrong : f.tag ≠ frameTag e.skey f.kind f.ctxid f.seq f.len f.payload) : s.receive f = s := by
  unfold receive
  rw [session]
  simp [wrong]

theorem receive_known (taken : s.frameOk f = true) (session : s.sessionOf f.sender = some (sid, e))
    (tag : f.tag = frameTag e.skey f.kind f.ctxid f.seq f.len f.payload) (names : f.ctxid = 0 ∨ s.named f.ctxid = true)
    (reaches : f.kind = 1 → f.ctxid ≠ 0 ∧ s.reach e f.ctxid = true) : s.receive f = (s.marked sid).number sid e f := by
  have named : (f.ctxid != 0 && !s.named f.ctxid) = false := by
    rcases names with h | h <;> simp [h]
  have reach : (f.kind == 1 && (f.ctxid == 0 || !s.reach e f.ctxid)) = false := by
    by_cases k : f.kind = 1
    · simp [k, (reaches k).1, (reaches k).2]
    · simp [k]
  unfold receive
  rw [taken, session]
  dsimp only
  rw [named, reach, ← tag]
  simp [marked]

/-! A frame's turn (14 R305): how far its number stands ahead of the next one. -/

/-- How far a frame stands ahead of its turn. -/
def ahead (e : Session) (f : Frame) : Nat := (f.seq + 2 ^ 32 - e.next.getD f.ctxid 0) % 2 ^ 32

theorem ahead_next (next : f.seq = e.next.getD f.ctxid 0) : ahead e f = 0 := by
  unfold ahead
  rw [← next]
  omega

theorem ahead_of_seq {d : Nat} (small : e.next.getD f.ctxid 0 < 2 ^ 32) (seq : f.seq = (e.next.getD f.ctxid 0 + d) % 2 ^ 32)
    (hd : d < 2 ^ 32) : ahead e f = d := by
  unfold ahead
  omega

theorem number_turn (next : f.seq = e.next.getD f.ctxid 0) (ready : f.kind = 1 → s.enqueueWaits f = false) :
    s.number sid e f = s.execute sid f := by
  have go : (ahead e f == 0 && !(f.kind == 1 && s.enqueueWaits f)) = true := by
    by_cases k : f.kind = 1
    · simp [ahead_next next, k, ready k]
    · simp [ahead_next next, k]
  exact if_pos go

theorem number_ahead (later : ahead e f ≠ 0) : s.number sid e f =
    if ahead e f < 256 then
      if e.held.any fun h => h.ctxid == f.ctxid && h.seq == f.seq then s
      else s.modSession sid fun e => { e with held := e.held ++ [f] }
    else if ahead e f < 2 ^ 31 then s
    else s.each (e.kept.filter fun k => k.1 == f.ctxid && k.2.1 == f.seq) fun s k =>
      s.sendFrame e.port e.sender (some e.skey) k.2.2.1 f.ctxid f.seq k.2.2.2 :=
  if_neg (by rw [Bool.and_eq_true, beq_iff_eq]; exact fun h => later h.1)

/-! What a frame in its turn does. -/

/-- What a remote enqueue is answered: its number moves on unless it was "full" (14 R309, R310). -/
def enqueueAnswered (sid : Nat) (e : Session) (f : Frame) : State × Nat × Nat → State
  | (s, 1, _) => s.sendFrame e.port e.sender (some e.skey) 2 f.ctxid f.seq (enqueueReply f.seq 1 0)
  | (s, st, i) => (s.stepNext sid f.ctxid).replyAll sid 2 f.ctxid f.seq [enqueueReply f.seq st i]

theorem enqueueAnswered_done {st i : Nat} (more : st ≠ 1) : enqueueAnswered sid e f (s, st, i) =
    (s.stepNext sid f.ctxid).replyAll sid 2 f.ctxid f.seq [enqueueReply f.seq st i] := by
  unfold enqueueAnswered
  split
  · next same => cases same; exact absurd rfl more
  · next same => cases same; rfl

theorem execute_enqueue (listed : s.dev.sessions.find sid = some e) (kind : f.kind = 1) :
    s.execute sid f = enqueueAnswered sid e f (s.enqueueFrame f) := by
  unfold execute
  rw [listed]
  exact (if_pos (by rw [kind]; rfl)).trans rfl

theorem execute_management (listed : s.dev.sessions.find sid = some e) (kind : f.kind ≠ 1) :
    s.execute sid f = answered sid e f ((s.stepNext sid f.ctxid).perform sid e.owner f) := by
  unfold execute
  rw [listed]
  dsimp only
  rw [if_neg (by simpa using kind)]
  unfold answered
  generalize (s.stepNext sid f.ctxid).perform sid e.owner f = r
  obtain ⟨u, _ | ⟨st, x⟩⟩ := r <;> rfl

/-- A known sender's management request in its turn is performed and answered. -/
theorem receive_turn (turn : InTurn s f sid e) (kind : f.kind = 0x10) :
    s.receive f = answered sid e f ((turned s sid).perform sid true f) := by
  have turns : f.seq = e.next.getD f.ctxid 0 := by rw [turn.management]; exact turn.next.2
  rw [receive_known turn.taken turn.session turn.tag (.inl turn.management) (fun k => by rw [kind] at k; cases k),
    number_turn turns (fun k => by rw [kind] at k; cases k), execute_management (marked_session turn.listed) (by omega),
    turn.management]
  exact congrArg (fun o => answered sid e f ((turned s sid).perform sid o f)) turn.owner

end State

open State

/-- What one management operation is: the request that carries it, its number, and what it does. -/
structure Operation (c : Frame → Instr) (op : Nat) (does : State → Nat → Frame → State × Answer) (name : String) : Prop where
  run : ∀ f s, exec (c f) s = manage op name f s
  owner : ∀ (s : State) (sid : Nat) (f : Frame), f.ctxid = 0 → opOf f = op → s.perform sid true f = does s sid f
  bare : op ≤ 3 → ∀ (s : State) (f : Frame), f.ctxid = 0 → opOf f = op → s.perform 0 false f = does s 0 f
  answers : op ≤ 3 → (op = 1 ∨ op = 2 ∨ op = 3) ∧ ∀ (s : State) (f : Frame), ∃ st x, (does s 0 f).2 = some (st, x)

theorem doStatus_answers (s : State) (p : List Byte) : ∃ st x, (s.doStatus p).2 = some (st, x) := by
  unfold doStatus
  split
  · exact ⟨_, _, rfl⟩
  · exact ⟨_, _, rfl⟩

theorem doAttest_answers (s : State) (p : List Byte) : ∃ st x, (s.doAttest p).2 = some (st, x) := by
  unfold doAttest
  dsimp only
  split
  · exact ⟨_, _, rfl⟩
  · exact ⟨_, _, rfl⟩

theorem doAttach_answers (s : State) (f : Frame) : ∃ st x, (s.doAttach f).2 = some (st, x) := by
  unfold doAttach
  dsimp only
  split
  · exact ⟨_, _, rfl⟩
  · split
    · exact ⟨_, _, rfl⟩
    · split
      · exact ⟨_, _, rfl⟩
      · split
        · exact ⟨_, _, rfl⟩
        · exact ⟨_, _, rfl⟩

namespace Operation

variable {c : Frame → Instr} {op : Nat} {does : State → Nat → Frame → State × Answer} {name : String} {s : State} {f : Frame}

theorem exec_receive (o : Operation c op does name) (power : s.dev.power = true) (kind : f.kind = 0x10) (names : opOf f = op) :
    exec (c f) s = .next (s.receive f) := by
  rw [o.run]
  unfold manage
  simp [power, kind, names]

theorem bare_answers (o : Operation c op does name) (names : opOf f = op) (taken : s.frameOk f = true)
    (stranger : s.sessionOf f.sender = none) (low : op ≤ 3) (device : f.ctxid = 0) :
    ∃ st x, (does s 0 f).2 = some (st, x) ∧ s.receive f =
      State.each (does s 0 f).1 (State.fragments st x) fun s p => s.sendFrame f.port f.sender none 0x11 0 f.seq p := by
  obtain ⟨few, some'⟩ := o.answers low
  obtain ⟨st, x, e⟩ := some' s f
  refine ⟨st, x, e, ?_⟩
  have one : (f.ctxid == 0 && (opOf f == 1 || opOf f == 2 || opOf f == 3)) = true := by
    rw [device, names]
    rcases few with h | h | h <;> simp [h]
  rw [receive_bare taken stranger, one, if_pos rfl]
  unfold executeBare
  rw [o.bare low s f device names]
  generalize does s 0 f = r at e ⊢
  obtain ⟨u, a⟩ := r
  cases e
  rfl

theorem bare_drops (names : opOf f = op) (taken : s.frameOk f = true)
    (stranger : s.sessionOf f.sender = none) (not : 3 < op ∨ f.ctxid ≠ 0) : s.receive f = s := by
  rw [receive_bare taken stranger, names]
  refine if_neg fun h => ?_
  simp only [Bool.and_eq_true, Bool.or_eq_true, beq_iff_eq] at h
  omega

/-- The five ways of a management request. -/
theorem frames (o : Operation c op does name) : ∀ (f : Frame) (s : State), s.dev.power = true → f.kind = 0x10 → opOf f = op →
    (∀ sid e, InTurn s f sid e → exec (c f) s = .next (answered sid e f (does (turned s sid) sid f))) ∧
    (s.frameOk f = true → s.sessionOf f.sender = none → op ≤ 3 → f.ctxid = 0 →
      ∃ st x, (does s 0 f).2 = some (st, x) ∧ exec (c f) s = .next (State.each (does s 0 f).1 (State.fragments st x)
        fun s p => s.sendFrame f.port f.sender none 0x11 0 f.seq p)) ∧
    (s.frameOk f = true → s.sessionOf f.sender = none → (3 < op ∨ f.ctxid ≠ 0) → exec (c f) s = .next s) ∧
    (s.frameOk f = false → exec (c f) s = .next s) ∧
    (∀ sid e, s.sessionOf f.sender = some (sid, e) → f.tag ≠ frameTag e.skey f.kind f.ctxid f.seq f.len f.payload →
      exec (c f) s = .next s) := by
  intro f s power kind names
  rw [o.exec_receive power kind names]
  refine ⟨fun sid e turn => ?_, fun taken stranger low device => ?_, fun taken stranger not => ?_, fun bad => ?_,
    fun sid e session wrong => ?_⟩
  · rw [receive_turn turn kind, o.owner _ _ _ turn.management names]
  · obtain ⟨st, x, answer, sends⟩ := o.bare_answers names taken stranger low device
    exact ⟨st, x, answer, congrArg _ sends⟩
  · exact congrArg _ (bare_drops names taken stranger not)
  · exact congrArg _ (receive_of_not_frameOk bad)
  · exact congrArg _ (receive_wrong_tag session wrong)

end Operation

theorem status_operation : Operation .status 0x01 (fun s _ f => s.doStatus f.payload) "STATUS" where
  run _ _ := rfl
  owner s sid f z o := by simp [State.perform, z, o]
  bare _ s f z o := by simp [State.perform, z, o]
  answers _ := ⟨.inl rfl, fun s f => doStatus_answers s f.payload⟩

theorem attest_operation : Operation .attest 0x02 (fun s _ f => s.doAttest f.payload) "ATTEST" where
  run _ _ := rfl
  owner s sid f z o := by simp [State.perform, z, o]
  bare _ s f z o := by simp [State.perform, z, o]
  answers _ := ⟨.inr (.inl rfl), fun s f => doAttest_answers s f.payload⟩

theorem attach_operation : Operation .attach 0x03 (fun s _ f => s.doAttach f) "ATTACH" where
  run _ _ := rfl
  owner s sid f z o := by simp [State.perform, z, o]
  bare _ s f z o := by simp [State.perform, z, o]
  answers _ := ⟨.inr (.inr rfl), doAttach_answers⟩

/-- The operations that only the owner's session may ask for, by number (14 R305, R306). -/
def ownersOperation (s : State) (sid : Nat) (f : Frame) : Nat → State × Answer
  | 0x04 => s.doPeer f.payload
  | 0x10 => s.doCtxcreate f.payload
  | 0x11 => s.doCtxend f.payload
  | 0x12 => s.doBindq f.payload
  | 0x13 => s.doInstall f.payload
  | 0x14 => s.doSave sid f.seq f.payload
  | 0x15 => s.doRestore f.payload
  | 0x16 => s.doMreg f.payload
  | 0x17 => s.doQpopen f.payload
  | 0x18 => s.doEpset f.payload
  | 0x20 => s.doHealth f.payload
  | 0x21 => s.doPcap f.payload
  | 0x30 => s.doBreak f.payload
  | _ => (s, illegal3)

theorem perform_owner (s : State) (sid : Nat) (f : Frame) (device : f.ctxid = 0) (high : 3 < opOf f) :
    s.perform sid true f = ownersOperation s sid f (opOf f) := by
  have above (n : Nat) (low : n ≤ 3) : (opOf f == n) = false := by
    rw [beq_eq_false_iff_ne]
    omega
  unfold State.perform
  dsimp only
  rw [device, above 1 (by decide), above 2 (by decide), above 3 (by decide)]
  rfl

theorem Operation.owned {c : Frame → Instr} {op : Nat} {does : State → Nat → Frame → State × Answer} {name : String}
    (run : ∀ f s, exec (c f) s = manage op name f s) (high : 3 < op)
    (selects : ∀ s sid f, ownersOperation s sid f op = does s sid f) : Operation c op does name where
  run := run
  owner s sid f device names := by rw [perform_owner s sid f device (names ▸ high), names, selects]
  bare low := absurd low (by omega)
  answers low := absurd low (by omega)

/-- The sixteen operations (14 R306). -/
theorem sixteen_operations : ∀ c ∈ ([(.status, 0x01, fun s _ f => s.doStatus f.payload),
    (.attest, 0x02, fun s _ f => s.doAttest f.payload),
    (.attach, 0x03, fun s _ f => s.doAttach f), (.peer, 0x04, fun s _ f => s.doPeer f.payload),
    (.ctxcreate, 0x10, fun s _ f => s.doCtxcreate f.payload), (.ctxend, 0x11, fun s _ f => s.doCtxend f.payload),
    (.bindq, 0x12, fun s _ f => s.doBindq f.payload), (.install, 0x13, fun s _ f => s.doInstall f.payload),
    (.save, 0x14, fun s sid f => s.doSave sid f.seq f.payload), (.restore, 0x15, fun s _ f => s.doRestore f.payload),
    (.mreg, 0x16, fun s _ f => s.doMreg f.payload), (.qpopen, 0x17, fun s _ f => s.doQpopen f.payload),
    (.epset, 0x18, fun s _ f => s.doEpset f.payload), (.health, 0x20, fun s _ f => s.doHealth f.payload),
    (.pcap, 0x21, fun s _ f => s.doPcap f.payload), (.brk, 0x30, fun s _ f => s.doBreak f.payload)] :
    List ((Frame → Instr) × Nat × (State → Nat → Frame → State × Answer))), ∃ name, Operation c.1 c.2.1 c.2.2 name := by
  have owned {c : Frame → Instr} {op : Nat} {does : State → Nat → Frame → State × Answer} (name : String) (high : 3 < op)
      (run : ∀ f s, exec (c f) s = manage op name f s)
      (selects : ∀ s sid f, ownersOperation s sid f op = does s sid f) : ∃ name, Operation c op does name :=
    ⟨name, .owned run high selects⟩
  simp only [List.forall_mem_cons]
  exact ⟨⟨_, status_operation⟩, ⟨_, attest_operation⟩, ⟨_, attach_operation⟩,
    owned "PEER" (by decide) (fun _ _ => rfl) fun _ _ _ => rfl,
    owned "CTXCREATE" (by decide) (fun _ _ => rfl) fun _ _ _ => rfl,
    owned "CTXEND" (by decide) (fun _ _ => rfl) fun _ _ _ => rfl,
    owned "BINDQ" (by decide) (fun _ _ => rfl) fun _ _ _ => rfl,
    owned "INSTALL" (by decide) (fun _ _ => rfl) fun _ _ _ => rfl,
    owned "SAVE" (by decide) (fun _ _ => rfl) fun _ _ _ => rfl,
    owned "RESTORE" (by decide) (fun _ _ => rfl) fun _ _ _ => rfl,
    owned "MREG" (by decide) (fun _ _ => rfl) fun _ _ _ => rfl,
    owned "QPOPEN" (by decide) (fun _ _ => rfl) fun _ _ _ => rfl,
    owned "EPSET" (by decide) (fun _ _ => rfl) fun _ _ _ => rfl,
    owned "HEALTH" (by decide) (fun _ _ => rfl) fun _ _ _ => rfl,
    owned "PCAP" (by decide) (fun _ _ => rfl) fun _ _ _ => rfl,
    owned "BREAK" (by decide) (fun _ _ => rfl) fun _ _ _ => rfl, fun _ h => nomatch h⟩

section

variable {f : Frame} {s : State} {sid : Nat} {e : Session}

/-- A remote enqueue of a known session in its turn (14 R309, R310). -/
theorem remoteEnqueue_turn (power : s.dev.power = true) (kind : f.kind = 1) (taken : s.frameOk f = true)
    (session : s.sessionOf f.sender = some (sid, e)) (listed : s.dev.sessions.find sid = some e)
    (tag : f.tag = frameTag e.skey f.kind f.ctxid f.seq f.len f.payload) (other : f.ctxid ≠ 0) (named : s.named f.ctxid = true)
    (reach : s.reach e f.ctxid = true) (next : f.seq = e.next.getD f.ctxid 0) (ready : (s.marked sid).enqueueWaits f = false) :
    exec (.remoteEnqueue f) s = .next (enqueueAnswered sid e f ((s.marked sid).enqueueFrame f)) := by
  have run : exec (.remoteEnqueue f) s = .next (s.receive f) := by
    change execRemoteEnqueue f s = _
    unfold execRemoteEnqueue
    simp [power, kind]
  rw [run, receive_known taken session tag (.inr named) (fun _ => ⟨other, reach⟩), number_turn next (fun _ => ready),
    execute_enqueue (marked_session listed) kind]
  rfl

/-- A held frame whose number is next leaves the list, and is executed if it is still one to take up (14 R305). -/
theorem heldFrame_exec {ctx : Nat} (listed : s.dev.sessions.find sid = some e)
    (next : (e.held.find? fun f => f.ctxid == ctx && f.seq == e.next.getD ctx 0) = some f) (kind : f.kind ≠ 1) :
    let u := s.modSession sid fun e => { e with held := e.held.filter (· != f) }
    exec (.heldFrameExecute sid ctx) s = .next (if u.frameOk f && (ctx == 0 || u.named ctx) then u.execute sid f else u) := by
  change execHeldFrameExecute sid ctx s = _
  unfold execHeldFrameExecute
  rw [listed]
  dsimp only
  rw [next]
  dsimp only
  rw [if_neg (by simp [kind])]

theorem held_any : (e.held.any fun h => h.ctxid == f.ctxid && h.seq == f.seq) = false ↔
    ∀ h ∈ e.held, ¬(h.ctxid = f.ctxid ∧ h.seq = f.seq) := by
  simp [List.any_eq_false]

end

theorem managementFrames : Claims.ManagementFrames := by
  refine ⟨fun c hc => ?_, ?_, ?_, ?_⟩
  · obtain ⟨name, o⟩ := sixteen_operations c hc
    exact o.frames
  · intro f s sid e power kind taken session listed tag other named reach next _ u ready
    rw [remoteEnqueue_turn power kind taken session listed tag other named reach next ready]
    refine ⟨fun t i full => ?_, fun t st i done more => ?_⟩
    · rw [show (s.marked sid).enqueueFrame f = _ from full]
      rfl
    · rw [show (s.marked sid).enqueueFrame f = _ from done, enqueueAnswered_done more]
  · intro f s sid e d positive small seq
    have far (hd : d < 2 ^ 32) : ahead e f = d := ahead_of_seq small seq hd
    refine ⟨fun hd new => ?_, fun low high => ?_, fun low high k p kept => ?_⟩
    · have := far (by omega)
      rw [number_ahead (by omega), if_pos (by omega), held_any.2 new]
      rfl
    · have := far (by omega)
      rw [number_ahead (by omega), if_neg (by omega), if_pos (by omega)]
    · have := far high
      rw [number_ahead (by omega), if_neg (by omega), if_neg (by omega), kept]
      rfl
  · intro s sid ctx e f listed next kind u
    rw [heldFrame_exec listed next kind]
    refine ⟨fun taken named => ?_, fun bad => ?_⟩
    · rw [if_pos]
      rw [taken]
      rcases named with rfl | named
      · rfl
      · rw [named, Bool.or_true, Bool.and_true]
    · rw [if_neg]
      rw [bad]
      exact Bool.false_ne_true

end Sys2Proof.Machine
end

section
/-! Requests that are answered with status 3 (14 R307, R312). -/

namespace Sys2Proof.Machine

open State

variable {s : State} {p : List Byte}

/-- A key of no entry of the table of pairs, or of a pair of another context, names none of this one. -/
theorem qpOther {c qpn : Nat} (bad : (∃ q, s.qps.find qpn = some q ∧ q.ctx ≠ c) ∨ (s.qps.find qpn = none ∧ c ≠ 0)) :
    ((s.qps.getD qpn { ctx := 0, port := 0 }).ctx != c) = true := by
  unfold KV.getD
  rcases bad with ⟨q, found, other⟩ | ⟨none', other⟩
  · rw [found]
    simpa using other
  · rw [none']
    simpa using other.symm

theorem doMreg_illegal (bad : fieldsOk p 32 [(8, 3), (12, 4), (16, 16)] = false ∨ s.named (pf p 8 2) = false ∨
      bits (pf p 10 1) 6 2 ≠ 0 ∨
      (bit (pf p 10 1) 7 = true ∧ (s.ctx (pf p 8 2)).regions.find (pf p 12 4) = none) ∨
      (bit (pf p 10 1) 7 = false ∧ (pf p 12 4 ≠ 0 ∨ 2 ^ 48 < pf p 16 8 + pf p 24 8))) : s.doMreg p = (s, illegal3) := by
  unfold doMreg
  dsimp only
  split
  · rfl
  · next fine =>
    simp only [Bool.or_eq_true, Bool.not_eq_true', bne_iff_ne, not_or] at fine
    obtain ⟨⟨whole, named⟩, flags⟩ := fine
    rcases ((bad.resolve_left whole).resolve_left named).resolve_left flags with ⟨drop, unknown⟩ | ⟨make, odd⟩
    · rw [if_pos drop, if_pos (by rw [unknown]; rfl)]
    · rw [if_neg (by rw [make]; decide), if_pos (by simpa using odd)]

theorem doQpopen_illegal (bad : fieldsOk p 39 [(8, 7), (16, 19), (36, 3)] = false ∨ s.named (pf p 8 2) = false ∨
      bits (pf p 11 1) 6 1 ≠ 0 ∨ 1 < pf p 10 1 ∨ (bit (pf p 11 1) 7 = true ∧ s.qps.find (pf p 12 3) = none) ∨
      (bit (pf p 11 1) 7 = false ∧ pf p 12 3 ≠ 0)) : s.doQpopen p = (s, illegal3) := by
  unfold doQpopen
  dsimp only
  split
  · rfl
  · next fine =>
    simp only [Bool.or_eq_true, Bool.not_eq_true', bne_iff_ne, not_or] at fine
    obtain ⟨⟨whole, named⟩, flags⟩ := fine
    split
    · rfl
    · next port =>
      rcases (((bad.resolve_left whole).resolve_left named).resolve_left flags).resolve_left port with
        ⟨close, unknown⟩ | ⟨make, odd⟩
      · rw [if_pos close, unknown]
      · rw [if_neg (by rw [make]; decide), if_pos (by simpa using odd)]

theorem doEpset_illegal (bad : fieldsOk p 40 [(8, 7), (16, 4), (24, 16)] = false ∨ s.named (pf p 8 2) = false ∨
      (pf p 12 3 ≠ 0xFFFFFF ∧ ((∃ q, s.qps.find (pf p 12 3) = some q ∧ q.ctx ≠ pf p 8 2) ∨
        (s.qps.find (pf p 12 3) = none ∧ pf p 8 2 ≠ 0)))) : s.doEpset p = (s, illegal3) := by
  unfold doEpset
  dsimp only
  split
  · rfl
  · next fine =>
    simp only [Bool.or_eq_true, Bool.not_eq_true', not_or] at fine
    obtain ⟨whole, named⟩ := fine
    obtain ⟨pair, other⟩ := (bad.resolve_left whole).resolve_left named
    rw [if_neg (by simpa using pair), if_pos (qpOther other)]

theorem illegalRequests : Claims.IllegalRequests := by
  intro s p ill c odd byte wide
  refine ⟨fun bad => ⟨if_pos (by simpa [odd] using bad), if_pos (by simpa [odd] using bad)⟩,
    fun bad => if_pos (by simpa [odd] using bad), fun bad f hf => ?_,
    fun bad => if_pos (by simpa [odd, byte, or_assoc] using bad),
    fun bad => if_pos (by simpa [odd, byte, wide, or_assoc] using bad),
    fun bad => if_pos (by simpa [odd, c] using bad),
    fun bad => if_pos (by simpa [odd, c, byte, wide, or_assoc] using bad),
    fun bad => if_pos (by simpa [odd, c, byte, wide, or_assoc] using bad),
    fun bad sid seq => if_pos (by simpa [odd, c, wide, or_assoc] using bad),
    fun bad => if_pos (by simpa [odd, c, wide, or_assoc] using bad),
    doMreg_illegal, doQpopen_illegal, doEpset_illegal,
    fun bad => if_pos (by simpa [odd, c, or_assoc] using bad),
    fun bad => if_pos (by simpa [odd, c, byte, or_assoc] using bad)⟩
  subst hf
  exact if_pos (by simpa [odd] using bad)

end Sys2Proof.Machine
end

section
/-! What the management operations do (03 R56; 12 R269; 13 R282, R291; 14 R298, R305 to R307, R312, R313). -/

namespace Sys2Proof.Machine

open State

variable {s : State} {p : List Byte}

/-! Fields of an answer (14 R307). -/

theorem leNat_leBytes (n x : Nat) : leNat (leBytes n x) = x % 256 ^ n := by
  induction n generalizing x with
  | zero => simp [leBytes, leNat, Nat.mod_one]
  | succ n ih => simp [leBytes, leNat, ih, Nat.pow_succ', Nat.mod_mul]

/-- A field behind a leading part. -/
theorem pf_append {l r : List Byte} {m a n : Nat} (long : l.length = m) (behind : m ≤ a) :
    pf (l ++ r) a n = pf r (a - m) n := by
  unfold pf
  rw [List.drop_append, List.drop_eq_nil_of_le (by omega), List.nil_append, long]

/-- A field that the bytes begin with. -/
theorem pf_leBytes (n x : Nat) (r : List Byte) : pf (leBytes n x ++ r) 0 n = x % 256 ^ n := by
  unfold pf
  rw [List.drop_zero, List.take_left' (leBytes_length n x), leNat_leBytes]

theorem flatten_leBytes_length (l : List Nat) : (l.map fun d => leBytes 2 d).flatten.length = 2 * l.length := by
  induction l with
  | nil => rfl
  | cons x l ih => simp [leBytes_length, ih]; omega

theorem doHealth_answer (ok : fieldsOk p 8 [] = true) (dies : s.dev.health.die.length = 4) :
    ∃ r, s.doHealth p = (s, some (0, r)) ∧ r.length = 24 ∧
      r.take 8 = (s.dev.health.die.map fun d => leBytes 2 d).flatten ∧ pf r 12 4 = s.dev.health.days % 2 ^ 32 ∧
      pf r 16 2 = s.dev.health.temp % 2 ^ 16 ∧ pf r 18 2 = s.dev.health.volt % 2 ^ 16 ∧
      pf r 20 2 = s.dev.health.active % 2 ^ 16 ∧ pf r 22 2 = s.dev.health.hours % 2 ^ 16 := by
  have long : (s.dev.health.die.map fun d => leBytes 2 d).flatten.length = 8 := by rw [flatten_leBytes_length, dies]
  refine ⟨_, if_neg (by simp [ok]), ?_, ?_, ?_⟩
  · simp [leBytes_length, long]
  · simp only [List.append_assoc]
    exact List.take_left' long
  · simp only [List.append_assoc]
    have skip {a n : Nat} {r : List Byte} (h : 8 ≤ a) : pf ((s.dev.health.die.map fun d => leBytes 2 d).flatten ++ r) a n =
      pf r (a - 8) n := pf_append long h
    have next {m x a n : Nat} {r : List Byte} (h : m ≤ a) : pf (leBytes m x ++ r) a n = pf r (a - m) n :=
      pf_append (leBytes_length m x) h
    have last (x : Nat) : pf (leBytes 2 x) 0 2 = x % 256 ^ 2 := by simpa using pf_leBytes 2 x []
    refine ⟨?_, ?_, ?_, ?_, ?_⟩ <;> rw [skip (by decide)]
    · rw [next (by decide), next (by decide)]; exact pf_leBytes 4 _ _
    · rw [next (by decide), next (by decide), next (by decide)]; exact pf_leBytes 2 _ _
    · rw [next (by decide), next (by decide), next (by decide), next (by decide)]; exact pf_leBytes 2 _ _
    · rw [next (by decide), next (by decide), next (by decide), next (by decide), next (by decide)]; exact pf_leBytes 2 _ _
    · rw [next (by decide), next (by decide), next (by decide), next (by decide), next (by decide), next (by decide)]
      exact last _

/-! Flags (14 R307, R312): those that name no bit but the lowest ones. -/

theorem bits_small {x hi lo : Nat} (h : x < 2 ^ lo) : bits x hi lo = 0 := by
  unfold bits
  rw [Nat.div_eq_of_lt h, Nat.zero_mod]

theorem bit_small {x i : Nat} (h : x < 2 ^ i) : bit x i = false := by
  unfold bit
  rw [Nat.div_eq_of_lt h]
  rfl

theorem bit_zero_eq {x : Nat} (h : x ≤ 1) : bit x 0 = decide (x = 1) := by
  obtain rfl | rfl : x = 0 ∨ x = 1 := by omega
  · rfl
  · rfl

/-! Peers, contexts and queues (03 R56; 14 R305, R307). -/

theorem doPeer_eq {i n : Nat} (hi : pf p 56 1 = i) (hn : pf p 58 1 = n)
    (ok : fieldsOk p (if n = 0 then 59 else 64 + 2 * n) [(8, 51), (64, 2 * n)] = true) (few : i ≤ 63) (contexts : n ≤ 16)
    (op : pf p 57 1 ≤ 1) : s.doPeer p = if pf p 57 1 == 1 then
      (s.modDev fun d => { d with
        peers := d.peers.put i ((p.drop 8).take 48, (upto n).map fun k => pf p (64 + 2 * k) 2) }, done0)
    else (s.modDev fun d => { d with peers := d.peers.del i }, done0) := by
  subst hi hn
  refine if_neg ?_
  simp only [beq_iff_eq, ok]
  simp
  omega

/-- The legal fields of CTXCREATE. -/
theorem doCtxcreate_eq (ok : fieldsOk p (56 + 2 * pf p 19 1) [(8, 12), (24, 32), (56, 2 * pf p 19 1)] = true)
    (partition : pf p 8 8 < 2 ^ 48) (drain : 5 ≤ pf p 16 2) (drain' : pf p 16 2 ≤ 2000) (flags : pf p 18 1 ≤ 1)
    (few : pf p 19 1 ≤ 16) (faultq : pf p 24 8 < 2 ^ 48) (block : pf p 24 8 % 64 = 0) (root : pf p 32 8 < 2 ^ 48)
    (table : pf p 32 8 % 512 = 0) (area : pf p 40 8 < 2 ^ 48) (page : pf p 40 8 % 65536 = 0) (size : 16 * 2 ^ 20 ≤ pf p 48 8)
    (room : s.contexts.length < 65535) :
    s.doCtxcreate p = (s.setCtx (s.contexts.length + 1) {
      partition := pf p 8 8, supervisor := pf p 18 1 == 1, root := pf p 32 8
      supervised := (upto (pf p 19 1)).map fun k => pf p (56 + 2 * k) 2, faultq := pf p 24 8
      drainUs := pf p 16 2, fwArea := pf p 40 8, fwBytes := pf p 48 8 }, some (0, leBytes 2 (s.contexts.length + 1))) := by
  refine (if_neg ?_).trans (if_neg (by omega))
  simp only [ok, block, table, page, Bool.or_eq_true, decide_eq_true_eq]
  simp
  omega

/-- The list of bound queues of a context becomes another one. -/
def State.bound (s : State) (c : Nat) (l : List (Nat × Nat)) : State := s.modCtx c fun x => { x with queues := l }

/-- A BINDQ with legal fields: it unbinds a queue, changes the priority of one in place, or appends one. -/
theorem doBindq_eq {c cb : Nat} (hc : pf p 8 2 = c) (hcb : pf p 16 8 = cb) (ok : fieldsOk p 24 [(8, 3), (16, 8)] = true)
    (named : s.named c = true) (flags : bits (pf p 10 1) 6 3 = 0) (small : cb < 2 ^ 48) (block : cb % 64 = 0) :
    s.doBindq p =
      if bit (pf p 10 1) 7 then (s.bound c ((s.ctx c).queues.filter (·.1 != cb)), done0)
      else if (s.ctx c).queues.any (·.1 == cb) then
        (s.bound c ((s.ctx c).queues.map fun q => if q.1 == cb then (cb, pf p 10 1 % 8) else q), done0)
      else if 16 ≤ (s.ctx c).queues.length then (s, refused1)
      else (s.bound c ((s.ctx c).queues ++ [(cb, pf p 10 1 % 8)]), done0) := by
  subst hc hcb
  refine if_neg ?_
  simp [ok, named, flags, block]
  omega

/-! Code and saved contexts (12 R269, R274; 13 R282, R291; 14 R307). -/

theorem doInstall_eq {c slot : Nat} (hc : pf p 8 2 = c) (hs : pf p 10 2 = slot)
    (ok : fieldsOk p 32 [(8, 5), (16, 16)] = true) (named : s.named c = true) (few : slot ≤ 4095) (op : pf p 12 1 ≤ 1)
    (small : pf p 16 8 < 2 ^ 48) (place : pf p 24 8 < 2 ^ 48) (page : pf p 24 8 % 65536 = 0) :
    s.doInstall p = if pf p 12 1 == 1 then
      ((s.slotRewritten c slot).modCtx c fun x => { x with slots := x.slots.del slot }, some (0, List.replicate 48 0))
    else s.installFile c slot (pf p 16 8) (pf p 24 8) := by
  subst hc hs
  refine if_neg ?_
  simp [ok, named, page]
  omega

theorem doSave_eq {sid seq c : Nat} (hc : pf p 8 2 = c) (ok : fieldsOk p 32 [(8, 2), (16, 16)] = true)
    (named : s.named c = true) (small : pf p 16 8 < 2 ^ 48) (page : pf p 16 8 % 65536 = 0) (here : (s.ctx c).saved = false)
    (alone : (s.ctx c).saver = none) :
    s.doSave sid seq p = if pf p 24 8 < Config.saveBytes s.fresh then (s, refused1)
    else ((if (s.ctx c).stop then { s with fresh := s.fresh + 1 } else
        ({ s with fresh := s.fresh + 1 } : State).requestStop c).modCtx c fun x =>
          { x with saver := some ⟨sid, seq, pf p 16 8, Config.saveBytes s.fresh⟩ }, none) := by
  subst hc
  refine (if_neg ?_).trans ?_
  · simp [ok, named, page]
    omega
  · simp only [here, alone, Option.isSome_none, Bool.false_or, decide_eq_true_eq]
    rfl

theorem doRestore_eq {c : Nat} (hc : pf p 8 2 = c) (ok : fieldsOk p 72 [(8, 2), (16, 56)] = true)
    (named : s.named c = true) (small : pf p 16 8 < 2 ^ 48) (page : pf p 16 8 % 65536 = 0) {map : List Nat}
    (hm : (upto 48).map (fun i => pf p (24 + i) 1) = map) :
    s.doRestore p = if !(s.ctx c).saved then (s, refused1)
      else if !s.mapOk c map then (s, illegal3)
      else if s.restoreRefused c then (s.notice 2 c, refused1)
      else if !s.restoreFits c map then (s, refused1)
      else (s.restoreContext c map, done0) := by
  subst hc hm
  refine if_neg ?_
  simp [ok, named, page]
  omega

/-! Remote memory and queue pairs (14 R307, R312). -/

theorem doMreg_registers {c : Nat} (hc : pf p 8 2 = c) (ok : fieldsOk p 32 [(8, 3), (12, 4), (16, 16)] = true)
    (named : s.named c = true) (flags : pf p 10 1 < 4) (fresh : pf p 12 4 = 0) (small : pf p 16 8 + pf p 24 8 ≤ 2 ^ 48) :
    s.doMreg p = (s.newId.2.modCtx c fun x => { x with
        regions := x.regions.put (s.nextId % 2 ^ 32) ⟨pf p 16 8, pf p 24 8, bit (pf p 10 1) 0, bit (pf p 10 1) 1⟩ },
      some (0, leBytes 4 (s.nextId % 2 ^ 32))) := by
  subst hc
  refine (if_neg ?_).trans ((if_neg ?_).trans (if_neg ?_))
  · simp [ok, named, bits_small (hi := 6) (show pf p 10 1 < 2 ^ 2 by omega)]
  · rw [bit_small (by omega)]
    exact Bool.false_ne_true
  · simp [fresh]
    omega

/-- The number of a new pair is no open pair's (14 R312). -/
theorem freeQpn_free (s : State) : s.qps.find s.freeQpn = none ∧ 2 ≤ s.freeQpn ∧ s.freeQpn < s.qps.length + 3 := by
  have free : ∃ n ∈ stepsFrom 2 1 (s.qps.length + 1), (s.qps.find n).isNone = true := by
    by_contra taken
    push Not at taken
    have keys : stepsFrom 2 1 (s.qps.length + 1) ⊆ s.qps.map (·.1) := fun n hn => by
      obtain ⟨q, found⟩ := Option.isSome_iff_exists.1 (Option.ne_none_iff_isSome.1 (by simpa using taken n hn))
      exact List.mem_map.2 ⟨_, KV.mem_of_find found, rfl⟩
    have long := ((nodup_stepsFrom_one 2 (s.qps.length + 1)).subperm keys).length_le
    rw [stepsFrom_eq_range', List.length_range', List.length_map] at long
    omega
  obtain ⟨n, found⟩ := Option.isSome_iff_exists.1 (List.find?_isSome.2 free)
  have number : s.freeQpn = n := by
    unfold freeQpn
    rw [found]
    rfl
  have range := mem_stepsFrom_one.1 (List.mem_of_find?_eq_some found)
  have none' := List.find?_some found
  rw [number]
  exact ⟨Option.isNone_iff_eq_none.1 none', by omega, by omega⟩

theorem doQpopen_opens {c port : Nat} (hc : pf p 8 2 = c) (hp : pf p 10 1 = port)
    (ok : fieldsOk p 39 [(8, 7), (16, 19), (36, 3)] = true) (named : s.named c = true) (flags : pf p 11 1 ≤ 1)
    (link : port ≤ 1) (fresh : pf p 12 3 = 0) :
    s.doQpopen p = if 4096 ≤ (s.qps.filter fun x => x.2.port == port).length then (s, refused1)
      else ({ s with qps := s.qps.put s.freeQpn {
          ctx := c, port := port, v6 := decide (pf p 11 1 = 1)
          ip := if pf p 11 1 = 1 then pf p 16 16 else pf p 16 4, rqpn := pf p 32 3, rpsn := pf p 36 3, rate := 800 } },
        some (0, leBytes 3 s.freeQpn ++ [0] ++ leBytes 3 0)) := by
  subst hc hp
  have v6 : (if bit (pf p 11 1) 0 = true then pf p 16 16 else pf p 16 4) = if pf p 11 1 = 1 then pf p 16 16 else pf p 16 4 := by
    rw [bit_zero_eq flags]
    simp
  refine (if_neg ?_).trans ((if_neg (by omega)).trans ((if_neg ?_).trans ((if_neg (by simp [fresh])).trans ?_)))
  · simp [ok, named, bits_small (hi := 6) (show pf p 11 1 < 2 ^ 1 by omega)]
  · rw [bit_small (by omega)]
    exact Bool.false_ne_true
  · rw [← v6, ← bit_zero_eq flags]

theorem doQpopen_closes {c : Nat} (hc : pf p 8 2 = c) (ok : fieldsOk p 39 [(8, 7), (16, 19), (36, 3)] = true)
    (named : s.named c = true) (flags : pf p 11 1 = 128) (link : pf p 10 1 ≤ 1) {q : QueuePair}
    (found : s.qps.find (pf p 12 3) = some q) :
    s.doQpopen p = if q.ctx == c then (s.closeQp c (pf p 12 3), done0) else (s, illegal3) := by
  subst hc
  refine (if_neg ?_).trans ((if_neg (by omega)).trans ((if_pos ?_).trans ?_))
  · rw [ok, named, flags]
    decide
  · rw [flags]
    decide
  · rw [found]

theorem closeQp_endpoints (s : State) (c n : Nat) :
    ((s.closeQp c n).ctx c).endpoints = (s.ctx c).endpoints.filter fun e => e.2.qpn != n :=
  congrArg Context.endpoints (ctx_modCtx ..)

theorem doEpset_eq {c qpn : Nat} (hc : pf p 8 2 = c) (hq : pf p 12 3 = qpn)
    (ok : fieldsOk p 40 [(8, 7), (16, 4), (24, 16)] = true) (named : s.named c = true) :
    s.doEpset p = if qpn == 0xFFFFFF then
        (s.modCtx c fun x => { x with endpoints := x.endpoints.del (pf p 10 2) }, done0)
      else if (s.qps.getD qpn { ctx := 0, port := 0 }).ctx != c then (s, illegal3)
      else (s.modCtx c fun x => { x with
        endpoints := x.endpoints.put (pf p 10 2) ⟨qpn, pf p 16 4, pf p 24 8, pf p 32 8⟩ }, done0) := by
  subst hc hq
  exact if_neg (by simp [ok, named])

theorem doBreak_eq {c : Nat} (hc : pf p 8 2 = c) (ok : fieldsOk p 24 [(8, 4), (16, 8)] = true) (named : s.named c = true)
    (few : pf p 10 1 ≤ 7) (op : pf p 11 1 ≤ 1) :
    s.doBreak p = if pf p 11 1 == 1 then
        (s.modCtx c fun x => { x with breaks := x.breaks.put (pf p 10 1) (BitVec.ofNat 64 (pf p 16 8)) }, done0)
      else (s.modCtx c fun x => { x with breaks := x.breaks.del (pf p 10 1) }, done0) := by
  subst hc
  refine if_neg ?_
  simp [ok, named]
  omega

end Sys2Proof.Machine
end

section
/-! What leaves the table of launches as it is (12 R255 to R262): the results that settle before a trap, and the trap itself. -/

namespace Sys2Proof.Machine
namespace State

variable {s t : State} {m : KV Launch}

theorem ite_launches {c : Prop} [Decidable c] (ht : s.launches = m) (hf : t.launches = m) :
    (if c then s else t).launches = m := by
  split
  · exact ht
  · exact hf

/-- The state of a result that is known by an equation. -/
theorem fst_launches {α : Type} {p : State × α} {x : α} (h : p.1.launches = m) (e : p = (t, x)) : t.launches = m := by
  rw [e] at h
  exact h

theorem each_launches {α : Type} {l : List α} {f : State → α → State} (h : s.launches = m)
    (hf : ∀ t x, t.launches = m → (f t x).launches = m) : (s.each l f).launches = m :=
  each_keeps (P := fun t => t.launches = m) h hf

theorem eachFibre_launches {α : Type} {l : List α} {f : α → FibreId} {g : α → Fibre → Fibre} (h : s.launches = m) :
    (s.each l fun s x => s.modFibre (f x) (g x)).launches = m := each_launches h fun _ _ k => k

theorem settleLate_launches (h : s.launches = m) (gid : Nat) : (s.settleLate gid).launches = m := by
  unfold settleLate
  have fibres : (s.each (s.group gid).members fun s f =>
      if (s.fibre f).late.isEmpty then s else s.modFibre f (·.flush (2 ^ 64))).launches = m :=
    each_launches h fun _ _ k => ite_launches k k
  exact ite_launches fibres fibres

theorem landPacket_launches (h : s.launches = m) (id : Nat) : (s.landPacket id).launches = m := by
  unfold landPacket
  split
  · exact h
  · have counted (p : Packet) : (State.each { s with packets := s.packets.del id } p.count fun s f =>
        s.modFibre f fun x => { x with stc := x.stc - 1 }).launches = m := each_launches h fun _ _ k => k
    exact ite_launches (counted _) (counted _)

theorem streamPerform_launches (h : s.launches = m) (id : Nat) : (s.streamPerform id).launches = m := by
  unfold streamPerform
  split
  · split
    · exact h
    · exact h
  · exact landPacket_launches h id

theorem answer_launches (h : s.launches = m) (id : Nat) : (s.answer id).launches = m := by
  unfold answer
  split
  · exact h
  · next p _ =>
    split
    · exact h
    · next pa l1 sys size sx _ =>
      have dropped (u : State) : SameButMemory u (if l1 then u else u.staleDrop p.core (wordsOf pa size)) := by
        split
        · exact .refl u
        · exact staleDrop_memory u _ _
      exact ((performLoad_memory s p.core pa size sys l1).trans (dropped _)).launches.trans h
    · exact streamPerform_launches (each_launches h fun _ x k => streamPerform_launches k x) id
    · exact h

theorem writeResult_launches (h : s.launches = m) (id : Nat) : (s.writeResult id).launches = m := by
  unfold writeResult
  split
  · exact h
  · next p _ =>
    have landed : (({ s with pending := s.pending.del id } : State).landResult p.fib p.gid p.tid p.dests).launches = m :=
      (congrArg State.launches (landResult_frame { s with pending := s.pending.del id } p.fib p.gid p.tid p.dests).rest :).trans h
    refine eachFibre_launches (f := fun f => f) (ite_launches ?_ landed)
    exact (congrArg State.launches (spoil_frame _ p) :).trans landed

theorem settle_launches (h : s.launches = m) (gid : Nat) : (s.settle gid).launches = m :=
  each_launches (settleLate_launches h gid) fun _ x k => writeResult_launches (answer_launches k x) x

theorem holdGroup_launches (h : s.launches = m) (iss : Issue) (cause detail va : Nat) (dbl : Bool) :
    (s.holdGroup iss cause detail va dbl).launches = m :=
  each_launches (each_launches h fun _ _ k => k) fun _ _ k => ite_launches k k

theorem parkPage_launches (h : s.launches = m) (iss : Issue) (va : Nat) (wr : Bool) : (s.parkPage iss va wr).launches = m :=
  each_launches (s := ((s.settleLate iss.gid).addRecord iss.ctx _).2) (settleLate_launches h iss.gid) fun _ _ k => k

theorem waitHash_launches (h : s.launches = m) (iss : Issue) (slot page : Nat) : (s.waitHash iss slot page).launches = m := by
  unfold waitHash stall
  refine each_launches ?_ fun _ _ k => k
  split
  · exact h
  · exact h

theorem stall_launches (h : s.launches = m) (iss : Issue) : (s.stall iss).launches = m := each_launches h fun _ _ k => k

theorem accessDone_launches (h : s.launches = m) (core : Nat) (fs : List FibreId) : (s.accessDone core fs).launches = m := by
  refine each_launches h fun u f k => ?_
  split
  · exact (l1Acquire_memory u core).launches.trans k
  · exact k

theorem push_launches (h : s.launches = m) (core ctx : Nat) (f : FibreId) (ref : Dword) :
    (s.push core ctx f ref).launches = m := by
  unfold push
  dsimp only
  split
  · exact h
  · have done := accessDone_launches h core [f]
    have place := (translate_memory (s.accessDone core [f]) core ctx ((s.fibre f).stack - 8).toNat .write true).launches.trans done
    change (match (s.accessDone core [f]).translate core ctx ((s.fibre f).stack - 8).toNat .write true with
      | (s, .ok pa) => s.l1Store core f pa _ false false false
      | (s, _) => s).launches = m
    split
    · next e => exact (l1Store_memory ..).launches.trans (fst_launches place e)
    · next e => exact fst_launches place e

theorem enterHandler_launches (h : s.launches = m) (iss : Issue) (cause detail va : Nat) :
    (s.enterHandler iss cause detail va).launches = m :=
  each_launches (each_launches h fun _ _ k => k) fun _ f k => push_launches k iss.core iss.ctx f iss.pc

theorem raiseCodeHash_launches (h : s.launches = m) (iss : Issue) : (s.raiseCodeHash iss).launches = m :=
  settle_launches h iss.gid

theorem raise_launches (h : s.launches = m) (iss : Issue) (cause detail va : Nat) : (s.raise iss cause detail va).launches = m := by
  have settled := settle_launches h iss.gid
  have checked := (targetCheck_memory (s.settle iss.gid) iss.core iss.ctx ((s.settle iss.gid).ctx iss.ctx).trapvec
    true).launches.trans settled
  unfold raise
  dsimp only
  split
  · exact stall_launches h iss
  · split
    · split
      · next e => exact waitHash_launches (fst_launches checked e) iss _ _
      · next e => exact parkPage_launches (fst_launches checked e) iss _ _
      · next e =>
        have there := fst_launches checked e
        exact ite_launches (raiseCodeHash_launches there iss) (holdGroup_launches there iss ..)
      · next u e =>
        have there := fst_launches checked e
        have pushed := (pushAllCheck_memory (s := u) iss.core iss.ctx iss.lanes).launches.trans there
        split
        · exact stall_launches there iss
        · split
          · next e => exact enterHandler_launches (fst_launches pushed e) iss ..
          · next e => exact holdGroup_launches (fst_launches pushed e) iss ..
    · exact holdGroup_launches settled iss ..

theorem memFail_launches (h : s.launches = m) (iss : Issue) (x : Move) (wr : Bool) : (s.memFail iss x wr).launches = m := by
  unfold memFail
  split
  · exact parkPage_launches h iss _ wr
  · unfold moveFail
    split
    · exact h
    · exact ite_launches (raiseCodeHash_launches h _) (raise_launches h ..)
    · exact parkPage_launches h _ _ _
    · exact waitHash_launches h _ _ _

end State
end Sys2Proof.Machine
end

section
/-! What serving queues does to launches (08 R177; 23 R462): it may count children, and changes nothing else of a launch. -/

namespace Sys2Proof.Machine

/-- Every launch stays in its table, but for the number of its children. -/
structure CountsOnly (m : KV Launch) (s : State) : Prop where
  find : ∀ k l, m.find k = some l → ∃ n, s.launches.find k = some { l with children := n }

namespace CountsOnly

variable {m : KV Launch} {s t : State}

theorem refl (s : State) : CountsOnly s.launches s := ⟨fun _ l h => ⟨l.children, h⟩⟩

theorem of_launches (h : CountsOnly m s) (same : t.launches = s.launches) : CountsOnly m t := by
  refine ⟨fun k l found => ?_⟩
  rw [same]
  exact h.find k l found

theorem memory (h : CountsOnly m s) (k : SameButMemory s t) : CountsOnly m t := h.of_launches k.launches

theorem fst {α : Type} {p : State × α} {x : α} (h : CountsOnly m p.1) (e : p = (t, x)) : CountsOnly m t := by
  rw [e] at h
  exact h

theorem each {α : Type} {l : List α} {f : State → α → State} (h : CountsOnly m s)
    (hf : ∀ t x, CountsOnly m t → CountsOnly m (f t x)) : CountsOnly m (s.each l f) := State.each_keeps h hf

theorem branch {c : Prop} [Decidable c] (ht : CountsOnly m s) (hf : CountsOnly m t) : CountsOnly m (if c then s else t) := by
  split
  · exact ht
  · exact hf

theorem branch_fst {α : Type} {c : Prop} [Decidable c] {a b : State × α} (ha : CountsOnly m a.1) (hb : CountsOnly m b.1) :
    CountsOnly m (if c then a else b).1 := by
  split
  · exact ha
  · exact hb

end CountsOnly

namespace State

open CountsOnly

variable {m : KV Launch} {s : State}

theorem countChild_counts (h : CountsOnly m s) (r : Request) : CountsOnly m (s.countChild r) := by
  unfold countChild
  refine branch ⟨fun k l found => ?_⟩ h
  obtain ⟨n, now⟩ := h.find k l found
  by_cases e : k = (s.team (s.leadTeam r.iss.gid)).launch
  · subst e
    exact ⟨n + 1, KV.find_upd _ now⟩
  · exact ⟨n, (KV.find_upd_other _ _ e).trans now⟩

theorem qFlags_counts (h : CountsOnly m s) (pa : Nat) : CountsOnly m (s.qFlags pa) := by
  have read := h.memory (qRead_memory s pa)
  unfold qFlags
  dsimp only
  generalize s.qRead pa = x at read ⊢
  exact branch read (read.memory (qWrite_memory _ _ _))

theorem modRequest_counts (h : CountsOnly m s) (id : Nat) (f : Request → Request) : CountsOnly m (s.modRequest id f) :=
  h.of_launches rfl

theorem queues_counts (h : CountsOnly m s) (q : KV Waiters) : CountsOnly m { s with queues := q } := h.of_launches rfl

theorem qReserve_counts (h : CountsOnly m s) (pa ctx : Nat) (b : QBlock) (pieces : List (Nat × Nat))
    (data : List (List Byte)) (request core : Option Nat) :
    CountsOnly m (s.qReserve pa ctx b pieces data request core).2 := h.of_launches (qReserve_launches ..)

theorem qUnspill_counts (h : CountsOnly m s) (pa : Nat) : CountsOnly m (s.qUnspill pa) := by
  unfold qUnspill
  refine branch h ?_
  split
  · exact qFlags_counts (modRequest_counts h _ _) _
  · exact h

theorem qLeave_counts (h : CountsOnly m s) (id : Nat) (r : Request) : CountsOnly m (s.qLeave id r) := by
  unfold qLeave
  exact qUnspill_counts (qFlags_counts (queues_counts (modRequest_counts h _ _) _) r.pa) r.pa

theorem unpark_launches (h : s.launches = m) (id : Nat) (r : Request) : (s.unpark id r).launches = m :=
  each_launches (s := { s with requests := s.requests.del id }) h fun _ _ k => k

theorem qDeliver_counts (h : CountsOnly m s) (id : Nat) (r : Request) (e : QFail) : CountsOnly m (s.qDeliver id r e) := by
  have same : ((s.unpark id r).memFail r.iss (qMove e) (r.kind != 1)).launches = s.launches :=
    memFail_launches (unpark_launches rfl id r) r.iss _ _
  unfold qDeliver
  exact h.of_launches same

theorem qDrop_counts (h : CountsOnly m s) (id : Nat) (r : Request) (e : QFail) : CountsOnly m (s.qDrop id r e).1 :=
  qDeliver_counts (qLeave_counts h id r) id r e

theorem homeCheck_memory (s : State) (r : Request) (n : Nat) : SameButMemory s (s.homeCheck r n).1 := by
  have read := qRead_memory s r.pa
  unfold homeCheck
  generalize s.qRead r.pa = x at read ⊢
  obtain ⟨b, u⟩ := x
  dsimp only
  split
  · exact .refl s
  · split
    · exact read
    · split
      · exact read
      · split
        · exact read
        · exact read

theorem ownAndCheck_counts (h : CountsOnly m s) (r : Request) (n : Nat) :
    CountsOnly m ((s.qOwn r.iss.core r.pa).homeCheck r n).1 :=
  (h.memory (cleanOwn_memory s r.iss.core _)).memory (homeCheck_memory _ r n)

theorem grantEnq_counts (h : CountsOnly m s) (id : Nat) (r : Request) : CountsOnly m (s.grantEnq id r).1 := by
  have checked := ownAndCheck_counts h r r.data.length
  unfold grantEnq
  dsimp only
  split
  · next e => exact qDrop_counts (checked.fst e) id r _
  · next u b e =>
    have slots := (checked.fst e).memory (qSlots_memory u r.iss.ctx b (qRtail b) r.data.length true)
    refine branch_fst (checked.fst e) ?_
    split
    · next e => exact qDrop_counts (slots.fst e) id r _
    · next t ps e =>
      have read := (qLeave_counts (slots.fst e) id r).memory (qRead_memory _ r.pa)
      generalize (t.qLeave id r).qRead r.pa = x at read ⊢
      exact countChild_counts ((modRequest_counts (qReserve_counts read ..) id _).memory (qRemote_memory _ _ _)) r

theorem grantDeq_counts (h : CountsOnly m s) (id : Nat) (r : Request) : CountsOnly m (s.grantDeq id r).1 := by
  have checked := ownAndCheck_counts h r r.ranks.length
  unfold grantDeq
  dsimp only
  split
  · next e => exact qDrop_counts (checked.fst e) id r _
  · next u b e =>
    have slots := (checked.fst e).memory (qSlots_memory u r.iss.ctx b (qHeadIdx b) r.ranks.length false)
    refine branch_fst (checked.fst e) ?_
    split
    · next e => exact qDrop_counts (slots.fst e) id r _
    · next t ps e =>
      have read := (qLeave_counts (slots.fst e) id r).memory (qRead_memory _ r.pa)
      generalize (t.qLeave id r).qRead r.pa = x at read ⊢
      have dropped := read.each (l := ps) (f := fun s p => s.staleDrop r.iss.core (wordsOf p.1 p.2))
        fun v p k => k.memory (staleDrop_memory v r.iss.core (wordsOf p.1 p.2))
      exact (modRequest_counts (dropped.memory (qWrite_memory _ r.pa _)) id _).memory (qRemote_memory _ _ _)

theorem dequeueHead_counts (h : CountsOnly m s) (pa : Nat) :
    CountsOnly m (match s.headRequest (s.queues.getD pa {}).deq with
      | some (i, r) => s.grantDeq i r
      | none => (s, false)).1 := by
  split
  · exact grantDeq_counts h _ _
  · exact h

theorem qServeOne_counts (h : CountsOnly m s) (pa : Nat) : CountsOnly m (s.qServeOne pa).1 := by
  unfold qServeOne
  dsimp only
  split
  · exact dequeueHead_counts h pa
  · next i r _ =>
    have granted := grantEnq_counts h i r
    split
    · next e => exact granted.fst e
    · next e => exact dequeueHead_counts (granted.fst e) pa

theorem qServe_counts (h : CountsOnly m s) (pa n : Nat) : CountsOnly m (s.qServe pa n) := by
  induction n generalizing s with
  | zero => exact h
  | succ n ih =>
    have one := qServeOne_counts h pa
    unfold qServe
    split
    · next e => exact ih (one.fst e)
    · next e => exact one.fst e

end State
end Sys2Proof.Machine
end

section
/-! What a frame that is sent leaves alone (14 R302). -/

namespace Sys2Proof.Machine
namespace State

variable (s : State)

theorem pump_frame (n : Nat) : { s.pump n with dev := s.dev, wire := s.wire } = s := by
  unfold pump
  dsimp only
  split
  · rfl
  · split <;> rfl

theorem transmit_frame (n : Nat) (v6 : Bool) (ip : Nat) (pkt : Sent) :
    { s.transmit n v6 ip pkt with dev := s.dev, wire := s.wire } = s := by
  unfold transmit
  split
  · rfl
  · have sent (u : State) (o : Outgoing) (h : { u with dev := s.dev, wire := s.wire } = s) :
        { u.sendOut n o with dev := s.dev, wire := s.wire } = s :=
      (congrArg (fun z : State => { z with dev := s.dev, wire := s.wire })
        (pump_frame (u.modPort n fun p => { p with out := p.out ++ [o] }) n)).trans h
    dsimp only
    refine sent _ _ ?_
    split <;> rfl

theorem replyAll_frame (sid kind ctxid seq : Nat) (ps : List (List Byte)) :
    { s.replyAll sid kind ctxid seq ps with dev := s.dev, wire := s.wire } = s := by
  unfold replyAll
  split
  · rfl
  · refine each_keeps (P := fun t : State => { t with dev := s.dev, wire := s.wire } = s) rfl fun t p h => ?_
    exact (congrArg (fun z : State => { z with dev := s.dev, wire := s.wire }) (transmit_frame t _ _ _ _)).trans h

end State
end Sys2Proof.Machine
end

section
/-! The end of a context (12 R494; 14 R303). -/

namespace Sys2Proof.Machine

/-- An update of an entry, listed or not. -/
theorem KV.find_upd_eq {β : Type} (m : KV β) (a : Nat) (f : β → β) : (m.upd a f).find a = (m.find a).map f := by
  unfold KV.upd
  cases h : m.find a with
  | none => exact h
  | some v => exact KV.find_put m a (f v)

/-- A launch that completes with an error as its context ends. -/
structure Launch.Closed (cause detail : Nat) (l : Launch) : Prop where
  err : l.err = true
  cause : l.cause = cause
  detail : l.detail = detail
  unstarted : l.unstarted = []
  running : l.running = []
  phase : 1 ≤ l.phase

/-- A context has ended, none of its groups is left, and the launches of a table are still listed. -/
structure Over (c : Nat) (m : KV Launch) (s : State) : Prop where
  ended : (s.ctx c).ended = true
  groups : ∀ x ∈ s.groups, x.2.ctx ≠ c
  launches : CountsOnly m s

namespace Over

variable {c : Nat} {m : KV Launch} {s t : State}

theorem of_same (h : Over c m s) (contexts : t.contexts = s.contexts) (groups : t.groups = s.groups)
    (launches : t.launches = s.launches) : Over c m t where
  ended := by
    have same : t.ctx c = s.ctx c := by unfold State.ctx; rw [contexts]
    rw [same]
    exact h.ended
  groups := groups ▸ h.groups
  launches := h.launches.of_launches launches

theorem modTeam (h : Over c m s) (tid : Nat) (f : Team → Team) : Over c m (s.modTeam tid f) := h.of_same rfl rfl rfl

theorem modFibre (h : Over c m s) (f : FibreId) (g : Fibre → Fibre) : Over c m (s.modFibre f g) := h.of_same rfl rfl rfl

theorem modCore (h : Over c m s) (n : Nat) (f : Core → Core) : Over c m (s.modCore n f) := h.of_same rfl rfl rfl

theorem badElse (h : Over c m s) (l : List Place) : Over c m { s with badElse := l } := h.of_same rfl rfl rfl

theorem fresh (h : Over c m s) (n : Nat) : Over c m { s with fresh := n } := h.of_same rfl rfl rfl

/-- A listed group changes, and belongs to the same context. -/
theorem modGroup (h : Over c m s) {gid : Nat} {g : Group} (listed : s.groups.find gid = some g) (f : Group → Group)
    (ctx : ∀ x : Group, (f x).ctx = x.ctx) : Over c m (s.modGroup gid f) where
  ended := h.ended
  groups x hx := by
    rcases KV.mem_put hx with rfl | hx
    · have here : s.group gid = g := by unfold State.group KV.getD; rw [listed]; rfl
      change (f (s.group gid)).ctx ≠ c
      rw [ctx, here]
      exact h.groups _ (KV.mem_of_find listed)
    · exact h.groups x hx
  launches := h.launches.of_launches rfl

theorem gWriteNow (h : Over c m s) {gid : Nat} {g : Group} (listed : s.groups.find gid = some g) (n : Nat) (x : Dword) :
    Over c m (s.gWriteNow gid n x) := by
  unfold State.gWriteNow
  dsimp only
  split
  · exact (h.badElse _).modTeam _ _
  · refine Over.modGroup (h.badElse _) (g := g) ?_ _ ?_
    · exact listed
    · exact fun _ => rfl

theorem wakeTo (h : Over c m s) (f : FibreId) (ref : Dword) : Over c m (s.wakeTo f ref) := by
  unfold State.wakeTo State.wake
  exact (h.modFibre f _).modFibre f _

theorem each {α : Type} {l : List α} {f : State → α → State} (h : Over c m s) (hf : ∀ t x, Over c m t → Over c m (f t x)) :
    Over c m (s.each l f) := State.each_keeps h hf

/-- Only a group with lanes is answered, and such a group is listed. -/
theorem answerBanks (h : Over c m s) (gid : Nat) (mask : Dword) : Over c m (s.answerBanks gid mask) := by
  unfold State.answerBanks
  dsimp only
  split
  · exact h
  · next x r waits =>
    have lane : x ∈ s.liveLanes gid := List.mem_of_mem_filter (waits ▸ List.mem_cons_self)
    cases listed : s.groups.find gid with
    | none =>
      have nobody : s.group gid = {} := by unfold State.group KV.getD; rw [listed]; rfl
      unfold State.liveLanes at lane
      rw [nobody] at lane
      exact absurd (List.mem_of_mem_filter lane) List.not_mem_nil
    | some g => exact (h.gWriteNow listed _ _).each fun t y k => k.wakeTo y.2 _

theorem takeBanks (h : Over c m s) (tid first n : Nat) : Over c m (s.takeBanks tid first n) := by
  unfold State.takeBanks
  exact (h.fresh _).modTeam tid _

theorem serveBanks_go (core k : Nat) (h : Over c m s) : Over c m (State.serveBanks.go core k s) := by
  induction k generalizing s with
  | zero => exact h
  | succ k ih =>
    unfold State.serveBanks.go
    split
    · exact h
    · have pop (g : Core → Core) := h.modCore core g
      dsimp only
      split
      · exact ih ((pop _).answerBanks _ _)
      · split
        · exact ih (((pop _).takeBanks _ _ _).answerBanks _ _)
        · exact h

theorem serveBanks (h : Over c m s) (core : Nat) : Over c m (s.serveBanks core) := serveBanks_go core _ (h.modCore core _)

theorem serveAllBanks (h : Over c m s) : Over c m s.serveAllBanks := h.each fun _ core k => k.serveBanks core

theorem replyAll (h : Over c m s) (sid kind ctxid seq : Nat) (ps : List (List Byte)) :
    Over c m (s.replyAll sid kind ctxid seq ps) := by
  have frame := State.replyAll_frame s sid kind ctxid seq ps
  exact h.of_same (congrArg State.contexts frame :) (congrArg State.groups frame :) (congrArg State.launches frame :)

end Over

namespace State

variable {s : State} {c : Nat} {m : KV Launch}

/-- The requests of a context leave their queues, and those that wait behind them are served (12 R494). -/
def unqueued (s : State) (c : Nat) : State :=
  let rs := s.requests.filter fun x => x.2.iss.ctx == c
  let s := s.each rs fun s x => { s with requests := s.requests.del x.1 }.qLeave x.1 x.2
  s.each (nub (rs.map fun x => x.2.pa)) fun s pa => s.qServeAll pa

theorem unqueued_counts (h : CountsOnly m s) (c : Nat) : CountsOnly m (s.unqueued c) := by
  have without (u : State) (id : Nat) (k : CountsOnly m u) : CountsOnly m { u with requests := u.requests.del id } :=
    k.of_launches rfl
  exact (h.each fun u x k => qLeave_counts (without u x.1 k) x.1 x.2).each fun u pa k => qServe_counts k pa _

theorem killContext_over (h : CountsOnly m s) (c : Nat) : Over c m (s.killContext c) where
  ended := by
    unfold killContext
    dsimp only
    rw [ctx_modCtx]
  groups x hx := by
    have kept : (s.killContext c).groups = (s.unqueued c).groups.filter fun x => x.2.ctx != c := rfl
    rw [kept] at hx
    simpa using (List.mem_filter.1 hx).2
  launches := (unqueued_counts h c).of_launches rfl

/-- How a launch closes as its context ends, with the number of its children and where its teams had got to. -/
def closing (cause detail children : Nat) (made : Option Nat) (l : Launch) : Launch := { l with
  phase := max l.phase 1, err := true, cause := cause, detail := detail, unstarted := [], running := []
  children := children, heldBy := none, started := made.getD l.started }

theorem closing_closed (cause detail children : Nat) (made : Option Nat) (l : Launch) :
    (closing cause detail children made l).Closed cause detail := ⟨rfl, rfl, rfl, rfl, rfl, Nat.le_max_right ..⟩

/-- The launches of a list are closed. -/
def closeAll (s : State) (cause detail : Nat) (keys : List Nat) : State := s.each keys fun u k =>
  u.modLaunch k (closing cause detail (u.launches.filter fun x => x.2.parent == k).length ((u.graphs.find k).map (·.made)))

theorem closeAll_closed {cause detail k : Nat} {keys : List Nat} {l : Launch} (listed : s.launches.find k = some l)
    (mem : k ∈ keys) : ∃ x, (s.closeAll cause detail keys).launches.find k = some x ∧ x.Closed cause detail := by
  have there : ∃ x, (s.closeAll cause detail keys).launches.find k = some x :=
    each_keeps (P := fun u => ∃ x, u.launches.find k = some x) ⟨l, listed⟩ fun u n ⟨x, hx⟩ => by
      by_cases e : k = n
      · subst e; exact ⟨_, KV.find_upd _ hx⟩
      · exact ⟨x, (KV.find_upd_other _ _ e).trans hx⟩
  obtain ⟨x, found⟩ := there
  have closed (u : State) (children : Nat) (made : Option Nat) {x : Launch}
      (hx : (u.modLaunch k (closing cause detail children made)).launches.find k = some x) : x.Closed cause detail := by
    obtain ⟨l, _, rfl⟩ := Option.map_eq_some_iff.1 ((KV.find_upd_eq u.launches k _).symm.trans hx)
    exact closing_closed cause detail children made l
  refine ⟨x, found, each_reaches (P := fun u => ∀ x, u.launches.find k = some x → x.Closed cause detail) (fun u n h x hx => ?_)
    mem (fun u x hx => closed u _ _ hx) s x found⟩
  by_cases e : k = n
  · subst e
    exact closed u _ _ hx
  · exact h x ((KV.find_upd_other _ _ e).symm.trans hx)

end State

/-- CTXEND of a context (12 R494): its launches are closed, its groups are gone, and it has ended. -/
theorem endContext_over (s : State) (c cause detail : Nat) :
    Over c (s.closeAll cause detail ((s.launches.filter fun x => x.2.ctx == c).map (·.1))).launches
      (s.endContext c cause detail) := by
  have killed := State.killContext_over (.refl (s.closeAll cause detail ((s.launches.filter fun x => x.2.ctx == c).map (·.1)))) c
  unfold State.endContext
  dsimp only
  refine Over.serveAllBanks ?_
  split
  · exact killed.replyAll _ _ _ _ _
  · exact killed

theorem doCtxend_ends {s : State} {p : List Byte} {c : Nat} (hc : pf p 8 2 = c) (ok : fieldsOk p 10 [(8, 2)] = true)
    (named : s.named c = true) : ∃ t, s.doCtxend p = (t, some (0, [])) ∧ (t.ctx c).ended = true ∧
      (∀ x ∈ t.groups, x.2.ctx ≠ c) ∧ ∀ k l, s.launches.find k = some l → l.ctx = c →
        ∃ m, t.launches.find k = some m ∧ m.Closed 0x1C 1 := by
  subst hc
  have ends := endContext_over s (pf p 8 2) cENDED 1
  refine ⟨_, if_neg (by simp [ok, named]), ends.ended, ends.groups, fun k l listed mine => ?_⟩
  obtain ⟨x, found, closed⟩ := State.closeAll_closed (cause := cENDED) (detail := 1) listed
    (keys := (s.launches.filter fun x => x.2.ctx == pf p 8 2).map (·.1))
    (List.mem_map.2 ⟨(k, l), List.mem_filter.2 ⟨KV.mem_of_find listed, by simp [mine]⟩, rfl⟩)
  obtain ⟨n, now⟩ := ends.launches.find k x found
  exact ⟨_, now, closed.err, closed.cause, closed.detail, closed.unstarted, closed.running, closed.phase⟩

end Sys2Proof.Machine
end

section
/-! ATTACH (14 R301, R304, R305). -/

namespace Sys2Proof.Machine
namespace State

variable {s : State} {f : Frame}

/-- The session that an ATTACH opens for its sender (14 R304). -/
def newSession (s : State) (f : Frame) (hash skey : List Byte) : Session :=
  { sender := f.sender, port := f.port, key := hash, owner := hash == s.ownerHash, skey := skey, used := s.dev.stamp + 1 }

/-- The sender's other sessions end, and there is room for one more (14 R305). -/
def cleared (s : State) (f : Frame) : State :=
  (({ s with fresh := s.fresh + 1 } : State).modDev fun d => { d with
    sessions := d.sessions.filter fun x => x.2.sender != f.sender }).makeRoom

/-- An ATTACH opens its session (14 R304, R305). -/
def openSession (s : State) (f : Frame) (hash skey : List Byte) : State :=
  let u := s.cleared f
  u.newId.2.modDev fun d => { d with
    stamp := d.stamp + 1, sessions := d.sessions.put u.nextId (u.newSession f hash skey) }

/-- Making room only takes sessions away. -/
theorem makeRoom_sessions (s : State) :
    ∃ l, s.makeRoom = (s.modDev fun d => { d with sessions := l }) ∧ ∀ y ∈ l, y ∈ s.dev.sessions := by
  unfold makeRoom
  dsimp only
  split
  · exact ⟨s.dev.sessions, rfl, fun _ h => h⟩
  · split
    · exact ⟨_, rfl, fun _ h => KV.mem_del h⟩
    · split
      · exact ⟨_, rfl, fun _ h => KV.mem_del h⟩
      · exact ⟨s.dev.sessions, rfl, fun _ h => h⟩

/-- Only the sessions and the fresh names differ once there is room, and no session of the sender is left. -/
theorem cleared_sessions (s : State) (f : Frame) :
    ∃ l, s.cleared f = ({ s with fresh := s.fresh + 1 } : State).modDev (fun d => { d with sessions := l }) ∧
      ∀ y ∈ l, y.2.sender ≠ f.sender := by
  obtain ⟨l, room, fewer⟩ := makeRoom_sessions (({ s with fresh := s.fresh + 1 } : State).modDev fun d => { d with
    sessions := d.sessions.filter fun x => x.2.sender != f.sender })
  exact ⟨l, room, fun y hy => by simpa using (List.mem_filter.1 (fewer y hy)).2⟩

/-- The new session is the sender's only one, and but for the sessions and the fresh names nothing has changed. -/
theorem openSession_opens (s : State) (f : Frame) (hash skey : List Byte) : ∃ id e,
    (s.openSession f hash skey).dev.sessions.find id = some e ∧ e = s.newSession f hash skey ∧
      (∀ y ∈ (s.openSession f hash skey).dev.sessions, y.2.sender = f.sender → y = (id, e)) ∧
      { (s.openSession f hash skey).dev with sessions := s.dev.sessions, stamp := s.dev.stamp } = s.dev ∧
      { s.openSession f hash skey with dev := s.dev, fresh := s.fresh, nextId := s.nextId } = s := by
  obtain ⟨l, cleared, others⟩ := cleared_sessions s f
  unfold openSession
  rw [cleared]
  refine ⟨_, _, KV.find_put .., rfl, fun y hy mine => ?_, rfl, rfl⟩
  rcases KV.mem_put hy with new | old
  · exact new
  · exact absurd mine (others y old)

/-- What an ATTACH with all its fields does (14 R304): the key's hash, the signature, and the agreement are checked in
turn. -/
theorem doAttach_eq (ok : fieldsOk f.payload 912 [(8, 97), (112, 800)] = true) {key hash nonce host mine : List Byte}
    {secret : Nat}
    (hk : (f.payload.drop 144).take 384 = key) (hh : sha384 key = hash) (hn : (f.payload.drop 112).take 32 = nonce)
    (hx : (f.payload.drop 8).take 97 = host) (hs : p384Secret (Config.ephemeral s.fresh) = secret)
    (hm : p384Public secret = mine) :
    s.doAttach f =
      if hash != s.ownerHash && !s.dev.peers.any fun x => x.2.1 == hash then (s, refused1)
      else if !pssVerify key (f.payload.take 528) ((f.payload.drop 528).take 384) then (s, refused1)
      else match ecdh384 secret host with
        | none => (s, refused1)
        | some x => (s.openSession f hash (hkdf384 nonce x (host ++ mine)),
          some (0, s.report nonce 0 (host ++ leBytes 7 0 ++ mine ++ leBytes 7 0))) := by
  subst hk hh hn hx hs hm
  exact (if_neg (by rw [ok]; decide)).trans rfl

end State

open State

theorem attach : Claims.Attach := by
  intro s f p key known signed host mine nonce ok
  have all := doAttach_eq (s := s) ok (key := key) (nonce := nonce) (host := host) (secret := mine) rfl rfl rfl rfl rfl rfl
  have unknown : (sha384 key != s.ownerHash && !s.dev.peers.any fun x => x.2.1 == sha384 key) = true ↔ ¬known := by
    simp only [known, Bool.and_eq_true, bne_iff_ne, Bool.not_eq_true', List.any_eq_false, beq_iff_eq, not_or,
      not_exists, not_and, ne_eq]
  refine ⟨fun stranger => ?_, fun friend wrong => ?_, fun friend right nowhere => ?_, fun x friend right agreed => ?_⟩
  · rw [all, if_pos (unknown.2 stranger)]
    rfl
  · rw [all, if_neg (fun h => unknown.1 h friend), if_pos (by rw [show pssVerify _ _ _ = false from wrong]; rfl)]
    rfl
  · rw [all, if_neg (fun h => unknown.1 h friend), if_neg (by rw [show pssVerify _ _ _ = true from right]; decide), nowhere]
    rfl
  · rw [all, if_neg (fun h => unknown.1 h friend), if_neg (by rw [show pssVerify _ _ _ = true from right]; decide), agreed]
    obtain ⟨id, e, found, rfl, only, dev, rest⟩ :=
      openSession_opens s f (sha384 key) (hkdf384 nonce x (host ++ p384Public mine))
    exact ⟨_, id, _, rfl, found, rfl, rfl, rfl, beq_eq_decide .., rfl, rfl, rfl, rfl, only, dev, rest⟩

end Sys2Proof.Machine
end

section
/-! The management operations together (14 R306, R307, R312). -/

namespace Sys2Proof.Machine

open State

theorem managementEffects : Claims.ManagementEffects := by
  intro s p
  refine ⟨fun ok => if_neg (by simp [ok]), doHealth_answer, fun ok names => if_neg ?_, ?_, ?_, fun ok named => ?_, ?_, ?_, ?_, ?_,
    ?_, ?_, ?_, ?_, fun ok fits => if_neg ?_, ?_⟩
  · rcases names with h | h <;> simp [ok, h]
  · intro i n ok few contexts
    refine ⟨fun add => ?_, fun drop => ?_⟩
    · rw [doPeer_eq rfl rfl ok few contexts (by omega), add]
      exact ⟨rfl, KV.find_put ..⟩
    · rw [doPeer_eq rfl rfl ok few contexts (by omega), drop]
      rfl
  · intro n ok partition drain drain' flags few faultq block root table area page size room c
    rw [doCtxcreate_eq ok partition drain drain' flags few faultq block root table area page size room]
    exact ⟨rfl, ctx_setCtx ..⟩
  · obtain ⟨t, runs, ended, groups, closed⟩ := doCtxend_ends rfl ok named
    refine ⟨t, runs, ended, groups, fun k l listed mine => ?_⟩
    obtain ⟨m, found, x⟩ := closed k l listed mine
    exact ⟨m, found, x.err, x.cause, x.detail, x.unstarted, x.running, x.phase⟩
  · intro c cb ok named flags small block new
    have fresh : (s.ctx c).queues.any (·.1 == cb) = false := by simpa [List.any_eq_false] using new
    rw [doBindq_eq rfl rfl ok named (bits_small (by omega)) small block, bit_small (by omega), if_neg Bool.false_ne_true, fresh,
      if_neg Bool.false_ne_true]
    refine ⟨fun room => ?_, fun full => if_pos full⟩
    rw [if_neg (Nat.not_le.2 room), Nat.mod_eq_of_lt flags]
    exact ⟨rfl, congrArg Context.queues (ctx_modCtx ..)⟩
  · intro c cb l ok named small block
    refine ⟨fun drop => ?_, fun flags ⟨q, mem, key⟩ => ?_⟩
    · rw [doBindq_eq rfl rfl ok named (by rw [drop]; rfl) small block, drop]
      rfl
    · have bound : (s.ctx c).queues.any (·.1 == cb) = true := List.any_eq_true.2 ⟨q, mem, beq_iff_eq.2 key⟩
      rw [doBindq_eq rfl rfl ok named (bits_small (by omega)) small block, bit_small (by omega), if_neg Bool.false_ne_true,
        if_pos bound, Nat.mod_eq_of_lt flags]
      simp only [beq_iff_eq]
      rfl
  · intro c ok named few small place page
    refine ⟨fun empties => ?_, fun loads => ?_⟩
    · rw [doInstall_eq rfl rfl ok named few (by omega) small place page, empties]
      rfl
    · rw [doInstall_eq rfl rfl ok named few (by omega) small place page, loads]
      rfl
  · intro c ok named small page here alone sid seq
    rw [doSave_eq rfl ok named small page here alone]
    refine ⟨fun short => if_pos short, fun fits => ?_⟩
    rw [if_neg (by omega)]
    exact ⟨rfl, congrArg Context.saver (ctx_modCtx ..)⟩
  · intro c map ok named small page
    rw [doRestore_eq rfl ok named small page rfl]
    refine ⟨fun here => ?_, fun saved odd => ?_, fun saved even refused => ?_, fun saved even fine full => ?_,
      fun saved even fine fits => ?_⟩
    · rw [here]; rfl
    · rw [saved, odd]; rfl
    · rw [saved, even, refused]; rfl
    · rw [saved, even, fine, full]; rfl
    · rw [saved, even, fine, fits]; rfl
  · intro c ok named flags fresh small
    rw [doMreg_registers rfl ok named flags fresh small]
    exact ⟨_, rfl, (congrArg (fun x : Context => x.regions.find _) (ctx_modCtx ..)).trans (KV.find_put ..)⟩
  · intro c ok named
    refine ⟨?_, fun q close link found => ?_⟩
    · intro flags link fresh _ _
      rw [doQpopen_opens rfl rfl ok named flags link fresh]
      obtain ⟨none', low, high⟩ := freeQpn_free s
      exact ⟨fun full => if_pos full, fun room => ⟨_, none', low, high, if_neg (by omega)⟩⟩
    · rw [doQpopen_closes rfl ok named close link found]
      refine ⟨fun other => if_neg (by simpa using other), fun mine => ⟨_, if_pos (by simpa using mine), rfl, fun e he => ?_,
        fun e he other => ?_, rfl⟩⟩
      · rw [closeQp_endpoints] at he
        simpa using (List.mem_filter.1 he).2
      · rw [closeQp_endpoints]
        exact List.mem_filter.2 ⟨he, by simpa using other⟩
  · intro c ok named
    refine ⟨fun none' sorted => ?_, fun q pair found mine => ?_⟩
    · rw [doEpset_eq rfl none' ok named]
      exact ⟨rfl, (congrArg (fun x : Context => x.endpoints.find _) (ctx_modCtx ..)).trans (KV.find_del sorted)⟩
    · have here : ((s.qps.getD (pf p 12 3) { ctx := 0, port := 0 }).ctx != c) = false := by
        unfold KV.getD
        rw [found]
        simpa using mine
      rw [doEpset_eq rfl rfl ok named, if_neg (by simpa using pair), here, if_neg Bool.false_ne_true]
      exact ⟨rfl, (congrArg (fun x : Context => x.endpoints.find _) (ctx_modCtx ..)).trans (KV.find_put ..)⟩
  · simp [ok]
    omega
  · intro c ok named few
    refine ⟨fun sets => ?_, fun clears sorted => ?_⟩
    · rw [doBreak_eq rfl ok named few (by omega), sets]
      exact ⟨rfl, (congrArg (fun x : Context => x.breaks.find _) (ctx_modCtx ..)).trans (KV.find_put ..)⟩
    · rw [doBreak_eq rfl ok named few (by omega), clears]
      exact ⟨rfl, (congrArg (fun x : Context => x.breaks.find _) (ctx_modCtx ..)).trans (KV.find_del sorted)⟩

/-- Settles O53: each frame's way to its operation, the checks that refuse a request, what each operation leaves behind once
they pass (the end of a context by what serving queues and banks cannot undo), and the session that ATTACH opens. -/
theorem management : Obligations.Management := ⟨managementFrames, illegalRequests, managementEffects, attach⟩

end Sys2Proof.Machine
end

section
/-! Results of variable latency (04 R90): what the results of several lanes list, and the whole end of their instruction. -/

namespace Sys2Proof.Machine

theorem KV.put_last {β : Type} {m : KV β} {a : Nat} (v : β) (h : ∀ x ∈ m, x.1 < a) : m.put a v = m ++ [(a, v)] := by
  induction m with
  | nil => rfl
  | cons x r ih =>
    obtain ⟨k, w⟩ := x
    have hk : k < a := h (k, w) List.mem_cons_self
    rw [KV.put, if_neg (Nat.lt_asymm hk), if_neg (Nat.ne_of_gt hk), ih fun y hy => h y (List.mem_cons_of_mem _ hy)]
    rfl

namespace State

/-- A pending result that is listed for one of some lanes' results. -/
def IsResultOf (rs : List ((Nat × FibreId) × LaneRes)) (p : Sys2Proof.Machine.Pending) : Prop :=
  ∃ x ∈ rs, p.fib = x.1.2 ∧ p.dests = x.2.dests ∧ p.dests ≠ [] ∧ p.load = none ∧ p.count = []

/-- The results of some lanes are listed, each under a number of its own, beside those that were listed before. -/
structure ListsResults (rs : List ((Nat × FibreId) × LaneRes)) (s t : State) : Prop where
  frame : SameButResults s t
  fibre : ∀ f, t.fibre f = s.fibre f
  ids : ∀ x ∈ t.pending, x.1 < t.nextId
  kept : ∀ id p, s.pending.find id = some p → t.pending.find id = some p
  made : ∀ id p, t.pending.find id = some p → s.pending.find id = some p ∨ IsResultOf rs p
  length : t.pending.length = s.pending.length + (rs.filter fun x => !x.2.dests.isEmpty).length

variable {s t u : State} {iss : Issue}

theorem ListsResults.nil (ids : ∀ x ∈ s.pending, x.1 < s.nextId) : ListsResults [] s s :=
  ⟨.refl s, fun _ => rfl, ids, fun _ _ h => h, fun _ _ h => .inl h, rfl⟩

theorem ListsResults.append {l r : List ((Nat × FibreId) × LaneRes)} (h : ListsResults l s t) (k : ListsResults r t u) :
    ListsResults (l ++ r) s u where
  frame := h.frame.trans k.frame
  fibre f := (k.fibre f).trans (h.fibre f)
  ids := k.ids
  kept id p hp := k.kept id p (h.kept id p hp)
  made id p hp := by
    rcases k.made id p hp with hp | ⟨x, hx, is⟩
    · exact (h.made id p hp).imp_right fun ⟨x, hx, is⟩ => ⟨x, List.mem_append_left _ hx, is⟩
    · exact .inr ⟨x, List.mem_append_right _ hx, is⟩
  length := by rw [k.length, h.length, List.filter_append, List.length_append, Nat.add_assoc]

theorem addResult_lists (ids : ∀ x ∈ s.pending, x.1 < s.nextId) (x : (Nat × FibreId) × LaneRes) :
    ListsResults [x] s (s.addResult iss x) := by
  unfold addResult
  by_cases hd : x.2.dests = []
  · have : x.2.dests.isEmpty = true := List.isEmpty_iff.2 hd
    rw [if_pos this]
    exact ⟨.refl s, fun _ => rfl, ids, fun _ _ h => h, fun _ _ h => .inl h, by simp [hd]⟩
  rw [if_neg (by simpa using hd)]
  have listed := addPending_pending s iss x.1.2 x.2.dests [] none
  have last := listed.trans (KV.put_last _ ids)
  refine ⟨addPending_results s iss _ _ _ _, fun _ => rfl, fun y hy => ?_, fun id p hp => ?_, fun id p hp => ?_, ?_⟩
  · rw [addPending_nextId]
    rw [listed] at hy
    rcases KV.mem_put hy with rfl | hy
    · exact Nat.lt_succ_self _
    · exact Nat.lt_succ_of_lt (ids y hy)
  · rwa [addPending_keeps s iss _ _ _ _ (ids _ (KV.mem_of_find hp))]
  · rw [listed] at hp
    by_cases e : id = s.nextId
    · subst e
      rw [KV.find_put] at hp
      cases hp
      exact .inr ⟨x, List.mem_singleton_self x, rfl, rfl, hd, rfl, rfl⟩
    · rw [KV.find_put_other _ e] at hp
      exact .inl hp
  · rw [last]; simp [hd]

theorem each_addResult_lists (ids : ∀ x ∈ s.pending, x.1 < s.nextId) (rs : List ((Nat × FibreId) × LaneRes)) :
    ListsResults rs s (s.each rs fun s x => s.addResult iss x) := by
  induction rs generalizing s with
  | nil => exact .nil ids
  | cons x r ih =>
    have first := addResult_lists (iss := iss) ids x
    exact first.append (ih first.ids)

/-- Flags of lanes are all that setting them changes of a fibre. -/
theorem setFlags_only (s : State) (rs : List ((Nat × FibreId) × LaneRes)) (f : FibreId) :
    { (s.setFlags rs).fibre f with fpflags := (s.fibre f).fpflags, bfflags := (s.fibre f).bfflags } = s.fibre f := by
  rw [(setFlags_fibre s rs).2]
  exact (foldl_obs_same (Q := fun _ => True)
    (ob := fun z : Fibre => { z with fpflags := (s.fibre f).fpflags, bfflags := (s.fibre f).bfflags })
    (step := fun y (x : (Nat × FibreId) × LaneRes) => withFlags x.2 y) (fun _ _ _ _ => ⟨trivial, rfl⟩) trivial).2

/-- A fibre without a result keeps its flags. -/
theorem setFlags_other (s : State) {rs : List ((Nat × FibreId) × LaneRes)} {f : FibreId} (h : ∀ x ∈ rs, x.1.2 ≠ f) :
    (s.setFlags rs).fibre f = s.fibre f := by
  rw [(setFlags_fibre s rs).2, List.filter_eq_nil_iff.2 (by simpa using h)]
  rfl

end State
end Sys2Proof.Machine

open Sys2Proof Sys2Proof.Machine Sys2Proof.Machine.State

/-- Settles O4: an instruction of variable latency sets flags, lists results, pops and moves on, and each of these leaves
what the others change. -/
theorem variableLatencyResult : Obligations.VariableLatencyResult := by
  intro s iss act i rs ha hf he ids sub t u
  have flags := (setFlags_fibre s rs).1
  have ids' : ∀ x ∈ (s.setFlags rs).pending, x.1 < (s.setFlags rs).nextId := by
    have next : (s.setFlags rs).nextId = s.nextId := (congrArg State.nextId flags.1 :)
    rw [flags.pending, next]; exact ids
  let w := (s.setFlags rs).each rs fun s x => s.addResult iss x
  have lists : ListsResults rs (s.setFlags rs) w := each_addResult_lists ids' rs
  obtain ⟨frame, kept⟩ := popped_advanced w act (usesOf i) iss
  have ht : t = (w.popStreams act (usesOf i)).advance iss := finish_variable ha hf he act
  have listed : t.pending = w.pending := ht ▸ frame.pending
  have before : ∀ f, (w.popStreams act (usesOf i)).fibre f =
      { (s.setFlags rs).fibre f with streams := popped act (usesOf i) f (s.fibre f).streams } := fun f => by
    have same : ((s.setFlags rs).fibre f).streams = (s.fibre f).streams := (congrArg Fibre.streams (setFlags_only s rs f) :)
    rw [(popStreams_fibre w act (usesOf i)).2, lists.fibre, same]
  have unflagged : ∀ f, (∀ x ∈ rs, x.1.2 ≠ f) → (w.popStreams act (usesOf i)).fibre f = u.fibre f := fun f h => by
    rw [before, setFlags_other s h, (popStreams_fibre s act (usesOf i)).2]
  refine ⟨fun x hx hd => ?_, fun id p hp => ?_, fun id p hp => ?_, ?_, fun nd x hx => ?_, ht ▸ advance_goes _ iss,
    fun f h => ?_, fun f h => ?_, fun f => ?_, ?_⟩
  · obtain ⟨id, p, -, hp, h⟩ := each_addResult_arrives (s.setFlags rs) iss hx hd
    exact ⟨id, p, listed ▸ hp, h⟩
  · rw [listed]; exact lists.kept id p (flags.pending ▸ hp)
  · rw [listed] at hp; exact flags.pending ▸ lists.made id p hp
  · rw [listed, lists.length, flags.pending]
  · obtain ⟨fl, bf, -⟩ := kept x.1.2
    rw [ht, fl, bf, lists.fibre, setFlags_lane s nd hx]
    exact ⟨rfl, rfl⟩
  · rw [← unflagged f h, ht]; exact advance_moved _ iss f
  · rw [ht, advance_other _ iss h, unflagged f fun x hx e => h (List.mem_map.2 ⟨x.1, sub x hx, e⟩)]
  · have moved : Fibre.moved ((w.popStreams act (usesOf i)).fibre f) (t.fibre f) := ht ▸ advance_moved _ iss f
    have only := setFlags_only s rs f
    unfold Fibre.moved at moved
    let ob := fun z : Fibre => { z with
      pc := (u.fibre f).pc, again := (u.fibre f).again, refill := (u.fibre f).refill, relWait := (u.fibre f).relWait
      fpflags := (u.fibre f).fpflags, bfflags := (u.fibre f).bfflags }
    have streams : u.fibre f = { s.fibre f with streams := popped act (usesOf i) f (s.fibre f).streams } :=
      (popStreams_fibre s act (usesOf i)).2 f
    calc ob (t.fibre f) = ob ((w.popStreams act (usesOf i)).fibre f) := (congrArg ob moved :)
      _ = ob { (s.setFlags rs).fibre f with streams := popped act (usesOf i) f (s.fibre f).streams } := by rw [before]
      _ = ob { s.fibre f with streams := popped act (usesOf i) f (s.fibre f).streams } :=
          (congrArg (fun z : Fibre => ob { z with streams := popped act (usesOf i) f (s.fibre f).streams }) only :)
      _ = u.fibre f := by rw [← streams]
  · rw [ht]
    exact (SameButResults.fibres flags).trans (lists.frame.trans (.fibres frame))

end

section
/-! Control transfer (04 R94, R97, R99): where lanes go, how calls push, and where a fifth reference goes. -/

namespace Sys2Proof.Machine

theorem Fibre.moved.trans {x y z : Fibre} (h : x.moved y) (k : y.moved z) : x.moved z := by
  unfold Fibre.moved at *
  rw [← k] at h
  exact h

theorem SameButMemory.fibre {s t : State} (h : SameButMemory s t) (f : FibreId) : t.fibre f = s.fibre f := by
  have teams : t.teams = s.teams := (congrArg State.teams h.rest :)
  unfold State.fibre State.team
  rw [teams]

theorem State.Reached.sublist {s : State} {i : Instr} {iss : Issue} {act : List (Nat × FibreId)} (h : s.Reached i iss act) :
    act.Sublist iss.lanes := h.guarded ▸ List.filter_sublist

namespace State

/-! The lanes that go and those that stay. -/

theorem byFid_perm (act : List (Nat × FibreId)) : (byFid act).Perm act := perm_sortBy _ act

section
variable {iss : Issue} {act : List (Nat × FibreId)}

theorem fallsOff_inside (h : iss.atEnd = false) (stay : List (Nat × FibreId)) : fallsOff iss stay = false := by
  unfold fallsOff; rw [h]; rfl

theorem mem_others {x : Nat × FibreId} (hx : x ∈ iss.lanes) (ha : x ∉ act) : x ∈ others iss act :=
  List.mem_filter.2 ⟨hx, by simpa using ha⟩

variable (sub : act.Sublist iss.lanes) (apart : (iss.lanes.map (·.2)).Nodup)
include sub apart

theorem active_not_other {x : Nat × FibreId} (hx : x ∈ act) : x.2 ∉ (others iss act).map (·.2) := by
  rintro hf
  obtain ⟨y, hy, e⟩ := List.mem_map.1 hf
  obtain ⟨hl, hn⟩ := List.mem_filter.1 hy
  rw [List.inj_on_of_nodup_map apart hl (sub.subset hx) e] at hn
  simp [hx] at hn

theorem other_not_active {x : Nat × FibreId} (hx : x ∈ iss.lanes) (ha : x ∉ act) : x.2 ∉ act.map (·.2) := by
  rintro hf
  obtain ⟨y, hy, e⟩ := List.mem_map.1 hf
  exact ha (List.inj_on_of_nodup_map apart (sub.subset hy) hx e ▸ hy)

end

/-! Updates of lanes that each need something of their own fibre. -/

/-- Updates of different fibres, each of which its own fibre allows, are all made, and only they. -/
theorem each_apart {α : Type} {k : α → FibreId} {Q : α → Fibre → Prop} {g : α → Fibre → Fibre} {step : State → α → State}
    (h : ∀ s x, Q x (s.fibre (k x)) → SameButFibres s (step s x) ∧
      ∀ f, (step s x).fibre f = if k x = f then g x (s.fibre f) else s.fibre f)
    {l : List α} (nd : (l.map k).Nodup) {s : State} (allowed : ∀ x ∈ l, Q x (s.fibre (k x))) :
    SameButFibres s (s.each l step) ∧ (∀ x ∈ l, (s.each l step).fibre (k x) = g x (s.fibre (k x))) ∧
      ∀ f, f ∉ l.map k → (s.each l step).fibre f = s.fibre f := by
  induction l generalizing s with
  | nil => exact ⟨.refl s, fun _ hx => absurd hx List.not_mem_nil, fun _ _ => rfl⟩
  | cons x l ih =>
    obtain ⟨hx, nd⟩ := List.nodup_cons.1 nd
    obtain ⟨frame, one⟩ := h s x (allowed x List.mem_cons_self)
    have rest : ∀ y ∈ l, (step s x).fibre (k y) = s.fibre (k y) := fun y hy => by
      rw [one, if_neg fun e : k x = k y => hx (e ▸ List.mem_map_of_mem hy)]
    obtain ⟨frames, made, others⟩ := ih nd (s := step s x) fun y hy => by
      rw [rest y hy]; exact allowed y (List.mem_cons_of_mem _ hy)
    refine ⟨frame.trans frames, fun y hy => ?_, fun f hf => ?_⟩
    · rcases List.mem_cons.1 hy with rfl | hy
      · exact (others _ hx).trans ((one _).trans (if_pos rfl))
      · exact (made y hy).trans (by rw [rest y hy])
    · obtain ⟨hfx, hf⟩ := not_or.1 fun e => hf (List.mem_cons.2 e)
      exact (others f hf).trans ((one f).trans (if_neg (Ne.symm hfx)))

/-! Branches. -/

section
variable {s s1 : State} {iss : Issue} {act : List (Nat × FibreId)} {t : Dword × Bool}

theorem uniformTo_all (h : act.length = iss.lanes.length) : s.uniformTo iss act t = s.branchTo iss act t := by
  simp [uniformTo, h]

theorem checkTarget_ok {call : Bool} (valid : t.2 = true) (ok : s.targetCheck iss.core iss.ctx t.1 call = (s1, .ok)) :
    s.checkTarget iss t call = (s1, .ok) := by
  unfold checkTarget
  rw [if_pos valid, ok]

theorem branchTo_ok (guarded : act ≠ []) (inside : iss.atEnd = false) (valid : t.2 = true)
    (ok : s.targetCheck iss.core iss.ctx t.1 false = (s1, .ok)) :
    s.branchTo iss act t = (s1.goto act t.1).goto (others iss act) iss.next := by
  unfold branchTo
  rw [if_neg (by simpa using guarded), checkTarget_ok valid ok]
  dsimp only
  rw [fallsOff_inside inside]
  rfl

end

/-! Calls. -/

section
variable {s s1 : State} {iss : Issue} {act : List (Nat × FibreId)}

theorem push_room {core ctx : Nat} {f : FibreId} (ref : Dword) (room : (s.fibre f).rstack.length < 4) :
    s.push core ctx f ref = s.modFibre f fun x => { x with rstack := ref :: x.rstack } := if_pos room

/-- A fibre that has pushed a reference and gone to its target. -/
def called (ret target : Dword) (f : Fibre) : Fibre :=
  { f with rstack := ret :: f.rstack, pc := target, again := none, refill := none, relWait := none }

theorem callLane_fibre (t : FibreId → Dword) (x : Nat × FibreId) (room : (s.fibre x.2).rstack.length < 4) :
    let u := (s.push iss.core iss.ctx x.2 iss.next).goto [x] (t x.2)
    SameButFibres s u ∧ ∀ f, u.fibre f = if x.2 = f then called iss.next (t x.2) (s.fibre f) else s.fibre f := by
  intro u
  have hu : u = (s.modFibre x.2 fun y => { y with rstack := iss.next :: y.rstack }).goto [x] (t x.2) := by
    rw [← push_room iss.next room]
  refine ⟨hu ▸ (modFibre_frame s _ _).trans (goto_frame _ _ _), fun f => ?_⟩
  have went : u = (s.modFibre x.2 fun y => { y with rstack := iss.next :: y.rstack }).modFibre x.2 fun y => { y with
    pc := t x.2, again := none, refill := none, relWait := none } := hu
  rw [went, modFibre_fibre, modFibre_fibre]
  split <;> rfl

/-- With room on every stack the lanes push and go to their targets, and the others go on (18 R375). -/
theorem callTo_room (sub : act.Sublist iss.lanes) (apart : (iss.lanes.map (·.2)).Nodup) (inside : iss.atEnd = false)
    (room : ∀ x ∈ act, (s.fibre x.2).rstack.length < 4) (t : FibreId → Dword) :
    let u := s.callTo iss act t
    (∀ x ∈ act, (u.fibre x.2).pc = t x.2 ∧ (u.fibre x.2).rstack = iss.next :: (s.fibre x.2).rstack) ∧
      (∀ x ∈ iss.lanes, x ∉ act → (u.fibre x.2).pc = iss.next ∧ (u.fibre x.2).rstack = (s.fibre x.2).rstack) ∧
      SameButFibres s u := by
  intro u
  have perm := byFid_perm act
  have room' : ∀ x ∈ byFid act, (s.fibre x.2).rstack.length < 4 := fun x hx => room x (perm.mem_iff.1 hx)
  have spills : (act.any fun x => s.spillWaits iss.core iss.ctx x.2) = false :=
    List.any_eq_false.2 fun x hx => by simp [spillWaits_room (room x hx)]
  let v := s.each (byFid act) fun s x => (s.push iss.core iss.ctx x.2 iss.next).goto [x] (t x.2)
  have hu : u = v.goto (others iss act) iss.next := by
    show s.callTo iss act t = _
    unfold callTo
    simp only [fallsOff_inside inside, spills, pushAllCheck_room room', Bool.false_eq_true, if_false]
    rfl
  obtain ⟨frame, pushed, same⟩ := each_apart (k := fun x : Nat × FibreId => x.2) (Q := fun _ f => f.rstack.length < 4)
    (g := fun x => called iss.next (t x.2)) (fun s x => callLane_fibre t x)
    ((perm.map _).nodup_iff.2 ((sub.map _).nodup apart)) room'
  refine ⟨fun x hx => ?_, fun x hx ha => ?_, hu ▸ frame.trans (goto_frame v _ _)⟩
  · have made : u.fibre x.2 = called iss.next (t x.2) (s.fibre x.2) := by
      rw [hu, goto_other v _ _ (active_not_other sub apart hx)]
      exact pushed x (perm.mem_iff.2 hx)
    rw [made]
    exact ⟨rfl, rfl⟩
  · have before : v.fibre x.2 = s.fibre x.2 := same x.2 fun hf => other_not_active sub apart hx ha ((perm.map _).mem_iff.1 hf)
    have moved : Fibre.moved (s.fibre x.2) (u.fibre x.2) := by rw [← before, hu]; exact goto_moved v _ _ _
    exact ⟨by rw [hu]; exact goto_pc v _ _ x (mem_others hx ha), (congrArg Fibre.rstack moved :)⟩

end

/-! The fifth reference. -/

theorem accessDone_stack (s : State) (core : Nat) (fs : List FibreId) (f : FibreId) :
    ((s.accessDone core fs).fibre f).stack = (s.fibre f).stack ∧
      ((s.accessDone core fs).fibre f).spilled = (s.fibre f).spilled ∧
      ((s.accessDone core fs).fibre f).rstack = (s.fibre f).rstack := by
  have same := each_same (g := fun t : State => ((t.fibre f).stack, (t.fibre f).spilled, (t.fibre f).rstack))
    (f := fun (s : State) (f : FibreId) => match (s.fibre f).fenceAcq with
      | some _ => (s.l1Acquire core).modFibre f fun x => { x with fenceAcq := none }
      | none => s) (l := fs) s fun t x => by
    split
    · have kept : (t.l1Acquire core).fibre f = t.fibre f := (l1Acquire_memory t core).fibre f
      rw [modFibre_fibre, kept]
      split <;> rfl
    · rfl
  obtain ⟨stack, rest⟩ := Prod.mk.inj same
  exact ⟨stack, Prod.mk.inj rest⟩

end State

/-! Relative targets (15 R320, R329). -/

theorem sext_toInt {n : Nat} (x : BitVec n) (h : 0 < n) : sext n x.toNat = x.toInt := by
  have half := Nat.two_pow_pred_add_two_pow_pred h
  unfold sext
  rw [BitVec.toInt_eq_toNat_cond, Nat.mod_eq_of_lt x.isLt]
  by_cases small : x.toNat < 2 ^ (n - 1)
  · rw [if_pos small, if_pos (by omega)]
  · rw [if_neg small, if_neg (by omega)]

theorem relTarget_within (pc : Dword) (n : Int) (above : 0 ≤ (refOfs pc : Int) + 4 * n)
    (below : (refOfs pc : Int) + 4 * n < 2 ^ 52) :
    (relTarget pc n).2 = true ∧ refSlot (relTarget pc n).1 = refSlot pc ∧
      (refOfs (relTarget pc n).1 : Int) = refOfs pc + 4 * n := by
  have slot : refSlot pc < 2 ^ 12 := Nat.mod_lt _ (by decide)
  obtain ⟨m, hm⟩ := Int.eq_ofNat_of_zero_le above
  have lt : m < 2 ^ 52 := by omega
  have ref : (relTarget pc n).1 = BitVec.ofNat 64 (refSlot pc * 2 ^ 52 + m) := by
    unfold relTarget
    rw [hm]
    dsimp only
    rw [← Int.natCast_mod, Int.toNat_natCast, Nat.mod_eq_of_lt lt]
  rw [ref, hm]
  refine ⟨?_, ?_, ?_⟩
  · unfold relTarget
    rw [hm]
    simpa using lt
  · unfold refSlot at slot ⊢
    rw [bits_ofNat _ _ _ (by decide) (by decide)]
    generalize bits pc.toNat 63 52 = k at slot
    unfold bits
    omega
  · unfold refOfs
    rw [bits_ofNat _ _ _ (by decide) (by decide)]
    unfold bits
    omega

end Sys2Proof.Machine

open Sys2Proof Sys2Proof.Machine Sys2Proof.Machine.State

theorem nopAndYield : Claims.NopAndYield := by
  have goes : ∀ (s : State) (iss : Issue), WentOn iss (s.advance iss) ∧ SameButFibres s (s.advance iss) ∧
      (∀ f, Fibre.moved (s.fibre f) ((s.advance iss).fibre f)) ∧
      ∀ f, f ∉ iss.lanes.map (·.2) → (s.advance iss).fibre f = s.fibre f := fun s iss =>
    ⟨advance_goes s iss, advance_frame s iss, advance_moved s iss, fun _ => advance_other s iss⟩
  refine ⟨fun c hc o s iss act h => ⟨s.advance iss, ?_, goes s iss⟩, fun c hc o s iss act h =>
    ⟨s.advance iss, ?_, goes s iss⟩⟩
  all_goals
    simp only [List.mem_cons, List.not_mem_nil, or_false] at hc
    rcases hc with rfl | rfl
  · exact issued_clear h false rfl fun iss _ => s.advance iss
  · exact issued_clear h false rfl fun iss _ => s.advance iss
  · exact issued_clear h false rfl fun iss _ => s.advance iss
  · exact issued_clear h false rfl fun iss _ => s.advance iss

theorem branches : Claims.Branches := by
  refine ⟨fun o iss => ?_, relTarget_within, ?_⟩
  · unfold bbTarget
    rw [sext_toInt o.ofs (by decide)]
  · intro c tgt u hc s iss act s1 h guarded all apart valid ok
    let t := (s1.goto act (tgt s iss).1).goto (others iss act) iss.next
    have run : exec c s = .next t := by
      show _ = Host.Outcome.next ((s1.goto act (tgt s iss).1).goto (others iss act) iss.next)
      rw [← branchTo_ok guarded h.inside valid ok]
      rcases hc with ⟨o, rfl, rfl, rfl⟩ | ⟨o, rfl, rfl, rfl⟩ | ⟨o, rfl, rfl, rfl⟩ | ⟨o, rfl, rfl, rfl⟩
      · exact issued_reached h rfl fun iss act => s.branchTo iss act (bbTarget iss o)
      · rw [← uniformTo_all (all rfl)]; exact issued_reached h rfl fun iss act => s.uniformTo iss act (bbTarget iss o)
      · exact issued_reached h rfl fun iss act => s.branchTo iss act (s.xcTarget iss o)
      · rw [← uniformTo_all (all rfl)]; exact issued_reached h rfl fun iss act => s.uniformTo iss act (s.xcTarget iss o)
    refine ⟨t, run, fun x hx => ?_, fun x hx ha => ?_, (goto_frame s1 _ _).trans (goto_frame _ _ _), fun f => ?_⟩
    · rw [goto_other _ _ _ (active_not_other h.sublist apart hx)]
      exact goto_pc s1 _ _ x hx
    · exact goto_pc _ _ _ x (mem_others hx ha)
    · exact (goto_moved s1 _ _ f).trans (goto_moved _ _ _ f)

/-- Settles O15: NOP and YIELD advance their subset; a branch moves the guarded lanes to the checked target, then the
others on. -/
theorem nopYieldAndBranches : Obligations.NopYieldAndBranches := ⟨nopAndYield, branches⟩

theorem calls : Claims.Calls := by
  refine ⟨fun c tgt hc s s1 iss act h guarded apart valid ok room => ?_, fun o n s s1 iss act ho h _ apart ok room => ?_⟩
  · have run : exec c s = .next (s1.callTo iss act fun _ => (tgt s iss).1) := by
      have shared : s.callShared iss act (tgt s iss) = s1.callTo iss act fun _ => (tgt s iss).1 := by
        unfold callShared
        rw [if_neg (by simpa using guarded), checkTarget_ok valid ok]
      rw [← shared]
      rcases hc with ⟨o, rfl, rfl⟩ | ⟨o, rfl, rfl⟩
      · exact issued_reached h rfl fun iss act => s.callShared iss act (bbTarget iss o)
      · exact issued_reached h rfl fun iss act => s.callShared iss act (s.xcTarget iss o)
    exact ⟨_, run, callTo_room h.sublist apart h.inside room _⟩
  · have run : exec (.callr o) s = .next (s1.callTo iss act fun f => pairOf s iss f n.toNat) := by
      show execCallr o s = _
      unfold execCallr
      simp only [ho]
      rw [issued_reached h rfl, ok]
    exact ⟨_, run, callTo_room h.sublist apart h.inside room fun f => pairOf s iss f n.toNat⟩

theorem returnStackSpill : Claims.ReturnStackSpill := by
  intro s s1 core ctx pa f ref four reached t
  obtain ⟨stack, spilled, rstack⟩ := accessDone_stack s core [f] f
  let u := s1.l1Store core f pa (leBytes 8 ((s.fibre f).rstack.getLastD 0).toNat) false false false
  have there := translate_memory (s.accessDone core [f]) core ctx ((s.fibre f).stack - 8).toNat .write true
  rw [reached] at there
  have kept : u.fibre f = (s.accessDone core [f]).fibre f := (there.trans (l1Store_memory s1 core f pa _ _ _ _)).fibre f
  have stored : t = u.modFibre f fun x => { x with
      stack := x.stack - 8, spilled := x.spilled + 1, rstack := ref :: x.rstack.dropLast } := by
    show s.push core ctx f ref = _
    unfold push
    rw [if_neg (by omega)]
    simp only [reached]
    show u.setFibre f _ = u.setFibre f _
    rw [kept]
    dsimp only
    rw [stack]
  refine ⟨?_, ?_, ?_, stored⟩
  · rw [stored, fibre_modFibre, kept, stack]
  · rw [stored, fibre_modFibre, kept, spilled]
  · rw [stored, fibre_modFibre, kept, rstack]

/-- Settles O16: every lane with room pushes and goes, the lanes being apart; and a push with four references on chip
stores the oldest one where STACK's slot translates. -/
theorem callsAndReturnStack : Obligations.CallsAndReturnStack := ⟨calls, returnStackSpill⟩

end

section
/-! RET (04 R97, R98; 12 R259; 22 R448): what its lanes find, where they go, and what the trap return lets go. -/

namespace Sys2Proof.Machine

namespace State

/-- The reference that a lane goes back to, on chip or loaded by its refill (04 R97). -/
def newest (s : State) (f : FibreId) : Dword := (s.fibre f).rstack.headD ((s.fibre f).refill.getD 0)

section
variable {s s1 : State} {iss : Issue}

theorem retFind_newest {f : FibreId} (h : (s.fibre f).rstack ≠ [] ∨ (s.fibre f).refill ≠ none) :
    s.retFind iss f = (s, .ok (.have (s.newest f))) := by
  unfold retFind newest
  dsimp only
  split
  · next e => rw [e]; rfl
  · next e k => rw [e, k]; rfl
  · next e k => exact absurd h (by simp [e, k])

theorem retFinds_newest {l : List (Nat × FibreId)} (h : ∀ x ∈ l, (s.fibre x.2).rstack ≠ [] ∨ (s.fibre x.2).refill ≠ none) :
    s.retFinds iss l = (s, .ok ((l.map fun x => (x.2, s.newest x.2)).map fun y => (y.1, .have y.2))) := by
  induction l with
  | nil => rfl
  | cons x r ih =>
    unfold retFinds
    rw [retFind_newest (h x List.mem_cons_self)]
    dsimp only
    rw [ih fun y hy => h y (List.mem_cons_of_mem _ hy)]
    rfl

theorem refills_have (l : List (FibreId × Dword)) : refills (l.map fun y => (y.1, .have y.2)) = [] := by
  simp [refills]

theorem founds_have (l : List (FibreId × Dword)) : founds (l.map fun y => (y.1, .have y.2)) = l := by
  simp [founds, List.filterMap_map]

/-- Lanes outside handlers go where the checks of 04 R99 let them. -/
theorem retTargets_outside {l : List (FibreId × Dword)} (out : ∀ y ∈ l, (s.fibre y.1).handler = none)
    (ok : s.checkEach iss false l = (s1, .ok)) : s.retTargets iss l = (s1, .ok l) ∧ SameButMemory s s1 := by
  induction l generalizing s with
  | nil => cases ok; exact ⟨rfl, .refl _⟩
  | cons y r ih =>
    have there := targetCheck_memory s iss.core iss.ctx y.2 false
    unfold checkEach at ok
    split at ok
    · next u e =>
      rw [e] at there
      have one : s.retTarget iss y.1 y.2 = (u, .ok y.2) := by
        unfold retTarget
        rw [out y List.mem_cons_self]
        dsimp only
        rw [e]
      obtain ⟨rest, after⟩ := ih (fun z hz => by rw [there.fibre]; exact out z (List.mem_cons_of_mem _ hz)) ok
      rw [retTargets_cons, one]
      dsimp only
      rw [rest]
      exact ⟨rfl, there.trans after⟩
    · next m _ => cases ok; contradiction

end

/-- A lane pops its reference and goes there; at its handler base it leaves the handler too (12 R259). -/
def returnLane (s : State) (x : FibreId × Dword) : State :=
  let u := (s.popRef x.1).modFibre x.1 fun f => { f with pc := x.2, again := none, refill := none, relWait := none }
  if s.atBase x.1 then (u.modFibre x.1 fun f => { f with handler := none }).releaseHeld x.1 else u

/-- A RET whose references are there and pass their checks. -/
theorem returnFrom_goes {s s1 : State} {iss : Issue} {act : List (Nat × FibreId)} {ts : List (FibreId × Dword)}
    (inside : iss.atEnd = false) (found : ∀ x ∈ act, (s.fibre x.2).rstack ≠ [] ∨ (s.fibre x.2).refill ≠ none)
    (targets : s.retTargets iss ((byFid act).map fun x => (x.2, s.newest x.2)) = (s1, .ok ts)) :
    s.returnFrom iss act = (s1.each ts returnLane).goto (others iss act) iss.next := by
  unfold returnFrom
  rw [retFinds_newest (l := byFid act) fun x hx => found x ((byFid_perm act).mem_iff.1 hx)]
  dsimp only
  rw [refills_have, founds_have, targets, fallsOff_inside inside]
  rfl

end State

/-- A fibre that has popped its reference and gone there (04 R97). -/
def Fibre.back (target : Dword) (f : Fibre) : Fibre :=
  { f with
    rstack := f.rstack.tail
    stack := if f.rstack = [] then f.stack + 8 else f.stack
    spilled := if f.rstack = [] then f.spilled - 1 else f.spilled
    pc := target
    again := none
    refill := none
    relWait := none }

namespace State

section
variable {s : State} {x : FibreId × Dword}

theorem pop_back (f : FibreId) :
    ((s.popRef x.1).modFibre x.1 fun f => { f with pc := x.2, again := none, refill := none, relWait := none }).fibre f =
      if x.1 = f then (s.fibre f).back x.2 else s.fibre f := by
  unfold popRef
  rw [modFibre_fibre, modFibre_fibre]
  by_cases e : x.1 = f
  · simp only [if_pos e]
    unfold Fibre.back
    cases h : (s.fibre f).rstack <;> simp
  · simp only [if_neg e]

theorem pop_frame :
    SameButFibres s ((s.popRef x.1).modFibre x.1 fun f => { f with pc := x.2, again := none, refill := none, relWait := none }) :=
  (modFibre_frame s _ _).trans (modFibre_frame _ _ _)

theorem returnLane_outside (out : (s.fibre x.1).handler = none) : SameButFibres s (s.returnLane x) ∧
    ∀ f, (s.returnLane x).fibre f = if x.1 = f then (s.fibre f).back x.2 else s.fibre f := by
  have base : s.atBase x.1 = false := by unfold atBase; rw [out]
  unfold returnLane
  dsimp only
  rw [base]
  exact ⟨pop_frame, pop_back⟩

end
/-! The refill (04 R97; 22 R448). -/

section
variable {s s1 : State} {iss : Issue}

/-- A RET that fails traps where none of its lanes has a loaded reference to drop. -/
theorem retFail_trap (fresh : ∀ x ∈ iss.lanes, (s.fibre x.2).refill = none) {cause : Nat} (va : Nat)
    (hc : cause ≠ cCODEHASH) : s.retFail iss (.trap cause va) = s.raise iss cause 0 va := by
  have dropped : ∀ l : List (Nat × FibreId), (∀ x ∈ l, (s.fibre x.2).refill = none) → (s.each l fun s x =>
      if (s.fibre x.2).refill.isNone then s else s.modFibre x.2 fun f => { f with refill := none }) = s := fun l h => by
    induction l with
    | nil => rfl
    | cons x r ih =>
      have one : (s.fibre x.2).refill.isNone = true := by rw [h x List.mem_cons_self]; rfl
      exact (congrArg (fun t : State => t.each r _) (if_pos one)).trans (ih fun y hy => h y (List.mem_cons_of_mem _ hy))
  unfold retFail
  rw [dropped iss.lanes fresh]
  exact if_neg (by simpa using hc)

section
variable {x : Nat × FibreId} (bare : (s.fibre x.2).rstack = []) (unfilled : (s.fibre x.2).refill = none)
include bare unfilled

theorem retFind_start (start : (s.fibre x.2).stack = (s.fibre x.2).stackTop) :
    s.retFind iss x.2 = (s, .error (.trap cSTACK (s.fibre x.2).stack.toNat)) := by
  unfold retFind
  simp [bare, unfilled, start]

theorem retFind_slot {pa : Nat} (moved : (s.fibre x.2).stack ≠ (s.fibre x.2).stackTop)
    (reached : s.translate iss.core iss.ctx (s.fibre x.2).stack.toNat .read false = (s1, .ok pa)) :
    s.retFind iss x.2 =
      (s1, if s1.eccBad pa 8 then .error (.trap cECC (s.fibre x.2).stack.toNat) else .ok (.load pa)) := by
  unfold retFind
  simp only [bare, unfilled, reached, beq_eq_false_iff_ne.2 moved, Bool.false_eq_true, if_false]
  split <;> rfl

end

theorem returnFrom_fails {x : Nat × FibreId} {m : Move} (found : s.retFind iss x.2 = (s1, .error m)) :
    s.returnFrom iss [x] = s1.retFail iss m := by
  have finds : s.retFinds iss (byFid [x]) = (s1, .error m) := by
    show s.retFinds iss [x] = _
    unfold retFinds
    rw [found]
  unfold returnFrom
  rw [finds]

theorem returnFrom_loads {x : Nat × FibreId} {pa : Nat} (found : s.retFind iss x.2 = (s1, .ok (.load pa))) :
    s.returnFrom iss [x] = s1.startRefills iss [(x.2, pa)] := by
  have finds : s.retFinds iss (byFid [x]) = (s1, .ok [(x.2, .load pa)]) := by
    show s.retFinds iss [x] = _
    unfold retFinds
    rw [found]
    rfl
  unfold returnFrom
  rw [finds]
  rfl

/-- The load of a refill that nothing holds back. -/
theorem startRefills_lists {f : FibreId} {pa : Nat} (free : (s.fibre f).fenceAcq = none)
    (alone : s.loadPending f pa 8 = false) (unlisted : ∀ p ∈ s.pending, p.2.fib ≠ f) :
    s.startRefills iss [(f, pa)] =
      (s.addPending iss f [(.ret, 0)] [] (some (.global pa true false, 8, false))).stall iss := by
  have opens : s.accessOpen [f] false = true := by simp [accessOpen, free, anyOpen]
  have done : s.accessDone iss.core [f] = s := by
    unfold accessDone
    simp only [each, List.foldl_cons, List.foldl_nil, free]
  have first : (s.pending.any fun p => p.2.fib == f && p.2.dests.any fun d => d.1 == .ret) = false :=
    List.any_eq_false.2 fun p hp => by simp [unlisted p hp]
  unfold startRefills
  simp only [List.map_cons, List.map_nil, opens, alone, done, each, List.foldl_cons, List.foldl_nil, first, List.any_cons,
    List.any_nil, Bool.not_true, Bool.or_false, Bool.false_eq_true, if_false]

theorem stall_fibre (s : State) (iss : Issue) (f : FibreId) :
    { (s.stall iss).fibre f with notBefore := (s.fibre f).notBefore } = s.fibre f := by
  unfold stall
  refine each_same (g := fun t : State => { t.fibre f with notBefore := (s.fibre f).notBefore }) s fun t x => ?_
  rw [modFibre_fibre]
  split <;> rfl

end

/-! The trap return (12 R259). -/

/-- What one update gives under an invariant, and every update keeps, holds after all of them. -/
theorem each_reaches_under {α : Type} {I P : State → Prop} {l : List α} {step : State → α → State}
    (inv : ∀ s x, I s → I (step s x)) (keeps : ∀ s x, P s → P (step s x)) {x : α} (hx : x ∈ l)
    (gives : ∀ s, I s → P (step s x)) {s : State} (hs : I s) : P (s.each l step) := by
  induction l generalizing s with
  | nil => cases hx
  | cons y l ih =>
    rcases List.mem_cons.1 hx with rfl | hx
    · exact each_keeps (P := P) (l := l) (s := step s x) (gives s hs) keeps
    · exact ih hx (inv s y hs)

/-- A fibre no longer held by a handler lane. -/
def unhold (s : State) (f g : FibreId) : State :=
  if (s.fibre g).heldBy.contains f then s.modFibre g fun x => { x with heldBy := x.heldBy.filter (· != f) } else s

theorem releaseHeld_eq (s : State) (f : FibreId) : s.releaseHeld f =
    s.each ((s.teams.filter fun x => x.2.ctx == (s.team f.team).ctx).map (·.1)) fun s tid =>
      s.each ((s.team tid).fibres.map (·.1)) fun s n => s.unhold f ⟨tid, n⟩ := rfl

/-- A fibre stands in its team's list. -/
def inTeam (g : FibreId) (s : State) : Prop := ((s.team g.team).fibres.find g.fid).isSome = true

theorem inTeam_modFibre {g : FibreId} {s : State} (h : inTeam g s) (i : FibreId) (k : Fibre → Fibre) :
    inTeam g (s.modFibre i k) := by
  unfold inTeam modFibre setFibre
  by_cases e : g.team = i.team
  · rw [e, team_modTeam]
    exact isSome_find_put _ _ _ _ (e ▸ h)
  · rw [team_modTeam_other _ _ e]
    exact h

theorem inTeam_unhold {g : FibreId} {s : State} (h : inTeam g s) (f i : FibreId) : inTeam g (s.unhold f i) := by
  unfold unhold
  split
  · exact inTeam_modFibre h i _
  · exact h

theorem unhold_self (s : State) (f g : FibreId) : f ∉ ((s.unhold f g).fibre g).heldBy := by
  unfold unhold
  split
  · rw [fibre_modFibre]; simp
  · next h => simpa using h

theorem unhold_keeps {s : State} {f g : FibreId} (h : f ∉ (s.fibre g).heldBy) (i : FibreId) :
    f ∉ ((s.unhold f i).fibre g).heldBy := by
  unfold unhold
  split
  · rw [modFibre_fibre]
    split
    · exact fun hf => h (List.mem_filter.1 hf).1
    · exact h
  · exact h

/-- No fibre of the context is held any more by a lane that lets go (12 R259). -/
theorem releaseHeld_frees (s : State) (f : FibreId) {g : FibreId} (listed : (s.teams.find g.team).isSome = true)
    (ctx : (s.team g.team).ctx = (s.team f.team).ctx) (fibre : inTeam g s) : f ∉ ((s.releaseHeld f).fibre g).heldBy := by
  obtain ⟨t, ht⟩ := Option.isSome_iff_exists.1 listed
  have same : s.team g.team = t := by rw [team, KV.getD, ht]; rfl
  have named : g.team ∈ (s.teams.filter fun x => x.2.ctx == (s.team f.team).ctx).map (·.1) :=
    List.mem_map.2 ⟨(g.team, t), List.mem_filter.2 ⟨KV.mem_of_find ht, by rw [← ctx, same]; exact beq_self_eq_true _⟩, rfl⟩
  rw [releaseHeld_eq]
  refine each_reaches_under (I := inTeam g) (P := fun u => f ∉ (u.fibre g).heldBy) (fun u tid hu => ?_) (fun u tid hu => ?_)
    named (fun u hu => ?_) fibre
  · exact each_keeps (P := inTeam g) hu fun u n hu => inTeam_unhold hu f _
  · exact each_keeps (P := fun u : State => f ∉ (u.fibre g).heldBy) hu fun u n hu => unhold_keeps hu _
  · obtain ⟨y, hy⟩ := Option.isSome_iff_exists.1 hu
    have fid : g.fid ∈ (u.team g.team).fibres.map (·.1) := List.mem_map.2 ⟨(g.fid, y), KV.mem_of_find hy, rfl⟩
    exact each_reaches (P := fun u : State => f ∉ (u.fibre g).heldBy) (f := fun u n => u.unhold f ⟨g.team, n⟩)
      (fun u n hu => unhold_keeps hu ⟨g.team, n⟩) fid (fun u => unhold_self u f g) u

end State

theorem exec_ret {c : Instr} (hc : (∃ o, c = .ret o) ∨ ∃ o, c = .retX o) {s : State} {iss : Issue}
    {act : List (Nat × FibreId)} (h : s.Reached c iss act) : exec c s = .next (s.returnFrom iss act) := by
  rcases hc with ⟨o, rfl⟩ | ⟨o, rfl⟩
  · exact issued_reached h rfl fun iss act => s.returnFrom iss act
  · exact issued_reached h rfl fun iss act => s.returnFrom iss act

end Sys2Proof.Machine

open Sys2Proof Sys2Proof.Machine Sys2Proof.Machine.State

theorem returns : Claims.Returns := by
  intro c hc s s1 iss act h _ apart out found ref ok
  have perm := byFid_perm act
  let ts := (byFid act).map fun x => (x.2, s.newest x.2)
  obtain ⟨targets, there⟩ := retTargets_outside (l := ts) (fun y hy => by
    obtain ⟨x, hx, rfl⟩ := List.mem_map.1 hy
    exact out x (perm.mem_iff.1 hx)) ok
  let v := s1.each ts returnLane
  have lanes : ts.map (·.1) = (byFid act).map (·.2) := by simp [ts]
  obtain ⟨frame, gone, same⟩ := each_apart (k := fun y : FibreId × Dword => y.1) (Q := fun _ f => f.handler = none)
    (g := fun y => Fibre.back y.2) (fun s y out => returnLane_outside out) (l := ts) (s := s1)
    (lanes ▸ (perm.map _).nodup_iff.2 ((h.sublist.map _).nodup apart)) fun y hy => by
      obtain ⟨x, hx, rfl⟩ := List.mem_map.1 hy
      rw [there.fibre]
      exact out x (perm.mem_iff.1 hx)
  have back : ∀ x ∈ act, v.fibre x.2 = (s.fibre x.2).back (ref x.2) := fun x hx => by
    rw [← there.fibre]
    exact gone (x.2, s.newest x.2) (List.mem_map_of_mem (perm.mem_iff.2 hx))
  refine ⟨v.goto (others iss act) iss.next, ?_, fun x hx => ?_, fun x hx ha => ?_, frame.trans (goto_frame v _ _)⟩
  · rw [exec_ret hc h, returnFrom_goes h.inside found targets]
  · rw [goto_other v _ _ (active_not_other h.sublist apart hx), back x hx]
    exact ⟨rfl, rfl, rfl, fun full => if_neg full, fun empty => ⟨if_pos empty, if_pos empty⟩⟩
  · have before : v.fibre x.2 = s.fibre x.2 := by
      refine (same x.2 fun hf => ?_).trans (there.fibre x.2)
      rw [lanes] at hf
      exact other_not_active h.sublist apart hx ha ((perm.map _).mem_iff.1 hf)
    have moved : Fibre.moved (s.fibre x.2) ((v.goto (others iss act) iss.next).fibre x.2) :=
      before ▸ goto_moved v _ _ _
    exact ⟨goto_pc v _ _ x (mem_others hx ha), (congrArg Fibre.rstack moved :)⟩

theorem returnRefill : Claims.ReturnRefill := by
  refine ⟨fun c hc s iss x h one bare _ fresh => ?_, fun s id p ref hp ready dests count => ?_⟩
  · intro va
    refine ⟨fun start => ?_, fun s1 pa moved reached => ?_⟩
    · rw [exec_ret hc h, returnFrom_fails (retFind_start bare fresh start), retFail_trap _ _ (by decide)]
      · rfl
      · rw [one]; exact fun y hy => List.mem_singleton.1 hy ▸ fresh
    · have there := translate_memory s iss.core iss.ctx va .read false
      rw [reached] at there
      have found := retFind_slot bare fresh moved reached
      refine ⟨fun bad => ?_, fun good free alone listed => ?_⟩
      · rw [if_pos bad] at found
        rw [exec_ret hc h, returnFrom_fails found, retFail_trap _ _ (by decide)]
        · rfl
        · rw [one]; exact fun y hy => by rw [List.mem_singleton.1 hy, there.fibre]; exact fresh
      · rw [good] at found
        let load := some (LoadReq.global pa true false, 8, false)
        let u := s1.addPending iss x.2 [(.ret, 0)] [] load
        have run : exec c s = .next (u.stall iss) := by
          rw [exec_ret hc h, returnFrom_loads found, startRefills_lists free alone fun p hp => (listed p hp).1]
        have lists : (u.stall iss).pending = s1.pending.put s1.nextId (s1.listedResult iss x.2 [(.ret, 0)] [] load) :=
          (stall_frame u iss).pending.trans (addPending_pending s1 iss _ _ _ _)
        refine ⟨u.stall iss, s1.nextId, s1.listedResult iss x.2 [(.ret, 0)] [] load, run, ?_, rfl, rfl, rfl, rfl,
          stall_fibre u iss x.2, ?_⟩
        · rw [lists, KV.find_put]
        · exact ((addPending_results s1 iss _ _ _ _).trans (.fibres (stall_frame u iss))).1
  · let s1 : State := { s with pending := s.pending.del id }
    let t := s1.landResult p.fib p.gid p.tid p.dests
    have spoilt : (if p.bad then t.spoil p else t) = t := by
      unfold spoil
      rw [dests]
      split <;> rfl
    have landed (f : FibreId) : t.fibre f = if p.fib = f then landFibre [(.ret, ref)] (s.fibre f) else s.fibre f := by
      rw [← dests]; exact landResult_fibre s1 p.fib p.gid p.tid p.dests f
    refine ⟨t, ?_, ?_, fun f hf => ?_⟩
    · show execResultWriteback id s = _
      unfold execResultWriteback
      rw [hp]
      dsimp only
      rw [ready]
      dsimp only
      rw [writeResult_eq hp]
      show Host.Outcome.next ((if p.bad then t.spoil p else t).uncount p.count) = _
      rw [spoilt, count]
      rfl
    · rw [landed, if_pos rfl]; rfl
    · rw [landed, if_neg (Ne.symm hf)]

theorem trapReturn : Claims.TrapReturn := by
  intro c hc s iss x h ref rest reached one handler skip base stack valid
  have full : (s.fibre x.2).rstack ≠ [] := by rw [stack]; exact List.cons_ne_nil _ _
  have newest : s.newest x.2 = ref := by unfold State.newest; rw [stack]; rfl
  have atBase : s.atBase x.2 = true := by unfold State.atBase; rw [handler]; exact beq_iff_eq.2 base
  have target : s.retTarget iss x.2 ref = (s, .ok ref) := by
    unfold retTarget
    rw [handler]
    simp only [base, skip, valid, beq_self_eq_true, if_true, Bool.false_eq_true, if_false]
  have targets : s.retTargets iss ((byFid [x]).map fun x => (x.2, s.newest x.2)) = (s, .ok [(x.2, ref)]) := by
    show s.retTargets iss [(x.2, s.newest x.2)] = _
    rw [retTargets_cons, newest, target]
    rfl
  have stay : others iss [x] = [] := by unfold others; rw [one]; simp
  let u := (s.popRef x.2).modFibre x.2 fun f => { f with pc := ref, again := none, refill := none, relWait := none }
  let v := u.modFibre x.2 fun f => { f with handler := none }
  let t := v.releaseHeld x.2
  have run : exec c s = .next t := by
    rw [exec_ret hc reached, returnFrom_goes reached.inside (fun y hy => by rw [List.mem_singleton.1 hy]; exact .inl full)
      targets, stay]
    show Host.Outcome.next (s.returnLane (x.2, ref)) = _
    unfold returnLane
    rw [atBase]
    rfl
  have releases := releaseHeld_releases v x.2
  have lane : v.fibre x.2 = { (s.fibre x.2).back ref with handler := none } := by
    have popped : u.fibre x.2 = (s.fibre x.2).back ref := (pop_back (x := (x.2, ref)) x.2).trans (if_pos rfl)
    exact (fibre_modFibre u x.2 _).trans (by rw [popped])
  have kept := (releases.fibre x.2).1
  rw [lane] at kept
  have team : ∀ n, { v.team n with fibres := (s.team n).fibres } = s.team n :=
    ((pop_frame (s := s) (x := (x.2, ref))).trans (modFibre_frame u x.2 _)).2
  refine ⟨t, run, (congrArg Fibre.pc kept :), ?_, (congrArg Fibre.handler kept :), fun f listed _ ctx inside => ?_,
    fun f hf => ?_⟩
  · refine (congrArg Fibre.rstack kept :).trans ?_
    show (s.fibre x.2).rstack.tail = rest
    rw [stack]
    rfl
  · have ctxs : ∀ n, (v.team n).ctx = (s.team n).ctx := fun n => (congrArg Team.ctx (team n) :)
    refine releaseHeld_frees v x.2 ?_ ?_ ?_
    · exact isSome_find_put _ _ _ _ (isSome_find_put _ _ _ _ (isSome_find_put _ _ _ _ listed))
    · rw [ctxs, ctxs]; exact ctx
    · exact inTeam_modFibre (inTeam_modFibre (inTeam_modFibre inside x.2 _) x.2 _) x.2 _
  · have other : v.fibre f = s.fibre f := by
      rw [fibre_modFibre_other u _ hf]
      exact (pop_back (x := (x.2, ref)) f).trans (if_neg (Ne.symm hf))
    exact (congrArg Fibre.pc (releases.fibre f).1 :).trans (congrArg Fibre.pc other)

/-- Settles O21: a lane's reference is found, checked and popped; without one its refill traps or lists a load, whose
writeback gives it; and the return from a handler base lets go of what the lane held. -/
theorem returnsFromCallsAndTraps : Obligations.ReturnsFromCallsAndTraps := ⟨returns, returnRefill, trapReturn⟩

end

section
/-! ABINIT, ABWAIT and WAIT (04 R93; 09 R202 to R204; 17 R351, R353; 24 R479). -/

namespace Sys2Proof.Machine
namespace State

/-- Parked lanes stay where they stand. -/
theorem park_pc (s : State) (iss : Issue) (ls : List (Nat × FibreId)) (w : Wake) (keep : Option (List Dword)) (f : FibreId) :
    ((s.park iss ls w keep).fibre f).pc = (s.fibre f).pc := by
  have settled : ((s.settleLate iss.gid).fibre f).pc = (s.fibre f).pc :=
    (congrArg Fibre.pc ((settleLate_settles s iss.gid).fibre f) :)
  refine (each_same (g := fun t : State => (t.fibre f).pc) (s.settleLate iss.gid) fun t x => ?_).trans settled
  rw [modFibre_fibre]
  split <;> rfl

theorem acquire_mem (s : State) (fs : List FibreId) : (s.acquire fs).mem = s.mem :=
  each_same (g := State.mem) s fun t c => (congrArg State.mem (l1Acquire_frame t c) :)

/-- Bytes that a write covers are read back (06 R129). -/
theorem spadWrite_bytes (s : State) (tid ofs : Nat) (bs : List Byte) :
    (s.spadWrite tid ofs bs).spadBytes tid ofs bs.length = bs := by
  refine List.ext_getElem (by simp [spadBytes]) fun i h k => ?_
  simp [spadBytes, spadWrite_byte, k]

theorem spadWrite_frame (s : State) (tid ofs : Nat) (bs : List Byte) :
    { s.spadWrite tid ofs bs with teams := s.teams, badSpad := s.badSpad } = s ∧
      ∀ x ∈ (s.spadWrite tid ofs bs).badSpad, x ∈ s.badSpad :=
  ⟨rfl, fun _ hx => (List.mem_filter.1 hx).1⟩

end State

theorem abinit_writes {o : XE} {s : State} {iss : Issue} {act : List (Nat × FibreId)} (h : s.Clear (.abinit o) iss act) :
    let tid := s.leadTeam iss.gid
    let ofs := (s.srcG iss o.a).toNat
    let e := (s.srcG iss o.b).toNat
    1 ≤ e → e ≤ 4095 → recordOpen s act tid = true → s.accessOpen (act.map (·.2)) true = true → s.barrierBad tid ofs = none →
    exec (.abinit o) s = .next ((s.barrierPut tid ofs (e * 2 ^ 44, 0x4142 * 2 ^ 44)).advance iss) := by
  intro tid ofs e low high record access sound
  have legal : whenActive (fun iss => let e := (s.srcG iss o.b).toNat; decide (e < 1) || decide (4095 < e)) iss act = false := by
    have low : ¬e < 1 := by omega
    have high : ¬4095 < e := by omega
    simp only [whenActive, e] at low high ⊢
    simp [low, high]
  show execAbinit o s = _
  unfold execAbinit
  rw [issued_clear h false legal]
  simp only [tid, ofs] at record sound
  simp only [record, access, sound, Bool.not_true, Bool.or_false, Bool.false_eq_true, if_false]
  rfl

theorem abwait_asks {o : XS} {s : State} {iss : Issue} {act : List (Nat × FibreId)} (h : s.Clear (.abwait o) iss act)
    (first : ∀ x ∈ act, (s.fibre x.2).again = none) :
    let tid := s.leadTeam iss.gid
    let ofs := (s.srcG iss o.a).toNat
    let b := barrierOf (s.barrierAt tid ofs)
    let p := o.imm.toNat % 128
    recordOpen s act tid = true → s.barrierBad tid ofs = none → s.barrierEcc tid ofs = false →
    s.acquireOpen (act.map (·.2)) = true → b.magic = 0x4142 → b.fl = false →
    exec (.abwait o) s = .next (if phasePassed b.phn p then (s.acquire (act.map (·.2))).advance iss
      else s.park iss iss.lanes (.abwait ofs p) (some [BitVec.ofNat 64 ofs])) := by
  intro tid ofs b p record sound ecc acquires magic fl
  obtain ⟨x, r, hact⟩ := List.exists_cons_of_ne_nil h.some'
  have again : (s.fibre (act.headD (0, ⟨0, 0⟩)).2).again = none := first _ (by rw [hact]; exact List.mem_cons_self)
  have due : State.engineDue (s.fibre (act.headD (0, ⟨0, 0⟩)).2) = none := by unfold State.engineDue; rw [again]; rfl
  have waits : State.waitOver (s.fibre (act.headD (0, ⟨0, 0⟩)).2) = false := by unfold State.waitOver; rw [again]; rfl
  have phase : bits o.imm.toNat 6 0 = p := by simp [bits, p]
  show execAbwait o s = _
  unfold execAbwait
  rw [issued_clear h false rfl]
  simp only [tid, ofs, b] at record sound ecc magic fl
  simp only [due, waits, again, phase, record, sound, ecc, acquires, magic, fl, Option.isNone_none, bne_self_eq_false,
    Bool.and_false, Bool.not_true, Bool.false_eq_true, if_false]
  split <;> rfl

theorem phasePassed_iff {phn p : Nat} (hp : p < 128) :
    phasePassed phn p = true ↔ 1 ≤ (phn + 128 - p) % 128 ∧ (phn + 128 - p) % 128 ≤ 64 := by
  simp [phasePassed, Nat.mod_eq_of_lt hp]

theorem wait_asks {o : XS} {s : State} {iss : Issue} {act : List (Nat × FibreId)} {t3 : BitVec 8} (ht : o.a = .imm t3)
    (h : s.Clear (.wait o) iss act) : exec (.wait o) s = .next (
      if act.all fun x => State.countersMet (s.fibre x.2) (o.imm.toNat % 64) (o.imm.toNat / 64 % 64)
        (o.imm.toNat / 4096 % 64) t3.toNat then s.advance iss
      else s.park iss iss.lanes (.counters (o.imm.toNat % 64) (o.imm.toNat / 64 % 64) (o.imm.toNat / 4096 % 64) t3.toNat
        (act.map (·.2))) none) := by
  have loads : bits o.imm.toNat 5 0 = o.imm.toNat % 64 := by simp [bits]
  have stores : bits o.imm.toNat 11 6 = o.imm.toNat / 64 % 64 := rfl
  have copies : bits o.imm.toNat 17 12 = o.imm.toNat / 4096 % 64 := rfl
  show execWait o s = _
  unfold execWait
  simp only [ht, loads, stores, copies]
  rw [issued_clear h false rfl]

end Sys2Proof.Machine

open Sys2Proof Sys2Proof.Machine Sys2Proof.Machine.State

/-- Settles O33: ABINIT writes its two words and goes on; ABWAIT asks whether its phase has passed, and WAIT whether every
lane's counters are at their limits: what is so goes on, what is not parks where it stands. -/
theorem arrivalBarriersAndWait : Obligations.ArrivalBarriersAndWait := by
  refine ⟨fun o s iss act h => ?_, fun o s iss act h first => ?_, fun o s iss act t3 ht h => ?_⟩
  · intro tid ofs e low high record access sound
    let u := s.barrierPut tid ofs (e * 2 ^ 44, 0x4142 * 2 ^ 44)
    have sixteen : (leBytes 8 (e * 2 ^ 44) ++ leBytes 8 (0x4142 * 2 ^ 44)).length = 16 := by simp [leBytes_length]
    have bytes : ∀ n a, (u.advance iss).spadByte n a = u.spadByte n a := spadByte_fibres (advance_frame u iss)
    obtain ⟨rest, errors⟩ := spadWrite_frame s tid ofs (leBytes 8 (e * 2 ^ 44) ++ leBytes 8 (0x4142 * 2 ^ 44))
    refine ⟨u.advance iss, abinit_writes h low high record access sound, advance_goes u iss, ?_, fun n a out => ?_, ?_,
      fun x hx => ?_⟩
    · have written := spadWrite_bytes s tid ofs (leBytes 8 (e * 2 ^ 44) ++ leBytes 8 (0x4142 * 2 ^ 44))
      rw [sixteen] at written
      refine Eq.trans ?_ written
      simp only [spadBytes, bytes]
      rfl
    · rw [bytes]
      refine (spadWrite_byte s tid ofs _ n a).trans (if_neg ?_)
      rw [sixteen]
      omega
    · exact (congrArg (fun z : State => { z with teams := s.teams, badSpad := s.badSpad }) (advance_frame u iss).1 :).trans rest
    · have same : (u.advance iss).badSpad = u.badSpad := (congrArg State.badSpad (advance_frame u iss).1 :)
      exact errors x (same ▸ hx)
  · intro tid ofs b p record sound ecc acquires magic fl passed
    have run := abwait_asks h first record sound ecc acquires magic fl
    have asked := phasePassed_iff (phn := b.phn) (p := p) (Nat.mod_lt _ (by decide))
    refine ⟨fun yes => ?_, fun no => ?_⟩
    · rw [if_pos (asked.2 yes)] at run
      exact ⟨_, run, advance_goes _ iss, (advance_frame _ iss).mem.trans (acquire_mem s _)⟩
    · rw [if_neg fun yes => no (asked.1 yes)] at run
      exact ⟨_, run, fun x hx => ⟨(park_blocked s iss iss.lanes _ _ x hx).1, park_pc s iss _ _ _ x.2⟩⟩
  · intro ok
    have run := wait_asks ht h
    have met : ∀ f, countersMet f (o.imm.toNat % 64) (o.imm.toNat / 64 % 64) (o.imm.toNat / 4096 % 64) t3.toNat = true ↔
        ok f := fun f => by simp [countersMet, ok, and_assoc]
    refine ⟨fun all => ?_, fun ⟨x, hx, no⟩ _ => ?_⟩
    · rw [run, if_pos (List.all_eq_true.2 fun x hx => (met _).2 (all x hx))]
    · rw [if_neg fun all => no ((met _).1 (List.all_eq_true.1 all x hx))] at run
      exact ⟨_, run, fun y hy => ⟨park_pc s iss _ _ _ y.2, (park_blocked s iss iss.lanes _ _ y (h.sublist.subset hy)).1⟩⟩

end

section
/-! A step that issues (04 R81, R85, R87; 13 R285; 15 R315 to R318). -/

namespace Sys2Proof.Machine
namespace State

/-! The vote: what a subset that runs an instruction has found at its pc. -/

theorem standing_run {s : State} {gid : Nat} {q : Subset} {i : Instr} {n : Nat} (h : s.standing gid q = .can (.run i n)) :
    (s.fetchAt gid q.pc).2 = .instr i n := by
  unfold standing at h
  dsimp only at h
  split at h
  · cases h
  split at h
  · cases h
  split at h
  · split at h <;> cases h
  · cases h
  · cases h
  next j m found =>
    rw [found]
    split at h
    · cases h
    split at h
    · split at h
      · cases h
      · cases h; rfl
    · cases h

/-- What is left of a list once some are set aside, unless that leaves none, is of the list. -/
theorem mem_of_undemoted {α : Type} {l : List α} {p : α → Bool} {x : α}
    (h : x ∈ if (l.filter p).isEmpty then l else l.filter p) : x ∈ l := by
  split at h
  · exact h
  · exact (List.mem_filter.1 h).1

theorem eligible_run {s : State} {gid n : Nat} {q : Subset} {i : Instr} (h : (q, .run i n) ∈ s.eligible gid) :
    s.standing gid q = .can (.run i n) := by
  unfold eligible at h
  dsimp only at h
  obtain ⟨x, hx, stands⟩ := List.mem_filterMap.1 (mem_of_undemoted h)
  obtain ⟨p, -, rfl⟩ := List.mem_map.1 hx
  dsimp only at stands
  split at stands
  · cases stands
  · next e => cases stands; exact e
  · split at stands
    · cases stands
    split at stands
    · split at stands <;> cases stands
    · cases stands

/-! What stands at a reference. -/

theorem fetchAt_elsewhere {s : State} {gid : Nat} {r : Dword}
    (h : r ≠ recEntry (s.launch (s.team (s.leadTeam gid)).launch).words) :
    s.fetchAt gid r = s.fetch (s.group gid).core (s.group gid).ctx r := by
  unfold fetchAt
  dsimp only
  rw [if_pos (by simp [h])]

theorem fetchAt_entry {s s1 : State} {gid : Nat} {r : Dword} {h : Word}
    (entry : r = recEntry (s.launch (s.team (s.leadTeam gid)).launch).words) (code : s.refCheck (s.group gid).ctx r = none)
    (header : s.codeWord (s.group gid).core (s.group gid).ctx (r - BitVec.ofNat 64 (4 * (refOfs r % 128 / 4))) = (s1, .ok h)) :
    s.fetchAt gid r = if refOfs r % 128 / 4 ≠ 0 ∧ h.getLsbD (refOfs r % 128 / 4) = true ∧ h.getLsbD 0 = true
      then s1.fetch (s.group gid).core (s.group gid).ctx r else (s1, .fail (.trap 0x06 r.toNat)) := by
  unfold fetchAt
  dsimp only
  rw [if_neg (by simp [← entry, code]), header]
  dsimp only
  refine if_congr ?_ rfl rfl
  simp [and_assoc]

theorem fetch_decodes {s s1 s2 : State} {core ctx n : Nat} {r : Dword} {w : Word} {ws : List Word} {i : Instr}
    (code : s.refCheck ctx r = none) (body : refOfs r % 128 ≠ 0) (first : s.codeWord core ctx r = (s1, .ok w))
    (inside : refOfs r % 128 / 4 + Machine.lenWords w ≤ 32)
    (words : s1.codeWords core ctx r (Machine.lenWords w) = (s2, .ok ws)) (decodes : decode ws = .ok (i, n)) :
    s.fetch core ctx r = (s2, .instr i n) := by
  unfold fetch
  simp only [code, first, words, decodes, beq_eq_false_iff_ne.2 body, Nat.not_lt.2 inside, Bool.false_eq_true, if_false]

/-! The issue. -/

theorem execFor_next {s u : State} {iss : Issue} {i : Instr} (run : exec i { s with issue := some iss } = .next u) :
    s.execFor iss i = if ({ u with issue := none } : State).leftStalled iss then { u with issue := none }
      else s.spinIssued { u with issue := none } iss i (s.active iss (guardOf i)) := by
  unfold execFor
  rw [run]

/-- The first eligible subset of the group runs its instruction, and where it has gone on the slot has chosen. -/
theorem issueMain_runs {s : State} {core slot gid n : Nat} {q : Subset} {i : Instr} {l : List (Subset × Choice)}
    (first : s.eligible gid = (q, .run i n) :: l) : s.issueMain core slot gid =
      let ran := (s.fetchAt gid q.pc).1.execFor ((s.fetchAt gid q.pc).1.issueOf gid q n) i
      if ran.leftStalled (s.issueOf gid q 1) then ran
      else ((ran.chosen core slot gid (s.classOf gid)).modCore core fun x => { x with
        ports := x.ports.put slot ⟨x.clock, gid, secondOf ((q, .run i n) :: l), issueClocks (s.group gid)⟩ }).applyHint gid
          (hintOfInstr i) (alwaysYields (.run i n)) := by
  unfold issueMain
  rw [first]
  rfl

/-- The machine that a slot's choice is made on: wakes are due, then what the spin detector has to say. -/
def awake (s : State) (core : Nat) : State :=
  s.wakeAll.each ((s.wakeAll.groups.filter fun x => x.2.core == core && !x.2.spins.isEmpty).map (·.1)) fun s g => s.dueSpins g

theorem issueSlot_main {s : State} {core slot gid : Nat} {g : Group} (free : (s.awake core).portFree core slot = true)
    (choice : (s.awake core).chooseGroup core slot = some (gid, g)) :
    s.issueSlot core slot = (s.awake core).issueMain core slot gid := by
  unfold awake at free choice ⊢
  unfold issueSlot
  simp only [free, choice, Bool.not_true, Bool.false_eq_true, if_false]

theorem step_issues {s : State} {core slot : Nat} {rest : List Directive} (named : s.agenda = .issue core slot :: rest) :
    step s = .next (State.settleStep { s with agenda := rest } (State.issueSlot { s with agenda := rest } core slot)) := by
  unfold step move
  rw [named]
  rfl

end State
end Sys2Proof.Machine

open Sys2Proof Sys2Proof.Machine Sys2Proof.Machine.State

/-- Settles O58: the agenda's slot issues for the first eligible subset of its group, which runs what decoding its words
gave. -/
theorem stepRunsDecoded : Obligations.StepRunsDecoded := by
  refine ⟨fun s u core slot gid n rest g q i l named => ?_, fun s gid n q i h => standing_run (eligible_run h),
    fun s gid r => ?_, fun _ _ _ _ _ _ _ _ _ _ code body first inside words decodes =>
      fetch_decodes code body first inside words decodes, fun _ _ _ => wf_of_decode⟩
  · intro s1 woken s2 free choice first s3 iss run t ran
    have performed : s3.execFor iss i = ran := execFor_next run
    have issues : s1.issueSlot core slot = s2.issueMain core slot gid := issueSlot_main free choice
    rw [issueMain_runs first] at issues
    dsimp only at issues
    rw [performed] at issues
    exact (step_issues named).trans (congrArg (fun t => Host.Outcome.next (s1.settleStep t)) issues)
  · intro g fetched i
    exact ⟨fetchAt_elsewhere, fun entry code s1 h header => fetchAt_entry entry code header⟩

end

section
/-! Integer results of base forms (05 R101, R102): each operation of the model over 32 bits is the operation on words that its
entry names. -/

namespace Sys2Proof.Machine

/-! Instructions with a result for each guarded lane. -/

/-- An instruction that ends with results for its guarded lanes in rising FID, of registers of fibres, completes. -/
theorem completes_byFid {i : Instr} {s : State} {iss : Issue} {act : List (Nat × FibreId)} (clear : s.Clear i iss act)
    {res : Nat × FibreId → LaneRes}
    (run : exec i s = .next (s.finish iss act i ((State.byFid act).map fun x => (x, res x))))
    (once : ∀ x, ((res x).dests.map (·.1)).Nodup) (fibres : ∀ x, ∀ d ∈ (res x).dests, isG d.1 = false) :
    Completes i s iss act ((State.byFid act).map fun x => (x, res x)) :=
  completes_of_map run (fun nd => (((State.byFid_perm act).map _).nodup_iff).2 (clear.nodup nd)) (fun x _ => once x)
    fun x _ => fibres x

/-- So does an integer instruction in base form (15 R324). -/
theorem intInstr_completes {i : Instr} {s : State} {iss : Issue} {act : List (Nat × FibreId)} (clear : s.Clear i iss act)
    {n : BitVec 8} {a b c : Opnd} {op : Nat → Nat → Nat → Nat → Nat} {res : Nat × FibreId → Dword}
    (run : exec i s = intInstr i s (.v n) a b c op)
    (value : ∀ x : Nat × FibreId,
      BitVec.ofNat 64 (op 32 (s.src iss x.2 a).toNat (s.src iss x.2 b).toNat (s.src iss x.2 c).toNat) = res x) :
    Completes i s iss act ((State.byFid act).map fun x => (x, res1 (.v n) (res x))) := by
  refine completes_byFid clear ?_ (fun x => by simp [res1]) fun x d hd => ?_
  · rw [run, intInstr, issued_clear clear false rfl]
    simp only [value]
  · rw [List.mem_singleton.1 hd]; rfl

/-! Wrapped results (05 R101). -/

theorem sext_toNat {n : Nat} (a : BitVec n) : sext n a.toNat = a.toInt := by
  rw [sext, BitVec.toInt_eq_toNat_cond, Nat.mod_eq_of_lt a.isLt]
  cases n with
  | zero => simp
  | succ n =>
    have half : 2 * a.toNat < 2 ^ (n + 1) ↔ a.toNat < 2 ^ n := by rw [Nat.pow_succ]; omega
    simp only [Nat.add_sub_cancel, half]

theorem intOf_signed {n : Nat} (a : BitVec n) : intOf n false a.toNat = a.toInt := by
  rw [intOf, if_neg Bool.false_ne_true, sext_toNat]

theorem narrow_wrapped (n : Nat) (r : Int) : narrow n false false r = (BitVec.ofInt n r).toNat := by
  simp [narrow]

theorem ofNat_toNat_word (a : Word) : BitVec.ofNat 64 a.toNat = a.setWidth 64 := (BitVec.ofNat_toNat 64 a)

/-- The value of a wrapped result, as a register takes it. -/
theorem ofNat_narrow (r : Int) : BitVec.ofNat 64 (narrow 32 false false r) = (BitVec.ofInt 32 r).setWidth 64 := by
  rw [narrow_wrapped, BitVec.ofNat_toNat]

theorem addOp_word (a b : Word) (c : Nat) :
    BitVec.ofNat 64 (addOp false false 32 a.toNat b.toNat c) = (a + b).setWidth 64 := by
  simp [addOp, ofNat_narrow, intOf_signed, BitVec.ofInt_add]

theorem subOp_word (a b : Word) (c : Nat) :
    BitVec.ofNat 64 (subOp false false 32 a.toNat b.toNat c) = (a - b).setWidth 64 := by
  simp [subOp, ofNat_narrow, intOf_signed, Int.sub_eq_add_neg, BitVec.ofInt_add, BitVec.ofInt_neg, BitVec.sub_eq_add_neg]

theorem mulOp_word (a b : Word) (c : Nat) :
    BitVec.ofNat 64 (mulOp false false 32 a.toNat b.toNat c) = (a * b).setWidth 64 := by
  simp [mulOp, ofNat_narrow, intOf_signed, BitVec.ofInt_mul]

theorem madOp_word (a b c : Word) :
    BitVec.ofNat 64 (madOp false false 32 a.toNat b.toNat c.toNat) = (a * b + c).setWidth 64 := by
  simp [madOp, ofNat_narrow, intOf_signed, BitVec.ofInt_mul, BitVec.ofInt_add]

/-- The high half of an exact product (21 R424). -/
theorem mulhOp_word (a b : Word) (c : Nat) : BitVec.ofNat 64 (mulhOp false 32 a.toNat b.toNat c) =
    (((a.signExtend 64 * b.signExtend 64) >>> 32).setWidth 32 : Word).setWidth 64 := by
  have product : a.signExtend 64 * b.signExtend 64 = BitVec.ofInt 64 (a.toInt * b.toInt) := by
    rw [BitVec.ofInt_mul]; rfl
  rw [mulhOp, ofNat_narrow, intOf_signed, intOf_signed, product]
  congr 1
  apply BitVec.eq_of_toNat_eq
  generalize a.toInt * b.toInt = p
  simp only [BitVec.toNat_ofInt, BitVec.toNat_setWidth, BitVec.toNat_ushiftRight, Nat.shiftRight_eq_div_pow]
  omega

/-! Logic, minimum and maximum. -/

theorem andOp_word (a b : Word) (n c : Nat) : BitVec.ofNat 64 (andOp n a.toNat b.toNat c) = (a &&& b).setWidth 64 := by
  rw [← ofNat_toNat_word, BitVec.toNat_and]; rfl

theorem orOp_word (a b : Word) (n c : Nat) : BitVec.ofNat 64 (orOp n a.toNat b.toNat c) = (a ||| b).setWidth 64 := by
  rw [← ofNat_toNat_word, BitVec.toNat_or]; rfl

theorem xorOp_word (a b : Word) (n c : Nat) : BitVec.ofNat 64 (xorOp n a.toNat b.toNat c) = (a ^^^ b).setWidth 64 := by
  rw [← ofNat_toNat_word, BitVec.toNat_xor]; rfl

theorem andnOp_word (a b : Word) (c : Nat) :
    BitVec.ofNat 64 (andnOp 32 a.toNat b.toNat c) = (a &&& ~~~b).setWidth 64 := by
  rw [← ofNat_toNat_word, BitVec.toNat_and, BitVec.toNat_not, andnOp, Nat.mod_eq_of_lt b.isLt]; rfl

theorem minOp_word (a b : Word) (c : Nat) :
    BitVec.ofNat 64 (minOp false 32 a.toNat b.toNat c) = (if a.sle b then a else b).setWidth 64 := by
  rw [minOp, intOf_signed, intOf_signed, Nat.mod_eq_of_lt a.isLt, Nat.mod_eq_of_lt b.isLt, ← ofNat_toNat_word]
  simp only [BitVec.sle, decide_eq_true_eq]
  split <;> rfl

theorem maxOp_word (a b : Word) (c : Nat) :
    BitVec.ofNat 64 (maxOp false 32 a.toNat b.toNat c) = (if a.sle b then b else a).setWidth 64 := by
  rw [maxOp, intOf_signed, intOf_signed, Nat.mod_eq_of_lt a.isLt, Nat.mod_eq_of_lt b.isLt, ← ofNat_toNat_word]
  simp only [BitVec.sle, decide_eq_true_eq]
  split <;> rfl

/-! Shifts and rotations by an 8-bit count (05 R102; 22 R449). -/

theorem shlOp_word (a : Word) {n : Nat} (h : n < 256) (c : Nat) :
    BitVec.ofNat 64 (shlOp 32 a.toNat n c) = (a <<< n).setWidth 64 := by
  rw [shlOp, Nat.mod_eq_of_lt h, ← ofNat_toNat_word]
  split
  · rw [BitVec.shiftLeft_eq_zero ‹_›]; rfl
  · rw [BitVec.toNat_shiftLeft, Nat.shiftLeft_eq]

theorem shrOp_word (a : Word) {n : Nat} (h : n < 256) (c : Nat) :
    BitVec.ofNat 64 (shrOp 32 a.toNat n c) = (a >>> n).setWidth 64 := by
  rw [shrOp, Nat.mod_eq_of_lt h, Nat.mod_eq_of_lt a.isLt, ← ofNat_toNat_word]
  split
  · rw [BitVec.ushiftRight_eq_zero ‹_›]; rfl
  · rw [BitVec.toNat_ushiftRight, Nat.shiftRight_eq_div_pow]

theorem rolOp_word (a : Word) {n : Nat} (h : n < 256) (c : Nat) :
    BitVec.ofNat 64 (rolOp 32 a.toNat n c) = (a.rotateLeft n).setWidth 64 := by
  rw [rolOp, Nat.mod_eq_of_lt h, Nat.mod_eq_of_lt a.isLt, ← ofNat_toNat_word, BitVec.toNat_rotateLeft]
  have hk : n % 32 < 32 := Nat.mod_lt _ (by decide)
  generalize n % 32 = k at hk
  have width : 2 ^ 32 = 2 ^ (32 - k) * 2 ^ k := by rw [← Nat.pow_add, Nat.sub_add_cancel (Nat.le_of_lt hk)]
  have low : a.toNat / 2 ^ (32 - k) < 2 ^ k := Nat.div_lt_of_lt_mul (width ▸ a.isLt)
  have high : a.toNat * 2 ^ k % 2 ^ 32 = (a.toNat % 2 ^ (32 - k)) <<< k := by
    rw [width, Nat.mul_mod_mul_right, Nat.shiftLeft_eq]
  rw [Nat.shiftLeft_eq, Nat.shiftRight_eq_div_pow, high, Nat.shiftLeft_add_eq_or_of_lt low]

/-! One operand (17 R352, R371; 18 R380; 22 R437). -/

theorem negOp_word (a : Word) (b c : Nat) : BitVec.ofNat 64 (negOp false 32 a.toNat b c) = (-a).setWidth 64 := by
  simp [negOp, ofNat_narrow, sext_toNat, BitVec.ofInt_neg]

theorem absOp_word (a : Word) (b c : Nat) :
    BitVec.ofNat 64 (absOp false 32 a.toNat b c) = (if a.msb then -a else a).setWidth 64 := by
  rw [absOp, ofNat_narrow, sext_toNat, BitVec.msb_eq_toInt]
  congr 1
  by_cases neg : a.toInt < 0
  · rw [Int.ofNat_natAbs_of_nonpos (Int.le_of_lt neg)]
    simp [neg, BitVec.ofInt_neg]
  · rw [Int.natAbs_of_nonneg (Int.not_lt.1 neg)]
    simp [neg]

theorem bit_eq_testBit (x i : Nat) : bit x i = x.testBit i := by
  rw [bit, Nat.testBit_eq_decide_div_mod_eq]; rfl

/-- The zeros above the highest one of a number of n bits. -/
theorem length_takeWhile_zeros {x : Nat} : ∀ {n : Nat}, x < 2 ^ n →
    ((List.range n).reverse.takeWhile fun i => !x.testBit i).length = if x = 0 then n else n - 1 - Nat.log2 x
  | 0, h => by simp
  | n + 1, h => by
    rw [List.range_succ, List.reverse_append, List.reverse_singleton, List.singleton_append, List.takeWhile_cons]
    by_cases top : 2 ^ n ≤ x
    · have one : x / 2 ^ n = 1 := Nat.div_eq_of_lt_le (by omega) (by rw [Nat.pow_succ] at h; omega)
      have nonzero : x ≠ 0 := by have := Nat.two_pow_pos n; omega
      have := (Nat.le_log2 nonzero).2 top
      simp [Nat.testBit_eq_decide_div_mod_eq, one, nonzero]
      omega
    · have small : x < 2 ^ n := Nat.lt_of_not_le top
      rw [Nat.testBit_lt_two_pow small, Bool.not_false, if_pos rfl, List.length_cons, length_takeWhile_zeros small]
      split
      · rfl
      · have := (Nat.log2_lt ‹_›).2 small
        omega

theorem clzOp_word (a : Word) (b c : Nat) : BitVec.ofNat 64 (clzOp 32 a.toNat b c) =
    (BitVec.ofNat 32 ((List.range 32).reverse.takeWhile fun i => !a.getLsbD i).length : Word).setWidth 64 := by
  have zeros : ((List.range 32).reverse.takeWhile fun i => !a.getLsbD i).length = clzOp 32 a.toNat b c := by
    rw [clzOp, Nat.mod_eq_of_lt a.isLt]
    simp only [beq_iff_eq]
    exact length_takeWhile_zeros a.isLt
  have small : clzOp 32 a.toNat b c < 2 ^ 32 := by
    rw [clzOp]; split <;> omega
  rw [zeros, ← ofNat_toNat_word, BitVec.toNat_ofNat, Nat.mod_eq_of_lt small]

theorem popcOp_word (a : Word) (b c : Nat) : BitVec.ofNat 64 (popcOp 32 a.toNat b c) =
    (BitVec.ofNat 32 ((List.range 32).filter fun i => a.getLsbD i).length : Word).setWidth 64 := by
  have small : ((List.range 32).filter fun i => a.getLsbD i).length < 2 ^ 32 :=
    Nat.lt_of_le_of_lt (List.length_filter_le _ _) (by simp)
  rw [← ofNat_toNat_word, BitVec.toNat_ofNat, Nat.mod_eq_of_lt small]
  simp only [popcOp, bit_eq_testBit]
  rfl

/-- Bits gathered from the lowest on, each above the next. -/
theorem testBit_foldl_bits (a : Nat) : ∀ n j, ((upto n).foldl (fun x i => 2 * x + b2n (bit a i)) 0).testBit j =
    (decide (j < n) && a.testBit (n - 1 - j))
  | 0, j => by simp
  | n + 1, j => by
    have digit (x : Nat) : 2 * x + b2n (bit a n) = Nat.bit (a.testBit n) x := by
      rw [bit_eq_testBit, Nat.bit_val]
      cases a.testBit n <;> rfl
    rw [upto, List.range_succ, List.foldl_append, List.foldl_cons, List.foldl_nil, digit]
    cases j with
    | zero => rw [Nat.testBit_bit_zero]; simp
    | succ j =>
      rw [Nat.testBit_bit_succ, testBit_foldl_bits a n j, Nat.add_sub_cancel, Nat.sub_sub, Nat.add_comm 1]
      simp

theorem brevOp_word (a : Word) (b c : Nat) : BitVec.ofNat 64 (brevOp 32 a.toNat b c) = a.reverse.setWidth 64 := by
  rw [← ofNat_toNat_word]
  congr 1
  refine Nat.eq_of_testBit_eq fun j => ?_
  rw [brevOp, testBit_foldl_bits, BitVec.testBit_toNat, BitVec.testBit_toNat, BitVec.getLsbD_reverse]
  rfl

/-- The count that a base-form shift names, as its operand gives it (15 R320). -/
theorem src_biB (s : State) (iss : Issue) (f : FibreId) (o : BI) : (s.src iss f (biB o)).toNat = o.b.toNat := by
  simp [State.src, biB]
  omega

theorem count_lt (o : BI) : o.b.toNat < 256 := by omega

/-! The instructions. -/

theorem integerBaseForms : Claims.IntegerBaseForms := by
  unfold Claims.IntegerBaseForms
  simp only [List.forall_mem_cons]
  refine ⟨?_, ?_, ?_, ?_, ?_, ?_, ?_, ?_, ?_, ?_, ?_, List.forall_mem_nil _⟩
  · exact fun _ _ _ _ clear => intInstr_completes clear rfl fun _ => addOp_word _ _ _
  · exact fun _ _ _ _ clear => intInstr_completes clear rfl fun _ => subOp_word _ _ _
  · exact fun _ _ _ _ clear => intInstr_completes clear rfl fun _ => mulOp_word _ _ _
  · exact fun _ _ _ _ clear => intInstr_completes clear rfl fun _ => mulhOp_word _ _ _
  · exact fun _ _ _ _ clear => intInstr_completes clear rfl fun _ => madOp_word _ _ _
  · exact fun _ _ _ _ clear => intInstr_completes clear rfl fun _ => andOp_word _ _ _ _
  · exact fun _ _ _ _ clear => intInstr_completes clear rfl fun _ => orOp_word _ _ _ _
  · exact fun _ _ _ _ clear => intInstr_completes clear rfl fun _ => xorOp_word _ _ _ _
  · exact fun _ _ _ _ clear => intInstr_completes clear rfl fun _ => andnOp_word _ _ _
  · exact fun _ _ _ _ clear => intInstr_completes clear rfl fun _ => minOp_word _ _ _
  · exact fun _ _ _ _ clear => intInstr_completes clear rfl fun _ => maxOp_word _ _ _

/-- The low bits of a sign extension are a sign extension. -/
theorem setWidth_signExtend {n m k : Nat} (x : BitVec n) (h : k ≤ m) :
    (x.signExtend m).setWidth k = x.signExtend k := by
  refine BitVec.eq_of_getLsbD_eq fun i hi => ?_
  have wide : i < m := Nat.lt_of_lt_of_le hi h
  simp only [BitVec.getLsbD_setWidth, BitVec.getLsbD_signExtend, hi, wide, decide_true, Bool.true_and]

/-- LI gives its literal, a short one sign-extended (20 R420). -/
theorem li_completes {o : BL} {s : State} {iss : Issue} {act : List (Nat × FibreId)} (clear : s.Clear (.li o) iss act) :
    Completes (.li o) s iss act ((State.byFid act).map fun x =>
      (x, res1 (.v (o.d.setWidth 8)) (((match o.imm with
        | .short n => n.signExtend 32
        | .lit n => n.setWidth 32) : Word).setWidth 64))) := by
  have run : exec (.li o) s = execLi o s := rfl
  refine intInstr_completes clear (run.trans rfl) fun _ => (ofNat_toNat_word _).trans ?_
  cases o.imm with
  | short n => exact congrArg _ (setWidth_signExtend n (by decide))
  | lit n => rfl

theorem shiftAndUnaryBaseForms : Claims.ShiftAndUnaryBaseForms := by
  unfold Claims.ShiftAndUnaryBaseForms
  simp only [List.forall_mem_cons]
  refine ⟨⟨?_, ?_, ?_, List.forall_mem_nil _⟩, ⟨?_, ?_, ?_, ?_, ?_, ?_, List.forall_mem_nil _⟩,
    fun _ _ _ _ clear => ?_⟩
  · exact fun o _ _ _ clear => intInstr_completes clear rfl fun _ => by rw [src_biB]; exact shlOp_word _ (count_lt o) _
  · exact fun o _ _ _ clear => intInstr_completes clear rfl fun _ => by rw [src_biB]; exact shrOp_word _ (count_lt o) _
  · exact fun o _ _ _ clear => intInstr_completes clear rfl fun _ => by rw [src_biB]; exact rolOp_word _ (count_lt o) _
  · exact fun _ _ _ _ clear => intInstr_completes clear rfl fun _ => absOp_word _ _ _
  · exact fun _ _ _ _ clear => intInstr_completes clear rfl fun _ => negOp_word _ _ _
  · exact fun _ _ _ _ clear => intInstr_completes clear rfl fun _ => clzOp_word _ _ _
  · exact fun _ _ _ _ clear => intInstr_completes clear rfl fun _ => popcOp_word _ _ _
  · exact fun _ _ _ _ clear => intInstr_completes clear rfl fun _ => brevOp_word _ _ _
  · exact fun o s _ _ clear => intInstr_completes clear (show exec _ s = execMov o s from rfl) fun _ => ofNat_toNat_word _
  · exact li_completes clear

end Sys2Proof.Machine

open Sys2Proof Sys2Proof.Machine

/-- Settles O6: each operation of the model, over words, is that of its entry. -/
theorem integerInBaseForms : Obligations.IntegerInBaseForms := ⟨integerBaseForms, shiftAndUnaryBaseForms⟩

end

section
/-! The ARITH trap (05 R108; 12 R258): the flags of every lane are set, and nothing else of a fibre moves before it. -/

namespace Sys2Proof.Machine.State

/-- The enabled flags as DETAIL gives them: BFFLAGS above FPFLAGS (12 R258). -/
theorem enabled_eq_append (s : State) (iss : Issue) (rs : List ((Nat × FibreId) × LaneRes)) :
    s.enabled iss rs = ((rs.foldl (fun m x => m ||| x.2.bf) 0#3 &&& BitVec.ofNat 3 (bits (s.fpctl iss) 11 9)) ++
      (rs.foldl (fun m x => m ||| x.2.fl) 0#5 &&& BitVec.ofNat 5 (bits (s.fpctl iss) 8 4))).toNat := by
  rw [BitVec.toNat_append, enabled]
  generalize rs.foldl (fun m x => m ||| x.2.bf) 0#3 &&& BitVec.ofNat 3 (bits (s.fpctl iss) 11 9) = bf
  generalize rs.foldl (fun m x => m ||| x.2.fl) 0#5 &&& BitVec.ofNat 5 (bits (s.fpctl iss) 8 4) = fl
  rw [← Nat.shiftLeft_add_eq_or_of_lt fl.isLt, Nat.shiftLeft_eq]
  omega

/-- An instruction with an enabled flag sets flags and traps, and writes nothing. -/
theorem finish_traps {s : State} {iss : Issue} {rs : List ((Nat × FibreId) × LaneRes)} (he : s.enabled iss rs ≠ 0)
    (act : List (Nat × FibreId)) (i : Instr) :
    s.finish iss act i rs = (s.setFlags rs).raise iss cARITH (s.enabled iss rs) 0 := by
  have same : (s.setFlags rs).enabled iss rs = s.enabled iss rs := (setFlags_fibre s rs).1.registers.enabled iss rs
  unfold finish
  simp only [same, bne_iff_ne, ne_eq, he, not_false_eq_true, if_true]

end Sys2Proof.Machine.State

open Sys2Proof Sys2Proof.Machine Sys2Proof.Machine.State

/-- Settles O13: what traps is the machine with every lane's flags set. -/
theorem arithmeticTrap : Obligations.ArithmeticTrap := by
  intro s iss act i rs nd fl bf raised
  have detail : s.enabled iss rs = (bf ++ fl).toNat := enabled_eq_append s iss rs
  have enabled : s.enabled iss rs ≠ 0 := by
    intro zero
    have sum : fl.toNat + 32 * bf.toNat = 0 := zero
    clear_value fl bf
    bv_omega
  refine ⟨s.setFlags rs, ?_, (setFlags_fibre s rs).1, setFlags_only s rs, fun f => setFlags_other s, fun x hx => ?_⟩
  · rw [finish_traps enabled, detail]; rfl
  · rw [setFlags_lane s nd hx]
    exact ⟨rfl, rfl⟩

end

section
/-! The statements on binary32 arithmetic and on conversions ask of an extended form no more than that the checks let it
pass, so a g register may be its destination, which `wfXR` keeps from every form but integer arithmetic, MOV and the like (15
R324; 19 R394). The model then writes the register once for each lane, and lanes whose results differ cannot all be the one
value that it reads. -/

namespace Sys2Proof.Machine

/-- A g register that a fixed-latency instruction completes into reads one value, whichever lane's result it is. -/
theorem Completes.group_value {i : Instr} {s : State} {iss : Issue} {act : List (Nat × FibreId)}
    {rs : List ((Nat × FibreId) × LaneRes)} (completes : Completes i s iss act rs) (unit : unitOf i = .alu ∨ unitOf i = .fma)
    (quiet : bits (s.fpctl iss) 11 4 = 0) (apart : (iss.lanes.map (·.2)).Nodup) (ids : ∀ p ∈ s.pending, p.1 < s.nextId)
    {x y : (Nat × FibreId) × LaneRes} (hx : x ∈ rs) (hy : y ∈ rs) {n : Nat} {a b : Dword} (ha : (.g n, a) ∈ x.2.dests)
    (hb : (.g n, b) ∈ y.2.dests) : a = b := by
  obtain ⟨t, _, _, lanes⟩ := completes.2 (.inl quiet) apart ids
  obtain ⟨_, _, landedX, _⟩ := lanes x hx
  obtain ⟨_, _, landedY, _⟩ := lanes y hy
  have readsA : t.gAt iss.gid n 4 = a := landedX unit _ ha
  have readsB : t.gAt iss.gid n 4 = b := landedY unit _ hb
  exact readsA.symm.trans readsB

namespace GroupDestination

/-- The two fibres of the group, in lanes 0 and 1. -/
def one : FibreId := ⟨teamKey 0 0, 0⟩
def minusOne : FibreId := ⟨teamKey 0 0, 1⟩

def lanes : List (Nat × FibreId) := [(0, one), (1, minusOne)]

def issue : Issue := { gid := 1, core := 0, ctx := 1, pc := 4, next := 8, lanes := lanes, atEnd := false }

/-- A machine that issues for two fibres, with 1.0 and −1.0 in v0. -/
def machine : State :=
  { State.reset with
    issue := some issue
    nextId := 2
    contexts := [(1, {})]
    launches := [(0, loadedLaunch)]
    teams := [(teamKey 0 0, { loadedTeam with
      nfib := 2
      fibres := [(0, { loadedFibre with v := 0x3F800000 :: List.replicate 255 0 }),
        (1, { loadedFibre with v := 0xBF800000 :: List.replicate 255 0 })] })]
    groups := [(1, { loadedGroup with members := [one, minusOne] })] }

/-- Operands v0 and v0, destination g0, guarded by k0. -/
def operands : XR := ⟨⟨0, false⟩, ⟨0, false⟩, 0, .g 0, .v 0, .v 0, .none, 0, false, false, 0, 0, 0, 0⟩

/-- No check stands in the way of an instruction with these operands. -/
theorem clear {i : Instr} (guard : guardOf i = (0, false)) (uses : usesOf i = { vr := [0, 0], gw := [0] }) :
    machine.Clear i issue lanes where
  issue := rfl
  guarded := by rw [guard]; decide +kernel
  some' := by simp [lanes]
  inside := rfl
  window := by rw [uses]; decide +kernel
  streams := by rw [uses]; decide +kernel
  uniform := by rw [uses]; decide +kernel
  guards := by rw [guard]; decide +kernel
  pops := by rw [uses]; decide +kernel
  sources := by rw [uses]; decide +kernel

/-- What an instruction of the FMA unit completes into g0 is the same for both fibres. -/
theorem same_value {i : Instr} (unit : unitOf i = .fma) {res : Nat × FibreId → LaneRes}
    (completes : Completes i machine issue lanes ((State.byFid lanes).map fun x => (x, res x))) {a b : Dword}
    (ha : (.g 0, a) ∈ (res (0, one)).dests) (hb : (.g 0, b) ∈ (res (1, minusOne)).dests) : a = b := by
  refine completes.group_value (.inr unit) (by decide +kernel) (by decide +kernel) (List.forall_mem_nil _)
    (List.mem_map.2 ⟨(0, one), ?_, rfl⟩) (List.mem_map.2 ⟨(1, minusOne), ?_, rfl⟩) ha hb
  · decide +kernel
  · decide +kernel

end GroupDestination
end Sys2Proof.Machine

open Sys2Proof Sys2Proof.Machine

/-- Refutes O10 by the extended FADD of its first claim: with destination g0 and v0 + v0, where v0 is 1.0 in one fibre and
−1.0 in the other (`GroupDestination.machine`), the results are 2.0 and −2.0, and g0 would have to read both. -/
theorem not_floatingPointArithmetic : ¬ Obligations.FloatingPointArithmetic := by
  rintro ⟨⟨_, extended, _⟩, _⟩
  have completes := extended (.faddX, fun v a b _ => Float.fadd v a b) (by simp) GroupDestination.operands
    GroupDestination.machine GroupDestination.issue GroupDestination.lanes (GroupDestination.clear rfl rfl)
  have same : (0x40000000 : Dword) = 0xC0000000 :=
    GroupDestination.same_value rfl completes (by decide +kernel) (by decide +kernel)
  exact absurd same (by decide)

/-- Refutes O11 by the FCLASS of its first claim: with destination g0 and operand v0, 1.0 in one fibre and −1.0 in the other
(`GroupDestination.machine`), the classes are 2^6 and 2^1, and g0 would have to read both. -/
theorem not_floatConversions : ¬ Obligations.FloatConversions := by
  rintro ⟨⟨_, _, _, _, classes, _⟩, _⟩
  have completes := classes GroupDestination.operands
    GroupDestination.machine GroupDestination.issue GroupDestination.lanes (GroupDestination.clear rfl rfl)
  have same : (64 : Dword) = 2 :=
    GroupDestination.same_value rfl completes (by decide +kernel) (by decide +kernel)
  exact absurd same (by decide)

end

section
/-! BCVT and BDOT (17 R364, R366): instructions of the special-function unit, whose results arrive later. -/

namespace Sys2Proof.Machine

/-- An instruction of a unit of variable latency that ends with results for its lanes completes, whatever their
destinations: each lane's result is on its way (04 R90). -/
theorem completes_of_variable {i : Instr} {s : State} {iss : Issue} {act : List (Nat × FibreId)}
    {rs : List ((Nat × FibreId) × LaneRes)} (run : exec i s = .next (s.finish iss act i rs)) (ha : unitOf i ≠ .alu)
    (hf : unitOf i ≠ .fma) (lanes : (iss.lanes.map (·.2)).Nodup → (rs.map fun x => x.1.2).Nodup) :
    Completes i s iss act rs := by
  refine ⟨run, fun quiet apart _ => ?_⟩
  have none : s.enabled iss rs = 0 := quiet.elim (State.enabled_of_fpctl rs) id
  let w := (s.setFlags rs).each rs fun s x => s.addResult iss x
  obtain ⟨frame, kept⟩ := State.popped_advanced w act (usesOf i) iss
  have fibre (f : FibreId) : w.fibre f = (s.setFlags rs).fibre f :=
    State.each_same (g := fun t : State => t.fibre f) _ fun t x => (State.addResult_spec t iss x).1 f
  refine ⟨(w.popStreams act (usesOf i)).advance iss, by rw [run, State.finish_variable ha hf none], State.advance_goes _ iss,
    fun x hx => ?_⟩
  obtain ⟨fp, bf, _⟩ := kept x.1.2
  have flags := (fibre x.1.2).trans (State.setFlags_lane s (lanes apart) hx)
  refine ⟨by rw [fp, flags]; rfl, by rw [bf, flags]; rfl, fun fixed => (fixed.elim ha hf).elim, fun _ _ some => ?_⟩
  obtain ⟨id, p, _, listed, result⟩ := State.each_addResult_arrives (s.setFlags rs) iss hx some
  exact ⟨id, p, frame.pending ▸ listed, result⟩

theorem bcvt_completes {o : XR} {s : State} {iss : Issue} {act : List (Nat × FibreId)} (clear : s.Clear (.bcvt o) iss act) :
    Completes (.bcvt o) s iss act (act.map fun x =>
      (x, if o.fb = 1 then bcvtEncodeLane s iss act o (Block.mantBits o.fa.toNat) x
        else bcvtDecodeLane s iss act o (Block.mantBits o.fb.toNat) x)) := by
  have run : exec (.bcvt o) s = execBcvt o s := rfl
  refine completes_of_variable ?_ (show Unit'.sfu ≠ _ by decide) (show Unit'.sfu ≠ _ by decide) fun nd => ?_
  · rw [run, execBcvt, issued_clear clear false rfl]
    simp only [beq_iff_eq]
  · rw [List.map_map]; exact clear.nodup nd

/-- The lanes of a vector pass both of BDOT's checks: the vectors are inside the scratchpads, and no byte or register holds an
error. -/
theorem bdot_completes {o : XR} {s : State} {iss : Issue} {act : List (Nat × FibreId)} (clear : s.Clear (.bdot o) iss act)
    {n : Nat} (blocks : ((s.srcG iss o.c).setWidth 32).toNat = n) (least : 1 ≤ n) (most : n ≤ 4096) (sound : s.badSpad = [])
    (free : s.accessOpen (act.map (·.2)) false = true) (homes : ∀ x ∈ act, homeOpen s [x.2.team] [x.2] = true)
    (inside : ∀ x ∈ act,
      (s.src iss x.2 o.a).toNat + n * (1 + Block.mantBits o.fa.toNat) ≤ (s.team x.2.team).ownBytes ∧
      (s.src iss x.2 o.b).toNat + n * (1 + Block.mantBits o.fb.toNat) ≤ (s.team x.2.team).ownBytes) :
    Completes (.bdot o) s iss act ((State.byFid act).map fun x =>
      let r := Block.bdot (o.var == 1) (s.modeFor iss o.rnd.toNat)
        (spadBlocks s x.2.team (s.src iss x.2 o.a).toNat (Block.mantBits o.fa.toNat) n)
        (spadBlocks s x.2.team (s.src iss x.2 o.b).toNat (Block.mantBits o.fb.toNat) n)
      (x, { dests := [(regOf o.d, BitVec.ofNat 64 r.1)], fl := r.2 })) := by
  have run : exec (.bdot o) s = execBdot o s := rfl
  refine completes_of_variable ?_ (show Unit'.sfu ≠ _ by decide) (show Unit'.sfu ≠ _ by decide) fun nd => ?_
  · have lane {x : Nat × FibreId} (hx : x ∈ State.byFid act) : x ∈ act := (State.byFid_perm act).mem_iff.1 hx
    have legal : whenActive (fun iss => let n := ((s.srcG iss o.c).setWidth 32).toNat; n < 1 || 4096 < n) iss act = false := by
      simp only [whenActive, blocks, Bool.and_eq_false_imp, Bool.or_eq_false_iff, decide_eq_false_iff_not]
      omega
    have goesOn : (!s.accessOpen (act.map (·.2)) false || act.any fun x => !homeOpen s [x.2.team] [x.2]) = false := by
      simpa [free] using homes
    rw [run, execBdot, issuedMem_clear clear false legal]
    simp only [blocks, goesOn, Bool.false_eq_true, if_false]
    rw [List.find?_eq_none.2 ?_, List.find?_eq_none.2 ?_, List.map_map]
    · rfl
    · intro r hr
      obtain ⟨x, hx, rfl⟩ := List.mem_map.1 hr
      have source := List.any_eq_false.1 clear.sources x (lane hx)
      simp [State.spadBad, sound, source]
    · intro r hr
      obtain ⟨x, hx, rfl⟩ := List.mem_map.1 hr
      obtain ⟨insideA, insideB⟩ := inside x (lane hx)
      simp [insideA, insideB]
  · rw [List.map_map]
    exact (((State.byFid_perm act).map _).nodup_iff).2 (clear.nodup nd)

end Sys2Proof.Machine

open Sys2Proof Sys2Proof.Machine

/-- Settles O12: BCVT ends with its lanes' results, and so does BDOT once its lanes pass its checks. -/
theorem blockFormats : Obligations.BlockFormats :=
  ⟨fun _ _ _ _ => bcvt_completes, fun _ _ _ _ clear => bdot_completes clear rfl⟩

end

section
/-! The matrix engine's own steps (10 R212, R224, R234 to R237): what each part of a K-step, of a block's stores, of a stop and
of a completion changes. -/

namespace Sys2Proof.Machine.State

variable {s t u : State}

/-- What one element alone of a list without repeats changes, it changes once. -/
theorem each_once {α β : Type} {l : List α} (nd : l.Nodup) {x : α} (hx : x ∈ l) {f : State → α → State} {ob : State → β}
    {F : β → β} (own : ∀ t, ob (f t x) = F (ob t)) (other : ∀ t, ∀ y ∈ l, y ≠ x → ob (f t y) = ob t) (s : State) :
    ob (s.each l f) = F (ob s) := by
  obtain ⟨before, after, rfl⟩ := List.append_of_mem hx
  have apart := List.nodup_middle.1 nd
  have keeps (m : List α) (hm : ∀ y ∈ m, y ∈ before ++ after) (t : State) : ob (t.each m f) = ob t :=
    (foldl_obs_same (Q := fun _ => True) (ob := ob) (fun t y hy _ => ⟨trivial, other t y
      (List.mem_append.2 ((List.mem_append.1 (hm y hy)).imp_right (List.mem_cons_of_mem _)))
      fun e => (List.nodup_cons.1 apart).1 (e ▸ hm y hy)⟩) trivial).2
  rw [each, List.foldl_append, List.foldl_cons]
  exact (keeps after (fun y hy => List.mem_append_right _ hy) _).trans
    ((own _).trans (congrArg F (keeps before (fun y hy => List.mem_append_left _ hy) s)))

theorem modMat_find {id : Nat} {m : MatOp} (listed : s.mats.find id = some m) (f : MatOp → MatOp) :
    (s.modMat id f).mats.find id = some (f m) := KV.find_upd f listed

/-! K-steps. -/

/-- The place in accumulator memory of an element of the region, the elements counted row by row (10 R224). -/
def regionCell (dw : List Nat) (i : Nat) : Nat :=
  (regionRow dw + i / (8 * regionBlocks dw)) * 512 + (regionCol dw + i % (8 * regionBlocks dw))

theorem regionCell_inj {dw : List Nat} (fits : regionCol dw + 8 * regionBlocks dw ≤ 512) {i j : Nat}
    (h : regionCell dw i = regionCell dw j) : i = j := by
  have positive : 0 < 8 * regionBlocks dw := by unfold regionBlocks; omega
  unfold regionCell at h
  have hi := Nat.mod_lt i positive
  have hj := Nat.mod_lt j positive
  rw [← Nat.div_add_mod i (8 * regionBlocks dw), ← Nat.div_add_mod j (8 * regionBlocks dw)]
  have rows : i / (8 * regionBlocks dw) = j / (8 * regionBlocks dw) := by omega
  have cols : i % (8 * regionBlocks dw) = j % (8 * regionBlocks dw) := by omega
  rw [rows, cols]

/-- The promotion of one element (05 R124). -/
def promoteStep (m : MatOp) (s : State) (p : Nat × Float.FVal) : State :=
  let cols := 8 * regionBlocks m.dw
  let row := regionRow m.dw + p.1 / cols
  let col := regionCol m.dw + p.1 % cols
  let old := if bit (m.dw.getD 0 0) 23 && !m.promoted then 0 else s.accCell m.tid row col
  let s := { s with badElse := s.badElse.filter fun x => x != Place.acc m.tid (row * 512 + col) }
  s.modTeam m.tid fun t => { t with banks := { t.banks with
    cells := t.banks.cells.put (row * 512 + col) (Block.promote old p.2) } }

theorem promoteAll_eq (s : State) (m : MatOp) (parts : List Float.FVal) :
    s.promoteAll m parts = s.each ((upto parts.length).zip parts) (promoteStep m) := rfl

/-- An element of the region as it stands. -/
def regionElement (s : State) (m : MatOp) (i : Nat) : Word :=
  s.accCell m.tid (regionRow m.dw + i / (8 * regionBlocks m.dw)) (regionCol m.dw + i % (8 * regionBlocks m.dw))

theorem regionElement_promoteStep (s : State) (m : MatOp) (i : Nat) (p : Float.FVal) :
    (s.promoteStep m (i, p)).regionElement m i =
      Block.promote (if bit (m.dw.getD 0 0) 23 = true ∧ m.promoted = false then 0 else s.regionElement m i) p := by
  unfold regionElement promoteStep
  rw [accCell]
  simp [KV.getD]

theorem regionElement_promoteStep_other {m : MatOp} (fits : regionCol m.dw + 8 * regionBlocks m.dw ≤ 512) {i j : Nat}
    (h : j ≠ i) (s : State) (p : Float.FVal) : (s.promoteStep m (j, p)).regionElement m i = s.regionElement m i := by
  have apart : regionCell m.dw i ≠ regionCell m.dw j := fun e => h (regionCell_inj fits e).symm
  unfold regionCell at apart
  unfold regionElement accCell promoteStep
  simp only [team_modTeam, KV.getD, KV.find_put_other _ apart]
  rfl

/-- Every element takes the promotion of its sum (05 R124; 10 R224). -/
theorem promoteAll_element {m : MatOp} (fits : regionCol m.dw + 8 * regionBlocks m.dw ≤ 512) {parts : List Float.FVal}
    {i : Nat} {p : Float.FVal} (at_ : parts[i]? = some p) (s : State) : (s.promoteAll m parts).regionElement m i =
      Block.promote (if bit (m.dw.getD 0 0) 23 = true ∧ m.promoted = false then 0 else s.regionElement m i) p := by
  have keys : ((upto parts.length).zip parts).map Prod.fst = upto parts.length := List.map_fst_zip (by simp)
  have apart : (((upto parts.length).zip parts).map Prod.fst).Nodup := by rw [keys]; exact List.nodup_range
  have listed : (i, p) ∈ (upto parts.length).zip parts := by
    obtain ⟨hi, rfl⟩ := List.getElem?_eq_some_iff.1 at_
    exact List.mem_iff_getElem.2 ⟨i, by simpa using hi, by simp⟩
  refine each_once (ob := fun t => t.regionElement m i)
    (F := fun w => Block.promote (if bit (m.dw.getD 0 0) 23 = true ∧ m.promoted = false then 0 else w) p)
    apart.of_map listed (fun t => regionElement_promoteStep t m i p) (fun t y hy other => ?_) s
  refine regionElement_promoteStep_other fits (fun e => other ?_) t y.2
  exact List.inj_on_of_nodup_map apart hy listed e

theorem promoteAll_frame (s : State) (m : MatOp) (parts : List Float.FVal) :
    { s.promoteAll m parts with teams := s.teams, badElse := s.badElse } = s ∧
      ∀ x ∈ (s.promoteAll m parts).badElse, x ∈ s.badElse :=
  each_keeps (P := fun t : State => { t with teams := s.teams, badElse := s.badElse } = s ∧ ∀ x ∈ t.badElse, x ∈ s.badElse)
    ⟨rfl, fun _ h => h⟩ fun _ _ h => ⟨h.1, fun x hx => h.2 x (List.mem_filter.1 hx).1⟩

/-! Stops. -/

theorem wakeEngine_frame (s : State) (fs : List FibreId) (detail : Nat) : SameButFibres s (s.wakeEngine fs detail) :=
  each_keeps (P := SameButFibres s) (.refl s) fun t f h => (h.trans (modFibre_frame t f _)).trans (modFibre_frame _ f _)

/-- A team whose MXSTAT records a stop (10 R237). -/
def recordStop (cause row blk : Nat) (sph : Bool) (t : Team) : Team :=
  { t with mx := { t.mx with err := true, stp := true, ecause := cause, srow := row, sblk := blk, sph := sph } }

/-- A stop is recorded in the operation and in MXSTAT, beside which only fibres change (10 R236, R237). -/
theorem matStopped_eq (s : State) (id : Nat) (m : MatOp) (cause row blk : Nat) (sph : Bool) : ∃ u,
    s.matStopped id m cause row blk sph = u.modTeam m.tid (recordStop cause row blk sph) ∧
      SameButFibres (s.modMat id fun m => { m with stopped := true, step := m.first, parts := [] }) u :=
  ⟨_, rfl, wakeEngine_frame _ _ _⟩

theorem matStopped_records {id : Nat} {m : MatOp} (listed : s.mats.find id = some m) (cause row blk : Nat) (sph : Bool) :
    let t := s.matStopped id m cause row blk sph
    (t.team m.tid).mx = { (s.team m.tid).mx with
        err := true, stp := true, ecause := cause, srow := row, sblk := blk, sph := sph } ∧
      t.mats.find id = some { m with stopped := true, step := m.first, parts := [] } ∧
      (∀ n a, t.spadByte n a = s.spadByte n a) ∧ t.mem = s.mem := by
  obtain ⟨u, stopped, woken⟩ := matStopped_eq s id m cause row blk sph
  rw [stopped]
  refine ⟨?_, ?_, fun n a => ?_, woken.mem⟩
  · rw [team_modTeam, recordStop, (SameButResults.fibres woken).team_same (π := Team.mx) (fun _ _ => rfl) m.tid]
    rfl
  · have mats : u.mats = (s.modMat id fun m => { m with stopped := true, step := m.first, parts := [] }).mats :=
      (congrArg State.mats woken.1 :)
    exact (congrArg (fun l : KV MatOp => l.find id) mats).trans
      (modMat_find listed fun m => { m with stopped := true, step := m.first, parts := [] })
  · refine (spadByte_congr ?_ ?_ a).trans (spadByte_fibres woken n a)
    · exact team_modTeam_same u m.tid (f := recordStop cause row blk sph) (π := Team.spad) (fun _ => rfl) n
    · exact team_modTeam_same u m.tid (f := recordStop cause row blk sph) (π := Team.gen) (fun _ => rfl) n

/-! Completion. -/

theorem tile_modTile_other (s : State) (tid : Nat) {n k : Nat} (f : Tile → Tile) (h : k ≠ n) :
    (s.modTile tid n f).tile tid k = s.tile tid k := by
  unfold tile modTile
  rw [team_modTeam]
  simp [modAt_eq_modify, List.getD, Ne.symm h]

/-- A number that an update of a tile moves, which is 0 in a tile that a team does not have. -/
theorem tile_modTile {π : Tile → Nat} {f : Tile → Tile} {g : Nat → Nat} (h : ∀ x, π (f x) = g (π x)) (zero : g (π {}) = π {})
    (s : State) (tid n : Nat) : π ((s.modTile tid n f).tile tid n) = g (π (s.tile tid n)) := by
  unfold tile modTile
  rw [team_modTeam, modAt_eq_modify]
  rcases Nat.lt_or_ge n (s.team tid).tiles.length with inside | outside
  · simp [List.getD, inside, h]
  · simpa [List.getD, outside] using zero.symm

/-- The tiles that a complete operation has read lose a reader (10 R218). -/
def tilesRead (s : State) (m : MatOp) : State :=
  s.each (matReads m.dw) fun s n => s.modTile m.tid n fun t => { t with readers := t.readers - 1 }

/-- Its destination is Ready (10 R218). -/
def tileDrained (s : State) (m : MatOp) : State :=
  match matDest m.dw with
  | some n => s.modTile m.tid n fun t => { t with state := 2 }
  | none => s

/-- Its issuers count one operation less (07 R165). -/
def issuersCounted (s : State) (m : MatOp) : State :=
  s.each m.issuers fun s f => s.modFibre f fun x => { x with tlc := x.tlc - 1 }

theorem matEnd_eq {id : Nat} {m : MatOp} (listed : s.mats.find id = some m) : s.matEnd id =
    ((({ s with mats := s.mats.del id } : State).tilesRead m |>.tileDrained m).issuersCounted m).matFinished m.tid m.num := by
  unfold matEnd
  rw [listed]
  rfl

/-- What the tiles of a team do not hold, their ends leave. -/
theorem tilesEnded_same {β : Type} {π : State → β} (h : ∀ (s : State) tid n f, π (s.modTile tid n f) = π s) (s : State)
    (m : MatOp) : π ((s.tilesRead m).tileDrained m) = π s := by
  have read : π (s.tilesRead m) = π s := each_same s fun t n => h t m.tid n _
  unfold tileDrained
  split
  · exact (h _ _ _ _).trans read
  · exact read

theorem tilesEnded_readers (s : State) {m : MatOp} {n : Nat} (reads : n ∈ matReads m.dw) :
    (((s.tilesRead m).tileDrained m).tile m.tid n).readers = (s.tile m.tid n).readers - 1 := by
  have read : ((s.tilesRead m).tile m.tid n).readers = (s.tile m.tid n).readers - 1 :=
    each_once (ob := fun t => (t.tile m.tid n).readers) (F := fun r => r - 1) (nodup_nub _) reads
      (fun t => tile_modTile (π := Tile.readers) (g := fun r => r - 1) (fun _ => rfl) rfl t m.tid n)
      (fun t k _ other => congrArg Tile.readers (tile_modTile_other t m.tid _ other.symm)) s
  unfold tileDrained
  split
  · next k _ =>
    refine Eq.trans ?_ read
    rcases eq_or_ne n k with rfl | other
    · exact tile_modTile (π := Tile.readers) (f := fun t => { t with state := 2 }) (g := fun r => r) (fun _ => rfl) rfl
        (s.tilesRead m) m.tid n
    · exact congrArg Tile.readers (tile_modTile_other _ m.tid _ other)
  · exact read

theorem issuersCounted_tlc (s : State) {m : MatOp} (apart : m.issuers.Nodup) {f : FibreId} (issues : f ∈ m.issuers) :
    ((s.issuersCounted m).fibre f).tlc = (s.fibre f).tlc - 1 := by
  have counted := modFibres_fibre s apart (fun x => { x with tlc := x.tlc - 1 }) f
  rw [if_pos issues] at counted
  exact congrArg Fibre.tlc counted

theorem fibre_modTile (s : State) (tid n : Nat) (f : Tile → Tile) (g : FibreId) : (s.modTile tid n f).fibre g = s.fibre g :=
  congrArg (fun l : KV Fibre => l.getD g.fid noFibre) (team_modTeam_same s tid (π := Team.fibres) (fun _ => by rfl) g.team)

/-- In order, the timeline reaches the number (07 R165). -/
theorem matFinished_matDone {s : State} {tid num : Nat} (next : num = (s.team tid).matDone + 1)
    (first : (s.team tid).matFin = []) : ((s.matFinished tid num).team tid).matDone = num := by
  unfold matFinished
  rw [team_modTeam, first, next]
  simp [settleLine]

theorem matFinished_team {β : Type} {π : Team → β} (h : ∀ t d l, π { t with matDone := d, matFin := l } = π t) (s : State)
    (tid num n : Nat) : π ((s.matFinished tid num).team n) = π (s.team n) := team_modTeam_same s tid (fun t => h t _ _) n

/-- The end of an operation: it is listed no more, its tiles lose a reader, its issuers count down, and in order the timeline
reaches its number (07 R165; 10 R218). -/
theorem matEnd_ends {id : Nat} {m : MatOp} (listed : s.mats.find id = some m) (sorted : KV.sorted s.mats = true)
    (apart : m.issuers.Nodup) :
    let t := s.matEnd id
    t.mats.find id = none ∧ (∀ n ∈ matReads m.dw, (t.tile m.tid n).readers = (s.tile m.tid n).readers - 1) ∧
      (∀ f ∈ m.issuers, (t.fibre f).tlc = (s.fibre f).tlc - 1) ∧
      (m.num = (s.team m.tid).matDone + 1 → (s.team m.tid).matFin = [] → (t.team m.tid).matDone = m.num) ∧
      t.mem = s.mem := by
  let u : State := { s with mats := s.mats.del id }
  let v := (u.tilesRead m).tileDrained m
  let w := v.issuersCounted m
  have counts : SameButFibres v w := modFibres_frame _ _ _
  have team {β : Type} {π : Team → β} (tiles : ∀ t l, π { t with tiles := l } = π t)
      (fibres : ∀ t l, π { t with fibres := l } = π t) (n : Nat) : π (w.team n) = π (s.team n) :=
    ((SameButResults.fibres counts).team_same (π := π) fibres n).trans
      (tilesEnded_same (π := fun t : State => π (t.team n))
        (fun t tid k f => team_modTeam_same t tid (fun x => tiles x _) n) u m)
  rw [matEnd_eq listed]
  refine ⟨?_, fun n reads => ?_, fun f issues => ?_, fun next first => ?_, ?_⟩
  · have mats : w.mats = u.mats := (congrArg State.mats counts.1 :).trans
      (tilesEnded_same (π := State.mats) (fun _ _ _ _ => rfl) u m)
    exact (congrArg (fun l : KV MatOp => l.find id) mats).trans (KV.find_del sorted)
  · have tiles : ((w.matFinished m.tid m.num).team m.tid).tiles = (v.team m.tid).tiles :=
      (matFinished_team (π := Team.tiles) (fun _ _ _ => rfl) w m.tid m.num m.tid).trans
        ((SameButResults.fibres counts).team_same (π := Team.tiles) (fun _ _ => rfl) m.tid)
    unfold State.tile
    rw [tiles]
    exact tilesEnded_readers u reads
  · have fibres : ((w.matFinished m.tid m.num).fibre f) = w.fibre f :=
      congrArg (fun l : KV Fibre => l.getD f.fid noFibre)
        (matFinished_team (π := Team.fibres) (fun _ _ _ => rfl) w m.tid m.num f.team)
    rw [fibres, issuersCounted_tlc v apart issues]
    exact congrArg (fun x : Fibre => x.tlc - 1)
      (tilesEnded_same (π := fun t : State => t.fibre f) (fun t tid k g => fibre_modTile t tid k g f) u m)
  · refine matFinished_matDone ?_ ?_
    · rw [team (π := Team.matDone) (fun _ _ => rfl) fun _ _ => rfl]; exact next
    · rw [team (π := Team.matFin) (fun _ _ => rfl) fun _ _ => rfl]; exact first
  · exact counts.mem.trans (tilesEnded_same (π := State.mem) (fun _ _ _ _ => rfl) u m)

/-! Drain blocks. -/

/-- What the stores of a drain leave: operations, HBM and every MXSTAT. -/
structure Drains (s t : State) : Prop where
  mats : t.mats = s.mats
  mem : t.mem = s.mem
  mx : ∀ n, (t.team n).mx = (s.team n).mx

theorem Drains.refl (s : State) : Drains s s := ⟨rfl, rfl, fun _ => rfl⟩

theorem Drains.trans (h : Drains s t) (k : Drains t u) : Drains s u :=
  ⟨k.mats.trans h.mats, k.mem.trans h.mem, fun n => (k.mx n).trans (h.mx n)⟩

theorem Drains.foldEach {α : Type} {step : State → α → State} (l : List α) (h : ∀ s x, Drains s (step s x)) (s : State) :
    Drains s (s.each l step) := each_keeps (P := Drains s) (.refl s) fun t x k => k.trans (h t x)

theorem homeWrite_drains (s : State) (pa : Nat) (bs : List Byte) : Drains s (s.homeWrite pa bs) := by
  obtain ⟨frame, mem⟩ := homeWrite_hbm s pa bs
  have teams : (s.homeWrite pa bs).teams = s.teams := (congrArg State.teams frame.rest :)
  refine ⟨(congrArg State.mats frame.rest :), mem, fun n => ?_⟩
  unfold team
  rw [teams]

theorem leaseWrite_drains (s : State) (m : MatOp) (va : Nat) (bs : List Byte) : Drains s (s.leaseWrite m va bs) := by
  unfold leaseWrite
  generalize pagesOf bs.length va bs.length = pages
  induction pages generalizing s bs with
  | nil => exact .refl s
  | cons page pages ih => exact (homeWrite_drains s _ _).trans (ih _ _)

theorem spadWrite_drains (s : State) (tid ofs : Nat) (bs : List Byte) : Drains s (s.spadWrite tid ofs bs) :=
  ⟨rfl, rfl, fun n => team_modTeam_same _ tid (π := Team.mx) (fun _ => by rfl) n⟩

theorem tilePut_drains (s : State) (tid n : Nat) (mat : Bool) (row col : Nat) (bs : List Byte) :
    Drains s (s.tilePut tid n mat row col bs) :=
  ⟨rfl, rfl, fun k => team_modTeam_same _ tid (π := Team.mx) (fun _ => by rfl) k⟩

theorem storeBlock_drains (s : State) (m : MatOp) (blk fmt : Nat) (ws : List Word) : Drains s (s.storeBlock m blk fmt ws) := by
  unfold storeBlock
  dsimp only
  split
  · exact tilePut_drains s _ _ _ _ _ _
  · exact spadWrite_drains s _ _ _
  · exact leaseWrite_drains s _ _ _

theorem rowBuffer_drains (s : State) (m : MatOp) (x : Lanes) (f : Nat) :
    Drains s (s.each x.buf fun s p => s.storeBlock m p.1 f p.2) := by
  have stores (t : State) (p : Nat × List Word) : Drains t (t.storeBlock m p.1 f p.2) := storeBlock_drains t m p.1 f p.2
  exact Drains.foldEach x.buf stores s

theorem rowStatistics_drains (s : State) (m : MatOp) (x : Lanes) : Drains s (s.storeRowEnd m x none) := by
  unfold storeRowEnd
  dsimp only
  split
  · split
    · exact leaseWrite_drains s _ _ _
    · exact spadWrite_drains s _ _ _
  · exact .refl s

theorem storeRowEnd_drains (s : State) (m : MatOp) (x : Lanes) (fmt : Option Nat) : Drains s (s.storeRowEnd m x fmt) := by
  cases fmt with
  | none => exact rowStatistics_drains s m x
  | some f => exact (rowBuffer_drains s m x f).trans (rowStatistics_drains _ m x)

end Sys2Proof.Machine.State

namespace Sys2Proof.Machine

open State

/-- What a block has raised is ORed into MXSTAT (10 R235). -/
def raiseBlock (x : Lanes) (t : Team) : Team :=
  { t with mx := { t.mx with flg := t.mx.flg ||| x.fl, bflg := t.mx.bflg ||| x.bf } }

theorem spadByte_raiseBlock (s : State) (tid : Nat) (x : Lanes) (n a : Nat) :
    (s.modTeam tid (raiseBlock x)).spadByte n a = s.spadByte n a :=
  spadByte_congr (team_modTeam_same s tid (f := raiseBlock x) (π := Team.spad) (fun _ => rfl) n)
    (team_modTeam_same s tid (f := raiseBlock x) (π := Team.gen) (fun _ => rfl) n) a

section
variable {s : State} {id : Nat} {m : MatOp} (listed : s.mats.find id = some m) (head : s.matHead m = true)
include listed head

/-! The steps, where the head operation may take them. -/

theorem kStep_exec (more : m.step < m.steps) (going : (s.ctx m.ctx).stop = false) (sound : s.stepBad m = false) :
    exec (.kStep id) s = .next (
      let u : State := { s with fresh := s.fresh + 1 }
      if (m.step + 1) % m.interval = 0 ∨ m.step + 1 = m.steps then
        (u.promoteAll m (s.stepParts m)).modMat id fun m' => { m' with
          step := m.step + 1, first := m.step + 1, parts := [], promoted := true, ignoring := false }
      else u.modMat id fun m' => { m' with step := m.step + 1, parts := s.stepParts m }) := by
  have unfinished : stepped m = false := by simpa [stepped] using more
  show execKStep id s = _
  unfold execKStep
  simp only [listed, head, unfinished, going, sound, Bool.not_true, Bool.false_and, Bool.or_false, Bool.false_eq_true, if_false,
    Bool.or_eq_true, beq_iff_eq]
  split <;> rfl

/-- The store of a block in a program without RMAX (10 R234). -/
def storeOut (s : State) (m : MatOp) (x : Lanes) : State :=
  match x.out with
  | some (f, ws) => s.storeBlock m m.blk f ws
  | none => s

theorem drainBlockCommit_exec (drains : draining m = true) (going : (s.ctx m.ctx).stop = false) (sound : s.blockBad m = false)
    (goesOn : blockStop m (s.blockRun m) = none) : exec (.drainBlockCommit id) s = .next (
      let x := s.blockRun m
      let u := storeOut (s.modTeam m.tid (raiseBlock x)) m x
      if m.blk + 1 = regionBlocks m.dw then
        (u.storeRowEnd m x (storeFormat (s.drainOps m))).modMat id fun m => { m with
          d := x.d, rm := 0xFF800000, rs := 0, buf := [], row := m.row + 1, blk := 0, ignoring := false }
      else u.modMat id fun m => { m with
        d := x.d, rm := x.rm, rs := x.rs, buf := x.buf, blk := m.blk + 1, ignoring := false }) := by
  show execDrainBlockCommit id s = _
  unfold execDrainBlockCommit
  simp only [listed, head, drains, going, sound, goesOn, Bool.not_true, Option.isSome_none, Bool.or_false, Bool.false_eq_true,
    if_false, beq_iff_eq]
  split <;> rfl

theorem matrixCompletion_exec (all : m.steps ≤ m.step) (drained : draining m = false) :
    exec (.matrixCompletion id) s = .next (s.matEnd id) := by
  have done : stepped m = true := by simpa [stepped] using all
  show execMatrixCompletion id s = _
  unfold execMatrixCompletion
  simp only [listed, head, done, drained, Bool.not_false, Bool.and_self, if_true]

theorem matrixStop_block_exec (drains : draining m = true) (bad : s.blockBad m = true) :
    exec (.matrixStop id true) s = .next (s.matStopped id m cECC m.row m.blk true) := by
  show execMatrixStop id true s = _
  unfold execMatrixStop
  simp only [listed, head, drains, bad, Bool.not_true, Bool.false_eq_true, if_false, if_true]

theorem matrixStop_step_exec (more : m.step < m.steps) (bad : s.stepBad m = true) : ∃ (u : State) (row blk : Nat),
    u.mats = s.mats ∧ exec (.matrixStop id true) s = .next (u.matStopped id m cECC row blk false) := by
  have unfinished : stepped m = false := by simpa [stepped] using more
  have no : draining m = false := by rw [draining, unfinished]; rfl
  refine ⟨s.freeVal.2.freeVal.2, s.freeVal.1.toNat % 256, s.freeVal.2.freeVal.1.toNat % 64, rfl, ?_⟩
  show execMatrixStop id true s = _
  unfold execMatrixStop
  simp only [listed, head, no, unfinished, bad, Bool.not_true, Bool.or_self, Bool.false_eq_true, if_false, if_true]

/-- At a trap the machine stops with the block's flags raised where one of them is what traps (10 R236). -/
theorem matrixStop_trap_raises (drains : draining m = true) (sound : s.blockBad m = false) {c : Nat}
    (stops : blockStop m (s.blockRun m) = some c) : ∃ u : State,
    exec (.matrixStop id false) s = .next (u.matStopped id m c m.row m.blk true) ∧ u.mats.find id = some m ∧
      (∀ n a, u.spadByte n a = s.spadByte n a) ∧ u.mem = s.mem ∧ (u.team m.tid).mx.flg =
        if c = cARITH then (s.team m.tid).mx.flg ||| (s.blockRun m).fl else (s.team m.tid).mx.flg := by
  have run : exec (.matrixStop id false) s = .next (
      (if c = cARITH then s.modTeam m.tid (raiseBlock (s.blockRun m)) else s).matStopped id m c m.row m.blk true) := by
    show execMatrixStop id false s = _
    unfold execMatrixStop
    simp only [listed, head, drains, sound, stops, Bool.not_true, Bool.or_self, Bool.false_eq_true, if_false, beq_iff_eq]
    rfl
  refine ⟨_, run, ?_⟩
  by_cases arith : c = cARITH
  · simp only [if_pos arith, team_modTeam]
    exact ⟨listed, spadByte_raiseBlock s m.tid _, rfl, rfl⟩
  · simp only [if_neg arith]
    exact ⟨listed, fun _ _ => trivial, trivial, trivial⟩

end

theorem storeOut_drains (s : State) (m : MatOp) (x : Lanes) : Drains s (storeOut s m x) := by
  unfold storeOut
  split
  · exact storeBlock_drains s m m.blk _ _
  · exact .refl s

theorem blockStop_cause {m : MatOp} {x : Lanes} {c : Nat} (stops : blockStop m x = some c) : c = cARITH ∨ c = cDRAIN := by
  unfold blockStop at stops
  split at stops
  · cases stops
  · split at stops
    · exact .inl (Option.some.inj stops).symm
    · split at stops
      · exact .inr (Option.some.inj stops).symm
      · cases stops

/-! The claims. -/

theorem kSteps : Claims.KSteps := by
  intro s id m listed head more going sound n cols
  have run := kStep_exec listed head more going sound
  refine ⟨fun inside notLast => ?_, fun ends fits => ?_⟩
  · rw [if_neg (not_or.2 ⟨inside, notLast⟩)] at run
    exact ⟨_, run, modMat_find (s := { s with fresh := s.fresh + 1 }) listed _, rfl⟩
  · rw [if_pos ends] at run
    let u : State := { s with fresh := s.fresh + 1 }
    obtain ⟨frame, errors⟩ := promoteAll_frame u m (s.stepParts m)
    have mats : (u.promoteAll m (s.stepParts m)).mats = s.mats := (congrArg State.mats frame :)
    have found : (u.promoteAll m (s.stepParts m)).mats.find id = some m := mats.symm ▸ listed
    refine ⟨_, run, modMat_find found _, fun i p at_ => promoteAll_element fits at_ u, ?_, errors⟩
    exact congrArg (fun z : State => { z with mats := s.mats, fresh := s.fresh }) frame

/-- The last block of a row has nothing to store at its end where it has no statistics and an empty row buffer (10 R234). -/
theorem storeRowEnd_nothing {m : MatOp} {x : Lanes} (statistics : bit (m.dw.getD 0 0) 31 = false) (buffer : x.buf = [])
    (s : State) (fmt : Option Nat) : s.storeRowEnd m x fmt = s := by
  unfold storeRowEnd
  rw [statistics, buffer]
  cases fmt <;> rfl

/-- A block stored to the scratchpad: what is then at an offset of one (10 R234). -/
theorem storeOut_spadByte {m : MatOp} {x : Lanes} {f : Nat} {ws : List Word} (out : x.out = some (f, ws))
    (kind : bits (m.dw.getD 3 0) 1 0 = 1) (s : State) (n a : Nat) : (storeOut s m x).spadByte n a =
      let bs := (drainEncode f (ftzhOf m) ws).1
      let ofs := bits (m.dw.getD 4 0) 47 0 + m.row * bits (m.dw.getD 5 0) 31 0 + m.blk * drainBlock f
      if n = m.tid ∧ ofs ≤ a ∧ a < ofs + bs.length then bs.getD (a - ofs) 0 else s.spadByte n a := by
  unfold storeOut
  rw [out]
  dsimp only
  unfold storeBlock
  rw [kind]
  exact spadWrite_byte _ _ _ _ _ _

theorem drainBlocks : Claims.DrainBlocks := by
  intro s id m listed head drains going sound x last goesOn
  have run := drainBlockCommit_exec listed head drains going sound goesOn
  let flagged := s.modTeam m.tid (raiseBlock x)
  let stored := storeOut flagged m x
  let ended := if m.blk + 1 = regionBlocks m.dw then stored.storeRowEnd m x (storeFormat (s.drainOps m)) else stored
  have block : Drains flagged stored := storeOut_drains _ m x
  have row : Drains flagged ended := by
    unfold ended
    split
    · exact block.trans (storeRowEnd_drains _ m x _)
    · exact block
  have found : ended.mats.find id = some m := row.mats.symm ▸ listed
  have mx : (ended.team m.tid).mx =
      { (s.team m.tid).mx with flg := (s.team m.tid).mx.flg ||| x.fl, bflg := (s.team m.tid).mx.bflg ||| x.bf } := by
    rw [row.mx, team_modTeam]; rfl
  have only (quiet : last → bit (m.dw.getD 0 0) 31 = false ∧ x.buf = []) : ended = stored := by
    unfold ended
    split
    · obtain ⟨statistics, buffer⟩ := quiet ‹_›
      exact storeRowEnd_nothing statistics buffer _ _
    · rfl
  obtain ⟨g, ran, atEnd, within⟩ : ∃ g : MatOp → MatOp, exec (.drainBlockCommit id) s = .next (ended.modMat id g) ∧
      (last → g m = { m with
        d := x.d, rm := 0xFF800000, rs := 0, buf := [], row := m.row + 1, blk := 0, ignoring := false }) ∧
      (¬last → g m = { m with d := x.d, rm := x.rm, rs := x.rs, buf := x.buf, blk := m.blk + 1, ignoring := false }) := by
    unfold ended
    by_cases h : m.blk + 1 = regionBlocks m.dw
    · rw [if_pos h] at run ⊢
      exact ⟨_, run, fun _ => rfl, fun no => absurd h no⟩
    · rw [if_neg h] at run ⊢
      exact ⟨_, run, fun yes => absurd yes h, fun _ => rfl⟩
  have bytes {f ws} (quiet : last → bit (m.dw.getD 0 0) 31 = false ∧ x.buf = []) (out : x.out = some (f, ws))
      (kind : bits (m.dw.getD 3 0) 1 0 = 1) (n a : Nat) :=
    (congrArg (·.spadByte n a) (only quiet)).trans (storeOut_spadByte out kind flagged n a)
  refine ⟨_, ran, mx, fun h => ?_, fun h => ?_, row.mem, fun f ws quiet out kind => ⟨fun i h => ?_, fun n a away => ?_⟩⟩
  · rw [modMat_find found, atEnd h]
  · rw [modMat_find found, within h]
  · refine (bytes quiet out kind _ _).trans ?_
    simp [h]
  · refine (bytes quiet out kind n a).trans ?_
    refine (if_neg ?_).trans (spadByte_raiseBlock s m.tid x n a)
    rintro ⟨there, low, high⟩
    rcases away with away | away | away
    · exact away there
    · omega
    · omega

theorem matrixEnds : Claims.MatrixEnds := by
  intro s id m listed head
  refine ⟨fun sorted all drained apart => ?_, fun drains bad => ?_, fun more bad => ?_, fun c drains sound stops => ?_⟩
  · exact ⟨_, matrixCompletion_exec listed head all drained, matEnd_ends listed sorted apart⟩
  · have run := matrixStop_block_exec listed head drains bad
    obtain ⟨mx, mats, spad, -⟩ := matStopped_records listed cECC m.row m.blk true
    exact ⟨_, run, mx, mats, spad⟩
  · obtain ⟨u, row, blk, mats, run⟩ := matrixStop_step_exec listed head more bad
    obtain ⟨mx, stopped, -, -⟩ := matStopped_records (s := u) (mats ▸ listed) cECC row blk false
    refine ⟨_, run, ?_⟩
    dsimp only
    rw [mx]
    exact ⟨rfl, rfl, rfl, rfl, stopped⟩
  · obtain ⟨u, run, found, bytes, hbm, flags⟩ := matrixStop_trap_raises listed head drains sound stops
    obtain ⟨mx, stopped, spad, mem⟩ := matStopped_records found c m.row m.blk true
    refine ⟨_, run, ?_⟩
    dsimp only
    rw [mx]
    exact ⟨blockStop_cause stops, rfl, rfl, rfl, rfl, rfl, rfl, flags, stopped, fun n a => (spad n a).trans (bytes n a),
      mem.trans hbm⟩

/-- Settles O41: what each of the sequencer's steps makes of the operation, and what its stores, its promotions and its stop
leave alone. -/
theorem matrixExecution : Obligations.MatrixExecution := ⟨kSteps, drainBlocks, matrixEnds⟩

end Sys2Proof.Machine
end
